-- ==== Sys2Proof/Word.lean ====
section
/-! DEFINITION. The plainest types of the model: bytes, words, floating-point patterns, and the keyed store in one
canonical form that holds registers, buffers and arrays of like things. -/

namespace Sys2Proof

/-- One byte. -/
abbrev Byte := BitVec 8
/-- A 16-bit word. -/
abbrev W16 := BitVec 16
/-- A 32-bit word. -/
abbrev W32 := BitVec 32
/-- A 64-bit word. -/
abbrev W64 := BitVec 64
/-- The pattern of an IEEE 754 binary32 number. -/
abbrev F32 := BitVec 32
/-- The pattern of an IEEE 754 binary64 number. -/
abbrev F64 := BitVec 64

/-- A store keyed by a number: sorted cells, an unlisted key reads as the default `d key`. One canonical form: keys strictly
rising, and no cell equal to the default of its key, so that equal stores are equal data. -/
structure Store {α : Type} (d : Nat → α) where
  cells : List (Nat × α)
deriving DecidableEq, Repr

/-- The default of a byte buffer: nothing has written the byte. DESIGN CHOICE (unsafe), log entry 5. -/
def zeroByte (_ : Nat) : Byte := 0

/-- A byte buffer (its cells are pairs of an address and a byte). -/
abbrev Mem := Store zeroByte

end Sys2Proof
end

