-- ==== Sys2Proof/Syntax.lean ====
section
/-! DEFINITION. The commands of the block: one constructor of Instr for each row of spec/opcode_table.json, with the row's
operands. The rows name no operands; each constructor carries what the rules it rests on take from outside: a measured
quantity, a received message, an index, or the result a shared block returns (log entry 6). -/

namespace Sys2Proof

/-- The UDP ports of a received datagram (R335, R339). -/
structure UdpPorts where
  src : W16
  dst : W16
deriving DecidableEq, Repr

/-- Where a received datagram came from: its IPv4 source address, and its UDP ports. -/
structure UdpFrom where
  ip : W32
  ports : UdpPorts
deriving DecidableEq, Repr

/-- Where a Plezen command came from: a mailbox of the local host port, or a host of spine.host_ip with the trailer of its datagram and
the UDP ports (R336, R337, R339, R443, R452). -/
inductive Src where
  | mailbox (n : Fin 8)
  | spine (host : Fin 4) (slot : Byte) (counter : W64) (tag : List Byte) (ports : UdpPorts)
deriving DecidableEq, Repr

/-- What the header of a command message carries beyond its code and payload (R443). -/
structure Hdr where
  src : Src
  seq : W32
  check : W32
deriving DecidableEq, Repr

/-- The three feeds of R422. -/
inductive Feed where
  | spn0 | spn1 | aux
deriving DecidableEq, Repr

/-- The cause of a Write Guard trip, power.write_guard[2:1] (R427). -/
inductive GuardCause where
  | input | bank
deriving DecidableEq, Repr

/-- The three external time sources of R57. -/
inductive TimeSrc where
  | ptp | tb1 | tb2
deriving DecidableEq, Repr

/-- A lane (R13). -/
inductive Lane where
  | lna | lnb | lnc
deriving DecidableEq, Repr

/-- The two voting groups of R167. -/
inductive VGroup where
  | position | heading
deriving DecidableEq, Repr

/-- What a channel that holds code lock measures at a frame instant (R87, R89): `flags` the
bits that tracking and the broadcast messages decide ([1] CARRIER_VALID, [2] HALF_CYCLE_RESOLVED, [4] DOPPLER_VALID, [5] an ephemeris
within its fit interval, [6] SV_UNHEALTHY), `slips` the cycle slips since the previous frame instant, and `pr` the pseudorange before
the antenna delay. -/
structure GnssRaw where
  rx : Fin 3
  chan : Fin 96
  k : Fin 14                 -- GLONASS frequency number + 7
  flags : W16
  slips : Nat
  pr : F64
  cycles : F64               -- carrier cycles since the previous frame instant, or since a lock or slip after it
  dop : F32
  cn0 : W16
  codeNoise : W16
  carrNoise : W16
deriving DecidableEq, Repr

/-- A satellite in view of a receiver, from its own fix or the stored position (R85, R89): elevation and azimuth in 0.01°. -/
structure SkySat where
  rx : Fin 3
  cons : Byte
  sat : Byte
  elev : Int
  azim : W16
deriving DecidableEq, Repr

/-- A navigation message that a receiver has decoded (R91): the ephemeris of a satellite, in the bytes of its broadcast. -/
structure NavMsg where
  rx : Fin 3
  cons : Byte
  sat : Byte
  data : List Byte
deriving DecidableEq, Repr

/-- A measurement record of a GNSS channel as the module delivers it (R89). -/
structure GnssRec where
  rx : Fin 3
  chan : Fin 96
  cons : Byte
  sat : Byte
  sig : Byte
  freq : Byte
  flags : W16
  pr : F64
  cp : F64
  dop : F32
  cn0 : W16
  lock : W16
  codeNoise : W16
  carrNoise : W16
  slips : Byte
  elev : Byte
  azim : W16
deriving DecidableEq, Repr

/-- A standalone fix of a receiver at a frame instant, at its antenna (R91): position in degrees and metres, velocity north, east and
down in m/s, and the satellites used, by constellation and number. -/
structure GnssFix where
  rx : Fin 3
  lat : F64
  lon : F64
  height : F32
  vel : F32 × F32 × F32
  used : List (Byte × Byte)
deriving DecidableEq, Repr

/-- The time solution of a receiver at a frame instant (R58, R91): its reading minus TB0 in ns before the antenna delay,
its error estimate in ns (one sigma and bound alike), and the satellites used. -/
structure TimeSol where
  rx : Fin 3
  offset : Int
  err : Nat
  sats : Nat
deriving DecidableEq, Repr

/-- What the hardware measures or latches at a frame instant (R38, R66, R87, R94, R371, R424). -/
structure FrameIn where
  antenna : List Nat        -- bias current of X1, X2, X3 in 0.1 mA
  sky : List SkySat
  gnss : List GnssRaw       -- channels with code lock
  nav : List NavMsg         -- ephemerides decoded since the previous frame instant
  almanac : List (Fin 3 × List Byte)
  sbas : List (Byte × Byte × List Byte)   -- the corrections in hand, by constellation and satellite
  scales : List (Fin 3 × Byte × List Byte)   -- GNSS-to-TAI offsets decoded, by receiver and constellation
  fixes : List GnssFix
  sols : List TimeSol
  agc : List W32            -- AGC of X1, X2, X3
  ocxo : Int                -- OCXO temperature, mK
  shares : List Nat         -- current through the ideal diodes of SPN0, SPN1 and AUX, mA
  laneTemp : List Int       -- die temperature of each lane, 0.01 degC
  volts : Nat               -- input node, 10 mV
  bankVolts : Nat           -- hold-up bank, 10 mV
  domains : List Nat        -- measured draw of each domain, 0.01 W
  gnssUtc : Option (Int × Option (Nat × Int))
                            -- UTC parameters of the navigation messages: TAI − UTC now, and an announced change: the TAI
                            -- second from which it applies and the new value (R474)
deriving DecidableEq, Repr

/-- How the tick digests of the active lanes compare with the digest of the common computation: true where that lane's
digest differs or is missing (R348, R368). -/
structure Differs where
  duty : Bool
  partner : Bool
  joined : Bool
deriving DecidableEq, Repr

/-- What a lane reports of its Rapid Check (R357, R358, R374): that it passed, the test that failed (0 checker scan, 1 ECC syndromes, 2 loop
table, 3 state digest), or nothing within 600 µs. -/
inductive RapidReport where
  | passed
  | failed (test : Fin 4)
  | absent
deriving DecidableEq, Repr

/-- What a self-test slice comes to (R370): it passes, or it fails so many microseconds after the start of its tick. -/
inductive SliceResult where
  | passed
  | failed (us : Fin 125)
deriving DecidableEq, Repr

/-- The return of a solver job (R191 to R193): the unit and the instant in µs from the frame instant, whether the descriptors that the
lanes wrote differed, the job sequence and the frame number that the result names, in which bits the check code that each lane receives
differs from the one the unit sent, whether the unit corrected a single-bit error, and a wrong number that it left in a factor, by batch
member, column and row. -/
structure JobResult where
  unit : Fin 4
  atUs : Nat
  descDiffer : Bool
  job : Nat
  frame : W32
  errDuty : W32
  errPartner : W32
  ecc : Bool
  flaw : Option (Nat × Nat × Nat × F64)
deriving DecidableEq, Repr

/-- A received or transmitted CAN frame (R315, R525). -/
structure CanFrame where
  ident : W32                -- [28:0] identifier, [29] IDE
  dlc : Nat
  fdf : Bool
  brs : Bool
  esi : Bool
  rtr : Bool
  data : List Byte
deriving DecidableEq, Repr

/-- What moves a channel's error counters (R309): an error as transmitter, the missing acknowledgement of an error-passive transmitter,
an error as receiver, and a dominant bit after the receiver's own error flag. -/
inductive CanErr where
  | transmit | ack | receive | dominant
deriving DecidableEq, Repr

/-- The kinds of frame the module queues on a channel (R321). -/
inductive TxKind where
  | mark | command (act : Fin 32) | output (node : Fin 64)
deriving DecidableEq, Repr

/-- A queued frame whose lifetime ends (R321): its kind, and whether its start of frame has passed, so that it is on the bus. -/
structure TxDue where
  kind : TxKind
  onBus : Bool
deriving DecidableEq, Repr

/-- A UDP datagram as it arrives (R120, R124): the port of the switch, the destination address and UDP port, and its bytes. -/
structure Datagram where
  port : Fin 9
  addr : W32
  udp : W16
  bytes : List Byte
deriving DecidableEq, Repr

/-- The PTP messages (R70, R71): of the management messages GET of the default data set has a kind of its own. -/
inductive PtpKind where
  | sync | followUp | delayReq | delayResp | pdelayReq | pdelayResp | pdelayFollowUp | announce | getDefault | management
  | signaling
deriving DecidableEq, Repr

/-- A PTP message in a frame (R70, R71): whether UDP over IPv4 carries it, its domain, and its correction field in 2^-16 ns. -/
structure PtpMsg where
  kind : PtpKind
  udp : Bool
  domain : Byte
  correction : Int
deriving DecidableEq, Repr

/-- An Announce message of a followed domain (R58, R73, R474, R475); `interval` is the time between two, in quarters of a second. -/
structure Announce where
  gmIdentity : W64
  priority1 : Byte
  priority2 : Byte
  clockClass : Byte
  accuracy : Byte
  variance : W16
  stepsRemoved : W16
  utcOffsetValid : Bool
  utcOffset : Int
  leap : Int                 -- +1, -1 or 0
  interval : Nat             -- 1 to 16 (R70)
deriving DecidableEq, Repr

/-- A received heartbeat (R336, R340): its payload as sent, the port it came by, the sender's address and the UDP destination port. -/
structure Heartbeat where
  payload : List Byte
  port : Fin 2
  addr : W32
  dst : W16
  atUs : Nat                 -- arrival, microseconds from the frame instant
deriving DecidableEq, Repr

/-- What the internal port answers (R335): an ARP request, or an ICMP echo, for an IPv4 address. -/
inductive Ask where
  | arp (target : W32) | echo (target : W32)
deriving DecidableEq, Repr

/-- An Ethernet frame at a port of the switch (R328 to R335). -/
structure EthFrame where
  src : BitVec 48
  dst : BitVec 48
  len : Nat                  -- with its tags, and the redundancy trailer or tag where it has one
  tags : Nat                 -- number of IEEE 802.1Q tags
  vid : Nat
  pcp : Fin 8
  fcsOk : Bool
  lanOk : Bool               -- the PRP trailer names the port's own LAN, or no trailer
  seq : Option W16           -- sequence of the redundancy trailer or tag
  ptp : Option PtpMsg
  residence : Nat            -- ns the frame was held
  udpPort : Option W16       -- destination port, for a datagram to the module's address
  frag : Option (W16 × Bool) -- IPv4 identification and whether this fragment completes the datagram
  ask : Option Ask           -- an ARP request or an ICMP echo, for any address
deriving DecidableEq, Repr

/-- What one logic cycle computed (R288): writes to the output image, the data and the retain area, the user events of
LOG_EVENT, the execution time and whether an integer was divided by zero. -/
structure LogicOut where
  image : List (Nat × Byte)
  data : List (Nat × Byte)
  retain : List (Nat × Byte)
  events : List (W16 × List Byte × Fin 3)
  execUs : Nat
  divZero : Bool
deriving DecidableEq, Repr

/-- Why a cycle was stopped (R289, R295). -/
inductive LogicStop where
  | overrun | index | stack
deriving DecidableEq, Repr

/-- An entry of a program's symbol table (R285): path name, type, whether it is declared RETAIN, and its place in its area. -/
structure Sym where
  path : List Byte
  typ : Byte
  retain : Bool
  off : Nat
  len : Nat
deriving DecidableEq, Repr

/-- What validation reads in a program image (R285, R286, R301, R303): the sizes in bytes, that of the symbol table among them, its entries, the initial values that are
not zero, and the bytes of the retain area that hold ET and Q of its timers. -/
structure ProgInfo where
  checkOk : Bool
  member : W16
  engineOk : Bool
  code : Nat
  data : Nat
  retain : Nat
  symbols : Nat
  imagesOk : Bool
  progId : W32
  syms : List Sym
  dataInit : List (Nat × Byte)
  retainInit : List (Nat × Byte)
  timerBytes : List Nat
deriving DecidableEq, Repr

/-- The target of a force (R298). -/
inductive ForceTarget where
  | input (off : Nat) | output (off : Nat) | var (path : List Byte)
deriving DecidableEq, Repr

/-- What a transfer on the internal bus to the lanes carries (R15, R407): the command of a mailbox or of a Spine host, the frames
received on a channel, the result of a solver unit, the feedback latched for a loop, the Ledger's contents at the Gathering close, the
published estimate. -/
inductive Transfer where
  | mailbox (n : Fin 8) | spine (host : Fin 4) | can (ch : Fin 8) | result (u : Fin 4) | feedback (l : Fin 128) | ledger | estimate
deriving DecidableEq, Repr

/-- A hardware error as a checker reports it (R407, R418); `transfer` is what the bus was carrying (checker 11) or the
channel of the frame whose filter entry failed (checker 10). -/
structure HwError where
  checker : Fin 15
  corrected : Bool
  place : Byte               -- lane or unit, 0xFF not applicable
  location : W64
  syndrome : W32
  transfer : Option Transfer
  us : Fin 125               -- when in the tick the checker reports it, us
deriving DecidableEq, Repr

/-- What one core finds at a safety cycle (R392, R400): the readback of each output in 10 mV, and the self-checks. -/
structure SafetyIn where
  supply : Nat               -- supply of the safe outputs, 10 mV
  readback : List (List Nat) -- the four readbacks of the cycle, oldest first, each of eight outputs in 10 mV
  coreMismatch : Bool
  testFailed : Bool
  watchdog : Bool
deriving DecidableEq, Repr

/-- One encoder latch (R382 to R384). -/
structure EncLatch where
  count : Int                -- raw count
  amplitude : Nat            -- sin/cos vector amplitude in 10 mV
  complementary : Bool       -- the line pairs are complementary
  bothChanged : Bool         -- A and B changed in this latch interval
  hertz : Nat                -- signal frequency, or edge rate of an incremental encoder
deriving DecidableEq, Repr

/-- What the boot finds (R347, R354, R465, R466, R493). -/
structure BootIn where
  imageOk0 : Bool
  imageOk1 : Bool
  laneOk : List Bool         -- boot self-test of each lane; the third lane's full self-test
  folioOkA : Bool            -- the memory of the Folio reads without error
  folioOkB : Bool
  trialFolioOk : Bool        -- the trial image accepts the active Folio
  quireOk0 : Bool            -- commit record and digests of slot 0 are intact
  quireOk1 : Bool
  endpaperOk0 : Bool
  endpaperOk1 : Bool
  retainOk : Bool
  lifeOk : Bool              -- the newest copy of the lifetime counters passes its check code
deriving DecidableEq, Repr

/-- The commands. -/
inductive Instr where
  -- supply, reset and start-up
  | powerOn (offNs : Nat)
  | rstN (lowNs : Nat)
  | deviceReset
  | bootComplete (b : BootIn)
  | normalEntry
  | feedChange (f : Feed) (cls : Nat)
  | writeGuardTrip (c : GuardCause)
  | endpaperComplete
  | writeGuardRelease
  | convertersStop
  -- the frame and the tick
  | frameInstant (inputs : FrameIn)
  | servoTick (d : Differs)
  | loopFaultCount (l : Fin 128)
  | loopRecovery (l : Fin 128)
  | applyTick (intact : Bool)
  | spHoldExpiry
  -- the Collator and voting
  | gatheringClose
  | rxConsistencyCount (rx : Fin 3)
  | dnWarmupEnd
  | envReentry
  | referenceVote
  | weightsDeadline
  | splitConfirm (g : VGroup)
  | splitTimeout (g : VGroup)
  | probationEnd (r : Fin 12)
  | estimatePublish (corruptDuty corruptPartner : Bool)
  -- the Solver Cluster
  | solverJobComplete (r : JobResult)
  | solverJobTimeout (u : Fin 4)
  | solveDeadline (inJob : Option Bool)
  | controlDegradedCount
  | unitTestJob (u : Fin 4) (sigOk : Bool)
  | unitReady (u : Fin 4)
  | setpointPublish (badDuty badPartner : Bool)
  -- lanes and the Quire
  | quireWrite
  | quireCommit (d : Differs)
  | selfTestSlice (l : Lane) (ok : SliceResult) (eccCorrected : Bool)
  | drainPage (programOk : Bool)
  -- Folios
  | folioValidated
  | folioCommit
  | shadowSyncComplete
  -- the Budget Governor
  | governorLatch (base : Int) (dies : List Int) (power : Nat)
  | upstepHoldExpiry
  -- time
  | gridStep
  | acquireTimeout
  | revertHoldExpiry
  | jumpRequalify (t : TimeSrc)
  | tb2Qualify
  | crosscheckTimeout (tb2 : Bool)
  | ptpSyncRx (red : Bool) (port : Fin 9) (domain : Byte) (twoStep : Bool) (offset : Int) (bound : Nat)
  | ptpAnnounceRx (red : Bool) (port : Fin 9) (a : Announce)
  | announceTimeout (red : Bool)
  | syncLossTimeout (red : Bool)
  | ptpSyncTx (port : Fin 9) (atNs : Fin 125000)
  | ptpAnnounceTx (port : Fin 9)
  | ppsMessage
  | ppsEdge
  | triggerEdge (t : Fin 8)
  | imuSyncEdge (p : Fin 4)
  -- inputs
  | imuFrameRx (p : Fin 4) (bytes : List Byte) (delayNs : Nat)
  | serialSentenceRx (k : Fin 4) (chars : List Byte) (startNs : Nat)
  | l450DatagramRx (d : Datagram) (startNs : Nat)
  | sensorDatagramRx (d : Datagram) (startNs : Nat)
  | analogSampleComplete (ch : Fin 16) (raw : Int)
  | wireFaultDetect (ch : Fin 16)
  | streamTimeout (st : Fin 45)
  | gnssStartComplete (rx : Fin 3)
  | layupEnd
  | keepaliveWake
  | keepaliveEnd
  -- logic
  | logicCycleStart
  | replyWindowEnd
  | logicCommit (o : LogicOut)
  | logicOverrun (c : LogicStop)
  | retainMirrorWrite
  | logicValidationDone (info : ProgInfo)
  -- CAN
  | canFrameRx (ch : Fin 8) (f : CanFrame) (sofNs eofNs : Nat)
  | canRxDeliver (ch : Fin 8)
  | canFrameTxComplete (ch : Fin 8) (sofNs eofNs : Nat) (done : Bool)
  | canLifetimeEnd (ch : Fin 8) (k : TxDue)
  | canBusError (ch : Fin 8) (e : CanErr) (busyNs : Nat)
  | canBusoffRecovery (ch : Fin 8)
  | canTimingResync (ch : Fin 8)
  -- Spine
  | heartbeatTx
  | heartbeatRx (hb : Heartbeat)
  | partnerLost (p : Fin 3)
  | spineLinkChange (port : Fin 8) (speed : Fin 3)
  | spineFrameForward (port : Fin 9) (f : EthFrame)
  | supervisionTx
  | supervisionRx (src : BitVec 48) (port : Fin 2)
  | macAgeExpiry (mac : BitVec 48)
  | reassemblyTimeout (ident : W16)
  -- lanes
  | selfDetectedFault (l : Lane) (k : Option (Fin 2)) (us : Fin 125)
  | rapidCheckVerdict (duty partner : RapidReport)
  | standbyWakeComplete (quickOk fullOk : Bool) (q0 q1 : Bool)
  | laneReplayLive (chainOk : Bool)
  | laneSelfTestComplete (l : Lane) (ok : Bool)
  | rotationWake
  | rotationHandover
  -- safety
  | safetyCycle (x : SafetyIn)
  | safeInputEdge (inp : Fin 16) (high : Bool)
  | safePairFilterExpiry (p : Fin 8)
  | safePairDiscrepancy (p : Fin 8)
  | encoderIndex (e : Fin 8)
  | encoderRecovery (e : Fin 8)
  | outputFaultClear (o : Fin 8)
  | offPulse (o : Fin 8) (low high supply : Nat)
  | ackWindowExpiry
  | safetySelftestEnd
  -- faults
  | hwErrorReport (e : HwError)
  | injectExpiry (k : Fin 15)
  | correctedRateMinute
  | escalateWindowEnd (src : Fin 256)
  -- events, joystick, loop tests, firmware
  | eventResend
  | joystickTimeout
  | loopTestStart
  | loopTestEnd
  | fwTrialEnd
  -- lifetime
  | lifetimeCommit
  | leapSecond
  | rtcWrite
  -- the local host port
  | mailboxWrite (n : Fin 8) (off : Nat) (data : List Byte) (crc : Option W32)
  -- of a read, none: the transaction is cut short before its CRC
  | mailboxRead (n : Fin 8) (off : Nat) (len : Option Nat)
  | eventRead (k : Option Nat)
  | registerWrite (off : Nat) (vals : List W32) (crc : Option W32)
  | mbxDoorbell (bits : Byte)
  | hostIrqStatusClear (bits : W32)
  | evqAck (seq : W32)
  | resetRequest (v : W32)
  | stSecLoRead (off : Nat) (count : Option Nat) (subNs : Nat)
  -- Plezen commands
  | cmdParamRead (h : Hdr) (count : W16) (items : List (W16 × W16))
  | cmdParamWrite (h : Hdr) (count : W16) (items : List (W16 × W16 × W64))
  | cmdFolioTurn (h : Hdr)
  | cmdFolioDiscard (h : Hdr)
  | cmdFolioSection (h : Hdr) (sec : Byte) (off : W32) (data : List Byte)
  | cmdEventAck (h : Hdr) (seq : W32)
  | cmdFwBegin (h : Hdr) (size : W32) (digest : List Byte)
  | cmdFwBlock (h : Hdr) (off : W32) (data : List Byte)
  | cmdFwCommit (h : Hdr)
  | cmdFwAbort (h : Hdr)
  | cmdDevReset (h : Hdr) (arg : Byte)
  | cmdDevState (h : Hdr) (target : Byte)
  | cmdNop (h : Hdr) (data : List Byte)
  | cmdTimeResync (h : Hdr)
  | cmdGnssLayup (h : Hdr) (hours : W16)
  | cmdGnssWake (h : Hdr)
  | cmdVoteSelect (h : Hdr) (group ref : Byte)
  | cmdVoteExclude (h : Hdr) (ref excl : Byte)
  | cmdSolverStatsClear (h : Hdr)
  | cmdCtlMode (h : Hdr) (mode : Byte)
  | cmdCtlSetpoint (h : Hdr) (lat lon : F64) (heading : F32)
  | cmdCtlJoystick (h : Hdr) (surge sway yaw : F32)
  | cmdCtlManual (h : Hdr) (act : Byte) (speed pitch angle : F32)
  | cmdCtlTrackLoad (h : Hdr) (count : W32) (wps : List (F64 × F64 × F32 × F32))
  | cmdLoopTest (h : Hdr) (loop point kind : Byte) (amp : F32) (hold : Byte) (f0 f1 : F32) (dur : W32) (decim : Byte)
  | cmdLoopTestStop (h : Hdr)
  | cmdLoopCaptureRead (h : Hdr) (first : W32) (count : W32)
  | cmdLogicLoad (h : Hdr) (off : W32) (data : List Byte)
  | cmdLogicChange (h : Hdr) (replace : Byte)
  | cmdLogicStart (h : Hdr) (cold : Byte)
  | cmdLogicStop (h : Hdr)
  | cmdLogicForce (h : Hdr) (t : ForceTarget) (typ : Byte) (val : List Byte)
  | cmdLogicUnforce (h : Hdr) (t : Option ForceTarget)
  | cmdLogicReport (h : Hdr) (first : W32)
  | cmdLogicVarRead (h : Hdr) (path : List Byte)
  | cmdCanBufRead (h : Hdr) (buf : W16)
  | cmdCanFifoRead (h : Hdr) (chan : Byte) (count : W32)
  | cmdSpineKey (h : Hdr) (slot : Byte) (key : Option (List Byte))
  | cmdLaneRotate (h : Hdr)
  | cmdSafeAck (h : Hdr) (mask : Byte) (challenge : W32) (tag : List Byte)
  | cmdSafeConfirm (h : Hdr) (colophon : W32)
  | cmdSafeKey (h : Hdr) (key : List Byte)
  | cmdFaultInject (h : Hdr) (checker place double : Byte)
  | cmdFaultLogRead (h : Hdr) (first count : W32)
  | cmdBudgetCap (h : Hdr) (code : Byte)
  | cmdLifeJournalFind (h : Hdr) (sec : BitVec 48) (ns : W32)
  | cmdLifeJournalRead (h : Hdr) (page : W64) (off : W16) (len : W32)
  -- later rows of the table
  | ptpFollowUpRx (red : Bool) (port : Fin 9) (offset : Int) (bound : Nat)
  | ptpDelayReqTx (red : Bool)
  | ptpDelayRespRx (red : Bool) (port : Fin 9) (delay : Int)
  | ptpDelayReqRx (port : Fin 9) (requester : W64) (peer : Bool) (atNs : Fin 125000)
  | triggerPulseEnd (t : Fin 8)
  | ppsPulseEnd
  | encoderLatch (xs : List EncLatch)
  | fwSlotErased
  | fwImageVerified
  | plezenMessageReject (addr : UdpFrom) (bytes : List Byte)
  | prpEntryForget (src : BitVec 48) (seq : W16)
  | vbatLoss
deriving DecidableEq, Repr

end Sys2Proof
end

