-- ==== Sys2Proof/Decode.lean ====
section
/-! DEFINITION. The commands that a word spells: none. The opcode table gives the rows no bits; a command reaches the block as an
event of its pins, its links or its own clock, never as a word. -/

namespace Sys2Proof

/-- The command that a word of the opcode table spells: the table's rows have no bits, so no word spells one. -/
def decodeTableWord (_nbits _w : Nat) : Option Instr := none

end Sys2Proof
end

