-- ==== Sys2Proof/Machine/Bytes.lean ====
section
/-! DEFINITION. Reading and writing of keyed stores, little-endian byte layouts (R6, R445), two's complement fields and
counters that stick at their maximum. -/

namespace Sys2Proof

/-- The cell of a key in a list of cells. -/
def lookupCell {α : Type} (k : Nat) : List (Nat × α) → Option α
  | [] => none
  | (j, v) :: rest => if j = k then some v else lookupCell k rest

/-- The value a store holds for a key. -/
def Store.get {α : Type} {d : Nat → α} (m : Store d) (k : Nat) : α :=
  match lookupCell k m.cells with
  | some v => v
  | none => d k

/-- The cells without a key. -/
def eraseCell {α : Type} (k : Nat) : List (Nat × α) → List (Nat × α)
  | [] => []
  | (j, v) :: rest => if j < k then (j, v) :: eraseCell k rest else if j = k then rest else (j, v) :: rest

/-- The cells with a key given a value, in rising order of keys. -/
def insertCell {α : Type} (k : Nat) (x : α) : List (Nat × α) → List (Nat × α)
  | [] => [(k, x)]
  | (j, v) :: rest =>
    if j < k then (j, v) :: insertCell k x rest else if j = k then (k, x) :: rest else (k, x) :: (j, v) :: rest

/-- A store with one key written; a value equal to the key's default is not listed. -/
def Store.set {α : Type} [DecidableEq α] {d : Nat → α} (m : Store d) (k : Nat) (x : α) : Store d :=
  if x = d k then ⟨eraseCell k m.cells⟩ else ⟨insertCell k x m.cells⟩

/-- The empty store: every key reads as its default. -/
def Store.empty {α : Type} {d : Nat → α} : Store d := ⟨[]⟩

/-- The keys of a list of cells rise strictly, and all lie at or above a bound. -/
def risingFrom {α : Type} : Nat → List (Nat × α) → Bool
  | _, [] => true
  | b, (j, _) :: rest => decide (b ≤ j) && risingFrom (j + 1) rest

/-- The canonical form of a store: rising keys, and no cell equal to its default. -/
def Store.wf {α : Type} [DecidableEq α] {d : Nat → α} (m : Store d) : Bool :=
  risingFrom 0 m.cells && m.cells.all fun c => decide (c.2 ≠ d c.1)

/-- The canonical form of a byte buffer. -/
def Memory.wf (m : Mem) : Bool := m.wf

/-- Write bytes at rising addresses. -/
def Store.writeBytes (m : Mem) : Nat → List Byte → Mem
  | _, [] => m
  | a, b :: rest => Store.writeBytes (m.set a b) (a + 1) rest

/-- Write cells one after another. -/
def Store.setAll {α : Type} [DecidableEq α] {d : Nat → α} (m : Store d) : List (Nat × α) → Store d
  | [] => m
  | c :: rest => Store.setAll (m.set c.1 c.2) rest

/-- Read `n` bytes from an address. -/
def Store.readBytes (m : Mem) (a : Nat) : Nat → List Byte
  | 0 => []
  | n + 1 => m.get a :: Store.readBytes m (a + 1) n

/-- The low `n` bytes of a number, least significant first (R6). -/
def le : Nat → Nat → List Byte
  | 0, _ => []
  | n + 1, v => BitVec.ofNat 8 v :: le n (v / 256)

/-- The number that bytes spell, least significant first (R6). -/
def unle : List Byte → Nat
  | [] => 0
  | b :: rest => b.toNat + 256 * unle rest

/-- A number of `n` bytes in two's complement, least significant byte first. -/
def leInt (n : Nat) (v : Int) : List Byte := le n (v % (2 ^ (8 * n) : Nat)).toNat

/-- The signed reading of a field of `w` bits. -/
def signed (w v : Nat) : Int := if v < 2 ^ (w - 1) then (v : Int) else (v : Int) - (2 ^ w : Nat)

/-- The field of `w` bits that holds a signed value. -/
def unsigned (w : Nat) (v : Int) : Nat := (v % (2 ^ w : Nat)).toNat

/-- A flag as a number. -/
def bit (b : Bool) : Nat := if b then 1 else 0

/-- Bit `i` of a number. -/
def testBit (v i : Nat) : Bool := v / 2 ^ i % 2 == 1

/-- A number with bit `i` given a value. -/
def putBit (v i : Nat) (b : Bool) : Nat := if testBit v i = b then v else if b then v + 2 ^ i else v - 2 ^ i

/-- Bytes padded with zeros to a length. -/
def padTo (n : Nat) (xs : List Byte) : List Byte := xs.take n ++ List.replicate (n - xs.length) 0

/-- The bit mask of a list of indices (R445). -/
def maskOf (xs : List Nat) : Nat := xs.foldl (fun m i => putBit m i true) 0

/-- Distance of a number from the next multiple of `p`, 0 at a multiple. -/
def toMultiple (p v : Nat) : Nat := (p - v % p) % p

end Sys2Proof
end

