-- ==== Sys2Proof/Machine/Float.lean ====
section
/-! DEFINITION. IEEE 754 arithmetic on bit patterns: exact arithmetic on dyadic numbers, then one rounding to nearest, ties to
even, with subnormal numbers taken as zero (R258). -/

namespace Sys2Proof.Float

/-- A floating-point datum: not a number, an infinity, or sign, integer and power of two. -/
inductive FpNum where
  | nan
  | inf (neg : Bool)
  | fin (neg : Bool) (m : Nat) (e : Int)
deriving DecidableEq, Repr

/-- The number that a pattern of `eb` exponent bits and `p` fraction bits spells; a subnormal spells zero. -/
def decode (eb p : Nat) (x : Nat) : FpNum :=
  let f := x % 2 ^ p
  let e := x / 2 ^ p % 2 ^ eb
  let neg := x / 2 ^ (p + eb) % 2 == 1
  if e = 2 ^ eb - 1 then (if f = 0 then .inf neg else .nan)
  else if e = 0 then .fin neg 0 0
  else .fin neg (2 ^ p + f) ((e : Int) - (2 ^ (eb - 1) - 1 + p : Nat))

/-- A pattern from its sign, biased exponent and fraction. -/
def pack (eb p : Nat) (neg : Bool) (e f : Nat) : Nat := bit neg * 2 ^ (p + eb) + e * 2 ^ p + f

/-- The pattern of the quiet not-a-number. -/
def nanBits (eb p : Nat) : Nat := pack eb p false (2 ^ eb - 1) (2 ^ (p - 1))

/-- The greatest `e` with `2^e ≤ num / den`, for positive numbers. -/
def ilog (num den : Nat) : Int :=
  let g : Int := (Nat.log2 num : Int) - (Nat.log2 den : Int)
  let below : Bool := if 0 ≤ g then decide (num < den * 2 ^ g.toNat) else decide (num * 2 ^ (-g).toNat < den)
  if below then g - 1 else g

/-- The ratio `num / den` rounded to a pattern. -/
def ofRatio (eb p : Nat) (neg : Bool) (num den : Nat) : Nat :=
  if num = 0 then pack eb p neg 0 0 else
  let e := ilog num den
  let sh : Int := (p : Int) - e
  let (n, d) := if 0 ≤ sh then (num * 2 ^ sh.toNat, den) else (num, den * 2 ^ (-sh).toNat)
  let q := n / d
  let r := n % d
  let q := if d < 2 * r ∨ (2 * r = d ∧ q % 2 = 1) then q + 1 else q
  let (q, e) := if q = 2 ^ (p + 1) then (2 ^ p, e + 1) else (q, e)
  let b : Int := e + (2 ^ (eb - 1) - 1 : Nat)
  if b ≤ 0 then pack eb p neg 0 0
  else if ((2 ^ eb - 1 : Nat) : Int) ≤ b then pack eb p neg (2 ^ eb - 1) 0
  else pack eb p neg b.toNat (q - 2 ^ p)

/-- A number rounded to a pattern. -/
def encode (eb p : Nat) : FpNum → Nat
  | .nan => nanBits eb p
  | .inf neg => pack eb p neg (2 ^ eb - 1) 0
  | .fin neg m e => if 0 ≤ e then ofRatio eb p neg (m * 2 ^ e.toNat) 1 else ofRatio eb p neg m (2 ^ (-e).toNat)

/-- The signed integer of a finite number at a lower exponent. -/
def scaled (neg : Bool) (m : Nat) (e lo : Int) : Int :=
  let v : Int := (m * 2 ^ (e - lo).toNat : Nat)
  if neg then -v else v

/-- Exact sum. -/
def add : FpNum → FpNum → FpNum
  | .nan, _ => .nan
  | _, .nan => .nan
  | .inf a, .inf b => if a = b then .inf a else .nan
  | .inf a, _ => .inf a
  | _, .inf b => .inf b
  | .fin n1 m1 e1, .fin n2 m2 e2 =>
    let lo := min e1 e2
    let v := scaled n1 m1 e1 lo + scaled n2 m2 e2 lo
    if v = 0 then .fin (n1 && n2) 0 0 else .fin (decide (v < 0)) v.natAbs lo

/-- Exact product. -/
def mul : FpNum → FpNum → FpNum
  | .nan, _ => .nan
  | _, .nan => .nan
  | .inf a, .inf b => .inf (a != b)
  | .inf a, .fin b m _ => if m = 0 then .nan else .inf (a != b)
  | .fin a m _, .inf b => if m = 0 then .nan else .inf (a != b)
  | .fin a m1 e1, .fin b m2 e2 => .fin (a != b) (m1 * m2) (e1 + e2)

/-- The number with its sign changed. -/
def neg : FpNum → FpNum
  | .nan => .nan
  | .inf a => .inf (!a)
  | .fin a m e => .fin (!a) m e

/-- Less than, false when either is not a number. -/
def lt : FpNum → FpNum → Bool
  | .nan, _ => false
  | _, .nan => false
  | .inf a, .inf b => a && !b
  | .inf a, _ => a
  | _, .inf b => !b
  | .fin n1 m1 e1, .fin n2 m2 e2 =>
    let lo := min e1 e2
    decide (scaled n1 m1 e1 lo < scaled n2 m2 e2 lo)

/-- The number is finite. -/
def finite : FpNum → Bool
  | .fin .. => true
  | _ => false

/-! ### Patterns of 32 bits -/

/-- A pattern with a subnormal number taken as zero of its sign (R261). -/
def flush (a : F32) : F32 := if a.toNat / 2 ^ 23 % 256 = 0 then a &&& 0x80000000#32 else a

/-- The number of a binary32 pattern. -/
def n32 (x : F32) : FpNum := decode 8 23 x.toNat
/-- A number rounded to binary32. -/
def r32 (x : FpNum) : F32 := BitVec.ofNat 32 (encode 8 23 x)
/-- Sum. -/
def fadd (a b : F32) : F32 := r32 (add (n32 a) (n32 b))
/-- Difference. -/
def fsub (a b : F32) : F32 := r32 (add (n32 a) (neg (n32 b)))
/-- Product. -/
def fmul (a b : F32) : F32 := r32 (mul (n32 a) (n32 b))
/-- Quotient. -/
def fdiv (a b : F32) : F32 :=
  match n32 a, n32 b with
  | .fin n1 m1 e1, .fin n2 m2 e2 =>
    if m2 = 0 then (if m1 = 0 then r32 .nan else r32 (.inf (n1 != n2)))
    else
      let d := e1 - e2
      BitVec.ofNat 32 (if 0 ≤ d then ofRatio 8 23 (n1 != n2) (m1 * 2 ^ d.toNat) m2
        else ofRatio 8 23 (n1 != n2) m1 (m2 * 2 ^ (-d).toNat))
  | .fin n1 _ _, .inf n2 => r32 (.fin (n1 != n2) 0 0)
  | .inf n1, .fin n2 _ _ => r32 (.inf (n1 != n2))
  | _, _ => r32 .nan
/-- Less than. -/
def flt (a b : F32) : Bool := lt (n32 a) (n32 b)
/-- Less than or equal. -/
def fle (a b : F32) : Bool := lt (n32 a) (n32 b) || (!lt (n32 b) (n32 a) && finite (n32 a) && finite (n32 b))
/-- The lesser of two. -/
def fmin (a b : F32) : F32 := if flt b a then flush b else flush a
/-- The greater of two. -/
def fmax (a b : F32) : F32 := if flt a b then flush b else flush a
/-- The number is finite. -/
def ffin (a : F32) : Bool := finite (n32 a)
/-- Sign changed. -/
def fneg (a : F32) : F32 := flush (a ^^^ 0x80000000#32)
/-- Magnitude. -/
def fabs (a : F32) : F32 := flush (a &&& 0x7FFFFFFF#32)
/-- The number is zero. -/
def fzero (a : F32) : Bool :=
  match n32 a with
  | .fin _ m _ => m == 0
  | _ => false
/-- A ratio of whole numbers as binary32. -/
def fratio (num : Int) (den : Nat) : F32 := BitVec.ofNat 32 (ofRatio 8 23 (decide (num < 0)) num.natAbs den)
/-- A whole number as binary32. -/
def fint (n : Int) : F32 := fratio n 1

/-- An angle in degrees reduced into [0, 360), or with `half` into (−180, 180]; what rounds to the open end is the other end. -/
def reduce (half : Bool) (x : F32) : F32 :=
  match n32 x with
  | .fin neg m e =>
    let (v, den) : Int × Nat := if 0 ≤ e then ((m * 2 ^ e.toNat : Nat), 1) else ((m : Int), 2 ^ (-e).toNat)
    let full : Int := (360 * den : Nat)
    let r := (if neg then -v else v) % full
    let r := if half && decide (full < 2 * r) then r - full else r
    let f := fratio r den
    if half then (if f = fint (-180) then fint 180 else f) else if f = fint 360 then fint 0 else f
  | _ => x

/-- The whole part of `|x| × num / den`, 0 for what is not finite. -/
def floorOf (x : FpNum) (num den : Nat) : Nat :=
  match x with
  | .fin _ m e => if 0 ≤ e then m * 2 ^ e.toNat * num / den else m * num / (den * 2 ^ (-e).toNat)
  | _ => 0

/-! ### Patterns of 64 bits -/

/-- The number of a binary64 pattern. -/
def n64 (x : F64) : FpNum := decode 11 52 x.toNat
/-- The number is finite. -/
def dfin (x : F64) : Bool := finite (n64 x)
/-- Less than. -/
def dlt (a b : F64) : Bool := lt (n64 a) (n64 b)
/-- A whole number as binary64. -/
def dint (n : Int) : F64 := BitVec.ofNat 64 (ofRatio 11 52 (decide (n < 0)) n.natAbs 1)
/-- A number rounded to binary64. -/
def r64 (x : FpNum) : F64 := BitVec.ofNat 64 (encode 11 52 x)
/-- A ratio of whole numbers as binary64. -/
def dratio (num : Int) (den : Nat) : F64 := BitVec.ofNat 64 (ofRatio 11 52 (decide (num < 0)) num.natAbs den)
/-- A finite number as a ratio of whole numbers, 0 for what is not finite. -/
def ratioOf : FpNum → Int × Nat
  | .fin neg m e =>
    let s : Int := if neg then -1 else 1
    if 0 ≤ e then (s * (m * 2 ^ e.toNat : Nat), 1) else (s * m, 2 ^ (-e).toNat)
  | _ => (0, 1)
/-- A binary64 number less a ratio of whole numbers, rounded once; what is not finite stays. -/
def dless (x : F64) (num den : Nat) : F64 :=
  if num = 0 ∨ dfin x = false then x
  else
    let (a, b) := ratioOf (n64 x)
    dratio (a * den - num * b) (b * den)
/-- Sum of binary64 numbers. -/
def dadd (a b : F64) : F64 := r64 (add (n64 a) (n64 b))
/-- Difference. -/
def dsub (a b : F64) : F64 := r64 (add (n64 a) (neg (n64 b)))
/-- Product. -/
def dmul (a b : F64) : F64 := r64 (mul (n64 a) (n64 b))
/-- Magnitude. -/
def magnitude : FpNum → FpNum
  | .fin _ m e => .fin false m e
  | .inf _ => .inf false
  | .nan => .nan
/-- The number times a power of two. -/
def scale2 (k : Int) : FpNum → FpNum
  | .fin n m e => .fin n m (e + k)
  | x => x
/-- A whole number. -/
def ofInt (n : Int) : FpNum := .fin (decide (n < 0)) n.natAbs 0
/-- A binary32 number as binary64: exact. -/
def widen (x : F32) : F64 := r64 (n32 x)
/-- A binary64 number rounded to binary32. -/
def narrow (x : F64) : F32 := r32 (n64 x)
/-- A finite number times a ratio of whole numbers, rounded once. -/
def dscale (x : F64) (num den : Nat) : F64 :=
  let (a, b) := ratioOf (n64 x)
  dratio (a * num) (b * den)
/-- Quotient; by zero it is what IEEE 754 makes it. -/
def ddiv (a b : F64) : F64 :=
  match n64 a, n64 b with
  | .fin n1 m1 e1, .fin n2 m2 e2 =>
    if m2 = 0 then (if m1 = 0 then r64 .nan else r64 (.inf (n1 != n2)))
    else
      let d := e1 - e2
      BitVec.ofNat 64 (if 0 ≤ d then ofRatio 11 52 (n1 != n2) (m1 * 2 ^ d.toNat) m2
        else ofRatio 11 52 (n1 != n2) m1 (m2 * 2 ^ (-d).toNat))
  | .fin n1 _ _, .inf n2 => r64 (.fin (n1 != n2) 0 0)
  | .inf n1, .fin n2 _ _ => r64 (.inf (n1 != n2))
  | _, _ => r64 .nan

/-! ### Exact sums -/

/-- Difference. -/
def sub (a b : FpNum) : FpNum := add a (neg b)
/-- The number 0. -/
def zero : FpNum := .fin false 0 0
/-- A sum. -/
def total (xs : List FpNum) : FpNum := xs.foldl add zero
/-- The number as it is where positive, else 0. -/
def excess (x : FpNum) : FpNum := if lt zero x then x else zero
/-- An angle in degrees taken into (−180, 180]. -/
def halfTurn : FpNum → FpNum
  | .fin n m e =>
    let lo := min e 0
    let full : Int := (360 * 2 ^ (-lo).toNat : Nat)
    let r := scaled n m e lo % full
    let r := if full < 2 * r then r - full else r
    .fin (decide (r < 0)) r.natAbs lo
  | x => x

/-! ### Square roots -/

/-- The bits of an integer square root, from the highest: `r` has been found, `k` bits are to come. -/
def sqrtBits (n : Nat) : Nat → Nat → Nat
  | 0, r => r
  | k + 1, r => let r' := r + 2 ^ k; sqrtBits n k (if r' * r' ≤ n then r' else r)

/-- The integer square root. -/
def isqrt (n : Nat) : Nat := sqrtBits n (Nat.log2 n / 2 + 1) 0

/-- The square root of a number correctly rounded to binary64; of a negative number the quiet not-a-number. -/
def dsqrt (x : F64) : F64 :=
  match n64 x with
  | .fin neg m e =>
    if m = 0 then x else if neg then r64 .nan
    else
      let (m, e) := if e % 2 = 0 then (m, e) else (2 * m, e - 1)
      let m := m * 2 ^ 120
      let r := isqrt m
      r64 (.fin false (2 * r + bit (decide (r * r < m))) (e / 2 - 61))
  | .inf false => x
  | _ => r64 .nan

end Sys2Proof.Float
end

