-- ==== Sys2Proof/Machine/Geometry.lean ====
section
/-! DEFINITION. Angles, powers and the tangent plane: sines, the arc tangent and square roots in fixed point with 96 binary places, and
positions of the ellipsoid of WGS 84 in a local tangent plane. The manual gives no rounding: each result is rounded once (log entry
108). -/

namespace Sys2Proof.Fixed

open Sys2Proof.Float

/-! ### Fixed point -/

/-- The number 1. -/
abbrev one : Int := 2 ^ 96

/-- π. -/
abbrev pi : Int := 248902613312231085230521944622

/-- A finite number in fixed point, 0 for what is not finite. -/
def ofNum : FpNum → Int
  | .fin neg m e =>
    let v : Nat := if 0 ≤ e + 96 then m * 2 ^ (e + 96).toNat else m / 2 ^ (-(e + 96)).toNat
    if neg then -v else v
  | _ => 0

/-- A ratio of whole numbers. -/
def ratio (n : Int) (d : Nat) : Int := n * one / d

/-- A binary64 number. -/
def of64 (x : F64) : Int := ofNum (n64 x)
/-- A binary32 number. -/
def of32 (x : F32) : Int := ofNum (n32 x)
/-- The binary64 number nearest. -/
def to64 (x : Int) : F64 := dratio x (2 ^ 96)
/-- The binary32 number nearest. -/
def to32 (x : Int) : F32 := fratio x (2 ^ 96)

/-- Product. -/
def mul (a b : Int) : Int := a * b / one
/-- Quotient, 0 by 0. -/
def div (a b : Int) : Int := if b = 0 then 0 else a * one / b
/-- Square root, of a negative number 0. -/
def root (x : Int) : Int := (isqrt (x.toNat * 2 ^ 96) : Nat)
/-- The magnitude of a vector. -/
def hypot (x y : Int) : Int := (isqrt (x.natAbs ^ 2 + y.natAbs ^ 2) : Nat)
/-- A number limited to an interval. -/
def clamp (lo hi x : Int) : Int := max lo (min hi x)

/-! ### Angles -/

/-- The terms of the sine or cosine of `x` from the power `k` on, of which `t` is the first and `x2` the square of `x`. -/
def trigSeries (x2 : Int) : Nat → Nat → Int → Int
  | 0, _, _ => 0
  | n + 1, k, t => t + trigSeries x2 n (k + 2) (-(mul t x2) / ((k + 1) * (k + 2) : Nat))

/-- The radians of an angle in degrees. -/
def radians (deg : Int) : Int := mul deg pi / 180
/-- The degrees of an angle in radians. -/
def degrees (rad : Int) : Int := div (rad * 180) pi

/-- The sine and cosine of an angle in degrees. -/
def sinCos (deg : Int) : Int × Int :=
  let r := deg % (360 * one)
  let x := radians (r % (90 * one))
  let x2 := mul x x
  let s := trigSeries x2 24 1 x
  let c := trigSeries x2 24 0 one
  match (r / (90 * one)).toNat with
  | 0 => (s, c)
  | 1 => (c, -s)
  | 2 => (-s, -c)
  | _ => (-c, s)

/-- The terms of an arc tangent from the power `k` on, of which `p` is the power. -/
def arcSeries (x2 : Int) : Nat → Nat → Int → Int
  | 0, _, _ => 0
  | n + 1, k, p => p / (k : Nat) + arcSeries x2 n (k + 2) (-(mul p x2))

/-- The tangent of half the angle of a tangent. -/
def halfTan (t : Int) : Int := div t (one + root (one + mul t t))

/-- The arc tangent in radians of a number from 0 to 1. -/
def arcTan (t : Int) : Int :=
  let x := halfTan (halfTan (halfTan t))
  8 * arcSeries (mul x x) 18 1 x

/-- The angle of a vector in degrees from 0 to 360, from the first axis towards the second; 0 of no vector. -/
def angle (x y : Int) : Int :=
  let ax : Int := x.natAbs
  let ay : Int := y.natAbs
  let a := degrees (if ay ≤ ax then arcTan (div ay ax) else pi / 2 - arcTan (div ax ay))
  let b := if 0 ≤ x then a else 180 * one - a
  (if 0 ≤ y then b else 360 * one - b) % (360 * one)

/-- An angle in degrees taken into (−180, 180]. -/
def halfTurn (deg : Int) : Int :=
  let r := deg % (360 * one)
  if 180 * one < r then r - 360 * one else r

/-- A vector of two axes turned by an angle whose sine and cosine are given. -/
def turn (sc : Int × Int) (x y : Int) : Int × Int := (mul sc.2 x - mul sc.1 y, mul sc.1 x + mul sc.2 y)

/-- A vector seen from axes that are turned by an angle whose sine and cosine are given. -/
def unturn (sc : Int × Int) (x y : Int) : Int × Int := (mul sc.2 x + mul sc.1 y, mul sc.2 y - mul sc.1 x)

/-! ### Powers -/

/-- A positive number to the power 3/4, correctly rounded to binary64; of zero or a negative number 0 (R241). -/
def pow34 (x : F64) : F64 :=
  match n64 x with
  | .fin false m e =>
    if m = 0 then 0 else
    let k : Nat := if 0 ≤ e then 64 else (-(3 * e)).toNat / 4 + 65
    let v := m ^ 3 * 2 ^ (3 * e + 4 * k).toNat
    let r := isqrt (isqrt v)
    r64 (.fin false (2 * r + bit (decide (r ^ 4 < v))) (-(k + 1 : Nat)))
  | .inf false => x
  | _ => 0

/-! ### The tangent plane -/

/-- The radii that turn radians of latitude and of longitude at a latitude in degrees into metres: M and N cos φ of WGS 84. -/
def radii (lat : Int) : Int × Int :=
  let (s, c) := sinCos lat
  let e2 := ratio 669437999014 (10 ^ 14)
  let w2 := one - mul e2 (mul s s)
  let n := div (6378137 * one) (root w2)
  (div (mul n (one - e2)) w2, mul n c)

/-- The metres north and east of a position in the tangent plane at another. -/
def offset (lat0 lon0 lat lon : F64) : Int × Int :=
  let r := radii (of64 lat0)
  (mul r.1 (radians (of64 lat - of64 lat0)), mul r.2 (radians (halfTurn (of64 lon - of64 lon0))))

/-- The position some metres north and east of another, in its tangent plane. -/
def displaced (lat0 lon0 : F64) (d : Int × Int) : F64 × F64 :=
  if d = (0, 0) then (lat0, lon0) else
  let r := radii (of64 lat0)
  (to64 (of64 lat0 + degrees (div d.1 r.1)), to64 (halfTurn (of64 lon0 + degrees (div d.2 r.2))))

/-- The distance between two positions in m. -/
def distance (lat0 lon0 lat lon : F64) : Int :=
  let d := offset lat0 lon0 lat lon
  hypot d.1 d.2

end Sys2Proof.Fixed
end

