-- ==== Sys2Proof/Shapes.lean ====
section
/-! DEFINITION. The numbers that the Collator, the vessel controller and the Solver Cluster work on, as the manual names them: what the
open functions of Config take and give. -/

namespace Sys2Proof

/-! ### The Collator's filter -/

/-- The filter at an instant (R136): the nominal states and the corrections to them, 45 of each in the order of the table, the
upper-triangular square-root factor by rows, 1,035 numbers, and the payload of the IMU sample that is mechanised on (R137). -/
structure Filter where
  at_ : Nat
  nominal : List F64
  err : List F64
  factor : List F64
  sample : List Byte
deriving DecidableEq, Repr, Inhabited

/-- The parameters of the vessel model (R232) as the Folio holds them: mass in t, added masses in t and 1,000 t·m², yaw inertia in
1,000 t·m², linear and quadratic damping by axis, and of roll and pitch the natural period in 0.01 s and the damping ratio in 0.01. -/
structure VesselModel where
  mass : Nat
  added : List Nat
  inertia : Nat
  lin : List Nat
  quad : List Nat
  roll : Nat × Nat
  pitch : Nat × Nat
deriving DecidableEq, Repr, Inhabited

/-- What a propagation rests on (R136, R137, R161): the IMU sample with its mounting, none in MODEL_ONLY; the thrust applied in the
previous frame, the wind feed-forward and the weighted network output in surge, sway and yaw; the process noise of states 27 to 29; the
period and damping of the wave oscillators; the vessel model and the parameters of its thrusters; and the states that are held. -/
structure Mech where
  sample : Option (List Byte)
  lever : List Int
  align : List Int
  thrust : List F64
  wind : List F64
  network : List F64
  qForce : List F32
  wave : Nat × Nat
  model : VesselModel
  thrusters : List (Nat × W64)
  hold : List Nat
deriving DecidableEq, Repr, Inhabited

/-- A scalar measurement (R138, R139). Kinds 0 pseudorange, 1 time-differenced carrier phase, 2 Doppler, 3 north, 4 east, 5 heading; `src`
is the receiver or the slot, `data` the entry's payload, `prev` the record of the previous frame, `nav` the satellite's ephemeris, `scale`
the offset of its constellation's time from TAI, `leap` what the receivers say of TAI − UTC, `sbas` its corrections, `lever` the antenna or sensor, and `variance` as the weight has divided it (R140). -/
structure Scalar where
  kind : Nat
  src : Nat
  data : List Byte
  prev : List Byte
  nav : List Byte
  scale : List Byte
  leap : Option (Int × Option (Nat × Int))
  sbas : List Byte
  lever : List Int
  variance : F64
deriving DecidableEq, Repr, Inhabited

/-- The low-frequency part of an estimate (R144, R145). -/
structure LowFreq where
  lat : F64
  lon : F64
  height : F32
  heading : F32
  surge : F32
  sway : F32
  yawRate : F32
  roll : F32
  pitch : F32
deriving DecidableEq, Repr, Inhabited

/-! ### Logic variables -/

/-- The types that R303 tells apart: integers and bit strings by their bytes, durations by their unit in ns and their bytes, strings by
their maximum length. -/
inductive IecType where
  | bool
  | int (signed : Bool) (bytes : Nat)
  | bits (bytes : Nat)
  | real
  | lreal
  | duration (unit bytes : Nat)
  | str (max : Nat)
  | other
deriving DecidableEq, Repr, Inhabited

/-! ### The problem of a frame -/

/-- The thrust of every actuator in kN, x forward and y to starboard. -/
abbrev Thrusts := List (F64 × F64)

/-- A plan (R194): the thrusts of its stages, and how far into its time axis in ns the present one starts. -/
structure Plan where
  inputs : List Thrusts
  ahead : Nat
deriving DecidableEq, Repr, Inhabited

/-- A point of the reference trajectory (R227): position, heading in degrees, and velocity and acceleration in surge, sway and yaw. -/
structure Ref where
  lat : F64
  lon : F64
  heading : F32
  vel : List F64
  acc : List F64
deriving DecidableEq, Repr, Inhabited

/-- A move of the reference (R227): from where and to where, with its speed, acceleration and turn-rate limits in 0.01 m/s, m/s² and
°/s, and the leg speed of a track in m/s. -/
structure Move where
  start : Ref
  lat : F64
  lon : F64
  heading : F32
  limits : List Nat
  leg : Option F32
deriving DecidableEq, Repr, Inhabited

/-- The 12 states of the vessel model (R232): north and east in m in the tangent plane at the setpoint, heave in m down, roll, pitch and
heading in degrees; the velocities in surge, sway and yaw in m/s and °/s, and those in heave, roll and pitch. -/
structure StageState where
  north : F64
  east : F64
  heave : F64
  roll : F64
  pitch : F64
  heading : F64
  vel : List F64
  rates : List F64
deriving DecidableEq, Repr, Inhabited

/-- An actuator of the problem (R236, R242): its index and type, its position in mm and its height, down, whether it is available, its power coefficient in
0.001 kW/kN^1.5, its bus, and the vertices of its region in 1e-5 kN, as its efficiency scales them. -/
structure ActSpec where
  idx : Nat
  typ : Nat
  pos : Int × Int
  height : Int
  available : Bool
  coef : Nat
  bus : Nat
  region : List (Int × Int)
deriving DecidableEq, Repr, Inhabited

/-- The rate limit of an actuator at a stage (R240): the unit vector of the warm plan's thrust there, and the greatest change of thrust
along it and across it in kN; of a single variable along alone. -/
structure RateLimit where
  act : Nat
  stage : Nat
  dir : F64 × F64
  along : F64
  across : Option F64
deriving DecidableEq, Repr, Inhabited

/-- The problem of a frame (R230 to R245). `form` is 40 or 20 stages, 1 allocation on the fall-back path or 2 allocation alone, and
`stages` holds the stage lengths in ms; weights are those of R234 as the mode sets them; `demand` is the force that allocation tracks in
surge, sway and yaw, `known` the wind, network and disturbance forces and `wind` the wind's part; `warm` is the plan it is linearised about, `inForce` the thrust in
force before stage 0; `sectors` is the actuator, the side held and its bounding angle in 0.01° of each forbidden sector; `allow` is each
bus's allowance in kW, none where unconstrained; and `limits` are those of roll and pitch in 0.01°. -/
structure Problem where
  form : Nat
  stages : List Nat
  start : StageState
  refs : List Ref
  origin : F64 × F64
  wPos : List Nat
  wVel : List Nat
  wPower : Nat
  wDthrust : Nat
  wForce : List Nat
  demand : List F64
  known : List F64
  wind : List F64
  acts : List ActSpec
  rates : List RateLimit
  sectors : List (Nat × Nat × Nat)
  allow : List (Option F32)
  limits : Nat × Nat
  model : VesselModel
  warm : List Thrusts
  inForce : Thrusts
deriving DecidableEq, Repr, Inhabited

/-- An iterate (R194): the actuator variables of every stage, and the dual variables. -/
structure Point where
  plan : List Thrusts
  duals : List F64
deriving DecidableEq, Repr, Inhabited

/-- A matrix of a CHOL or LDLT job, by the columns of its lower triangle from the diagonal down; `signs` is the inertia vector of LDLT,
true for a positive pivot, and empty in CHOL (R190, R197). -/
structure JobMatrix where
  cols : List (List F64)
  signs : List Bool
deriving DecidableEq, Repr, Inhabited

/-- What a factorisation came to (R192, R197): the columns of the factor, the column of the first failed pivot, how many pivots were
replaced, whether OVERFLOW and INPUT_NONFINITE were set, and whether it is LDLT. -/
structure Factor where
  cols : List (List F64)
  failed : Option Nat
  replaced : Nat
  overflow : Bool
  nonfinite : Bool
  ldlt : Bool
deriving DecidableEq, Repr, Inhabited

/-- A dense block in scratch, by its columns (R202). -/
abbrev Block := List (List F64)

/-- A member of a GEMM batch (R190): `c` ± `a` `b`ᵀ, or with `d` a diagonal between them. -/
structure GemmJob where
  c : Block
  a : Block
  b : Block
  d : Option (List F64)
  minus : Bool
deriving DecidableEq, Repr, Inhabited

/-- A schedule of the fall-back section (R201, R202): its pattern signature, its block table (rows, columns and offset of each block) and
its step words. -/
structure Schedule where
  signature : W32
  blocks : List (Nat × Nat × Nat)
  steps : List W64
deriving DecidableEq, Repr, Inhabited

end Sys2Proof
end

