-- ==== Sys2Proof/Config.lean ====
section
/-! DEFINITION. What an implementation fixes and the manual leaves open: constants with no body, so that no proof can lean on
a value of one. -/

namespace Sys2Proof.Config

/-- The challenge that the Safety Monitor draws (R388), by the count of free values used before it. Log entry 20. -/
opaque challenge : Nat → BitVec 32
/-- FREE: the sequence number of the redundancy trailer or tag that the module adds to a frame, by how many it added before (R331). -/
opaque redundancySeq : Nat → BitVec 16
/-- A byte that the manual lays out no further, by a place number and an offset (log entry 21). -/
opaque freeByte : Nat → Nat → BitVec 8
/-- The CRC-32C of a Folio image, whose serialisation the manual does not lay out (R461): from the cells of its parameters
and the bytes of its sections 1 and 2. Log entry 22. -/
opaque folioCrc : List (Nat × BitVec 64) → List (Nat × BitVec 8) → List (Nat × BitVec 8) → BitVec 32
/-- A section of a Folio is complete and its own check code, which Smiosh sets in a place that the manual does not give, is right (R455):
from its number, its length and its bytes. -/
opaque sectionGood : Nat → Nat → List (Nat × BitVec 8) → Bool
/-- The check value that the network section holds (R156), whose place the manual does not give: from the section's bytes. -/
opaque envelopeCheck : List (Nat × BitVec 8) → BitVec 32
/-- A number that the manual leaves open, by the count of free values used before it (log entry 3). -/
opaque freeNat : Nat → Nat
/-- A length in bytes that the manual leaves to the compressor (R479), by the count of free values used before it. -/
opaque compressedLength : Nat → Nat
/-- The bytes of a Quire directory's SHA-256 (R349), whose serialisation the manual does not lay out, by the count of free values used
before it. -/
opaque quireDigest : Nat → Nat → BitVec 8
/-- The size of a Quire in bytes (R351), of which the manual states the limit, by the count of free values used before it. -/
opaque quireBytes : Nat → Nat
/-- The erase blocks of the journal (R482), which the manual does not number (log entry 69). -/
opaque journalBlocks : Nat
/-- The erase blocks of an image slot (R466, R470), which the manual does not number (log entry 69). -/
opaque slotBlocks : Nat
/-- The error bound of TB2 formed from the error estimates of the receivers that contribute (R68, R92): no rule gives it. -/
opaque tb2Bound : List Nat → Nat
/-- The frequency estimate of the rate servo in ps per second, from the offsets it has last seen (R60, R63): no rule gives it. -/
opaque servoFreq : List Int → Int
/-- The sample in nA of a current channel that is connected to the +2.000 V reference (R115), which the manual does not give. -/
opaque referenceCurrent : Int
/-- The value of a null field of an IEC 61162-1 sentence, by the sentence's code and the value's place (R121): no rule gives it. -/
opaque nullField : Nat → Nat → BitVec 64
/-- The type that a type code of a program's symbol table names, with the bytes of the variable (R285, R303): the manual gives no codes
(log entry 100). -/
opaque iecType : BitVec 8 → Nat → IecType
/-- The digest of a tick (R271, R348), whose function the manual does not state: from its analog values and its CAN payloads (log
entry 61). -/
opaque tickDigest : List (Option (BitVec 32)) → List (List (BitVec 8)) → BitVec 64
/-! ### The Collator: the manual gives what the filter works on and what becomes of it, and not its equations (log entry 98) -/

/-- The filter cold-initialised (R146, R164). -/
opaque coldFilter : Filter
/-- A filter carried forward by some ns (R133, R136, R137). -/
opaque propagate : Filter → Nat → Mech → Filter
/-- The innovation of a scalar measurement and its variance S (R141). -/
opaque innovation : Filter → Scalar → F64 × F64
/-- A filter updated by a scalar measurement, with the states that are held (R136, R139, R184). -/
opaque correct : Filter → Scalar → List Nat → Filter
/-- A square-root factor whose IMU biases have their initial uncertainty again (R137). -/
opaque restartBias : List F64 → List F64
/-- The variance of a scalar of a GNSS record before its weight, by its kind, from its carrier noise, that of the previous frame's record
and the signal (R138). -/
opaque carrierVariance : Nat → BitVec 16 → BitVec 16 → BitVec 8 → F64
/-- The low-frequency position, attitude and velocities of a filter (R145). -/
opaque lowFrequency : Filter → LowFreq
/-- The wave-frequency north, east and heading of a filter (R144, R145). -/
opaque waveMotion : Filter → F32 × F32 × F32
/-- The σ of north, east and heading (R145). -/
opaque sigmas : Filter → F32 × F32 × F32
/-- The vertical specific force of an IMU sample in 1e-6 m/s² (R154). -/
opaque verticalForce : Filter → List (BitVec 8) → Int
/-- The predicted total position, roll, pitch and heading in degrees at a stamp, from the unrevised states (R169). -/
opaque predictedPose : List Filter → Nat → F64 × F64 × F64 × F64 × F64
/-- A step of the Drift Network (R154): from its section, the hidden state and the inputs, the hidden state and three outputs. -/
opaque networkStep : List (Nat × BitVec 8) → List F32 → List F32 → List F32 × List F32
/-- The recursive least squares of R162: from its own numbers, the factors in 0.0001, the thrusts and the residual force, the same. -/
opaque adaptStep : List F64 → List Nat → List F32 → List F64 → List F64 × List Nat

/-! ### Vessel control and the Solver Cluster: the same holds of the method, and of what the vessel model leaves open (log
entries 99, 108) -/

/-- The angular acceleration in °/s² in roll (0) or pitch (1) of the vessel model, from the thrust moment and the wind force (R232): the
manual gives neither the inertia nor the height at which the wind acts. -/
opaque tilt : Nat → VesselModel → F64 → List F64 → F64
/-- The rates of heave, roll and pitch in the initial state (R230), which no estimate holds (R145). -/
opaque unestimated : LowFreq → F64 × F64 × F64
/-- By how much a hard constraint is exceeded, in the scaled units of R193 and R221, which no rule gives: from its group (R235) and the
excess. -/
opaque scaled : Nat → F64 → F64
/-- The scaled KKT residual and the average complementarity product of an iterate (R196). -/
opaque kkt : Problem → Point → F64 × F64
/-- The products that the assembly of the stage blocks batches (R194). -/
opaque assembly : Problem → Point → List GemmJob
/-- The stage matrix of an iteration, from the assembled blocks and the factors of the stages after it (R194). -/
opaque stageMatrix : Problem → Point → Nat → List Block → List Factor → JobMatrix
/-- The right-hand sides of the forward pass and dual recovery, for the factor of each stage (R194). -/
opaque newtonSides : Problem → Point → List Block → List Factor → List Block
/-- The point that the line search of the lanes accepts, from the solutions for each stage (R194). -/
opaque advance : Problem → Point → List Block → Point
/-- The matrix of the allocation of a candidate (R195), whose sector sides the problem holds. -/
opaque candidateMatrix : Problem → JobMatrix
/-- The right-hand side of the allocation of a candidate (R195). -/
opaque candidateSide : Problem → List F64
/-- The thrusts that the solution of an allocation gives (R195). -/
opaque candidateThrust : Problem → List F64 → Thrusts
/-- The three schedules of a fall-back section, whose layout is the manual's only in part (R202), and the pattern signature of a problem
configuration (R201). -/
opaque schedules : List (Nat × BitVec 8) → List Schedule
opaque signature : Nat → List (Nat × BitVec 64) → BitVec 32
/-- The blocks of a schedule as the Newton system of an iterate, or the allocation of a candidate, fills them, and the part of the
right-hand side that stands beside each block (R202, R203). -/
opaque scheduleLoad : Schedule → Problem → Point → List Block × List (List F64)
/-- The parts of the right-hand side after a FORWARD (3), BACKWARD (4) or DIAG (5) step on a block that is no factor (R202). -/
opaque sideStep : Nat → Nat → List Block → List (List F64) → List (List F64)
/-- The target of a SOLVE against a block that is no factor, or of an UPDATE from a block that no SOLVE has given a D (R202). -/
opaque blockStep : Nat → Block → Block → Block → Block
/-- The residual of the Newton system for a solution, as the next pass of refinement solves it (R203). -/
opaque newtonResidual : Schedule → Problem → Point → List (List F64) → List (List F64)
/-- The point that a solution gives, and the relative residual of the Newton system (R203). -/
opaque scheduleRead : Schedule → Problem → Point → List (List F64) → Point × F64
/-- The angle in degrees of no thrust (R246), which no rule gives. -/
opaque noAngle : F32
/-- What R246 leaves open where the reference thrust or setpoint of an actuator is 0: the thrust of a setpoint, or the setpoint of a
thrust (log entry 99). -/
opaque noReference : Nat → F64 → F64
/-- The direction that R240 leaves open, of an actuator whose warm plan has no thrust in stage 0 (log entry 99). -/
opaque noDirection : Nat → F64 × F64
/-- The side that R238 leaves open, of a sector that holds the angle it is fixed by (log entry 99). -/
opaque insideSector : Nat → F32 → Bool

/-- The module's MAC address, derived from dev.serial in a way that the manual does not give (R335). -/
opaque moduleMac : BitVec 48
/-- Whether the Caerdione signature of a firmware image is right, and the version it names; its layout is not the manual's (R466, R467). -/
opaque imageSigned : List (Nat × BitVec 8) → Bool
/-- R467. -/
opaque imageVersion : List (Nat × BitVec 8) → BitVec 32
/-- The module's own clock identity and offsetScaledLogVariance in its Announce messages (R73). -/
opaque clockIdentity : BitVec 64
/-- R73. -/
opaque clockVariance : BitVec 16

end Sys2Proof.Config
end

