-- ==== Sys2Proof/Machine/Crypto.lean ====
section
/-! DEFINITION. The check codes and digests of the manual: CRC-32C (R12, polynomial 0x1EDC6F41), CRC-64 with the ECMA-182
polynomial (R348), SHA-256 (FIPS 180-4) and HMAC-SHA-256 (FIPS 198-1). -/

namespace Sys2Proof.Crypto

/-- One bit of the reflected CRC-32C register. -/
def crc32cBit (c : Nat) : Nat := if c % 2 = 1 then (c / 2) ^^^ 0x82F63B78 else c / 2

/-- One byte into the CRC-32C register. -/
def crc32cByte (c : Nat) (b : Byte) : Nat :=
  crc32cBit (crc32cBit (crc32cBit (crc32cBit (crc32cBit (crc32cBit (crc32cBit (crc32cBit (c ^^^ b.toNat))))))))

/-- CRC-32C of a byte string (R443). -/
def crc32c (xs : List Byte) : W32 := BitVec.ofNat 32 (xs.foldl crc32cByte 0xFFFFFFFF ^^^ 0xFFFFFFFF)

/-- One bit of the CRC-64 register. -/
def crc64Bit (c : Nat) : Nat :=
  if c / 2 ^ 63 = 1 then (c * 2 % 2 ^ 64) ^^^ 0x42F0E1EBA9EA3693 else c * 2

/-- One byte into the CRC-64 register. -/
def crc64Byte (c : Nat) (b : Byte) : Nat :=
  crc64Bit (crc64Bit (crc64Bit (crc64Bit (crc64Bit (crc64Bit (crc64Bit (crc64Bit (c ^^^ (b.toNat * 2 ^ 56)))))))))

/-- CRC-64 of a byte string with the ECMA-182 polynomial (R348); the register starts at 0 and is taken unreflected and
uncomplemented (PRESUMED, log entry 10). -/
def crc64 (xs : List Byte) : W64 := BitVec.ofNat 64 (xs.foldl crc64Byte 0)

/-- The primes below 312, of which there are 64. -/
def primes : List Nat := (List.range 312).filter fun n =>
  2 ≤ n && (List.range 16).all fun d => decide (n < (d + 2) * (d + 2)) || n % (d + 2) != 0

/-- The largest number with `n` bits more than `r` whose power does not exceed a bound, bit by bit. -/
def root (k bound : Nat) : Nat → Nat → Nat
  | 0, r => r
  | n + 1, r => root k bound n (if (r + 2 ^ n) ^ k ≤ bound then r + 2 ^ n else r)

/-- The first 32 bits of the fraction of the k-th root of a small number. -/
def rootFraction (k p : Nat) : Nat := root k (p * 2 ^ (32 * k)) 36 0 % 2 ^ 32

/-- The initial hash value of SHA-256 (FIPS 180-4 defines it so): from the square roots of the first eight primes. -/
def shaInit : List Nat := (primes.take 8).map (rootFraction 2)

/-- The round constants of SHA-256 (FIPS 180-4 defines them so): from the cube roots of the first 64 primes. -/
def shaK : List Nat := primes.map (rootFraction 3)

/-- Rotation of a 32-bit word to the right. -/
def rotr (n x : Nat) : Nat := x / 2 ^ n + x % 2 ^ n * 2 ^ (32 - n)

/-- Sum of words modulo 2^32. -/
def add32 (x y : Nat) : Nat := (x + y) % 2 ^ 32

/-- The message schedule beyond its first words: the last sixteen words, newest first, and how many words are to come. -/
def shaSchedule : Nat → List Nat → List Nat
  | 0, _ => []
  | n + 1, w =>
    let w15 := w.getD 14 0
    let w2 := w.getD 1 0
    let s0 := rotr 7 w15 ^^^ rotr 18 w15 ^^^ (w15 / 2 ^ 3)
    let s1 := rotr 17 w2 ^^^ rotr 19 w2 ^^^ (w2 / 2 ^ 10)
    let x := add32 (add32 (w.getD 15 0) s0) (add32 (w.getD 6 0) s1)
    x :: shaSchedule n (x :: w.take 15)

/-- The rounds of SHA-256 over the round constants and schedule words. -/
def shaRounds : List Nat → List Nat → List Nat → List Nat
  | k :: ks, w :: ws, [a, b, c, d, e, f, g, h] =>
    let s1 := rotr 6 e ^^^ rotr 11 e ^^^ rotr 25 e
    let ch := (e &&& f) ^^^ ((0xFFFFFFFF ^^^ e) &&& g)
    let t1 := add32 (add32 h s1) (add32 ch (add32 k w))
    let s0 := rotr 2 a ^^^ rotr 13 a ^^^ rotr 22 a
    let mj := (a &&& b) ^^^ (a &&& c) ^^^ (b &&& c)
    shaRounds ks ws [add32 t1 (add32 s0 mj), a, b, c, add32 d t1, e, f, g]
  | _, _, st => st

/-- The number that bytes spell, most significant first. -/
def unbe (xs : List Byte) : Nat := xs.foldl (fun n b => n * 256 + b.toNat) 0

/-- The low `n` bytes of a number, most significant first. -/
def be (n v : Nat) : List Byte := (le n v).reverse

/-- The sixteen words of a block. -/
def blockWords : Nat → List Byte → List Nat
  | 0, _ => []
  | n + 1, xs => unbe (xs.take 4) :: blockWords n (xs.drop 4)

/-- One block of SHA-256. -/
def shaBlock (h : List Nat) (xs : List Byte) : List Nat :=
  let w := blockWords 16 xs
  let r := shaRounds shaK (w ++ shaSchedule 48 w.reverse) h
  List.zipWith add32 h r

/-- The blocks of SHA-256, `n` of them. -/
def shaBlocks : Nat → List Nat → List Byte → List Nat
  | 0, h, _ => h
  | n + 1, h, xs => shaBlocks n (shaBlock h (xs.take 64)) (xs.drop 64)

/-- SHA-256 (FIPS 180-4) of a byte string. -/
def sha256 (xs : List Byte) : List Byte :=
  let n := xs.length
  let p := xs ++ (0x80 : Byte) :: List.replicate (toMultiple 64 (n + 9)) 0 ++ be 8 (8 * n)
  (shaBlocks (p.length / 64) shaInit p).flatMap (be 4)

/-- HMAC-SHA-256 (FIPS 198-1) of a message under a key. -/
def hmac (key msg : List Byte) : List Byte :=
  let k0 := padTo 64 (if 64 < key.length then sha256 key else key)
  sha256 (k0.map (· ^^^ 0x5C) ++ sha256 (k0.map (· ^^^ 0x36) ++ msg))

end Sys2Proof.Crypto
end

