-- ==== Sys2Proof/Machine/Params.lean ====
section
/-! DEFINITION. The parameter table: every parameter ID of the manual with its fields, access codes, permitted ranges and
reset values, block by block (R7, R8, R11 and the parameter tables R3 to R505). -/

namespace Sys2Proof.Machine

/-- Access codes of parameters (R8). -/
inductive Access where
  | ro | rs | w1c
deriving DecidableEq, Repr

/-- One field of a parameter: position, width, access, whether its value is signed, and the closed ranges it permits
(none listed: every value of the width). -/
structure FieldSpec where
  lo : Nat
  w : Nat
  acc : Access
  signed : Bool
  ranges : List (Int × Int)
deriving DecidableEq, Repr

/-- One row of the parameter tables: the first ID, the strides and counts of its elements' IDs, the number of elements held
under each ID (R454), and its fields. -/
structure ParamSpec where
  base : Nat
  dims : List (Nat × Nat)
  elems : Nat
  fields : List FieldSpec
deriving DecidableEq, Repr

/-- A reset value that is not zero: the first ID, the number of consecutive IDs, the field's low bit and the value. -/
structure ResetRow where
  base : Nat
  count : Nat
  lo : Nat
  value : Nat
deriving DecidableEq, Repr

/-- Parameters of block 0x0 (R7), part 0. -/
def paramsDevice0 : List ParamSpec := [
  ⟨0x0000, [], 1, [⟨0, 16, .ro, false, []⟩]⟩,
  ⟨0x0001, [], 1, [⟨0, 8, .ro, false, []⟩]⟩,
  ⟨0x0002, [], 1, [⟨0, 32, .ro, false, []⟩]⟩,
  ⟨0x0003, [], 1, [⟨0, 64, .ro, false, []⟩]⟩,
  ⟨0x0010, [], 1, [⟨0, 1, .ro, false, []⟩, ⟨1, 2, .ro, false, []⟩, ⟨3, 2, .ro, false, []⟩, ⟨5, 1, .ro, false, []⟩]⟩,
  ⟨0x0011, [], 1, [⟨0, 32, .ro, false, []⟩]⟩,
  ⟨0x0012, [], 1, [⟨0, 32, .ro, false, []⟩]⟩,
  ⟨0x0013, [], 1, [⟨0, 16, .ro, false, []⟩, ⟨16, 14, .ro, false, []⟩]⟩,
  ⟨0x0014, [], 1, [⟨0, 32, .ro, false, []⟩]⟩,
  ⟨0x0018, [], 1, [⟨0, 1, .ro, false, []⟩, ⟨1, 1, .ro, false, []⟩, ⟨2, 1, .ro, false, []⟩, ⟨3, 1, .ro, false, []⟩, ⟨4, 1, .ro, false, []⟩]⟩,
  ⟨0x0019, [], 1, [⟨0, 32, .ro, false, []⟩]⟩,
  ⟨0x001A, [], 1, [⟨0, 25, .ro, false, []⟩]⟩,
  ⟨0x001B, [], 1, [⟨0, 10, .rs, false, [(10, 600)]⟩]⟩,
  ⟨0x0020, [], 1, [⟨0, 11, .rs, false, [(50, 2000)]⟩]⟩,
  ⟨0x0021, [], 1, [⟨0, 11, .ro, false, []⟩, ⟨16, 11, .ro, false, []⟩]⟩,
  ⟨0x0022, [], 1, [⟨0, 32, .ro, false, []⟩]⟩,
  ⟨0x0023, [], 1, [⟨0, 32, .ro, false, []⟩]⟩,
  ⟨0x0024, [], 1, [⟨0, 32, .ro, false, []⟩]⟩,
  ⟨0x0025, [], 1, [⟨0, 32, .ro, false, []⟩]⟩,
  ⟨0x0026, [], 1, [⟨0, 32, .ro, false, []⟩]⟩,
  ⟨0x0030, [], 1, [⟨0, 3, .ro, false, []⟩]⟩,
  ⟨0x0031, [], 1, [⟨0, 3, .ro, false, []⟩, ⟨3, 1, .ro, false, []⟩]⟩,
  ⟨0x0032, [], 1, [⟨0, 2, .ro, false, []⟩]⟩,
  ⟨0x0033, [], 1, [⟨0, 12, .rs, false, [(50, 3000)]⟩]⟩,
  ⟨0x0034, [], 1, [⟨0, 1, .rs, false, []⟩]⟩]

/-- Parameters of block 0x1 (R7), part 0. -/
def paramsTime0 : List ParamSpec := [
  ⟨0x1000, [], 1, [⟨0, 48, .ro, false, []⟩]⟩,
  ⟨0x1001, [], 1, [⟨0, 32, .ro, false, []⟩]⟩,
  ⟨0x1002, [], 1, [⟨0, 32, .ro, false, []⟩]⟩,
  ⟨0x1003, [], 1, [⟨0, 16, .ro, false, []⟩]⟩,
  ⟨0x1004, [], 1, [⟨0, 6, .ro, false, []⟩]⟩,
  ⟨0x1005, [], 1, [⟨0, 1, .ro, false, []⟩, ⟨1, 1, .ro, false, []⟩]⟩,
  ⟨0x1010, [], 1, [⟨0, 1, .rs, false, []⟩]⟩,
  ⟨0x1011, [], 1, [⟨0, 8, .rs, false, [(0, 127)]⟩]⟩,
  ⟨0x1012, [], 1, [⟨0, 8, .rs, false, [(0, 127)]⟩]⟩,
  ⟨0x1013, [], 1, [⟨0, 1, .rs, false, []⟩]⟩,
  ⟨0x1014, [], 1, [⟨0, 1, .rs, false, []⟩]⟩,
  ⟨0x1015, [], 1, [⟨0, 16, .rs, false, [(250, 10000)]⟩]⟩,
  ⟨0x1016, [], 1, [⟨0, 8, .rs, false, [(6, 255)]⟩]⟩,
  ⟨0x1017, [], 1, [⟨0, 16, .rs, false, [(100, 50000)]⟩]⟩,
  ⟨0x1018, [], 1, [⟨0, 16, .rs, false, [(10, 3600)]⟩]⟩,
  ⟨0x1019, [], 1, [⟨0, 16, .rs, false, [(0, 0), (10, 3600)]⟩]⟩,
  ⟨0x101A, [], 1, [⟨0, 16, .rs, false, [(1, 10000)]⟩]⟩,
  ⟨0x101B, [], 1, [⟨0, 16, .rs, false, [(1, 10000)]⟩]⟩,
  ⟨0x101C, [], 1, [⟨0, 16, .rs, false, [(0, 10000)]⟩]⟩,
  ⟨0x101D, [], 1, [⟨0, 16, .rs, false, [(100, 50000)]⟩]⟩,
  ⟨0x101E, [], 1, [⟨0, 9, .rs, false, [(1, 500)]⟩]⟩,
  ⟨0x101F, [], 1, [⟨0, 11, .rs, false, [(0, 2000)]⟩]⟩,
  ⟨0x1020, [], 1, [⟨0, 16, .rs, true, [((-5000), 5000)]⟩]⟩,
  ⟨0x1021, [], 1, [⟨0, 16, .rs, true, [((-5000), 5000)]⟩]⟩,
  ⟨0x1022, [], 1, [⟨0, 1, .rs, false, []⟩]⟩,
  ⟨0x1023, [], 1, [⟨0, 8, .rs, false, []⟩]⟩,
  ⟨0x1024, [], 1, [⟨0, 8, .rs, false, []⟩]⟩,
  ⟨0x1025, [], 1, [⟨0, 2, .rs, false, [(0, 2)]⟩]⟩,
  ⟨0x1030, [], 1, [⟨0, 3, .ro, false, []⟩, ⟨3, 1, .ro, false, []⟩, ⟨4, 1, .ro, false, []⟩, ⟨5, 1, .ro, false, []⟩, ⟨6, 1, .ro, false, []⟩, ⟨7, 1, .ro, false, []⟩]⟩,
  ⟨0x1031, [], 1, [⟨0, 32, .ro, false, []⟩]⟩]

/-- Parameters of block 0x1 (R7), part 1. -/
def paramsTime1 : List ParamSpec := [
  ⟨0x1032, [], 1, [⟨0, 32, .ro, false, []⟩]⟩,
  ⟨0x1033, [], 1, [⟨0, 32, .ro, false, []⟩]⟩,
  ⟨0x1034, [], 1, [⟨0, 64, .ro, false, []⟩]⟩,
  ⟨0x1035, [], 1, [⟨0, 32, .ro, false, []⟩]⟩,
  ⟨0x1036, [], 1, [⟨0, 16, .ro, false, []⟩]⟩,
  ⟨0x1037, [], 1, [⟨0, 32, .ro, false, []⟩]⟩]

/-- Parameters of block 0x2 (R7), part 0. -/
def paramsGnss0 : List ParamSpec := [
  ⟨0x2000, [], 1, [⟨0, 3, .rs, false, []⟩]⟩,
  ⟨0x2001, [], 1, [⟨0, 6, .rs, false, []⟩]⟩,
  ⟨0x2002, [], 1, [⟨0, 14, .rs, false, []⟩]⟩,
  ⟨0x2003, [], 1, [⟨0, 16, .rs, false, [(0, 4500)]⟩]⟩,
  ⟨0x2004, [], 1, [⟨0, 16, .rs, false, [(1500, 4500)]⟩]⟩,
  ⟨0x2005, [], 1, [⟨0, 1, .rs, false, []⟩]⟩,
  ⟨0x2006, [], 1, [⟨0, 2, .rs, false, [(0, 2)]⟩]⟩,
  ⟨0x2007, [], 1, [⟨0, 4, .rs, false, [(1, 12)]⟩]⟩,
  ⟨0x2008, [], 1, [⟨0, 2, .rs, false, [(0, 2)]⟩]⟩,
  ⟨0x2009, [], 1, [⟨0, 16, .rs, false, [(500, 60000)]⟩]⟩,
  ⟨0x2010, [(1, 3)], 1, [⟨0, 16, .rs, false, [(0, 20000)]⟩]⟩,
  ⟨0x2020, [(4, 3), (1, 3)], 1, [⟨0, 32, .rs, true, [((-200000), 200000)]⟩]⟩,
  ⟨0x2030, [(1, 3)], 1, [⟨0, 2, .rs, false, []⟩]⟩,
  ⟨0x2034, [(1, 3)], 1, [⟨0, 1, .rs, false, []⟩]⟩,
  ⟨0x2040, [(1, 3)], 1, [⟨0, 4, .ro, false, []⟩, ⟨8, 8, .ro, false, []⟩]⟩,
  ⟨0x2044, [(1, 3)], 1, [⟨0, 8, .ro, false, []⟩]⟩,
  ⟨0x2048, [(1, 3)], 1, [⟨0, 24, .ro, false, []⟩]⟩,
  ⟨0x204C, [], 1, [⟨0, 3, .ro, false, []⟩]⟩,
  ⟨0x204D, [], 1, [⟨0, 2, .ro, false, []⟩, ⟨16, 16, .ro, false, []⟩]⟩,
  ⟨0x204E, [], 1, [⟨0, 16, .ro, false, []⟩]⟩,
  ⟨0x2050, [(1, 3)], 1, [⟨0, 32, .ro, false, []⟩]⟩,
  ⟨0x2054, [], 1, [⟨0, 3, .ro, false, []⟩]⟩]

/-- Parameters of block 0x3 (R7), part 0. -/
def paramsInputs0 : List ParamSpec := [
  ⟨0x3000, [(1, 16)], 1, [⟨0, 2, .rs, false, []⟩]⟩,
  ⟨0x3010, [(1, 16)], 1, [⟨0, 2, .rs, false, []⟩]⟩,
  ⟨0x3020, [(1, 16)], 1, [⟨0, 2, .rs, false, [(0, 2)]⟩]⟩,
  ⟨0x3030, [(1, 16)], 1, [⟨0, 3, .ro, false, []⟩]⟩,
  ⟨0x3040, [(1, 16)], 1, [⟨0, 32, .ro, false, []⟩]⟩,
  ⟨0x3100, [(1, 4)], 1, [⟨0, 3, .rs, false, [(0, 6)]⟩]⟩,
  ⟨0x3104, [(1, 4)], 1, [⟨0, 2, .rs, false, [(0, 2)]⟩]⟩,
  ⟨0x3108, [(1, 4)], 1, [⟨0, 32, .rs, true, [((-100000), 500000)]⟩]⟩,
  ⟨0x310C, [(1, 4)], 1, [⟨0, 2, .ro, false, []⟩]⟩,
  ⟨0x3110, [(1, 4)], 1, [⟨0, 32, .ro, false, []⟩]⟩,
  ⟨0x3200, [(1, 8)], 1, [⟨0, 5, .rs, false, [(0, 17)]⟩]⟩,
  ⟨0x3208, [(1, 8)], 1, [⟨0, 10, .rs, false, [(1, 1000)]⟩]⟩,
  ⟨0x3210, [(1, 8)], 1, [⟨0, 17, .rs, false, [(0, 100000)]⟩]⟩,
  ⟨0x3218, [(1, 8)], 1, [⟨0, 1, .rs, false, []⟩]⟩,
  ⟨0x3300, [(1, 4)], 1, [⟨0, 2, .rs, false, [(0, 2)]⟩]⟩,
  ⟨0x3310, [(1, 6)], 1, [⟨0, 2, .rs, false, [(0, 2)]⟩, ⟨2, 1, .rs, false, []⟩]⟩,
  ⟨0x3320, [(1, 4)], 1, [⟨0, 32, .rs, false, []⟩]⟩,
  ⟨0x3324, [(1, 4)], 1, [⟨0, 16, .rs, false, [(1024, 65535)]⟩]⟩,
  ⟨0x3330, [], 1, [⟨0, 16, .rs, false, [(1024, 65535)]⟩]⟩,
  ⟨0x3400, [(1, 45)], 1, [⟨0, 4, .rs, false, []⟩, ⟨4, 4, .rs, false, [(0, 5)]⟩, ⟨8, 8, .rs, false, []⟩]⟩,
  ⟨0x3430, [(1, 45)], 1, [⟨0, 2, .rs, false, [(0, 2)]⟩, ⟨4, 3, .rs, false, []⟩]⟩,
  ⟨0x3460, [(1, 45)], 1, [⟨0, 20, .rs, false, [(0, 1000000)]⟩]⟩,
  ⟨0x3490, [(1, 45)], 1, [⟨0, 16, .rs, false, [(20, 60000)]⟩]⟩,
  ⟨0x34C0, [(1, 45)], 1, [⟨0, 3, .ro, false, []⟩]⟩,
  ⟨0x3500, [(1, 45)], 1, [⟨0, 48, .rs, false, []⟩]⟩,
  ⟨0x3530, [(1, 45)], 1, [⟨0, 32, .ro, false, []⟩]⟩,
  ⟨0x35F0, [], 1, [⟨0, 16, .ro, false, []⟩]⟩]

/-- Parameters of block 0x4 (R7), part 0. -/
def paramsCollator0 : List ParamSpec := [
  ⟨0x4000, [], 1, [⟨0, 8, .rs, false, []⟩]⟩,
  ⟨0x4001, [], 1, [⟨0, 16, .rs, false, [(200, 1000)]⟩]⟩,
  ⟨0x4002, [], 1, [⟨0, 7, .rs, false, [(5, 90)]⟩]⟩,
  ⟨0x4003, [], 1, [⟨0, 8, .rs, false, [(2, 250)]⟩]⟩,
  ⟨0x4004, [], 1, [⟨0, 16, .rs, false, [(50, 15000)]⟩]⟩,
  ⟨0x4005, [], 1, [⟨0, 4, .rs, false, [(0, 10)]⟩]⟩,
  ⟨0x4006, [], 1, [⟨0, 11, .rs, false, [(500, 1600)]⟩]⟩,
  ⟨0x4007, [], 1, [⟨0, 1, .rs, false, []⟩]⟩,
  ⟨0x4008, [], 1, [⟨0, 8, .rs, false, [(1, 255)]⟩]⟩,
  ⟨0x4009, [], 1, [⟨0, 8, .rs, false, [(1, 250)]⟩]⟩,
  ⟨0x400A, [], 1, [⟨0, 1, .rs, false, []⟩]⟩,
  ⟨0x400B, [], 1, [⟨0, 16, .rs, false, [(0, 15000)]⟩]⟩,
  ⟨0x400C, [], 1, [⟨0, 16, .rs, false, [(0, 15000)]⟩]⟩,
  ⟨0x400D, [], 1, [⟨0, 10, .rs, false, [(10, 1000)]⟩]⟩,
  ⟨0x400E, [], 1, [⟨0, 16, .rs, false, [(50, 15000)]⟩]⟩,
  ⟨0x400F, [], 1, [⟨0, 1, .rs, false, []⟩]⟩,
  ⟨0x4010, [], 1, [⟨0, 16, .ro, false, []⟩]⟩,
  ⟨0x4011, [], 1, [⟨0, 16, .ro, false, []⟩]⟩,
  ⟨0x4012, [], 1, [⟨0, 16, .ro, false, []⟩]⟩,
  ⟨0x4013, [], 1, [⟨0, 32, .ro, false, []⟩]⟩,
  ⟨0x4014, [], 1, [⟨0, 32, .ro, false, []⟩]⟩,
  ⟨0x4015, [], 1, [⟨0, 32, .ro, false, []⟩]⟩,
  ⟨0x4016, [], 1, [⟨0, 16, .ro, false, []⟩]⟩,
  ⟨0x4017, [], 1, [⟨0, 3, .ro, false, []⟩]⟩,
  ⟨0x4018, [], 1, [⟨0, 14, .ro, false, []⟩]⟩,
  ⟨0x4019, [], 1, [⟨0, 10, .ro, false, []⟩, ⟨10, 1, .ro, false, []⟩, ⟨11, 2, .ro, false, []⟩]⟩,
  ⟨0x401A, [], 1, [⟨0, 3, .ro, false, []⟩]⟩,
  ⟨0x401B, [], 1, [⟨0, 2, .ro, false, []⟩, ⟨2, 1, .ro, false, []⟩]⟩,
  ⟨0x401C, [], 1, [⟨0, 32, .ro, false, []⟩]⟩,
  ⟨0x401D, [], 1, [⟨0, 6, .rs, false, [(0, 45)]⟩]⟩]

/-- Parameters of block 0x4 (R7), part 1. -/
def paramsCollator1 : List ParamSpec := [
  ⟨0x401E, [], 1, [⟨0, 12, .rs, false, [(0, 4000)]⟩]⟩,
  ⟨0x401F, [], 1, [⟨0, 6, .rs, false, [(0, 44), (63, 63)]⟩]⟩,
  ⟨0x4020, [(1, 6)], 1, [⟨0, 6, .rs, false, [(0, 44), (63, 63)]⟩]⟩,
  ⟨0x4026, [(1, 3)], 1, [⟨0, 6, .rs, false, [(0, 44), (63, 63)]⟩]⟩,
  ⟨0x4030, [(1, 3)], 1, [⟨0, 16, .rs, false, [(1, 65535)]⟩]⟩,
  ⟨0x4034, [], 1, [⟨0, 12, .rs, false, [(300, 2500)]⟩]⟩,
  ⟨0x4035, [], 1, [⟨0, 6, .rs, false, [(5, 50)]⟩]⟩,
  ⟨0x4038, [(1, 3)], 1, [⟨0, 16, .rs, false, [(1, 10000)]⟩]⟩,
  ⟨0x4040, [(4, 4), (1, 3)], 1, [⟨0, 32, .rs, true, [((-200000), 200000)]⟩]⟩,
  ⟨0x4050, [(4, 4), (1, 3)], 1, [⟨0, 16, .rs, true, [((-18000), 18000)]⟩]⟩,
  ⟨0x4060, [(1, 45)], 1, [⟨0, 16, .rs, false, [(1, 65535)]⟩]⟩,
  ⟨0x4100, [(4, 45), (1, 3)], 1, [⟨0, 32, .rs, true, [((-200000), 200000)]⟩]⟩,
  ⟨0x4200, [(16, 2), (1, 9)], 1, [⟨0, 16, .rs, false, []⟩]⟩,
  ⟨0x4220, [(16, 2), (1, 5)], 1, [⟨0, 16, .rs, false, []⟩]⟩,
  ⟨0x4300, [(1, 32)], 1, [⟨0, 14, .ro, false, []⟩]⟩,
  ⟨0x4400, [(1, 1024)], 1, [⟨0, 32, .rs, false, []⟩]⟩,
  ⟨0x4800, [(1, 1024)], 1, [⟨0, 16, .rs, false, [(1, 65535)]⟩]⟩,
  ⟨0x4C00, [], 1, [⟨0, 16, .rs, false, [(50, 10000)]⟩]⟩,
  ⟨0x4C01, [], 1, [⟨0, 16, .rs, false, [(10, 2000)]⟩]⟩,
  ⟨0x4C02, [], 1, [⟨0, 8, .rs, false, [(1, 250)]⟩]⟩,
  ⟨0x4C03, [], 1, [⟨0, 10, .rs, false, [(5, 600)]⟩]⟩,
  ⟨0x4C04, [], 1, [⟨0, 10, .rs, false, [(1, 600)]⟩]⟩,
  ⟨0x4C05, [], 1, [⟨0, 8, .rs, false, [(3, 255)]⟩]⟩,
  ⟨0x4C06, [], 1, [⟨0, 7, .rs, false, [(5, 120)]⟩]⟩,
  ⟨0x4C07, [], 1, [⟨0, 10, .rs, false, [(30, 600)]⟩]⟩,
  ⟨0x4C08, [], 1, [⟨0, 15, .rs, false, [(100, 30000)]⟩]⟩,
  ⟨0x4C10, [(1, 12)], 1, [⟨0, 16, .rs, false, [(1, 65535)]⟩]⟩,
  ⟨0x4C20, [(1, 12)], 1, [⟨0, 16, .rs, false, [(1, 65535)]⟩]⟩,
  ⟨0x4C30, [(1, 12)], 1, [⟨0, 16, .rs, false, [(1, 65535)]⟩]⟩,
  ⟨0x4C40, [(1, 6)], 1, [⟨0, 3, .rs, false, []⟩]⟩,
  ⟨0x4C50, [(1, 12)], 1, [⟨0, 4, .ro, false, []⟩]⟩]

/-- Parameters of block 0x4 (R7), part 2. -/
def paramsCollator2 : List ParamSpec := [
  ⟨0x4C60, [(1, 12)], 1, [⟨0, 14, .ro, false, []⟩]⟩,
  ⟨0x4C70, [], 1, [⟨0, 4, .ro, false, []⟩, ⟨4, 4, .ro, false, []⟩, ⟨8, 1, .ro, false, []⟩]⟩,
  ⟨0x4C71, [], 1, [⟨0, 32, .ro, false, []⟩]⟩,
  ⟨0x4C72, [], 1, [⟨0, 4, .ro, false, []⟩, ⟨4, 4, .ro, false, []⟩]⟩]

/-- Parameters of block 0x5 (R7), part 0. -/
def paramsControl0 : List ParamSpec := [
  ⟨0x5000, [], 1, [⟨0, 8, .rs, false, [(72, 128)]⟩]⟩,
  ⟨0x5001, [], 1, [⟨0, 8, .ro, false, []⟩]⟩,
  ⟨0x5002, [], 1, [⟨0, 8, .ro, false, []⟩]⟩,
  ⟨0x5010, [], 1, [⟨0, 1, .rs, false, []⟩]⟩,
  ⟨0x5011, [], 1, [⟨0, 4, .ro, false, []⟩]⟩,
  ⟨0x5012, [], 1, [⟨0, 1, .ro, false, []⟩, ⟨1, 1, .ro, false, []⟩, ⟨2, 1, .ro, false, []⟩, ⟨3, 1, .ro, false, []⟩, ⟨4, 1, .ro, false, []⟩, ⟨5, 1, .ro, false, []⟩, ⟨6, 1, .ro, false, []⟩, ⟨7, 1, .ro, false, []⟩, ⟨8, 1, .ro, false, []⟩]⟩,
  ⟨0x5014, [(1, 3)], 1, [⟨0, 16, .rs, false, []⟩]⟩,
  ⟨0x5018, [(1, 3)], 1, [⟨0, 16, .rs, false, []⟩]⟩,
  ⟨0x501C, [], 1, [⟨0, 16, .rs, false, []⟩]⟩,
  ⟨0x501D, [], 1, [⟨0, 16, .rs, false, []⟩]⟩,
  ⟨0x501E, [], 1, [⟨0, 16, .rs, false, [(1, 65535)]⟩]⟩,
  ⟨0x5020, [], 1, [⟨0, 9, .rs, false, [(1, 300)]⟩]⟩,
  ⟨0x5021, [], 1, [⟨0, 7, .rs, false, [(1, 100)]⟩]⟩,
  ⟨0x5022, [], 1, [⟨0, 10, .rs, false, [(10, 1000)]⟩]⟩,
  ⟨0x5023, [], 1, [⟨0, 9, .rs, false, [(10, 400)]⟩]⟩,
  ⟨0x5024, [], 1, [⟨0, 11, .rs, false, [(100, 1500)]⟩]⟩,
  ⟨0x5025, [], 1, [⟨0, 10, .rs, false, [(100, 1000)]⟩]⟩,
  ⟨0x5026, [], 1, [⟨0, 11, .rs, false, [(100, 2000)]⟩]⟩,
  ⟨0x5027, [], 1, [⟨0, 6, .rs, false, [(0, 50)]⟩]⟩,
  ⟨0x5028, [], 1, [⟨0, 7, .rs, false, [(1, 100)]⟩]⟩,
  ⟨0x5030, [(1, 3)], 1, [⟨0, 16, .rs, false, []⟩]⟩,
  ⟨0x5034, [(1, 3)], 1, [⟨0, 16, .rs, false, []⟩]⟩,
  ⟨0x5040, [], 1, [⟨0, 20, .rs, false, [(0, 0), (100, 1000000)]⟩]⟩,
  ⟨0x5041, [(1, 3)], 1, [⟨0, 20, .rs, false, [(0, 1000000)]⟩]⟩,
  ⟨0x5044, [], 1, [⟨0, 20, .rs, false, [(0, 0), (1, 1000000)]⟩]⟩,
  ⟨0x5045, [(1, 3)], 1, [⟨0, 20, .rs, false, [(0, 1000000)]⟩]⟩,
  ⟨0x5048, [(1, 3)], 1, [⟨0, 20, .rs, false, [(0, 1000000)]⟩]⟩,
  ⟨0x504C, [], 1, [⟨0, 12, .rs, false, [(200, 4000)]⟩]⟩,
  ⟨0x504D, [], 1, [⟨0, 12, .rs, false, [(200, 4000)]⟩]⟩,
  ⟨0x504E, [], 1, [⟨0, 7, .rs, false, [(1, 100)]⟩]⟩]

/-- Parameters of block 0x5 (R7), part 1. -/
def paramsControl1 : List ParamSpec := [
  ⟨0x504F, [], 1, [⟨0, 7, .rs, false, [(1, 100)]⟩]⟩,
  ⟨0x5050, [], 1, [⟨0, 16, .rs, false, []⟩]⟩,
  ⟨0x5051, [], 1, [⟨0, 16, .rs, false, []⟩]⟩,
  ⟨0x5052, [], 1, [⟨0, 10, .rs, false, [(0, 1000)]⟩]⟩,
  ⟨0x5060, [(1, 6)], 1, [⟨0, 16, .rs, false, [(0, 20000)]⟩]⟩,
  ⟨0x5068, [(1, 6)], 1, [⟨0, 16, .rs, false, []⟩]⟩,
  ⟨0x5070, [(1, 6)], 1, [⟨0, 16, .ro, false, []⟩]⟩,
  ⟨0x5080, [], 1, [⟨0, 32, .ro, false, []⟩]⟩,
  ⟨0x5082, [], 1, [⟨0, 64, .ro, false, []⟩]⟩,
  ⟨0x5084, [], 1, [⟨0, 14, .ro, false, []⟩]⟩,
  ⟨0x5085, [], 1, [⟨0, 7, .ro, false, []⟩]⟩,
  ⟨0x5086, [], 1, [⟨0, 5, .ro, false, []⟩]⟩,
  ⟨0x5087, [], 1, [⟨0, 6, .ro, false, []⟩]⟩,
  ⟨0x5090, [], 1, [⟨0, 64, .ro, false, []⟩]⟩,
  ⟨0x5091, [], 1, [⟨0, 64, .ro, false, []⟩]⟩,
  ⟨0x5092, [], 1, [⟨0, 16, .ro, false, []⟩]⟩,
  ⟨0x5100, [], 1, [⟨0, 6, .rs, false, [(20, 52)]⟩]⟩,
  ⟨0x5101, [], 1, [⟨0, 6, .rs, false, [(10, 52)]⟩]⟩,
  ⟨0x5102, [], 1, [⟨0, 6, .rs, false, [(10, 52)]⟩]⟩,
  ⟨0x5103, [], 1, [⟨0, 3, .rs, false, [(0, 4)]⟩]⟩,
  ⟨0x5104, [], 1, [⟨0, 6, .rs, false, [(1, 50)]⟩]⟩,
  ⟨0x5105, [], 1, [⟨0, 4, .rs, false, [(3, 10)]⟩]⟩,
  ⟨0x5106, [], 1, [⟨0, 4, .rs, false, [(2, 9)]⟩]⟩,
  ⟨0x5107, [], 1, [⟨0, 4, .rs, false, []⟩]⟩,
  ⟨0x5108, [], 1, [⟨0, 8, .rs, false, [(1, 250)]⟩]⟩,
  ⟨0x5109, [], 1, [⟨0, 32, .ro, false, []⟩]⟩,
  ⟨0x5110, [], 1, [⟨0, 16, .ro, false, []⟩]⟩,
  ⟨0x5111, [], 1, [⟨0, 6, .ro, false, []⟩, ⟨6, 5, .ro, false, []⟩]⟩,
  ⟨0x5112, [], 1, [⟨0, 14, .ro, false, []⟩]⟩,
  ⟨0x5114, [(1, 4)], 1, [⟨0, 14, .ro, false, []⟩]⟩]

/-- Parameters of block 0x5 (R7), part 2. -/
def paramsControl2 : List ParamSpec := [
  ⟨0x5118, [], 1, [⟨0, 1, .w1c, false, []⟩, ⟨1, 1, .w1c, false, []⟩]⟩,
  ⟨0x5119, [], 1, [⟨0, 3, .ro, false, []⟩]⟩,
  ⟨0x511A, [], 1, [⟨0, 16, .ro, false, []⟩]⟩,
  ⟨0x5120, [(32, 4), (1, 21)], 1, [⟨0, 32, .ro, false, []⟩]⟩,
  ⟨0x5200, [(1, 4)], 1, [⟨0, 2, .ro, false, []⟩, ⟨2, 2, .ro, false, []⟩]⟩,
  ⟨0x5204, [(1, 4)], 1, [⟨0, 32, .ro, false, []⟩]⟩,
  ⟨0x5210, [], 1, [⟨0, 32, .ro, false, []⟩]⟩,
  ⟨0x5211, [], 1, [⟨0, 32, .ro, false, []⟩]⟩,
  ⟨0x5212, [], 1, [⟨0, 32, .ro, false, []⟩]⟩,
  ⟨0x5213, [], 1, [⟨0, 32, .ro, false, []⟩]⟩,
  ⟨0x5214, [], 1, [⟨0, 32, .ro, false, []⟩]⟩,
  ⟨0x5215, [], 1, [⟨0, 32, .ro, false, []⟩]⟩,
  ⟨0x5216, [], 1, [⟨0, 32, .ro, false, []⟩]⟩,
  ⟨0x5217, [], 1, [⟨0, 32, .ro, false, []⟩]⟩,
  ⟨0x5300, [(1, 32)], 1, [⟨0, 3, .rs, false, [(0, 4)]⟩]⟩,
  ⟨0x5320, [(1, 32)], 1, [⟨0, 3, .rs, false, [(0, 5)]⟩]⟩,
  ⟨0x5340, [(4, 32), (1, 3)], 1, [⟨0, 32, .rs, true, [((-200000), 200000)]⟩]⟩,
  ⟨0x53C0, [(1, 32)], 1, [⟨0, 16, .rs, false, []⟩]⟩,
  ⟨0x53E0, [(1, 32)], 1, [⟨0, 16, .rs, false, []⟩]⟩,
  ⟨0x5400, [(1, 32)], 1, [⟨0, 16, .rs, false, [(100, 6000)]⟩]⟩,
  ⟨0x5420, [(1, 32)], 1, [⟨0, 16, .rs, false, [(1, 65535)]⟩]⟩,
  ⟨0x5440, [(1, 32)], 1, [⟨0, 1, .rs, false, []⟩]⟩,
  ⟨0x5460, [(1, 32)], 1, [⟨0, 16, .rs, false, []⟩]⟩,
  ⟨0x5480, [(1, 32)], 1, [⟨0, 16, .rs, false, []⟩]⟩,
  ⟨0x54A0, [(1, 32)], 1, [⟨0, 16, .rs, false, [(1, 65535)]⟩]⟩,
  ⟨0x54C0, [(1, 32)], 1, [⟨0, 13, .rs, false, [(0, 4500)]⟩]⟩,
  ⟨0x54E0, [(1, 32)], 1, [⟨0, 16, .rs, false, []⟩]⟩,
  ⟨0x5500, [(2, 32), (1, 2)], 1, [⟨0, 16, .rs, false, [(0, 35999)]⟩]⟩,
  ⟨0x5540, [(2, 32), (1, 2)], 1, [⟨0, 16, .rs, false, [(0, 0), (500, 17000)]⟩]⟩,
  ⟨0x5580, [(1, 32)], 1, [⟨0, 16, .rs, false, []⟩]⟩]

/-- Parameters of block 0x5 (R7), part 3. -/
def paramsControl3 : List ParamSpec := [
  ⟨0x5700, [(64, 3), (1, 36)], 1, [⟨0, 16, .rs, true, [((-32768), 32767)]⟩]⟩,
  ⟨0x5800, [(32, 32), (2, 16), (1, 2)], 1, [⟨0, 32, .rs, false, []⟩]⟩]

/-- Parameters of block 0x6 (R7), part 0. -/
def paramsLoops0 : List ParamSpec := [
  ⟨0x6000, [(1, 32)], 1, [⟨0, 1, .rs, false, []⟩, ⟨1, 3, .rs, false, []⟩, ⟨4, 3, .rs, false, []⟩]⟩,
  ⟨0x6020, [(1, 32)], 1, [⟨0, 29, .rs, false, []⟩, ⟨29, 1, .rs, false, []⟩]⟩,
  ⟨0x6080, [], 1, [⟨0, 8, .rs, false, [(1, 255)]⟩]⟩,
  ⟨0x6081, [], 1, [⟨0, 13, .rs, false, [(8, 8000)]⟩]⟩,
  ⟨0x6082, [], 1, [⟨0, 3, .rs, false, [(1, 7)]⟩]⟩,
  ⟨0x6090, [(1, 16)], 1, [⟨0, 2, .rs, false, [(0, 2)]⟩]⟩,
  ⟨0x60A0, [(1, 16)], 1, [⟨0, 7, .rs, false, []⟩, ⟨7, 1, .rs, false, []⟩]⟩,
  ⟨0x60B0, [(1, 16)], 1, [⟨0, 32, .rs, false, []⟩]⟩,
  ⟨0x60C0, [(1, 16)], 1, [⟨0, 32, .rs, false, []⟩]⟩,
  ⟨0x60D0, [(1, 16)], 1, [⟨0, 16, .rs, true, [((-10000), 21000)]⟩]⟩,
  ⟨0x6200, [], 4096, [⟨0, 32, .rs, false, []⟩]⟩,
  ⟨0x6201, [], 1, [⟨0, 32, .ro, false, []⟩]⟩,
  ⟨0x6300, [(1, 128)], 1, [⟨0, 2, .ro, false, []⟩, ⟨2, 1, .ro, false, []⟩, ⟨3, 1, .ro, false, []⟩, ⟨4, 1, .ro, false, []⟩, ⟨5, 1, .ro, false, []⟩, ⟨6, 1, .ro, false, []⟩]⟩,
  ⟨0x6400, [(1, 128)], 1, [⟨0, 32, .ro, false, []⟩]⟩,
  ⟨0x6480, [(1, 128)], 1, [⟨0, 8, .ro, false, []⟩]⟩,
  ⟨0x6500, [], 1, [⟨0, 1, .ro, false, []⟩, ⟨1, 1, .ro, false, []⟩, ⟨2, 1, .ro, false, []⟩, ⟨3, 1, .ro, false, []⟩]⟩,
  ⟨0x6501, [], 1, [⟨0, 32, .ro, false, []⟩]⟩,
  ⟨0x6502, [], 1, [⟨0, 17, .ro, false, []⟩]⟩,
  ⟨0x6503, [], 1, [⟨0, 32, .ro, false, []⟩]⟩,
  ⟨0x6504, [], 1, [⟨0, 32, .ro, false, []⟩]⟩,
  ⟨0x6505, [], 1, [⟨0, 32, .ro, false, []⟩]⟩]

/-- Parameters of block 0x7 (R7), part 0. -/
def paramsLogic0 : List ParamSpec := [
  ⟨0x7000, [], 1, [⟨0, 3, .rs, false, [(0, 5)]⟩]⟩,
  ⟨0x7001, [], 1, [⟨0, 12, .rs, false, [(200, 4000)]⟩]⟩,
  ⟨0x7002, [], 1, [⟨0, 13, .rs, false, [(500, 8000)]⟩]⟩,
  ⟨0x7003, [], 1, [⟨0, 2, .rs, false, [(0, 2)]⟩]⟩,
  ⟨0x7010, [], 1, [⟨0, 2, .ro, false, []⟩, ⟨2, 3, .ro, false, []⟩, ⟨5, 1, .ro, false, []⟩, ⟨6, 1, .ro, false, []⟩]⟩,
  ⟨0x7011, [], 1, [⟨0, 64, .ro, false, []⟩]⟩,
  ⟨0x7012, [], 1, [⟨0, 18, .ro, false, []⟩]⟩,
  ⟨0x7013, [], 1, [⟨0, 18, .ro, false, []⟩]⟩,
  ⟨0x7014, [], 1, [⟨0, 32, .ro, false, []⟩]⟩,
  ⟨0x7015, [], 1, [⟨0, 32, .ro, false, []⟩]⟩,
  ⟨0x7016, [], 1, [⟨0, 32, .ro, false, []⟩]⟩,
  ⟨0x7017, [], 1, [⟨0, 9, .ro, false, []⟩]⟩,
  ⟨0x7018, [], 1, [⟨0, 23, .ro, false, []⟩]⟩,
  ⟨0x7019, [], 1, [⟨0, 21, .ro, false, []⟩]⟩,
  ⟨0x701A, [], 1, [⟨0, 17, .ro, false, []⟩]⟩,
  ⟨0x7100, [(1, 64)], 1, [⟨0, 1, .rs, false, []⟩, ⟨1, 3, .rs, false, []⟩, ⟨4, 6, .rs, false, []⟩]⟩,
  ⟨0x7140, [(1, 64)], 1, [⟨0, 14, .rs, false, []⟩, ⟨16, 7, .rs, false, [(0, 64)]⟩]⟩,
  ⟨0x7180, [(1, 64)], 1, [⟨0, 14, .rs, false, []⟩, ⟨16, 7, .rs, false, [(0, 64)]⟩]⟩,
  ⟨0x71C0, [(1, 64)], 1, [⟨0, 32, .ro, false, []⟩]⟩,
  ⟨0x7200, [(1, 64)], 1, [⟨0, 32, .ro, false, []⟩]⟩,
  ⟨0x7240, [(1, 64)], 1, [⟨0, 32, .ro, false, []⟩]⟩]

/-- Parameters of block 0x8 (R7), part 0. -/
def paramsCan0 : List ParamSpec := [
  ⟨0x8000, [(1, 8)], 1, [⟨0, 2, .rs, false, [(0, 2)]⟩, ⟨2, 1, .rs, false, []⟩]⟩,
  ⟨0x8008, [(1, 8)], 1, [⟨0, 6, .rs, false, [(1, 32)]⟩, ⟨6, 9, .rs, false, [(2, 256)]⟩, ⟨15, 8, .rs, false, [(2, 128)]⟩, ⟨23, 8, .rs, false, [(1, 128)]⟩]⟩,
  ⟨0x8010, [(1, 8)], 1, [⟨0, 6, .rs, false, [(1, 32)]⟩, ⟨6, 6, .rs, false, [(1, 32)]⟩, ⟨12, 5, .rs, false, [(1, 16)]⟩, ⟨17, 5, .rs, false, [(1, 16)]⟩, ⟨22, 1, .rs, false, []⟩, ⟨23, 7, .rs, false, []⟩]⟩,
  ⟨0x8018, [(1, 8)], 1, [⟨0, 11, .rs, false, []⟩]⟩,
  ⟨0x8020, [(1, 8)], 1, [⟨0, 11, .rs, false, []⟩]⟩,
  ⟨0x8028, [(1, 8)], 1, [⟨0, 2, .ro, false, []⟩, ⟨8, 8, .ro, false, []⟩, ⟨16, 8, .ro, false, []⟩]⟩,
  ⟨0x8030, [(1, 8)], 1, [⟨0, 32, .ro, false, []⟩]⟩,
  ⟨0x8038, [(1, 8)], 1, [⟨0, 32, .ro, false, []⟩]⟩,
  ⟨0x8040, [(1, 8)], 1, [⟨0, 32, .ro, false, []⟩]⟩,
  ⟨0x8048, [(1, 8)], 1, [⟨0, 32, .ro, false, []⟩]⟩,
  ⟨0x8050, [(1, 8)], 1, [⟨0, 32, .ro, false, []⟩]⟩,
  ⟨0x8058, [(1, 8)], 1, [⟨0, 10, .ro, false, []⟩]⟩,
  ⟨0x8060, [], 1, [⟨0, 32, .ro, false, []⟩]⟩,
  ⟨0x8100, [], 12288, []⟩,
  ⟨0x8101, [], 192, []⟩,
  ⟨0x8102, [], 1, [⟨0, 32, .ro, false, []⟩]⟩]

/-- Parameters of block 0x9 (R7), part 0. -/
def paramsSpine0 : List ParamSpec := [
  ⟨0x9000, [], 1, [⟨0, 2, .rs, false, [(0, 2)]⟩]⟩,
  ⟨0x9001, [], 1, [⟨0, 32, .rs, false, []⟩]⟩,
  ⟨0x9002, [], 1, [⟨0, 32, .rs, false, []⟩]⟩,
  ⟨0x9003, [], 1, [⟨0, 32, .rs, false, []⟩]⟩,
  ⟨0x9004, [], 1, [⟨0, 16, .rs, false, [(1024, 65535)]⟩]⟩,
  ⟨0x9005, [], 1, [⟨0, 32, .rs, false, []⟩]⟩,
  ⟨0x9006, [], 1, [⟨0, 16, .rs, false, [(1024, 65535)]⟩]⟩,
  ⟨0x9007, [], 1, [⟨0, 2, .rs, false, []⟩]⟩,
  ⟨0x9008, [], 1, [⟨0, 10, .rs, false, [(40, 1000)]⟩]⟩,
  ⟨0x9009, [], 1, [⟨0, 16, .rs, false, [(100, 65535)]⟩]⟩,
  ⟨0x900A, [], 1, [⟨0, 10, .rs, false, [(10, 1000)]⟩]⟩,
  ⟨0x9010, [(1, 4)], 1, [⟨0, 32, .rs, false, []⟩]⟩,
  ⟨0x9014, [(1, 4)], 1, [⟨0, 2, .rs, false, []⟩, ⟨2, 1, .rs, false, []⟩, ⟨3, 1, .rs, false, []⟩]⟩,
  ⟨0x9018, [(1, 3)], 1, [⟨0, 64, .rs, false, []⟩]⟩,
  ⟨0x9020, [(1, 9)], 1, [⟨0, 1, .rs, false, []⟩, ⟨1, 3, .rs, false, []⟩, ⟨4, 4, .rs, false, []⟩]⟩,
  ⟨0x9030, [(1, 9)], 1, [⟨0, 16, .rs, false, []⟩]⟩,
  ⟨0x9040, [(1, 16)], 1, [⟨0, 12, .rs, false, [(0, 4094)]⟩]⟩,
  ⟨0x9050, [(1, 9)], 1, [⟨0, 2, .ro, false, []⟩]⟩,
  ⟨0x9060, [], 1, [⟨0, 4, .ro, false, []⟩]⟩,
  ⟨0x9064, [(1, 4)], 1, [⟨0, 32, .ro, false, []⟩]⟩,
  ⟨0x9070, [], 1, [⟨0, 32, .ro, false, []⟩]⟩,
  ⟨0x9071, [], 1, [⟨0, 32, .ro, false, []⟩]⟩,
  ⟨0x9072, [], 1, [⟨0, 32, .ro, false, []⟩]⟩,
  ⟨0x9073, [], 1, [⟨0, 32, .ro, false, []⟩]⟩,
  ⟨0x9078, [(1, 3)], 1, [⟨0, 2, .ro, false, []⟩, ⟨2, 1, .ro, false, []⟩, ⟨3, 1, .ro, false, []⟩]⟩,
  ⟨0x9100, [(8, 9), (1, 8)], 1, [⟨0, 32, .ro, false, []⟩]⟩]

/-- Parameters of block 0xA (R7), part 0. -/
def paramsLanes0 : List ParamSpec := [
  ⟨0xA000, [], 1, [⟨0, 6, .ro, false, []⟩]⟩,
  ⟨0xA001, [(1, 3)], 1, [⟨0, 3, .ro, false, []⟩]⟩,
  ⟨0xA004, [], 1, [⟨0, 8, .rs, false, [(0, 0), (1, 168)]⟩]⟩,
  ⟨0xA005, [], 1, [⟨0, 17, .rs, false, [(0, 86399)]⟩]⟩,
  ⟨0xA006, [], 1, [⟨0, 3, .rs, false, [(1, 7)]⟩]⟩,
  ⟨0xA007, [], 1, [⟨0, 10, .rs, false, [(1, 720)]⟩]⟩,
  ⟨0xA008, [], 1, [⟨0, 12, .rs, false, [(60, 3600)]⟩]⟩,
  ⟨0xA009, [], 1, [⟨0, 1, .ro, false, []⟩, ⟨1, 1, .ro, false, []⟩, ⟨2, 1, .ro, false, []⟩, ⟨3, 1, .ro, false, []⟩, ⟨4, 1, .ro, false, []⟩, ⟨5, 1, .ro, false, []⟩]⟩,
  ⟨0xA00A, [], 1, [⟨0, 64, .ro, false, []⟩]⟩,
  ⟨0xA00B, [], 1, [⟨0, 32, .ro, false, []⟩]⟩,
  ⟨0xA00C, [], 1, [⟨0, 16, .ro, false, []⟩]⟩,
  ⟨0xA00D, [], 1, [⟨0, 23, .ro, false, []⟩]⟩,
  ⟨0xA00E, [], 1, [⟨0, 32, .ro, false, []⟩]⟩,
  ⟨0xA00F, [], 1, [⟨0, 32, .ro, false, []⟩]⟩,
  ⟨0xA010, [], 1, [⟨0, 10, .ro, false, []⟩]⟩,
  ⟨0xA011, [], 1, [⟨0, 32, .ro, false, []⟩]⟩,
  ⟨0xA012, [], 1, [⟨0, 48, .ro, false, []⟩]⟩,
  ⟨0xA020, [(16, 3), (1, 16)], 1, [⟨0, 32, .ro, false, []⟩]⟩]

/-- Parameters of block 0xB (R7), part 0. -/
def paramsSafety0 : List ParamSpec := [
  ⟨0xB000, [(1, 8)], 1, [⟨0, 3, .rs, false, [(0, 4)]⟩, ⟨3, 1, .rs, false, []⟩, ⟨8, 8, .rs, false, []⟩]⟩,
  ⟨0xB008, [(1, 8)], 1, [⟨0, 5, .rs, false, [(1, 20)]⟩]⟩,
  ⟨0xB010, [(1, 8)], 1, [⟨0, 10, .rs, false, [(10, 1000)]⟩]⟩,
  ⟨0xB018, [(1, 8)], 1, [⟨0, 3, .rs, false, []⟩, ⟨3, 1, .rs, false, []⟩]⟩,
  ⟨0xB020, [], 1, [⟨0, 10, .rs, false, [(200, 800)]⟩]⟩,
  ⟨0xB021, [], 1, [⟨0, 6, .rs, false, [(2, 60)]⟩]⟩,
  ⟨0xB028, [(1, 8)], 1, [⟨0, 2, .rs, false, [(0, 2)]⟩, ⟨2, 1, .rs, false, []⟩, ⟨3, 1, .rs, false, []⟩]⟩,
  ⟨0xB030, [(1, 8)], 1, [⟨0, 16, .rs, false, []⟩]⟩,
  ⟨0xB038, [(1, 8)], 1, [⟨0, 16, .rs, false, [(0, 35999)]⟩]⟩,
  ⟨0xB040, [(1, 8)], 1, [⟨0, 32, .rs, false, []⟩]⟩,
  ⟨0xB048, [(1, 8)], 1, [⟨0, 3, .rs, false, []⟩, ⟨3, 1, .rs, false, []⟩, ⟨4, 3, .rs, false, []⟩, ⟨7, 1, .rs, false, []⟩]⟩,
  ⟨0xB050, [(1, 8)], 1, [⟨0, 14, .rs, false, [(0, 10000)]⟩]⟩,
  ⟨0xB058, [(1, 8)], 1, [⟨0, 2, .rs, false, [(0, 2)]⟩]⟩,
  ⟨0xB060, [(1, 8)], 1, [⟨0, 10, .rs, false, [(1, 1000)]⟩]⟩,
  ⟨0xB068, [(2, 8), (1, 2)], 1, [⟨0, 16, .rs, false, [(0, 35999)]⟩]⟩,
  ⟨0xB078, [(2, 8), (1, 2)], 1, [⟨0, 16, .rs, false, [(0, 0), (100, 35900)]⟩]⟩,
  ⟨0xB100, [], 1, [⟨0, 1, .ro, false, []⟩, ⟨1, 1, .ro, false, []⟩, ⟨2, 1, .ro, false, []⟩]⟩,
  ⟨0xB101, [], 1, [⟨0, 32, .ro, false, []⟩]⟩,
  ⟨0xB102, [], 1, [⟨0, 32, .ro, false, []⟩]⟩,
  ⟨0xB103, [], 1, [⟨0, 32, .ro, false, []⟩]⟩,
  ⟨0xB104, [], 1, [⟨0, 32, .ro, false, []⟩]⟩,
  ⟨0xB105, [], 1, [⟨0, 32, .ro, false, []⟩]⟩,
  ⟨0xB106, [], 1, [⟨0, 32, .ro, false, []⟩]⟩,
  ⟨0xB107, [], 1, [⟨0, 32, .ro, false, []⟩]⟩,
  ⟨0xB110, [(1, 8)], 1, [⟨0, 2, .ro, false, []⟩]⟩,
  ⟨0xB118, [(1, 8)], 1, [⟨0, 1, .ro, false, []⟩, ⟨1, 1, .ro, false, []⟩, ⟨2, 2, .ro, false, []⟩]⟩,
  ⟨0xB120, [(1, 8)], 1, [⟨0, 32, .ro, false, []⟩]⟩,
  ⟨0xB128, [(1, 8)], 1, [⟨0, 16, .ro, false, []⟩, ⟨16, 1, .ro, false, []⟩, ⟨17, 1, .ro, false, []⟩]⟩,
  ⟨0xB130, [(1, 8)], 1, [⟨0, 2, .ro, false, []⟩, ⟨2, 5, .ro, false, []⟩, ⟨7, 1, .ro, false, []⟩]⟩,
  ⟨0xB138, [(1, 8)], 1, [⟨0, 32, .ro, false, []⟩]⟩]

/-- Parameters of block 0xC (R7), part 0. -/
def paramsFaults0 : List ParamSpec := [
  ⟨0xC000, [], 1, [⟨0, 1, .ro, false, []⟩, ⟨1, 1, .ro, false, []⟩, ⟨2, 1, .ro, false, []⟩]⟩,
  ⟨0xC001, [(1, 3)], 1, [⟨0, 4, .ro, false, []⟩]⟩,
  ⟨0xC008, [], 1, [⟨0, 16, .rs, false, [(1, 65535)]⟩]⟩,
  ⟨0xC009, [], 1, [⟨0, 7, .rs, false, [(0, 0), (2, 100)]⟩]⟩,
  ⟨0xC00A, [], 1, [⟨0, 12, .rs, false, [(1, 3600)]⟩]⟩,
  ⟨0xC00B, [], 1, [⟨0, 1, .rs, false, []⟩]⟩,
  ⟨0xC010, [(1, 16)], 1, [⟨0, 32, .ro, false, []⟩]⟩,
  ⟨0xC020, [(1, 16)], 1, [⟨0, 32, .ro, false, []⟩]⟩,
  ⟨0xC030, [], 1, [⟨0, 32, .ro, false, []⟩]⟩,
  ⟨0xC031, [], 1, [⟨0, 32, .ro, false, []⟩]⟩,
  ⟨0xC040, [(1, 256)], 1, [⟨0, 2, .rs, false, []⟩]⟩,
  ⟨0xC140, [(1, 256)], 1, [⟨0, 32, .ro, false, []⟩]⟩]

/-- Parameters of block 0xD (R7), part 0. -/
def paramsPower0 : List ParamSpec := [
  ⟨0xD000, [], 1, [⟨0, 2, .ro, false, []⟩, ⟨2, 4, .ro, false, []⟩]⟩,
  ⟨0xD001, [], 1, [⟨0, 3, .ro, false, []⟩, ⟨3, 3, .ro, false, []⟩, ⟨6, 1, .ro, false, []⟩, ⟨8, 2, .ro, false, []⟩]⟩,
  ⟨0xD002, [], 1, [⟨0, 10, .ro, false, []⟩]⟩,
  ⟨0xD003, [], 1, [⟨0, 14, .ro, false, []⟩]⟩,
  ⟨0xD004, [], 1, [⟨0, 13, .ro, false, []⟩]⟩,
  ⟨0xD005, [], 1, [⟨0, 13, .ro, false, []⟩]⟩,
  ⟨0xD006, [], 1, [⟨0, 16, .ro, false, []⟩]⟩,
  ⟨0xD007, [], 1, [⟨0, 16, .ro, false, []⟩]⟩,
  ⟨0xD008, [], 1, [⟨0, 1, .ro, false, []⟩, ⟨1, 2, .ro, false, []⟩]⟩,
  ⟨0xD009, [], 1, [⟨0, 32, .ro, false, []⟩]⟩,
  ⟨0xD00A, [], 1, [⟨0, 32, .ro, false, []⟩]⟩,
  ⟨0xD010, [], 1, [⟨0, 1, .rs, false, []⟩]⟩,
  ⟨0xD011, [], 1, [⟨0, 7, .rs, false, [(0, 100)]⟩]⟩,
  ⟨0xD012, [], 1, [⟨0, 7, .rs, false, [(30, 100)]⟩]⟩,
  ⟨0xD013, [], 1, [⟨0, 2, .rs, false, []⟩]⟩,
  ⟨0xD014, [], 1, [⟨0, 10, .rs, false, [(1, 600)]⟩]⟩,
  ⟨0xD018, [(1, 3)], 1, [⟨0, 16, .rs, false, [(4000, 8500)]⟩]⟩,
  ⟨0xD01C, [(1, 3)], 1, [⟨0, 16, .rs, false, [(6000, 12500)]⟩]⟩,
  ⟨0xD020, [], 1, [⟨0, 10, .rs, false, [(100, 1000)]⟩]⟩,
  ⟨0xD021, [], 1, [⟨0, 11, .rs, false, [(100, 2000)]⟩]⟩,
  ⟨0xD030, [(1, 12)], 1, [⟨0, 12, .ro, false, []⟩]⟩,
  ⟨0xD040, [(1, 12)], 1, [⟨0, 2, .ro, false, []⟩]⟩,
  ⟨0xD050, [(1, 4)], 1, [⟨0, 32, .ro, false, []⟩]⟩]

/-- Parameters of block 0xE (R7), part 0. -/
def paramsLifetime0 : List ParamSpec := [
  ⟨0xE000, [], 1, [⟨0, 48, .ro, false, []⟩]⟩,
  ⟨0xE001, [], 1, [⟨0, 48, .ro, false, []⟩]⟩,
  ⟨0xE002, [], 1, [⟨0, 48, .ro, false, []⟩]⟩,
  ⟨0xE003, [], 1, [⟨0, 48, .ro, false, []⟩]⟩,
  ⟨0xE004, [], 1, [⟨0, 48, .ro, false, []⟩]⟩,
  ⟨0xE008, [(1, 4)], 1, [⟨0, 48, .ro, false, []⟩]⟩,
  ⟨0xE010, [(1, 3)], 1, [⟨0, 48, .ro, false, []⟩]⟩,
  ⟨0xE014, [(1, 3)], 1, [⟨0, 48, .ro, false, []⟩]⟩,
  ⟨0xE018, [(1, 3)], 1, [⟨0, 48, .ro, false, []⟩]⟩,
  ⟨0xE020, [], 1, [⟨0, 48, .ro, false, []⟩]⟩,
  ⟨0xE021, [], 1, [⟨0, 32, .ro, false, []⟩]⟩,
  ⟨0xE022, [], 1, [⟨0, 16, .ro, false, []⟩]⟩,
  ⟨0xE028, [], 1, [⟨0, 1, .ro, false, []⟩]⟩,
  ⟨0xE029, [], 1, [⟨0, 12, .rs, false, [(10, 3600)]⟩]⟩,
  ⟨0xE030, [], 1, [⟨0, 1, .ro, false, []⟩, ⟨1, 1, .ro, false, []⟩, ⟨2, 1, .ro, false, []⟩]⟩,
  ⟨0xE031, [], 1, [⟨0, 16, .ro, false, []⟩]⟩,
  ⟨0xE032, [], 1, [⟨0, 48, .ro, false, []⟩]⟩,
  ⟨0xE040, [], 1, [⟨0, 48, .rs, false, []⟩]⟩,
  ⟨0xE041, [], 1, [⟨0, 8, .rs, false, []⟩]⟩,
  ⟨0xE042, [], 1, [⟨0, 30, .ro, false, []⟩]⟩,
  ⟨0xE043, [], 1, [⟨0, 32, .ro, false, []⟩]⟩,
  ⟨0xE044, [], 1, [⟨0, 48, .ro, false, []⟩]⟩,
  ⟨0xE048, [(1, 32)], 1, [⟨0, 48, .ro, false, []⟩]⟩,
  ⟨0xE068, [(1, 32)], 1, [⟨0, 48, .ro, false, []⟩]⟩]

/-- The whole parameter table, in ascending ID. -/
def paramTable : List ParamSpec :=
  paramsDevice0 ++
  paramsTime0 ++
  paramsTime1 ++
  paramsGnss0 ++
  paramsInputs0 ++
  paramsCollator0 ++
  paramsCollator1 ++
  paramsCollator2 ++
  paramsControl0 ++
  paramsControl1 ++
  paramsControl2 ++
  paramsControl3 ++
  paramsLoops0 ++
  paramsLogic0 ++
  paramsCan0 ++
  paramsSpine0 ++
  paramsLanes0 ++
  paramsSafety0 ++
  paramsFaults0 ++
  paramsPower0 ++
  paramsLifetime0

/-- Reset values of block 0x0 that are not zero. -/
def resetsDevice : List ResetRow := [
  ⟨0x0000, 1, 0, 18482⟩, ⟨0x0001, 1, 0, 65⟩, ⟨0x0002, 1, 0, 67239936⟩, ⟨0x001B, 1, 0, 30⟩, ⟨0x0020, 1, 0, 200⟩,
  ⟨0x0033, 1, 0, 500⟩, ⟨0x0034, 1, 0, 1⟩]

/-- Reset values of block 0x1 that are not zero. -/
def resetsTime : List ResetRow := [
  ⟨0x1005, 1, 0, 1⟩, ⟨0x1012, 1, 0, 1⟩, ⟨0x1014, 1, 0, 1⟩, ⟨0x1015, 1, 0, 1000⟩, ⟨0x1016, 1, 0, 7⟩,
  ⟨0x1017, 1, 0, 1000⟩, ⟨0x1018, 1, 0, 60⟩, ⟨0x1019, 1, 0, 60⟩, ⟨0x101A, 1, 0, 200⟩, ⟨0x101B, 1, 0, 120⟩,
  ⟨0x101C, 1, 0, 100⟩, ⟨0x101D, 1, 0, 1000⟩, ⟨0x101E, 1, 0, 100⟩, ⟨0x1023, 1, 0, 128⟩, ⟨0x1024, 1, 0, 128⟩,
  ⟨0x1031, 1, 0, 4294967295⟩]

/-- Reset values of block 0x2 that are not zero. -/
def resetsGnss : List ResetRow := [
  ⟨0x2000, 1, 0, 7⟩, ⟨0x2001, 1, 0, 63⟩, ⟨0x2002, 1, 0, 16383⟩, ⟨0x2003, 1, 0, 1000⟩, ⟨0x2004, 1, 0, 2500⟩,
  ⟨0x2005, 1, 0, 1⟩, ⟨0x2007, 1, 0, 4⟩, ⟨0x2009, 1, 0, 3000⟩, ⟨0x2034, 3, 0, 1⟩, ⟨0x204E, 1, 0, 65535⟩]

/-- Reset values of block 0x3 that are not zero. -/
def resetsInputs : List ResetRow := [
  ⟨0x3010, 16, 0, 1⟩, ⟨0x3104, 4, 0, 1⟩, ⟨0x3208, 8, 0, 10⟩, ⟨0x3330, 1, 0, 50400⟩, ⟨0x3490, 45, 0, 1000⟩]

/-- Reset values of block 0x4 that are not zero. -/
def resetsCollator : List ResetRow := [
  ⟨0x4000, 1, 0, 228⟩, ⟨0x4001, 1, 0, 400⟩, ⟨0x4002, 1, 0, 30⟩, ⟨0x4003, 1, 0, 10⟩, ⟨0x4004, 1, 0, 500⟩,
  ⟨0x4005, 1, 0, 10⟩, ⟨0x4006, 1, 0, 1600⟩, ⟨0x4007, 1, 0, 1⟩, ⟨0x4008, 1, 0, 16⟩, ⟨0x4009, 1, 0, 50⟩,
  ⟨0x400A, 1, 0, 1⟩, ⟨0x400B, 1, 0, 1500⟩, ⟨0x400C, 1, 0, 3000⟩, ⟨0x400D, 1, 0, 100⟩, ⟨0x400E, 1, 0, 500⟩,
  ⟨0x400F, 1, 0, 1⟩, ⟨0x4010, 1, 0, 16384⟩, ⟨0x4016, 1, 0, 4096⟩, ⟨0x4019, 1, 10, 1⟩, ⟨0x401B, 1, 2, 1⟩,
  ⟨0x401F, 1, 0, 63⟩, ⟨0x4020, 6, 0, 63⟩, ⟨0x4026, 3, 0, 63⟩, ⟨0x4030, 3, 0, 100⟩, ⟨0x4034, 1, 0, 800⟩,
  ⟨0x4035, 1, 0, 10⟩, ⟨0x4038, 3, 0, 500⟩, ⟨0x4060, 45, 0, 1000⟩, ⟨0x4300, 32, 0, 10000⟩, ⟨0x4800, 1024, 0, 100⟩,
  ⟨0x4C00, 1, 0, 1500⟩, ⟨0x4C01, 1, 0, 200⟩, ⟨0x4C02, 1, 0, 25⟩, ⟨0x4C03, 1, 0, 30⟩, ⟨0x4C04, 1, 0, 30⟩,
  ⟨0x4C05, 1, 0, 10⟩, ⟨0x4C06, 1, 0, 30⟩, ⟨0x4C07, 1, 0, 120⟩, ⟨0x4C08, 1, 0, 3000⟩, ⟨0x4C10, 9, 0, 500⟩,
  ⟨0x4C19, 3, 0, 50⟩, ⟨0x4C20, 9, 0, 500⟩, ⟨0x4C29, 3, 0, 100⟩, ⟨0x4C30, 9, 0, 2000⟩, ⟨0x4C39, 3, 0, 300⟩,
  ⟨0x4C72, 1, 0, 15⟩, ⟨0x4C72, 1, 4, 15⟩]

/-- Reset values of block 0x5 that are not zero. -/
def resetsControl : List ResetRow := [
  ⟨0x5000, 1, 0, 120⟩, ⟨0x5001, 1, 0, 128⟩, ⟨0x5002, 1, 0, 136⟩, ⟨0x5100, 1, 0, 40⟩, ⟨0x5101, 1, 0, 30⟩,
  ⟨0x5102, 1, 0, 26⟩, ⟨0x5103, 1, 0, 2⟩, ⟨0x5104, 1, 0, 25⟩, ⟨0x5105, 1, 0, 6⟩, ⟨0x5106, 1, 0, 5⟩,
  ⟨0x5107, 1, 0, 15⟩, ⟨0x5108, 1, 0, 50⟩, ⟨0x5111, 1, 6, 31⟩, ⟨0x5112, 1, 0, 16383⟩, ⟨0x5014, 3, 0, 100⟩,
  ⟨0x5018, 3, 0, 50⟩, ⟨0x501C, 1, 0, 10⟩, ⟨0x501D, 1, 0, 20⟩, ⟨0x501E, 1, 0, 1000⟩, ⟨0x5020, 1, 0, 50⟩,
  ⟨0x5021, 1, 0, 5⟩, ⟨0x5022, 1, 0, 300⟩, ⟨0x5023, 1, 0, 200⟩, ⟨0x5024, 1, 0, 500⟩, ⟨0x5025, 1, 0, 300⟩,
  ⟨0x5026, 1, 0, 500⟩, ⟨0x5027, 1, 0, 10⟩, ⟨0x5028, 1, 0, 10⟩, ⟨0x5030, 3, 0, 50⟩, ⟨0x5034, 3, 0, 400⟩,
  ⟨0x504C, 1, 0, 1200⟩, ⟨0x504D, 1, 0, 800⟩, ⟨0x504E, 1, 0, 5⟩, ⟨0x504F, 1, 0, 10⟩, ⟨0x5068, 6, 0, 65535⟩,
  ⟨0x5085, 1, 0, 12⟩, ⟨0x5400, 32, 0, 1000⟩, ⟨0x5420, 32, 0, 500⟩, ⟨0x54A0, 32, 0, 1000⟩, ⟨0x54C0, 32, 0, 3500⟩,
  ⟨0x54E0, 32, 0, 50⟩]

/-- Reset values of block 0x6 that are not zero. -/
def resetsLoops : List ResetRow := [
  ⟨0x6080, 1, 0, 16⟩, ⟨0x6081, 1, 0, 800⟩, ⟨0x6082, 1, 0, 2⟩, ⟨0x6480, 128, 0, 255⟩]

/-- Reset values of block 0x7 that are not zero. -/
def resetsLogic : List ResetRow := [
  ⟨0x7000, 1, 0, 2⟩, ⟨0x7001, 1, 0, 1000⟩, ⟨0x7002, 1, 0, 1500⟩]

/-- Reset values of block 0x8 that are not zero. -/
def resetsCan : List ResetRow := [
  ⟨0x8000, 8, 2, 1⟩, ⟨0x8008, 8, 0, 2⟩, ⟨0x8008, 8, 6, 31⟩, ⟨0x8008, 8, 15, 8⟩, ⟨0x8008, 8, 23, 8⟩,
  ⟨0x8010, 8, 0, 2⟩, ⟨0x8010, 8, 6, 3⟩, ⟨0x8010, 8, 12, 1⟩, ⟨0x8010, 8, 17, 1⟩, ⟨0x8010, 8, 22, 1⟩,
  ⟨0x8010, 8, 23, 8⟩, ⟨0x8018, 8, 0, 16⟩, ⟨0x8020, 8, 0, 768⟩]

/-- Reset values of block 0x9 that are not zero. -/
def resetsSpine : List ResetRow := [
  ⟨0x9000, 1, 0, 1⟩, ⟨0x9002, 1, 0, 4294967040⟩, ⟨0x9004, 1, 0, 50200⟩, ⟨0x9006, 1, 0, 50300⟩,
  ⟨0x9008, 1, 0, 100⟩, ⟨0x9009, 1, 0, 2000⟩, ⟨0x900A, 1, 0, 300⟩, ⟨0x9020, 9, 0, 1⟩, ⟨0x9030, 9, 0, 1⟩,
  ⟨0x9040, 1, 0, 1⟩]

/-- Reset values of block 0xA that are not zero. -/
def resetsLanes : List ResetRow := [
  ⟨0xA004, 1, 0, 24⟩, ⟨0xA005, 1, 0, 7200⟩, ⟨0xA006, 1, 0, 2⟩, ⟨0xA007, 1, 0, 168⟩, ⟨0xA008, 1, 0, 600⟩]

/-- Reset values of block 0xB that are not zero. -/
def resetsSafety : List ResetRow := [
  ⟨0xB008, 8, 0, 4⟩, ⟨0xB010, 8, 0, 100⟩, ⟨0xB020, 1, 0, 400⟩, ⟨0xB021, 1, 0, 10⟩, ⟨0xB060, 8, 0, 10⟩,
  ⟨0xB106, 1, 0, 67239936⟩]

/-- Reset values of block 0xC that are not zero. -/
def resetsFaults : List ResetRow := [
  ⟨0xC008, 1, 0, 100⟩, ⟨0xC009, 1, 0, 5⟩, ⟨0xC00A, 1, 0, 60⟩, ⟨0xC040, 1, 0, 2⟩, ⟨0xC041, 1, 0, 2⟩,
  ⟨0xC042, 1, 0, 1⟩, ⟨0xC043, 1, 0, 1⟩, ⟨0xC044, 1, 0, 1⟩, ⟨0xC050, 1, 0, 1⟩, ⟨0xC051, 1, 0, 1⟩,
  ⟨0xC052, 1, 0, 2⟩, ⟨0xC053, 1, 0, 1⟩, ⟨0xC054, 1, 0, 2⟩, ⟨0xC056, 1, 0, 1⟩, ⟨0xC060, 1, 0, 1⟩,
  ⟨0xC061, 1, 0, 2⟩, ⟨0xC062, 1, 0, 1⟩, ⟨0xC070, 1, 0, 1⟩, ⟨0xC080, 1, 0, 2⟩, ⟨0xC082, 1, 0, 2⟩,
  ⟨0xC083, 1, 0, 2⟩, ⟨0xC084, 1, 0, 1⟩, ⟨0xC085, 1, 0, 1⟩, ⟨0xC086, 1, 0, 1⟩, ⟨0xC087, 1, 0, 1⟩,
  ⟨0xC088, 1, 0, 1⟩, ⟨0xC089, 1, 0, 2⟩, ⟨0xC08A, 1, 0, 1⟩, ⟨0xC090, 1, 0, 1⟩, ⟨0xC091, 1, 0, 1⟩,
  ⟨0xC092, 1, 0, 2⟩, ⟨0xC093, 1, 0, 2⟩, ⟨0xC094, 1, 0, 2⟩, ⟨0xC095, 1, 0, 1⟩, ⟨0xC096, 1, 0, 1⟩,
  ⟨0xC097, 1, 0, 2⟩, ⟨0xC098, 1, 0, 1⟩, ⟨0xC099, 1, 0, 2⟩, ⟨0xC09A, 1, 0, 2⟩, ⟨0xC0A0, 1, 0, 2⟩,
  ⟨0xC0A1, 1, 0, 2⟩, ⟨0xC0A2, 1, 0, 1⟩, ⟨0xC0B0, 1, 0, 2⟩, ⟨0xC0B1, 1, 0, 1⟩, ⟨0xC0B2, 1, 0, 1⟩,
  ⟨0xC0C0, 1, 0, 2⟩, ⟨0xC0C1, 1, 0, 1⟩, ⟨0xC0C2, 1, 0, 1⟩, ⟨0xC0D0, 1, 0, 1⟩, ⟨0xC0D1, 1, 0, 1⟩,
  ⟨0xC0D2, 1, 0, 2⟩, ⟨0xC0E0, 1, 0, 1⟩, ⟨0xC0E1, 1, 0, 2⟩, ⟨0xC0E2, 1, 0, 1⟩, ⟨0xC0E3, 1, 0, 1⟩,
  ⟨0xC0E4, 1, 0, 1⟩, ⟨0xC0F0, 1, 0, 2⟩, ⟨0xC0F1, 1, 0, 1⟩, ⟨0xC0F2, 1, 0, 2⟩, ⟨0xC0F3, 1, 0, 2⟩,
  ⟨0xC0F4, 1, 0, 2⟩, ⟨0xC101, 1, 0, 1⟩, ⟨0xC102, 1, 0, 1⟩, ⟨0xC103, 1, 0, 2⟩, ⟨0xC110, 1, 0, 1⟩,
  ⟨0xC111, 1, 0, 2⟩, ⟨0xC112, 1, 0, 2⟩, ⟨0xC113, 1, 0, 2⟩, ⟨0xC120, 1, 0, 1⟩, ⟨0xC121, 1, 0, 1⟩,
  ⟨0xC122, 1, 0, 1⟩, ⟨0xC123, 1, 0, 2⟩]

/-- Reset values of block 0xD that are not zero. -/
def resetsPower : List ResetRow := [
  ⟨0xD000, 1, 0, 3⟩, ⟨0xD001, 1, 8, 3⟩, ⟨0xD011, 1, 0, 40⟩, ⟨0xD012, 1, 0, 60⟩, ⟨0xD014, 1, 0, 10⟩,
  ⟨0xD018, 1, 0, 7000⟩, ⟨0xD019, 1, 0, 7800⟩, ⟨0xD01A, 1, 0, 8300⟩, ⟨0xD01C, 1, 0, 10000⟩, ⟨0xD01D, 1, 0, 10500⟩,
  ⟨0xD01E, 1, 0, 11000⟩, ⟨0xD020, 1, 0, 300⟩, ⟨0xD021, 1, 0, 500⟩]

/-- Reset values of block 0xE that are not zero. -/
def resetsLifetime : List ResetRow := [
  ⟨0xE029, 1, 0, 60⟩, ⟨0xE030, 1, 0, 1⟩]

/-- The reset rows of a block (the top hexadecimal digit of the ID, R7). -/
def resetRows : Nat → List ResetRow
  | 0 => resetsDevice
  | 1 => resetsTime
  | 2 => resetsGnss
  | 3 => resetsInputs
  | 4 => resetsCollator
  | 5 => resetsControl
  | 6 => resetsLoops
  | 7 => resetsLogic
  | 8 => resetsCan
  | 9 => resetsSpine
  | 10 => resetsLanes
  | 11 => resetsSafety
  | 12 => resetsFaults
  | 13 => resetsPower
  | 14 => resetsLifetime
  | _ => []

/-- The value after reset of the register field with key `64 × (ID + 65536 × element) + low bit`. -/
def resetField (key : Nat) : W64 :=
  let id := key / 64
  match (resetRows (id / 4096)).find? fun r => r.lo == key % 64 && r.base ≤ id && id < r.base + r.count with
  | some r => BitVec.ofNat 64 r.value
  | none => 0

end Sys2Proof.Machine
end

