-- ==== Sys2Proof/Machine/State.lean ====
section
/-! DEFINITION. The state of the block: plain data, holding every register, buffer, counter, mode and pin of the manual, and
the queue of the commands that wait. -/

namespace Sys2Proof.Machine

/-- A field of a register or parameter: its ID (with `65536 × element` added for the arrays of R454), low bit and width. -/
structure Fld where
  id : Nat
  lo : Nat
  w : Nat
deriving DecidableEq, Repr

/-- The key of a field in a register store. -/
abbrev Fld.key (f : Fld) : Nat := f.id * 64 + f.lo

/-- A store of register fields, each at its reset value until written. -/
abbrev Regs := Store resetField

/-- The default of a store of numbers. -/
def zeroNat (_ : Nat) : Nat := 0
/-- Numbers by index, 0 until written. -/
abbrev Nats := Store zeroNat
/-- The default of a store of whole numbers. -/
def zeroInt (_ : Nat) : Int := 0
/-- Whole numbers by index, 0 until written. -/
abbrev Ints := Store zeroInt
/-- The default of a store of flags. -/
def clearFlag (_ : Nat) : Bool := false
/-- Flags by index, clear until set. -/
abbrev Flags := Store clearFlag
/-- The default of a store of instants and other values that may be absent. -/
def absent (_ : Nat) : Option Nat := none
/-- Values by index that may be absent. -/
abbrev Opts := Store absent
/-- The default of a store of lists. -/
def noNats (_ : Nat) : List Nat := []
/-- Lists of numbers by index. -/
abbrev NatLists := Store noNats

/-! ### The host port and the event queue -/

/-- The class of a queued event (R457). -/
inductive EvClass where
  | record | notify | alarm
deriving DecidableEq, Repr

/-- An entry of the event queue (R443, R457). -/
structure Event where
  seq : Nat
  code : Nat
  cls : EvClass
  rep : Nat
  flags : Nat
  at_ : Nat
  payload : List Byte
deriving DecidableEq, Repr

/-- The states of a mailbox (R452). `taken` is BUSY with its command delivered at a tick boundary. -/
inductive MbxState where
  | idle | busy | taken | done | rejected
deriving DecidableEq, Repr

/-- A mailbox: its state and its 4 KiB. -/
structure Mailbox where
  st : MbxState
  buf : Mem
deriving DecidableEq, Repr

/-- A mailbox after reset: IDLE, its bytes as buffers that nothing has written. -/
def idleMailbox (_ : Nat) : Mailbox := ⟨.idle, ⟨[]⟩⟩

/-- A kept response to a Spine host (R447): the command's sequence and check code, and the response. -/
structure Kept where
  seq : Nat
  check : Nat
  msg : List Byte
deriving DecidableEq, Repr

/-- No kept response. -/
def noKept (_ : Nat) : List Kept := []

/-- A response that waits for the selector to resume (R446): its command's header and code, the result and the payload. -/
structure Waiting where
  hdr : Hdr
  code : Nat
  res : Nat
  payload : List Byte
deriving DecidableEq, Repr

/-- What one command drives onto pins, buses and links. -/
inductive Output where
  /-- A response to a host and the UDP port that its command came from, and an event to a host: the UDP payload, cut as IPv4 fragments
  carry it (R335, R339). -/
  | response (host port : Nat) (frags : List (List Byte))
  | event (host : Nat) (frags : List (List Byte))
  | spiData (bytes : List Byte)
  | spiUndefined
  | frame (port : Nat) (f : EthFrame)
  | ptp (port : Nat) (kind : Nat) (body : List Byte)
  /-- A heartbeat to the group and UDP port, by the switch ports listed (R340). -/
  | heartbeat (group port : Nat) (paths : List Nat) (bytes : List Byte)
  | igmp (port group : Nat) (member : Bool)
  | supervision
  | answer (port pcp : Nat) (a : Ask)
  | tod (bytes : List Byte)
  | pps (high : Bool) (at_ : Int)
  | trig (t : Nat) (high : Bool) (at_ : Int)
  | imuSync (p : Nat) (at_ : Nat)
  | analog (n : Nat) (v : Option F32)
  | holdOff (n : Nat) (v : Int)
  | can (ch stamp : Nat) (f : CanFrame)
  | canAck (ch : Nat)
  | safeOut (o : Nat) (on : Bool)
  /-- The pins of R490 that no other output names: driven at rest (CAN recessive, IMU_SYNC low, TOD_TXD and HOST_IRQ_N high, HOST_MISO
  high impedance, antenna bias off, Spine and sensor links down), or not driven, PPS_OUT and TRIG too, in an unpowered module. -/
  | restPins (driven : Bool)
  | antBias (n : Nat) (on : Bool)
deriving DecidableEq, Repr

/-- What waits for the output selector to resume: an event to a Spine host, or the heartbeat of the frame (R22, R340). -/
inductive HeldBack where
  | event (host : Nat) (msg : List Byte)
  | heartbeat (body : List Byte)
deriving DecidableEq, Repr

/-- The direct registers that show values latched at the last frame instant (R451). -/
structure Mirrors where
  frameNumber : Nat
  frameEpoch : Nat
  timeStatus : Nat
  ctlMode : Nat
  ctlStatus : Nat
  solveStatus : Nat
  collStatus : Nat
  actAvailable : Nat
  voteState : Nat
  powerState : Nat
deriving DecidableEq, Repr

/-- The local host port, the mailboxes, the event queue and the kept responses (R447 to R459). -/
structure HostPort where
  irq : Nat
  irqEnable : Nat
  scratch : W32
  linkErrors : Nat
  stSecHi : Nat
  stNs : Nat
  mirrors : Mirrors
  mbx : Store idleMailbox
  queue : List Event
  nextSeq : Nat
  wrapped : Bool
  lostSince : Nat
  lostSeq : Nat
  lostSecond : Option Nat
  kept : Store noKept
  outstanding : NatLists
  nextResend : Nat
  resending : List Nat
  resentFrame : Option Nat
  waiting : List Waiting
  withheld : List HeldBack
deriving DecidableEq, Repr

/-! ### Folios, firmware and start-up -/

/-- A section of a Folio that is not parameters (R455): its length, 0 when missing, and its bytes. -/
structure Section where
  len : Nat
  bytes : Mem
deriving DecidableEq, Repr

/-- A Folio image: the RS parameters and the two sections (R461). -/
structure Folio where
  params : Regs
  sec1 : Section
  sec2 : Section
deriving DecidableEq, Repr

/-- A commit record (R461): the Folio it makes active, its CRC, and the frame and epoch from which it is active. -/
structure CommitRec where
  folio : Nat
  crc : W32
  frame : Nat
deriving DecidableEq, Repr

/-- The state of the Folio turn beyond dev.folio (R462). -/
structure TurnState where
  pending : Bool
  hdr : Option Hdr
  prepared : Option (Nat × W32)
  commits : List CommitRec
  sealFrame : Option Nat
deriving DecidableEq, Repr

/-- An image slot of the NAND (R466). -/
structure ImgSlot where
  version : Nat
  size : Nat
  bytes : Mem
  present : Bool
deriving DecidableEq, Repr

/-- An image slot that holds no image. -/
def noImage (_ : Nat) : ImgSlot := ⟨0, 0, ⟨[]⟩, false⟩

/-- The boot record, the image transfer and the trial (R466 to R468). -/
structure FwState where
  slots : Store noImage
  trialSlot : Option Nat
  attempts : Nat
  size : Nat
  digest : List Byte
  blocksThisFrame : Nat
  beginHdr : Option Hdr
  commitHdr : Option Hdr
  trialFrames : Nat
deriving DecidableEq, Repr

/-- Start-up and reset (R487 to R506): a device reset pending until the frame instant, the settled frames of R495, the mode that
R501 may resume, the resets that R498 counts, an external reset that R488 holds back, and the units that the reset has brought from
FAULTED to OFF (R209, R222). -/
structure BootState where
  resetAt : Option Nat
  settle : Nat
  resume : Option Nat
  fatalTimes : List Nat
  heldReset : Bool
  unitsFaulted : List Nat
deriving DecidableEq, Repr

/-! ### Faults -/

/-- A record of the fault log (R418). -/
structure FaultRec where
  seq : Nat
  at_ : Nat
  kind : Nat
  src : Nat
  sev : Nat
  place : Nat
  flags : Nat
  location : W64
  syndrome : W32
deriving DecidableEq, Repr

/-- An armed injection (R416). -/
structure Inject where
  checker : Nat
  place : Nat
  double : Bool
  at_ : Nat
deriving DecidableEq, Repr

/-- A transfer that failed on the internal bus (R15, R407): withheld at the coming tick boundary, and `again` at the one after, when it
is repeated. -/
structure Withheld where
  what : Transfer
  again : Bool
deriving DecidableEq, Repr

/-- The fault collector (R405 to R419). `disagreements` counts the lane disagreements that it records (R16, R191), and
`absent` are the transfers of the frame that failed twice (R15, R407). -/
structure FaultState where
  ring : List FaultRec
  disagreements : Nat
  minute : Nats
  hour : NatLists
  disarmed : Opts
  times : NatLists
  escalated : Flags
  injected : List Inject
  holds : List Nat
  bus : List Withheld
  absent : List Transfer
  minuteAt : Option Nat      -- the whole minute at whose end the rates were last formed
deriving DecidableEq, Repr

/-! ### Lifetime counters, calendar and recorder -/

/-- An entry of the leap-second table (R474): from a TAI second on, TAI − UTC has a value. -/
structure Leap where
  from_ : Nat
  offset : Int
deriving DecidableEq, Repr

/-- A record of the Voyage Recorder (R478); the body of a frame record is the place number of its free bytes and the bytes
of the estimate and setpoint records. -/
structure Rec where
  kind : Nat
  flags : Nat
  at_ : Nat
  body : List Byte
  fill : Nat
  place : Nat
deriving DecidableEq, Repr

/-- A page of the NAND journal (R481). -/
structure Page where
  seq : Nat
  block : Nat                -- the erase block that holds it
  at_ : Nat
  compressed : Bool
  resetMark : Bool
  body : List Byte
deriving DecidableEq, Repr

/-- What a time source says of TAI − UTC (R474, R475): the current value, and an announced change. -/
structure LeapSaid where
  src : Nat
  current : Int
  leap : Option Leap
deriving DecidableEq, Repr

/-- Lifetime counters, the calendar and the Voyage Recorder (R470 to R482). `raw` are drained bytes that wait for compression,
`carry` bytes that wait for a page with the instant of the first record of their block, `rtcDue` an acquisition not yet in the RTC,
`markDue` a RESET marker not yet written. -/
structure LifeState where
  committed : Nats           -- the newest copy in MRAM, with its sequence
  copySeq : Nat
  older : Nats               -- the older copy, with its sequence
  olderSeq : Nat
  accrued : Nats
  sinceCommit : Nat
  saturated : Flags
  leaps : List Leap
  said : List LeapSaid
  ring : List Rec
  raw : List Byte
  carry : List Byte
  carryAt : Nat
  carryPacked : Bool
  lostSince : Nat
  lostSecond : Option Nat
  resetMark : Bool
  pages : List Page
  nextPage : Nat
  pagesThisFrame : Nat
  block : Option Nat         -- the block being programmed, and the pages it holds
  used : Nat
  retired : List Nat
  erases : Nats
  wearErases : Bool          -- EV_LIFE_NAND_WEAR was sent for the erase count, and for the retired blocks (R482)
  wearRetired : Bool
  rtcValid : Bool
  rtcUtc : Int
  rtcDue : Bool
  markDue : Bool
  actRan : Nat
  actFrames : Nats
deriving DecidableEq, Repr

/-! ### Station Time and the time sources -/

/-- A time source (R57, R58): the primary PTP domain, the redundant one (TB1) or GNSS (TB2). Offsets are source − TB0, ns. -/
structure Source where
  qualified : Bool
  offset : Int
  bound : Nat
  measured : Bool
  offsets : List Int
  lastSync : Option Nat
  gm : Option Announce
  lastAnnounce : Option Nat
  jumped : Bool
  steadyFrom : Nat
  steadyRef : Int
  since : Nat
  slavePort : Nat
  pathDelay : Int
  awaitFollowUp : Option Nat
deriving DecidableEq, Repr

/-- A source of which nothing has been received. -/
def Source.none : Source :=
  ⟨false, 0, 0, false, [], Option.none, Option.none, Option.none, false, 0, 0, 0, 0, 0, Option.none⟩

/-- A step of Station Time that is pending (R47): the first acquisition, or a resynchronise. -/
inductive StepKind where
  | acquire | resync
deriving DecidableEq, Repr

/-- A step that TB0 has made, until the first frame instant of the new grid (R47, R109): the last frame of the old grid, the size
of the step, the source, and whether it is the first acquisition. -/
structure GridStepped where
  oldFrame : Nat
  size : Int
  src : TimeSrc
  first : Bool
deriving DecidableEq, Repr

/-- Station Time, the grid, the sources, holdover and the time pulse (R30 to R81). `freq` is the servo's frequency estimate in ps per
second; `slewRest` and `freqRest` are the parts of a nanosecond, in 1/50,000, that the slew and the estimate have moved TB0 by;
`ppsRate` is the rate that the fixed edge assumes, in ps per second, and `ppsRest` the part of a nanosecond that TB0 has moved against
it (R74). `tb2Delays` are the antenna delays under which TB2 was last measured (R79). -/
structure TimeState where
  tb0 : Nat
  mono : Nat
  tb3off : Int
  frameAt : Nat
  tickDue : Nat
  tickOrigin : Nat
  tickEnd : Nat
  ptp : Source
  tb1 : Source
  tb2 : Source
  step : Option StepKind
  anySource : Bool
  resetAt : Nat
  convergingSince : Nat
  remaining : Int
  freq : Int
  freqRest : Int
  slewRest : Int
  e0 : Nat
  holdStart : Nat
  holdTemp : Int
  ocxo : Int
  overTb1 : Option Nat
  overTb2 : Option Nat
  withinSince : Nat
  ppsEdge : Option Nat
  ppsRate : Int
  ppsRest : Int
  ppsHigh : Bool
  ppsFall : Nat
  masterKind : Nat
  masterParent : Option Announce
  stepped : Option GridStepped
  tb2Delays : List Int
deriving DecidableEq, Repr

/-! ### GNSS receivers -/

/-- Bytes that nothing has formed. -/
def noPayload (_ : Nat) : List Byte := []


/-- The signal that a channel tracks (R84, R85), the frames of carrier lock it has held without a gap, its cycle slips since lock, and its
carrier phase in cycles, none before a lock (R89). -/
structure ChanAlloc where
  cons : Nat
  sat : Nat
  sig : Nat
  lock : Nat
  slips : Nat
  phase : Option F64
deriving DecidableEq, Repr

/-- A channel that tracks nothing. -/
def noAlloc (_ : Nat) : Option ChanAlloc := none

/-- An ephemeris that a receiver holds, with the Station Time at which it was decoded (R91, R100). -/
structure Ephemeris where
  rx : Nat
  cons : Nat
  sat : Nat
  at_ : Nat
  data : List Byte
deriving DecidableEq, Repr

/-- No fix yet. -/
def noFix (_ : Nat) : Option GnssFix := none

/-- The GNSS basebands (R82 to R101). Classes of antenna current: 0 normal, 1 open, 2 short. `alloc` holds the channels, 96 to a
receiver; `scales` holds the GNSS-to-TAI offsets at 8 × receiver + constellation and `leap` what was last said of TAI − UTC; ephemerides, almanacs and the last position of every receiver stand in MRAM (R95). `timeGood`, `timeBad` and `timeOk` are each
receiver's test of R58. `wakeRx` is the receiver that a keep-alive has woken and `wakeEphs` the ephemerides it has collected. Instants
are of the clock. -/
structure GnssState where
  on : Flags
  starting : Flags
  bias : Flags
  class_ : Nats
  alloc : Store noAlloc
  sky : List SkySat
  ephs : List Ephemeris
  almanac : Store noPayload
  lastFix : Store noFix
  sbas : List (Byte × Byte × List Byte)
  scales : Store noPayload
  leap : Option (Int × Option (Nat × Int))
  records : List GnssRec
  fixes : List GnssFix
  timeGood : Opts
  timeBad : Opts
  timeOk : Flags
  layupReq : Option Nat
  wakeReq : Option Nat
  layup : Bool
  layupEnd : Option Nat
  layupHours : Nat
  nextWake : Nat
  wakeSince : Option Nat
  wakeRx : Nat
  wakeEphs : Nat
deriving DecidableEq, Repr


/-! ### Sensor inputs -/

/-- An output sample of a decimation filter: its stamp, value and marks (R114). -/
structure AinSample where
  stamp : Nat
  value : Int
  unsettled : Bool
  clipped : Bool
deriving DecidableEq, Repr

/-- A run of a channel's decimation filter (R114, R115): its preset, mode and source, the stamp of its next sample, the samples of
the entry being packed, the samples still UNSETTLED, whether its next entry carries RESTART; the stamp from which its samples have been
out of the current's range, whether it is in WIRE_FAULT, whether its newest sample was clipped; of an old run its last stamp, how far
Station Time has moved since, and the streams that it delivers to. -/
structure AinRun where
  preset : Nat
  mode : Nat
  source : Nat
  next : Nat
  samples : List AinSample
  unsettled : Nat
  restart : Bool
  last : Option Nat
  moved : Int
  streams : List Nat
  wireSince : Option Nat
  wire : Bool
  outside : Bool
deriving DecidableEq, Repr

/-- A run that has not begun. -/
def AinRun.off : AinRun := ⟨0, 0, 0, 0, [], 0, false, none, 0, [], none, false, false⟩

/-- An analog input channel (R110 to R115): the run in force and the old runs that still deliver. -/
structure AinChan where
  run : AinRun
  old : List AinRun
deriving DecidableEq, Repr

/-- A channel that is off. -/
def offChannel (_ : Nat) : AinChan := ⟨AinRun.off, []⟩

/-- No sample yet. -/
def noLatest (_ : Nat) : Option (Int × Nat) := none

/-- No edge driven yet. -/
def noEdges (_ : Nat) : List (Nat × Nat) := []

/-- The sensor inputs and triggers (R102 to R127). Outputs 0 to 7 are the triggers, 8 to 11 the IMU syncs: `trigEdge` is the grid
instant of the last edge of each and `edges` the grid instants and edges of the last 2 s; `imuUsed` is the last sync edge that each IMU has
answered; `latest` is each analog channel's latest sample and its completion (R265). -/
structure InputState where
  ain : Store offChannel
  imuUsed : Opts
  imuSeq : Opts
  lastSample : Opts
  count : Nats
  seq : Opts
  usedEdge : Opts
  trigEdge : Opts
  edges : Store noEdges
  trigHigh : Flags
  trigFall : Nats
  trigFrom : Nats
  latest : Store noLatest
deriving DecidableEq, Repr

/-! ### The Sensor Ledger and the Collator -/

/-- An entry of the Sensor Ledger (R129); `wrote` is the instant of writing, `barred` the third condition of R132, `meas` the record of
a GNSS entry. -/
structure LedgerEntry where
  stream : Nat
  late : Bool
  applied : Bool
  discarded : Bool
  seq : Nat
  stamp : Nat
  delay : Nat
  payload : List Byte
  barred : Bool
  meas : Option GnssRec
  wrote : Nat
deriving DecidableEq, Repr

/-- The work of a close (R148 to R152): the late entries that are re-run, the scalars that are shed by receiver, channel and kind, and
whether anything was. -/
structure CloseWork where
  late : List LedgerEntry
  cut : List (Nat × Nat × Nat)
  shed : Bool
deriving DecidableEq, Repr

/-- The filter stored at a frame instant (R149), with what its frame rested on: the weights of the references, the mechanisation, the
scalars that were shed, the INCONSISTENT receivers, the stream of the mechanised IMU, and whether its biases started afresh at that frame
instant (R137). -/
structure FrameKept where
  frame : Nat
  filter : Filter
  weights : Nats
  mech : Mech
  cut : List (Nat × Nat × Nat)
  inconsistent : Nat
  imu : Option Nat
  restart : Bool
deriving DecidableEq, Repr

/-- The re-run of a retrodiction on the Solver Cluster (R152): not sent there, waiting, returned and checked, or without a checked
result. -/
inductive Offload where
  | none | waiting | done | lost
deriving DecidableEq, Repr

/-- A filter in which nothing has been entered. -/
def zeroFilter : Filter := ⟨0, List.replicate 45 0, List.replicate 45 0, List.replicate 1035 0, []⟩

/-- The barriers of tipping-in (R150). -/
inductive Barrier where
  | step | folio | restore
deriving DecidableEq, Repr

/-- No entry. -/
def noEntry (_ : Nat) : Option LedgerEntry := none

/-- The Ledger and the Collator (R129 to R164). `freed` is of each stream the newest APPLIED entry that has been freed; `stored` are the filters of the last frame instants, newest first, and `unrevised` the
prediction and those filters as voting sees them; `live` is the Gathering of the frame, `work` what its close leaves to do; `low` is the
low-frequency estimate, `heave` the vertical specific force of the last 100 s. Of the network `hidden` is the hidden state, `dnOut` its
output, `dnInputs` the inputs since its last step and `dnForce` the weighted output last published; `rls` belongs to the adaptation.
The applied network weight and its target count 2,500,000 for 1. -/
structure CollState where
  ledger : List LedgerEntry
  freed : Store noEntry
  seq : Nat
  droppedThisFrame : Bool
  closedUpTo : Nat
  closed : Bool
  barrier : Nat
  barrierKind : Barrier
  filter : Filter
  stored : List FrameKept
  unrevised : List Filter
  live : List LedgerEntry
  work : Option CloseWork
  offload : Offload
  updatesLost : Bool
  discards : List Nat
  gap : Bool
  pos : List Nat
  hdg : List Nat
  low : LowFreq
  heave : List (Nat × Int)
  hidden : List F32
  dnOut : List F32
  dnInputs : List (List F32)
  dnForce : List F64
  rls : List F64
  filterFault : Bool
  shed : Bool
  tipped : Bool
  held : Bool
  imuSwitched : Bool
  restored : Bool
  initialising : Bool
  rxBad : Nats
  rxGood : Nats
  dnWarm : Option Nat
  dnFault : Bool
  blocked : Bool
  inside : Nat
  fadeFrom : Nat
  fadeStep : Nat
  suspended : Nat
  weight : Nat
  target : Nat
  filtered : Ints
  axes : Ints
  estimate : List Byte
  estPresent : Bool
  published : Bool
deriving DecidableEq, Repr

/-! ### Reference voting -/

/-- A reference of R167: the stamp of its latest sample and its residual in 1e-6 m or 1e-6 degree, the run of identical values, the test
window (stamps and residuals), the tests it fails with the quantity that fails each, 0 north, 1 east, 2 heading, and its standing;
`quantity` is the one it was rejected for. -/
structure VoteRef where
  last : Option Nat
  res : Int × Int
  raw0 : Nat
  raw1 : Nat
  run0 : Nat
  run1 : Nat
  window : List (Nat × Int × Int)
  frozen : Option Nat
  jumped : Option Nat
  noisy : Option Nat
  drifting : Option Nat
  quantity : Nat
  off : Bool
  rejected : Bool
  split : Bool
  excluded : Bool
  valid : Bool
  since : Nat
  ramp : Nat
deriving DecidableEq, Repr

/-- A reference of which nothing is known. -/
def freshRef (_ : Nat) : VoteRef :=
  ⟨none, (0, 0), 0, 0, 0, 0, [], none, none, none, none, 0, false, false, false, false, false, 0, 0⟩

/-- A voting group (R174 to R177): its state, the disagreeing pair with its count of frames and difference, the start of its
split, the disputed references, drift-limiting mode, the selection and the references it excluded. -/
structure VoteGroup where
  state : Nat
  pair : List Nat
  run : Nat
  diff : Nat
  splitAt : Nat
  disputed : List Nat
  drift : Bool
  selected : Nat
  selExcl : List Nat
deriving DecidableEq, Repr

/-- A group with no reference. -/
def freshGroup (_ : Nat) : VoteGroup := ⟨0, [], 0, 0, 0, [], false, 15, []⟩

/-- A voting command that waits for the frame instant (R179). -/
structure VoteReq where
  hdr : Hdr
  exclude : Bool
  a : Nat
  b : Nat
deriving DecidableEq, Repr

/-- Reference voting (R167 to R186): whether the weights of the frame have been sent, and the weights the Collator applies. -/
structure VoteState where
  refs : Store freshRef
  groups : Store freshGroup
  requests : List VoteReq
  voted : Bool
  applied : Nats
deriving DecidableEq, Repr

/-! ### The Solver Cluster -/

/-- The job that the frame's solve waits for (R194, R195, R198, R203): the candidate batch, its members that are regularised, the
assembly of the stage blocks, the factorisation of a stage, its regularised retry, the forward pass with the dual recovery, an iteration
of the fall-back schedule, or the allocation of a candidate by schedule 2. -/
inductive JobNext where
  | none | candidates | candidateRetry (failed : List Nat) | assemble | stage (k : Nat) | retry (k : Nat) | forward | schedule
  | allocation (c : Nat)
deriving DecidableEq, Repr

/-- The status word of a job result by its fields, and the check code over the result data and the word (R192). A job without a result
has none. -/
structure JobStatus where
  breakdown : Option (Nat × Nat)
  overflow : Bool
  nonfinite : Bool
  aborted : Bool
  ecc : Bool
  tooLarge : Bool
  check : Option W32
deriving DecidableEq, Repr

/-- The words of a unit's scratch that hold job data (R187): at first none. The code of a word is a function of it (log entry 99). -/
def noScratch (_ : Nat) : List F64 := []

/-- The sequencer of a unit (R187): the sequence and the kind of the job in its descriptor, and the step of the schedule that it stands
at. -/
structure Sequencer where
  job : Nat
  kind : Nat
  step : Nat
deriving DecidableEq, Repr

/-- A sequencer without a descriptor. -/
def noJob (_ : Nat) : Option Sequencer := none

/-- The Solver Cluster and the frame's solve (R187 to R222). Of the units: those powered and since when, the job each runs and since
when, its scratch, its sequencer, its rejections and its TEST. `form` is the problem: 0 none, 1 allocation on the fall-back path, 2 the candidate batch
alone, 20 or 40 stages; `point` is the last completed iterate, `best` the incumbent with the unit that produced it, 4 for iterate 0,
`blocks` are the
assembled stage blocks, `factors` those of the recursion in progress and `batch` those of the candidates, `excess` the constraints that the candidates exceed,
`crew` the units that were ready as the window opened, `violation` that of the last iterate. `jobSeq` counts the jobs, `last` is
the status of the last and `held` the results that wait for an arbitration. `ended` is when the iterations ended, in µs from F+6.0. -/
structure SolverState where
  powered : Flags
  poweredAt : Nats
  jobFrom : Opts
  scratch : Store noScratch
  desc : Store noJob
  rejects : NatLists
  tested : Flags
  posed : Bool
  isOpen : Bool
  openedAt : Nat
  form : Nat
  status : Nat
  iter : Nat
  candidate : Nat
  problem : Option Problem
  point : Point
  best : Option (Point × Nat)
  next : JobNext
  blocks : List Block
  factors : List Factor
  batch : List Factor
  excess : List (Nat × F64)
  crew : List Nat
  violation : F64
  jobSeq : Nat
  last : JobStatus
  held : List JobResult
  regUsed : Bool
  fallUnit : Option Nat
  openSectors : List Nat
  sides : Nat
  diverging : Nat
  ended : Option Nat
  infeasible : Bool
  group : Nat
  worst : Nat
  infeasRun : Bool
  fallRun : Bool
  fallReason : Option Nat
  notStale : Nat
  clearStats : Bool
deriving DecidableEq, Repr

/-- The frame has an incumbent (R194). -/
def SolverState.incumbent (x : SolverState) : Bool := x.best.isSome

/-! ### Vessel control -/

/-- A host request that waits for the frame instant (R224). -/
inductive CtlRequest where
  | mode (code : Nat)
  | setpoint (lat lon : F64) (heading : F32)
  | joystick (surge sway yaw : F32)
  | manual (act : Nat) (speed pitch angle : F32)
  | track (wps : List (F64 × F64 × F32 × F32))
deriving DecidableEq, Repr

/-- The entry of one actuator in a setpoint record (R247). -/
structure SpOut where
  available : Bool
  held : Bool
  thrust : F32
  speed : F32
  speedRate : F32
  pitch : F32
  pitchRate : F32
  angle : F32
  angleRate : F32
  limit : F32
deriving DecidableEq, Repr

/-- An entry of zeros. -/
def SpOut.zero : SpOut := ⟨false, false, 0, 0, 0, 0, 0, 0, 0, 0⟩

/-- A setpoint record (R247). -/
structure SpRecord where
  frame : Nat
  epoch : Nat
  mode : Nat
  flags : Nat
  applyTick : Nat
  entries : List SpOut
deriving DecidableEq, Repr

/-- Manual setpoints of an actuator: speed, pitch and angle (R252). -/
abbrev Manual := F32 × F32 × F32
/-- No manual setpoint received. -/
def noManual (_ : Nat) : Option Manual := none

/-- The vessel controller (R223 to R257). `record` is the snapshot of the request record (R225); `counter` and `asked` are the
request counter and the valid setpoint of the snapshot before it. `legs` are the moves of the reference (R227) and `moved` how long ago the
first set out in ns; `plan` is the plan that the next frame starts from; `force` is the generalised force of the thrust applied (R253),
`windForce` the wind force (R243) and `network` the feed-forward of the last estimate accepted (R244), in kN and kN·m. -/
structure ControlState where
  requests : List (Hdr × CtlRequest)
  record : List Byte
  counter : Nat
  asked : Option (F64 × F64 × F32)
  heading : F32
  track : List (F64 × F64 × F32 × F32)
  joyX : F32
  joyY : F32
  joyN : F32
  joyAt : Nat
  manual : Store noManual
  blockedBy : Nats
  legs : List Move
  moved : Nat
  plan : Option Plan
  force : List F64
  windForce : List F64
  network : List F64
  absentRun : Bool
  scaled : Flags
  published : Option SpRecord
  spPublished : Bool
deriving DecidableEq, Repr


/-! ### The Loop Engine -/

/-- What a loop keeps from tick to tick (R262, R266, R281): the integrator, the derivative term, the biquad history, the last
output, derivative input and v, the last valid feedback, the counts of invalid and valid ticks, what failed (0 the feedback, 1 the DC-bus
value, 2 a value that is not finite), how the next tick starts it: 0 from the last tick, 1 cold, 2 as on recovery, 3 with v held through a
change of coefficients, and whether its fault has been told. -/
structure LoopRt where
  integ : F32
  d : F32
  y1 : F32
  y2 : F32
  yf1 : F32
  yf2 : F32
  u1 : F32
  q1 : F32
  v1 : F32
  yLast : F32
  bad : Nat
  good : Nat
  cause : Nat
  start : Nat
  told : Bool
deriving DecidableEq, Repr

/-- A loop cold-initialised (R281). -/
def coldLoop (_ : Nat) : LoopRt := ⟨0, 0, 0, 0, 0, 0, 0, 0, 0, 0, 0, 0, 0, 1, false⟩

/-- A loop test (R278): received at an instant of the clock, waiting for its frame or running at tick `n`, with the register of the PRBS;
`why` is the reason for which it has ended (R279). -/
structure LoopTest where
  loop : Nat
  point : Nat
  kind : Nat
  amp : F32
  hold : Nat
  f0 : F32
  f1 : F32
  dur : Nat
  decim : Nat
  running : Bool
  n : Nat
  reg : Nat
  stop : Bool
  folio : Bool
  at_ : Nat
  why : Option Nat
deriving DecidableEq, Repr

/-- The capture buffer in a lane's private SRAM (R280), and whether the lane joined during the test. -/
structure LoopCapture where
  bytes : Mem
  count : Nat
  joined : Bool
deriving DecidableEq, Repr

/-- An empty capture buffer. -/
def noCapture (_ : Nat) : LoopCapture := ⟨⟨[]⟩, 0, false⟩

/-- The Loop Engine's part of a Quire: its state at the end of tick 0 of the frame (R281). -/
structure LoopImage where
  rt : Store coldLoop
  states : Nats
  record : Option SpRecord
  n : Nat
  test : Option LoopTest
  counters : Nats
deriving DecidableEq, Repr

/-- The Loop Engine (R258 to R284): the setpoint record in force with the ticks since its apply tick, the `n` at which the references are
frozen, the values that the output selector last agreed on, and its state at the end of tick 0. -/
structure LoopState where
  rt : Store coldLoop
  record : Option SpRecord
  n : Nat
  frozen : Option Nat
  missRun : Bool
  applied : Bool
  counters : Nats
  test : Option LoopTest
  captures : Store noCapture
  nonfinite : Flags
  aout : Store absent
  payload : Store noPayload
  image : LoopImage
deriving DecidableEq, Repr


/-! ### The Cyclic Logic Engine -/

/-- A program slot (R285): the loaded bytes, and what validation read of a complete program. -/
structure LogicSlot where
  bytes : Mem
  size : Nat
  info : Option ProgInfo
deriving DecidableEq, Repr

/-- An empty slot. -/
def noProgram (_ : Nat) : LogicSlot := ⟨⟨[]⟩, 0, none⟩

/-- A force in effect (R298). -/
structure Force where
  target : ForceTarget
  typ : Nat
  val : List Byte
deriving DecidableEq, Repr

/-- A force, or the removal of one or of all, that waits for the next cycle instant (R298). -/
inductive ForceOp where
  | set (f : Force)
  | remove (t : Option ForceTarget)
deriving DecidableEq, Repr

/-- A pending change of program (R300): its command, whether it replaces, what validation found, and when by the clock. -/
structure LogicChange where
  hdr : Hdr
  replace : Bool
  info : Option ProgInfo
  at_ : Nat
deriving DecidableEq, Repr

/-- The logic's part of a Quire beside the retain area (R304): the data and the output image of the most recent completed cycle, the forces,
and whether a change is pending. -/
structure LogicImage where
  data : Mem
  output : Mem
  forces : List Force
  pending : Bool
deriving DecidableEq, Repr

/-- The working copy of the data and retain areas in which a cycle executes (R288). -/
structure WorkCopy where
  data : Mem
  retain : Mem
deriving DecidableEq, Repr

/-- A copy of the retain mirror (R297), or the retain area as a Quire holds it (R304): the cycle and the program it belongs to, its bytes,
and whether it is complete with a right check code. -/
structure RetainCopy where
  cycle : Nat
  progId : Nat
  bytes : Mem
  valid : Bool
deriving DecidableEq, Repr

/-- A copy that holds nothing. -/
def noRetain (_ : Nat) : RetainCopy := ⟨0, 0, ⟨[]⟩, false⟩

/-- The Cyclic Logic Engine (R285 to R308). `phase` is 0 between cycles, 1 in the reply window, 2 in execution; `committed` is
the number of the last cycle that committed an output image, `work` the working copy of the cycle in execution, `written` the output image
as the program left it, without forces, `mirrorPage` the page of the mirror that is being written, `atBoot` that the restart that waits is
that of a reset, `frameArea` the frame-level values of the status area as the last frame
instant left them (R290), and `moveNs` the time that the swap of this cycle takes to move data (R301). -/
structure LogicState where
  slots : Store noProgram
  input : Mem
  output : Mem
  written : Mem
  data : Mem
  retain : Mem
  work : Option WorkCopy
  phase : Nat
  cycleAt : Nat
  period : Nat
  nextPeriod : Option Nat
  restart : Option Bool
  first : Nat
  committed : Option Nat
  divZero : Bool
  marks : Nats
  lateNext : Nat
  lateNow : Nat
  forces : List Force
  forceOps : List ForceOp
  change : Option LogicChange
  frameArea : List Byte
  moveNs : Nat
  report : List (List Byte)
  mirror : Store noRetain
  newest : Nat
  retainProg : Option Nat
  mirrorDue : Bool
  mirrorPage : Option Nat
  atBoot : Bool
deriving DecidableEq, Repr


/-! ### Field channels -/

/-- A received frame with its stamp and channel (R314, R525). -/
structure CanRec where
  stamp : Nat
  chan : Nat
  frame : CanFrame
deriving DecidableEq, Repr

/-- Where a matched frame goes (R315, R319): a receive buffer, an express buffer from 1,024 on, the channel FIFO, or the remote
input path. -/
inductive CanTarget where
  | buffer (n : Nat) | fifo | remote
deriving DecidableEq, Repr

/-- A receive buffer (R315, R525). -/
structure CanBuf where
  rec_ : Option CanRec
  overwritten : Bool
deriving DecidableEq, Repr

/-- A buffer that has held no frame. -/
def emptyBuf (_ : Nat) : CanBuf := ⟨none, false⟩
/-- An empty channel FIFO. -/
def emptyFifo (_ : Nat) : List CanRec := []

/-- A frame received and not yet delivered (R315): its record, its target, and its end of frame. -/
structure CanRx where
  rec_ : CanRec
  target : CanTarget
  eof : Nat
deriving DecidableEq, Repr

/-- A frame queued for transmission (R321): when it was queued, and the end of its lifetime. -/
structure TxItem where
  kind : TxKind
  frame : CanFrame
  from_ : Nat
  ends : Nat
deriving DecidableEq, Repr

/-- Nothing queued. -/
def emptyTx (_ : Nat) : List TxItem := []

/-- The last Folio turn as frames in progress know it (R313): its instant on both clocks, the Folio before it, and the channels that were on
the bus. -/
structure CanTurn where
  at_ : Nat
  mono : Nat
  folio : Folio
  live : List Nat
deriving DecidableEq, Repr

/-- The eight channels (R309 to R327): buffers 0 to 1,087, FIFOs, frames received and not yet delivered, transmit queues, the
frames lost in the second, the channels that wait for recessive bits after a change of timing, the last turn, when each channel went
bus-off, and the time its bus was busy in the second. -/
structure CanState where
  bufs : Store emptyBuf
  fifo : Store emptyFifo
  rx : List CanRx
  tx : Store emptyTx
  lost : Nats
  resync : Flags
  turned : Option CanTurn
  offAt : Nats
  busy : Nats
deriving DecidableEq, Repr


/-! ### The Spine -/

/-- A sender of authenticated datagrams (R337): the epoch recorded at the last reset and in MRAM, the last counter accepted and
those accepted within the 64 below it. -/
structure Sender where
  floor : Option Nat
  epoch : Option Nat
  last : Option Nat
  window : List Nat
deriving DecidableEq, Repr

/-- A sender never heard. -/
def newSender (_ : Nat) : Sender := ⟨none, none, none, []⟩

/-- A key slot that holds no key. -/
def noKey (_ : Nat) : List Byte := []

/-- A partner module (R341): its last valid heartbeat, how many frames it has been heard in without a gap, the frames in which
it was heard on each Spine port, since when, and the run of heartbeats of another frame. -/
structure Partner where
  last : Option Nat
  lastFrame : Nat
  run : Nat
  path0 : Option Nat
  path1 : Option Nat
  since : Nat
  mismatch : Nat
deriving DecidableEq, Repr

/-- A partner never heard. -/
def newPartner (_ : Nat) : Partner := ⟨none, 0, 0, none, none, 0, 0⟩

/-- A learned MAC address (R329). -/
structure MacEntry where
  mac : BitVec 48
  port : Nat
  at_ : Nat
deriving DecidableEq, Repr

/-- An entry of the duplicate table (R331). -/
structure DupEntry where
  src : BitVec 48
  seq : Nat
  at_ : Nat
deriving DecidableEq, Repr

/-- The Spine switch and host transport (R328 to R343). Senders 0 to 3 are the hosts, 4 to 6 the partners. `authTimes` are the rejected
datagrams of the last second and `authAt` the last report of one (R337, R343); `proxied` counts the frames that the module gave a
redundancy trailer or tag (R331). -/
structure SpineState where
  keys : Store noKey
  txCount : Nat
  senders : Store newSender
  partners : Store newPartner
  hbSent : Bool
  macs : List MacEntry
  dups : List DupEntry
  nodes : List (BitVec 48 × Nat)
  storm : Nats
  reassembly : List (Nat × Nat)
  supervisedAt : Nat
  authTimes : List Nat
  authAt : Option Nat
  proxied : Nat
deriving DecidableEq, Repr


/-! ### Lanes, the Referee and the Quire -/

/-- What a Quire holds for a restart or a join (R351), and what the staging image of the Endpaper repeats of it (R430): the frame and
its Catchword, the registers, the Collator, voting, vessel control with its registers as at tick D + 4, the Loop Engine as at the end of tick
0, the retain area of the logic with its program and what else of the logic it holds, the counter increments with the sequence of the copy they add to, and how many events were unacknowledged. -/
structure Checkpoint where
  frame : Nat
  catchword : W64
  regs : Regs
  coll : CollState
  vote : VoteState
  ctl : ControlState
  ctlRegs : Regs
  loop : LoopImage
  retain : RetainCopy
  logic : LogicImage
  lifeBase : Nat
  life : Nats
  unacked : Nat
deriving DecidableEq, Repr

/-- A slot of the checkpoint SRAM (R352): its Quire, none without a commit record, and when it was committed. -/
structure QuireSlot where
  image : Option Checkpoint
  at_ : Nat
deriving DecidableEq, Repr

/-- A slot that holds no commit record. -/
def noQuire (_ : Nat) : QuireSlot := ⟨none, 0⟩

/-- The lanes and the Referee (R344 to R374). `fold` folds the tick digests (R349); `ctlMark` is the vessel controller with the
registers as at tick D + 4, `writing` the Quire that waits for its commit record; `rapid` holds while Rapid Check runs, `resume` from its verdict to the next tick, `tickHold` when the next tick is
held without one, `rapidFrom` and `rapidTo` bound the ticks of the frame whose instants fell inside it, `rapidFailed` the lanes that reported a fault during it, `promote` when the partner takes duty after that tick, `ownerAt` when a fault last
changed the owner (R27); `held` counts the ticks held since the last agreed one.
`byRotation`, `live`, `waitQuire`, `tries` and `joinAt` belong to the lane that wakes or joins. -/
structure LaneState where
  fold : W64
  quireDue : Bool
  ctlMark : Option (ControlState × Regs)
  writing : Option (Nat × Checkpoint)
  writeAt : Nat
  committed : Bool
  quires : Store noQuire
  latest : Option Nat
  differ : Option Differs
  rapid : Bool
  rapidAt : Nat
  rapidFailed : Flags
  rapidFrom : Nat
  rapidTo : Nat
  resume : Bool
  tickHold : Bool
  promote : Bool
  ownerAt : Option Nat
  held : Nat
  byRotation : Bool
  live : Bool
  waitQuire : Bool
  tries : Nat
  joinAt : Nat
  release : Option Nat
  silences : NatLists
  causes : Nats
  rotation : Option Nat
  requests : List Hdr
  commanded : Option Nat
  retiring : Option Nat
  lastDuty : Nat
  lastPartner : Nat
  scrub : Nats
  sampled : Bool
deriving DecidableEq, Repr

/-! ### The Safety Monitor -/

/-- A pair of safe inputs (R379, R381): the levels of its channels, since when each holds, and since when the pair is HIGH. -/
structure SafePair where
  a : Bool
  b : Bool
  aSince : Nat
  bSince : Nat
  highAt : Nat
deriving DecidableEq, Repr

/-- A pair whose channels are low. -/
def lowPair (_ : Nat) : SafePair := ⟨false, false, 0, 0, 0⟩

/-- A safe encoder input (R382 to R384): the last 17 counts, newest first, whether the last latch was bad, when a latch last
was, and the count at the index mark. -/
structure SafeEnc where
  counts : List Int
  bad : Bool
  badAt : Nat
  mark : Int
deriving DecidableEq, Repr

/-- An encoder never latched. -/
def idleEncoder (_ : Nat) : SafeEnc := ⟨[], false, 0, 0⟩

/-- What the Safety Monitor keeps of a group beside its status (R385, R523): the functions of R385 whose condition held in the
last cycle (bits 0 SLS, 1 SDI, 2 SLP, 3 POS_UNREFERENCED), and whether it has been RESET_ARMED since it was locked out. -/
structure SafeGroup where
  viol : Nat
  wasArmed : Bool
deriving DecidableEq, Repr

/-- A group that nothing has violated. -/
def idleGroup (_ : Nat) : SafeGroup := ⟨0, false⟩

/-- A safe output (R392, R393): when it was last switched, when its readback was last wrong, the switch of its next off-pulse and
the end of the interval in which an off-pulse is judged instead. -/
structure SafeOut where
  since : Nat
  wrongAt : Nat
  second : Bool
  pulsed : Option Nat
deriving DecidableEq, Repr

/-- An output that is off. -/
def idleOutput (_ : Nat) : SafeOut := ⟨0, 0, false, none⟩

/-- A CMD_SAFE_ACK that the next safety cycle evaluates, and when it came (R402). -/
structure AckReq where
  hdr : Hdr
  mask : Nat
  challenge : Nat
  tag : List Byte
  at_ : Nat
deriving DecidableEq, Repr

/-- The Safety Monitor (R375 to R404): whether it has read its safety section and ended its self-test, the section it runs, its
key and the two copies of the confirmed Colophon with their sequences, the end of the acknowledge window, the groups armed under
the last challenge, the commands that wait for a cycle, and whether the challenge is current. -/
structure SafeState where
  read : Bool
  tested : Bool
  sec : Regs
  key : List Byte
  conf0 : Nat × W32
  conf1 : Nat × W32
  pairs : Store lowPair
  encs : Store idleEncoder
  groups : Store idleGroup
  outs : Store idleOutput
  window : Nat
  armed : Nat
  ack : List AckReq
  current : Bool
deriving DecidableEq, Repr

/-! ### Supply and the Budget Governor -/

/-- An Endpaper slot (R429, R430): its sequence, the trip (cause, Station Time, clock, frame), the live fields of time, the staging image of the latest committed Quire and the
fault log. -/
structure Endpaper where
  valid : Bool
  seq : Nat
  cause : Nat
  at_ : Nat
  clock : Nat
  frame : Nat
  status : Nat
  bound : Nat
  tb3off : Int
  ocxo : Int
  image : Option Checkpoint
  ring : List FaultRec
deriving DecidableEq, Repr

/-- A slot that holds no valid Endpaper. -/
def noEndpaper (_ : Nat) : Endpaper := ⟨false, 0, 0, 0, 0, 0, 0, 0, 0, 0, none, []⟩

/-- What the governor latches at F+19.5 (R434): the instant on the clock, the feeds SPN0, SPN1 and AUX in the codes of
power.feed_status, the two temperatures, the cap of CMD_BUDGET_CAP, whether the upward hold has elapsed at this latch, and whether its
commit record is complete (R27). -/
structure Latch where
  at_ : Nat
  feeds : List Nat
  base : Int
  die : Int
  cap : Option Nat
  step : Bool
  recorded : Bool
deriving DecidableEq, Repr

/-- The supply and the Budget Governor (R422 to R442): the feeds as they are and the one that carries the load, the thermal caps in
force, the input power of the last 50 frames, the latch of the frame, the start of the upward hold, whether a latch has been
applied since reset, the cap of CMD_BUDGET_CAP, the Endpaper slots and the one being written, the instant of the trip in force and of the last
sag that tripped, and the frames spent in each state. -/
structure PowerState where
  feeds : List Nat
  load : Nat
  bpCap : Nat
  dieCap : Nat
  history : List Nat
  latch : Option Latch
  holdFrom : Option Nat
  started : Bool
  cmdCap : Option Nat
  slots : Store noEndpaper
  writing : Option Endpaper
  tripAt : Nat
  sagAt : Nat
  frames : Nats
deriving DecidableEq, Repr

/-! ### The whole state -/

/-- The reasons a step can stop with a fault: none. No meaning raises a fault; every row has its effect. -/
inductive Fault where
deriving DecidableEq, Repr

/-- The reasons a step can be refused. -/
inductive Refusal where
  /-- Raised by an arm of exec whose meaning is not written yet. Safe: nothing is claimed of the command. -/
  | notModelled (mnemonic : String)
deriving DecidableEq, Repr

/-- The state of the block. -/
structure State where
  /-- The commands that wait, first in, first out. -/
  pending : List Instr
  /-- How many free values have been used (log entry 3). -/
  free : Nat
  /-- What the last command drove onto pins, buses and links (log entry 4). -/
  outputs : List Output
  /-- The converters run (R426). -/
  powered : Bool
  /-- Every RO and W1C parameter field. -/
  regs : Regs
  folioA : Folio
  folioB : Folio
  host : HostPort
  turn : TurnState
  fw : FwState
  boot : BootState
  fault : FaultState
  life : LifeState
  time : TimeState
  gnss : GnssState
  inp : InputState
  coll : CollState
  vote : VoteState
  solv : SolverState
  ctl : ControlState
  loop : LoopState
  logic : LogicState
  can : CanState
  spine : SpineState
  lane : LaneState
  safe : SafeState
  power : PowerState
deriving DecidableEq, Repr

/-! ### Reset -/

/-- The host port after reset (R451): RESET is set. -/
def HostPort.reset : HostPort :=
  { irq := 4096, irqEnable := 0, scratch := 0, linkErrors := 0, stSecHi := 0, stNs := 0,
    mirrors := ⟨0, 0, 0, 0, 0, 0, 0x1000, 0, 0, 3⟩, mbx := ⟨[]⟩, queue := [], nextSeq := 0, wrapped := false, lostSince := 0,
    lostSeq := 0, lostSecond := none, kept := ⟨[]⟩, outstanding := ⟨[]⟩, nextResend := 0, resending := [], resentFrame := none, waiting := [], withheld := [] }

/-- A Folio whose parameters are at their reset values and whose sections are missing. -/
def emptyFolio : Folio := ⟨⟨[]⟩, ⟨0, ⟨[]⟩⟩, ⟨0, ⟨[]⟩⟩⟩

/-- The Folio turn after reset. -/
def TurnState.reset : TurnState :=
  { pending := false, hdr := none, prepared := none, commits := [], sealFrame := none }

/-- Firmware after reset: no image is known (log entry 2). -/
def FwState.reset : FwState :=
  { slots := ⟨[]⟩, trialSlot := none, attempts := 0, size := 0, digest := [], blocksThisFrame := 0, beginHdr := none,
    commitHdr := none, trialFrames := 0 }

/-- Start-up after a power-on. -/
def BootState.reset : BootState :=
  { resetAt := none, settle := 0, resume := none, fatalTimes := [], heldReset := false, unitsFaulted := [] }

/-- The fault collector after power-on. -/
def FaultState.reset : FaultState :=
  { ring := [], disagreements := 0, minute := ⟨[]⟩, hour := ⟨[]⟩, disarmed := ⟨[]⟩, times := ⟨[]⟩, escalated := ⟨[]⟩,
    injected := [], holds := [], bus := [], absent := [], minuteAt := none }

/-- Lifetime data of a module that has none (log entry 2). -/
def LifeState.reset : LifeState :=
  { committed := ⟨[]⟩, copySeq := 0, older := ⟨[]⟩, olderSeq := 0, accrued := ⟨[]⟩, sinceCommit := 0, saturated := ⟨[]⟩, leaps := [], said := [],
    ring := [], raw := [], carry := [], carryAt := 0, carryPacked := false, lostSince := 0, lostSecond := none, resetMark := false,
    pages := [], nextPage := 0, pagesThisFrame := 0, block := none, used := 0, retired := [], erases := ⟨[]⟩, wearErases := false, wearRetired := false, rtcValid := false, rtcUtc := 0,
    rtcDue := false, markDue := false, actRan := 0, actFrames := ⟨[]⟩ }

/-- Station Time after a reset with no valid RTC: TB0 and TB3 are 0 (R56), and the first frame instant is the next event. -/
def TimeState.reset : TimeState :=
  { tb0 := 0, mono := 0, tb3off := 0, frameAt := 0, tickDue := 160, tickOrigin := 0, tickEnd := 160, ptp := Source.none,
    tb1 := Source.none, tb2 := Source.none, step := none, anySource := false, resetAt := 0,
    convergingSince := 0, remaining := 0, freq := 0, freqRest := 0, slewRest := 0, e0 := 0, holdStart := 0, holdTemp := 0, ocxo := 0, overTb1 := none, overTb2 := none,
    withinSince := 0, ppsEdge := none, ppsRate := 0, ppsRest := 0, ppsHigh := false, ppsFall := 0, masterKind := 4, masterParent := none,
    stepped := none, tb2Delays := [] }

/-- The GNSS basebands after reset: off. -/
def GnssState.reset : GnssState :=
  { on := ⟨[]⟩, starting := ⟨[]⟩, bias := ⟨[]⟩, class_ := ⟨[]⟩, alloc := ⟨[]⟩, sky := [], ephs := [], almanac := ⟨[]⟩, lastFix := ⟨[]⟩,
    sbas := [], scales := ⟨[]⟩, leap := none, records := [], fixes := [], timeGood := ⟨[]⟩, timeBad := ⟨[]⟩, timeOk := ⟨[]⟩, layupReq := none, wakeReq := none,
    layup := false, layupEnd := none, layupHours := 0, nextWake := 0, wakeSince := none, wakeRx := 0, wakeEphs := 0 }

/-- The sensor inputs after reset: off. -/
def InputState.reset : InputState :=
  { ain := ⟨[]⟩, imuUsed := ⟨[]⟩, imuSeq := ⟨[]⟩, lastSample := ⟨[]⟩, count := ⟨[]⟩, seq := ⟨[]⟩, usedEdge := ⟨[]⟩,
    trigEdge := ⟨[]⟩, edges := ⟨[]⟩, trigHigh := ⟨[]⟩, trigFall := ⟨[]⟩, trigFrom := ⟨[]⟩, latest := ⟨[]⟩ }

/-- The Collator after reset: INITIALISING. -/
def CollState.reset : CollState :=
  { ledger := [], freed := ⟨[]⟩, seq := 0, droppedThisFrame := false, closedUpTo := 0, closed := false, barrier := 0, barrierKind := .restore,
    filter := zeroFilter, stored := [], unrevised := [], live := [], work := none, offload := .none, updatesLost := false,
    discards := [], gap := false, pos := [], hdg := [], low := ⟨0, 0, 0, 0, 0, 0, 0, 0, 0⟩, heave := [],
    hidden := List.replicate 256 0, dnOut := [], dnInputs := [], dnForce := [], rls := [], filterFault := false, shed := false, tipped := false, held := false,
    imuSwitched := false, restored := false, initialising := true, rxBad := ⟨[]⟩, rxGood := ⟨[]⟩, dnWarm := none,
    dnFault := false, blocked := false, inside := 0, fadeFrom := 0, fadeStep := 0, suspended := 0, weight := 0, target := 0,
    filtered := ⟨[]⟩, axes := ⟨[]⟩, estimate := [], estPresent := false, published := false }

/-- Voting after reset: no reference and no operator choice. -/
def VoteState.reset : VoteState := { refs := ⟨[]⟩, groups := ⟨[]⟩, requests := [], voted := false, applied := ⟨[]⟩ }

/-- The Solver Cluster after reset. -/
def SolverState.reset : SolverState :=
  { powered := ⟨[]⟩, poweredAt := ⟨[]⟩, jobFrom := ⟨[]⟩, scratch := ⟨[]⟩, desc := ⟨[]⟩, rejects := ⟨[]⟩, tested := ⟨[]⟩,
    posed := false, isOpen := false, openedAt := 0, form := 0, status := 0,
    iter := 0, candidate := 0, problem := none, point := ⟨[], []⟩, best := none, next := .none, blocks := [], factors := [], batch := [], excess := [],
    crew := [], violation := 0, jobSeq := 0, last := ⟨none, false, false, false, false, false, none⟩, held := [], regUsed := false, fallUnit := none,
    openSectors := [], sides := 0, diverging := 0, ended := none, infeasible := false, group := 0, worst := 0, infeasRun := false,
    fallRun := false, fallReason := none, notStale := 0, clearStats := false }

/-- The vessel controller after reset. -/
def ControlState.reset : ControlState :=
  { requests := [], record := [], counter := 0, asked := none, heading := 0, track := [], joyX := 0, joyY := 0, joyN := 0, joyAt := 0,
    manual := ⟨[]⟩, blockedBy := ⟨[]⟩, legs := [], moved := 0, plan := none, force := [0, 0, 0], windForce := [0, 0, 0], network := [0, 0, 0], absentRun := false, scaled := ⟨[]⟩, published := none, spPublished := false }

/-- No loop has run. -/
def LoopImage.reset : LoopImage := ⟨⟨[]⟩, ⟨[]⟩, none, 0, none, ⟨[]⟩⟩

/-- The Loop Engine after reset: every loop cold-initialises (R281). -/
def LoopState.reset : LoopState :=
  { rt := ⟨[]⟩, record := none, n := 0, frozen := none, missRun := false, applied := false, counters := ⟨[]⟩, test := none,
    captures := ⟨[]⟩, nonfinite := ⟨[]⟩, aout := ⟨[]⟩, payload := ⟨[]⟩, image := LoopImage.reset }

/-- The Cyclic Logic Engine after reset: EMPTY, with the period of logic.cycle_period's reset value. -/
def LogicState.reset : LogicState :=
  { slots := ⟨[]⟩, input := ⟨[]⟩, output := ⟨[]⟩, written := ⟨[]⟩, data := ⟨[]⟩, retain := ⟨[]⟩, work := none,
    phase := 0, cycleAt := 0, period := 2,
    nextPeriod := none, restart := none, first := 0, committed := none, divZero := false, marks := ⟨[]⟩, lateNext := 0,
    lateNow := 0, forces := [], forceOps := [], change := none, frameArea := [], moveNs := 0, report := [], mirror := ⟨[]⟩, newest := 0, retainProg := none,
    mirrorDue := false, mirrorPage := none, atBoot := false }

/-- The field channels after reset. -/
def CanState.reset : CanState :=
  { bufs := ⟨[]⟩, fifo := ⟨[]⟩, rx := [], tx := ⟨[]⟩, lost := ⟨[]⟩, resync := ⟨[]⟩, turned := none, offAt := ⟨[]⟩, busy := ⟨[]⟩ }

/-- The Spine after reset: no key, no sender known. -/
def SpineState.reset : SpineState :=
  { keys := ⟨[]⟩, txCount := 0, senders := ⟨[]⟩, partners := ⟨[]⟩, hbSent := false, macs := [], dups := [], nodes := [],
    storm := ⟨[]⟩, reassembly := [], supervisedAt := 0, authTimes := [], authAt := none, proxied := 0 }

/-- The lanes after reset: every lane OFF, no Quire, and no rotation on record. -/
def LaneState.reset : LaneState :=
  { fold := 0, quireDue := false, ctlMark := none, writing := none, writeAt := 0, committed := false, quires := ⟨[]⟩, latest := none, differ := none,
    rapid := false, rapidAt := 0, rapidFailed := ⟨[]⟩, rapidFrom := 0, rapidTo := 0, resume := false, tickHold := false, promote := false, ownerAt := none, held := 0, byRotation := false, live := false,
    waitQuire := false, tries := 0, joinAt := 0, release := none, silences := ⟨[]⟩, causes := ⟨[]⟩, rotation := none, requests := [], commanded := none, retiring := none,
    lastDuty := 0, lastPartner := 1, scrub := ⟨[]⟩, sampled := false }

/-- The Safety Monitor after power-on: it has read no section, and its start-up self-test runs (R391). -/
def SafeState.reset : SafeState :=
  { read := false, tested := false, sec := ⟨[]⟩, key := [], conf0 := (0, 0), conf1 := (0, 0), pairs := ⟨[]⟩, encs := ⟨[]⟩,
    groups := ⟨[]⟩, outs := ⟨[]⟩, window := 0, armed := 0, ack := [], current := false }

/-- The Budget Governor after reset: Survival until the first latch (R438). -/
def PowerState.reset : PowerState :=
  { feeds := [0, 0, 0], load := 3, bpCap := 0, dieCap := 0, history := [], latch := none, holdFrom := none, started := false,
    cmdCap := none, slots := ⟨[]⟩, writing := none, tripAt := 0, sagAt := 0, frames := ⟨[]⟩ }

/-- While the Safety Monitor has not read its section, all eight groups read LOCKED_OUT with cause START (R391). -/
def startGroups (r : Regs) : Regs :=
  (List.range 8).foldl (fun (r : Regs) g => (r.set ((0xB130 + g) * 64) 2).set ((0xB130 + g) * 64 + 2) 1) r

/-- No lane has a role (R290) until boot assigns them. -/
def noRoles (r : Regs) : Regs := r.set (0xA000 * 64) 0x3F

/-- The machine right after a power-on reset, in BOOT: every register at the value of its table (and of log entry 2), the queue
empty. -/
def State.reset : State :=
  { pending := [], free := 0, outputs := [], powered := true, regs := noRoles (startGroups ⟨[]⟩), folioA := emptyFolio,
    folioB := emptyFolio, host := .reset, turn := .reset, fw := .reset, boot := .reset, fault := .reset, life := .reset,
    time := .reset, gnss := .reset, inp := .reset, coll := .reset, vote := .reset, solv := .reset, ctl := .reset,
    loop := .reset, logic := .reset, can := .reset, spine := .reset, lane := .reset, safe := .reset, power := .reset }

end Sys2Proof.Machine
end

