-- ==== Sys2Proof/Machine/Fields.lean ====
section
/-! DEFINITION. The names of the register fields: for each field of each parameter, its ID, low bit and width, with the
element index where the parameter has elements. -/

namespace Sys2Proof.Machine.F

/-- R3, RO. -/
abbrev devMemberCode : Fld := ⟨0x0000, 0, 16⟩
/-- R3, RO. -/
abbrev devModuleRev : Fld := ⟨0x0001, 0, 8⟩
/-- R3, RO. -/
abbrev devFwVersion : Fld := ⟨0x0002, 0, 32⟩
/-- R3, RO. -/
abbrev devSerial : Fld := ⟨0x0003, 0, 64⟩
/-- R469, RO. -/
abbrev devFolioActive : Fld := ⟨0x0010, 0, 1⟩
/-- R469, RO. -/
abbrev devFolioShadow : Fld := ⟨0x0010, 1, 2⟩
/-- R469, RO. -/
abbrev devFolioTurn : Fld := ⟨0x0010, 3, 2⟩
/-- R469, RO. -/
abbrev devFolioNone : Fld := ⟨0x0010, 5, 1⟩
/-- R469, RO. -/
abbrev devFolioCrc : Fld := ⟨0x0011, 0, 32⟩
/-- R469, RO. -/
abbrev devFolioTurns : Fld := ⟨0x0012, 0, 32⟩
/-- R469, RO. -/
abbrev devFolioFailId : Fld := ⟨0x0013, 0, 16⟩
/-- R469, RO. -/
abbrev devFolioFailElem : Fld := ⟨0x0013, 16, 14⟩
/-- R469, RO. -/
abbrev devFolioTurnFrame : Fld := ⟨0x0014, 0, 32⟩
/-- R469, RO. -/
abbrev devFwSlotRunning : Fld := ⟨0x0018, 0, 1⟩
/-- R469, RO. -/
abbrev devFwSlotGood : Fld := ⟨0x0018, 1, 1⟩
/-- R469, RO. -/
abbrev devFwSlotTrial : Fld := ⟨0x0018, 2, 1⟩
/-- R469, RO. -/
abbrev devFwSlotOpen : Fld := ⟨0x0018, 3, 1⟩
/-- R469, RO. -/
abbrev devFwSlotCommitted : Fld := ⟨0x0018, 4, 1⟩
/-- R469, RO. -/
abbrev devFwVersionOther : Fld := ⟨0x0019, 0, 32⟩
/-- R469, RO. -/
abbrev devFwNextOffset : Fld := ⟨0x001A, 0, 25⟩
/-- R469, RS. -/
abbrev devFwTrialTime : Fld := ⟨0x001B, 0, 10⟩
/-- R469, RS. -/
abbrev devEventResend : Fld := ⟨0x0020, 0, 11⟩
/-- R469, RO. -/
abbrev devEventQueuedAll : Fld := ⟨0x0021, 0, 11⟩
/-- R469, RO. -/
abbrev devEventQueuedAlarm : Fld := ⟨0x0021, 16, 11⟩
/-- R469, RO. -/
abbrev devEventSeq : Fld := ⟨0x0022, 0, 32⟩
/-- R469, RO. -/
abbrev devEventLost : Fld := ⟨0x0023, 0, 32⟩
/-- R469, RO. -/
abbrev devEventMerged : Fld := ⟨0x0024, 0, 32⟩
/-- R469, RO. -/
abbrev devEventWraps : Fld := ⟨0x0025, 0, 32⟩
/-- R469, RO. -/
abbrev devMsgErrors : Fld := ⟨0x0026, 0, 32⟩
/-- R505, RO. -/
abbrev devState : Fld := ⟨0x0030, 0, 3⟩
/-- R505, RO. -/
abbrev devResetCause : Fld := ⟨0x0031, 0, 3⟩
/-- R505, RO. -/
abbrev devResetCauseWarm : Fld := ⟨0x0031, 3, 1⟩
/-- R505, RO. -/
abbrev devFatalResets : Fld := ⟨0x0032, 0, 2⟩
/-- R505, RS. -/
abbrev devStartSettle : Fld := ⟨0x0033, 0, 12⟩
/-- R505, RS. -/
abbrev devResumeMode : Fld := ⟨0x0034, 0, 1⟩
/-- R33, RO. -/
abbrev timeStSeconds : Fld := ⟨0x1000, 0, 48⟩
/-- R33, RO. -/
abbrev timeStNanoseconds : Fld := ⟨0x1001, 0, 32⟩
/-- R33, RO. -/
abbrev timeFrameNumber : Fld := ⟨0x1002, 0, 32⟩
/-- R33, RO. -/
abbrev timeFrameEpoch : Fld := ⟨0x1003, 0, 16⟩
/-- R33, RO. -/
abbrev timeFrameIndex : Fld := ⟨0x1004, 0, 6⟩
/-- R33, RO. -/
abbrev timeGridStatusProvisional : Fld := ⟨0x1005, 0, 1⟩
/-- R33, RO. -/
abbrev timeGridStatusStepPending : Fld := ⟨0x1005, 1, 1⟩
/-- R80, RS. -/
abbrev timeSourcePrimary : Fld := ⟨0x1010, 0, 1⟩
/-- R80, RS. -/
abbrev timePtpDomain : Fld := ⟨0x1011, 0, 8⟩
/-- R80, RS. -/
abbrev timePtpDomainRedundant : Fld := ⟨0x1012, 0, 8⟩
/-- R80, RS. -/
abbrev timePtpProfile : Fld := ⟨0x1013, 0, 1⟩
/-- R80, RS. -/
abbrev timeGnssFallback : Fld := ⟨0x1014, 0, 1⟩
/-- R80, RS. -/
abbrev timeSyncLossTimeout : Fld := ⟨0x1015, 0, 16⟩
/-- R80, RS. -/
abbrev timeMaxGmClass : Fld := ⟨0x1016, 0, 8⟩
/-- R80, RS. -/
abbrev timeJumpLimit : Fld := ⟨0x1017, 0, 16⟩
/-- R80, RS. -/
abbrev timeAcquireTimeout : Fld := ⟨0x1018, 0, 16⟩
/-- R80, RS. -/
abbrev timeRevertHold : Fld := ⟨0x1019, 0, 16⟩
/-- R80, RS. -/
abbrev timeHoldoverRate : Fld := ⟨0x101A, 0, 16⟩
/-- R80, RS. -/
abbrev timeHoldoverAging : Fld := ⟨0x101B, 0, 16⟩
/-- R80, RS. -/
abbrev timeHoldoverTempCoeff : Fld := ⟨0x101C, 0, 16⟩
/-- R80, RS. -/
abbrev timeCrosscheckLimit : Fld := ⟨0x101D, 0, 16⟩
/-- R80, RS. -/
abbrev timePpsWidth : Fld := ⟨0x101E, 0, 9⟩
/-- R80, RS. -/
abbrev timePpsCableDelay : Fld := ⟨0x101F, 0, 11⟩
/-- R80, RS. -/
abbrev timeSpn0Asymmetry : Fld := ⟨0x1020, 0, 16⟩
/-- R80, RS. -/
abbrev timeSpn1Asymmetry : Fld := ⟨0x1021, 0, 16⟩
/-- R80, RS. -/
abbrev timeGmEnable : Fld := ⟨0x1022, 0, 1⟩
/-- R80, RS. -/
abbrev timeGmPriority1 : Fld := ⟨0x1023, 0, 8⟩
/-- R80, RS. -/
abbrev timeGmPriority2 : Fld := ⟨0x1024, 0, 8⟩
/-- R80, RS. -/
abbrev timeTodBaud : Fld := ⟨0x1025, 0, 2⟩
/-- R80, RO. -/
abbrev timeStatusSource : Fld := ⟨0x1030, 0, 3⟩
/-- R80, RO. -/
abbrev timeStatusLocked : Fld := ⟨0x1030, 3, 1⟩
/-- R80, RO. -/
abbrev timeStatusConverging : Fld := ⟨0x1030, 4, 1⟩
/-- R80, RO. -/
abbrev timeStatusHoldover : Fld := ⟨0x1030, 5, 1⟩
/-- R80, RO. -/
abbrev timeStatusCrosscheckFail : Fld := ⟨0x1030, 6, 1⟩
/-- R80, RO. -/
abbrev timeStatusAcquired : Fld := ⟨0x1030, 7, 1⟩
/-- R80, RO. -/
abbrev timeErrorBound : Fld := ⟨0x1031, 0, 32⟩
/-- R80, RO. -/
abbrev timeOffsetTb1 : Fld := ⟨0x1032, 0, 32⟩
/-- R80, RO. -/
abbrev timeOffsetTb2 : Fld := ⟨0x1033, 0, 32⟩
/-- R80, RO. -/
abbrev timeOffsetTb3 : Fld := ⟨0x1034, 0, 64⟩
/-- R80, RO. -/
abbrev timeRemainingSlew : Fld := ⟨0x1035, 0, 32⟩
/-- R80, RO. -/
abbrev timePpsQuant : Fld := ⟨0x1036, 0, 16⟩
/-- R80, RO. -/
abbrev timeSourceSwitches : Fld := ⟨0x1037, 0, 32⟩
/-- R100, RS. -/
abbrev gnssEnableMask : Fld := ⟨0x2000, 0, 3⟩
/-- R100, RS. -/
abbrev gnssConstellationMask : Fld := ⟨0x2001, 0, 6⟩
/-- R100, RS. -/
abbrev gnssSignalMask : Fld := ⟨0x2002, 0, 14⟩
/-- R100, RS. -/
abbrev gnssElevationMask : Fld := ⟨0x2003, 0, 16⟩
/-- R100, RS. -/
abbrev gnssCn0Mask : Fld := ⟨0x2004, 0, 16⟩
/-- R100, RS. -/
abbrev gnssSbasEnable : Fld := ⟨0x2005, 0, 1⟩
/-- R100, RS. -/
abbrev gnssLeanReceiver : Fld := ⟨0x2006, 0, 2⟩
/-- R100, RS. -/
abbrev gnssLayupWakeInterval : Fld := ⟨0x2007, 0, 4⟩
/-- R100, RS. -/
abbrev gnssLayupReceiver : Fld := ⟨0x2008, 0, 2⟩
/-- R100, RS. -/
abbrev gnssAntSeparationMin : Fld := ⟨0x2009, 0, 16⟩
/-- R100, RS. -/
abbrev gnssAntDelay (n : Nat) : Fld := ⟨0x2010 + n, 0, 16⟩
/-- R100, RS. -/
abbrev gnssAntLever (n : Nat) (m : Nat) : Fld := ⟨0x2020 + 4 * n + m, 0, 32⟩
/-- R100, RS. -/
abbrev gnssAntGroup (n : Nat) : Fld := ⟨0x2030 + n, 0, 2⟩
/-- R100, RS. -/
abbrev gnssAntBias (n : Nat) : Fld := ⟨0x2034 + n, 0, 1⟩
/-- R100, RO. -/
abbrev gnssRxStatusState (n : Nat) : Fld := ⟨0x2040 + n, 0, 4⟩
/-- R100, RO. -/
abbrev gnssRxStatusChannels (n : Nat) : Fld := ⟨0x2040 + n, 8, 8⟩
/-- R100, RO. -/
abbrev gnssRxSvUsed (n : Nat) : Fld := ⟨0x2044 + n, 0, 8⟩
/-- R100, RO. -/
abbrev gnssAgc (n : Nat) : Fld := ⟨0x2048 + n, 0, 24⟩
/-- R100, RO. -/
abbrev gnssIndependence : Fld := ⟨0x204C, 0, 3⟩
/-- R100, RO. -/
abbrev gnssLayupStatusState : Fld := ⟨0x204D, 0, 2⟩
/-- R100, RO. -/
abbrev gnssLayupStatusRemaining : Fld := ⟨0x204D, 16, 16⟩
/-- R100, RO. -/
abbrev gnssEphemerisAge : Fld := ⟨0x204E, 0, 16⟩
/-- R100, RO. -/
abbrev gnssSlipCount (n : Nat) : Fld := ⟨0x2050 + n, 0, 32⟩
/-- R100, RO. -/
abbrev gnssTimeContrib : Fld := ⟨0x2054, 0, 3⟩
/-- R128, RS. -/
abbrev inpAinMode (n : Nat) : Fld := ⟨0x3000 + n, 0, 2⟩
/-- R128, RS. -/
abbrev inpAinPreset (n : Nat) : Fld := ⟨0x3010 + n, 0, 2⟩
/-- R128, RS. -/
abbrev inpAinSource (n : Nat) : Fld := ⟨0x3020 + n, 0, 2⟩
/-- R128, RO. -/
abbrev inpAinStatus (n : Nat) : Fld := ⟨0x3030 + n, 0, 3⟩
/-- R128, RO. -/
abbrev inpAinOverrangeCount (n : Nat) : Fld := ⟨0x3040 + n, 0, 32⟩
/-- R128, RS. -/
abbrev inpImuRate (n : Nat) : Fld := ⟨0x3100 + n, 0, 3⟩
/-- R128, RS. -/
abbrev inpImuBaud (n : Nat) : Fld := ⟨0x3104 + n, 0, 2⟩
/-- R128, RS. -/
abbrev inpImuOffset (n : Nat) : Fld := ⟨0x3108 + n, 0, 32⟩
/-- R128, RO. -/
abbrev inpImuStatus (n : Nat) : Fld := ⟨0x310C + n, 0, 2⟩
/-- R128, RO. -/
abbrev inpImuErrors (n : Nat) : Fld := ⟨0x3110 + n, 0, 32⟩
/-- R128, RS. -/
abbrev inpTrigPeriod (n : Nat) : Fld := ⟨0x3200 + n, 0, 5⟩
/-- R128, RS. -/
abbrev inpTrigWidth (n : Nat) : Fld := ⟨0x3208 + n, 0, 10⟩
/-- R128, RS. -/
abbrev inpTrigAdvance (n : Nat) : Fld := ⟨0x3210 + n, 0, 17⟩
/-- R128, RS. -/
abbrev inpTrigPolarity (n : Nat) : Fld := ⟨0x3218 + n, 0, 1⟩
/-- R128, RS. -/
abbrev inpSerBaud (n : Nat) : Fld := ⟨0x3300 + n, 0, 2⟩
/-- R128, RS. -/
abbrev inpEthModeSpeed (n : Nat) : Fld := ⟨0x3310 + n, 0, 2⟩
/-- R128, RS. -/
abbrev inpEthModeRole (n : Nat) : Fld := ⟨0x3310 + n, 2, 1⟩
/-- R128, RS. -/
abbrev inpL450Group (n : Nat) : Fld := ⟨0x3320 + n, 0, 32⟩
/-- R128, RS. -/
abbrev inpL450Udp (n : Nat) : Fld := ⟨0x3324 + n, 0, 16⟩
/-- R128, RS. -/
abbrev inpDgramPort : Fld := ⟨0x3330, 0, 16⟩
/-- R128, RS. -/
abbrev inpStreamSourceIndex (n : Nat) : Fld := ⟨0x3400 + n, 0, 4⟩
/-- R128, RS. -/
abbrev inpStreamSourceKind (n : Nat) : Fld := ⟨0x3400 + n, 4, 4⟩
/-- R128, RS. -/
abbrev inpStreamSourceSelector (n : Nat) : Fld := ⟨0x3400 + n, 8, 8⟩
/-- R128, RS. -/
abbrev inpStreamTimingCls (n : Nat) : Fld := ⟨0x3430 + n, 0, 2⟩
/-- R128, RS. -/
abbrev inpStreamTimingTrigger (n : Nat) : Fld := ⟨0x3430 + n, 4, 3⟩
/-- R128, RS. -/
abbrev inpStreamLatency (n : Nat) : Fld := ⟨0x3460 + n, 0, 20⟩
/-- R128, RS. -/
abbrev inpStreamTimeout (n : Nat) : Fld := ⟨0x3490 + n, 0, 16⟩
/-- R128, RO. -/
abbrev inpStreamStatus (n : Nat) : Fld := ⟨0x34C0 + n, 0, 3⟩
/-- R128, RS. -/
abbrev inpL450Src (n : Nat) : Fld := ⟨0x3500 + n, 0, 48⟩
/-- R128, RO. -/
abbrev inpStreamRejects (n : Nat) : Fld := ⟨0x3530 + n, 0, 32⟩
/-- R128, RO. -/
abbrev inpLedgerLoad : Fld := ⟨0x35F0, 0, 16⟩
/-- R165, RS. -/
abbrev collImuOrder : Fld := ⟨0x4000, 0, 8⟩
/-- R165, RS. -/
abbrev collGate : Fld := ⟨0x4001, 0, 16⟩
/-- R165, RS. -/
abbrev collRxRejectFrac : Fld := ⟨0x4002, 0, 7⟩
/-- R165, RS. -/
abbrev collRxInconsistentFrames : Fld := ⟨0x4003, 0, 8⟩
/-- R165, RS. -/
abbrev collRxRecoverFrames : Fld := ⟨0x4004, 0, 16⟩
/-- R165, RS. -/
abbrev collTipinDepth : Fld := ⟨0x4005, 0, 4⟩
/-- R165, RS. -/
abbrev collFuseBudget : Fld := ⟨0x4006, 0, 11⟩
/-- R165, RS. -/
abbrev collOffload : Fld := ⟨0x4007, 0, 1⟩
/-- R165, RS. -/
abbrev collQWiden : Fld := ⟨0x4008, 0, 8⟩
/-- R165, RS. -/
abbrev collRestoreMaxAge : Fld := ⟨0x4009, 0, 8⟩
/-- R165, RS. -/
abbrev collDnEnable : Fld := ⟨0x400A, 0, 1⟩
/-- R165, RS. -/
abbrev collDnWarmup : Fld := ⟨0x400B, 0, 16⟩
/-- R165, RS. -/
abbrev collDnResumeLimit : Fld := ⟨0x400C, 0, 16⟩
/-- R165, RS. -/
abbrev collEnvTau : Fld := ⟨0x400D, 0, 10⟩
/-- R165, RS. -/
abbrev collEnvReentry : Fld := ⟨0x400E, 0, 16⟩
/-- R165, RS. -/
abbrev collAdaptEnable : Fld := ⟨0x400F, 0, 1⟩
/-- R165, RO. -/
abbrev collLedgerDepth : Fld := ⟨0x4010, 0, 16⟩
/-- R165, RO. -/
abbrev collLedgerFill : Fld := ⟨0x4011, 0, 16⟩
/-- R165, RO. -/
abbrev collLedgerPeak : Fld := ⟨0x4012, 0, 16⟩
/-- R165, RO. -/
abbrev collLedgerFullCount : Fld := ⟨0x4013, 0, 32⟩
/-- R165, RO. -/
abbrev collTipinApplied : Fld := ⟨0x4014, 0, 32⟩
/-- R165, RO. -/
abbrev collTipinDiscarded : Fld := ⟨0x4015, 0, 32⟩
/-- R165, RO. -/
abbrev collStatus : Fld := ⟨0x4016, 0, 16⟩
/-- R165, RO. -/
abbrev collDnStatus : Fld := ⟨0x4017, 0, 3⟩
/-- R165, RO. -/
abbrev collDnWeight : Fld := ⟨0x4018, 0, 14⟩
/-- R165, RO. -/
abbrev collEnvBinBin : Fld := ⟨0x4019, 0, 10⟩
/-- R165, RO. -/
abbrev collEnvBinOutside : Fld := ⟨0x4019, 10, 1⟩
/-- R165, RO. -/
abbrev collEnvBinReason : Fld := ⟨0x4019, 11, 2⟩
/-- R165, RO. -/
abbrev collRxConsistency : Fld := ⟨0x401A, 0, 3⟩
/-- R165, RO. -/
abbrev collImuActivePort : Fld := ⟨0x401B, 0, 2⟩
/-- R165, RO. -/
abbrev collImuActiveModelOnly : Fld := ⟨0x401B, 2, 1⟩
/-- R165, RO. -/
abbrev collDnSectionCheck : Fld := ⟨0x401C, 0, 32⟩
/-- R165, RS. -/
abbrev collDraughtSource : Fld := ⟨0x401D, 0, 6⟩
/-- R165, RS. -/
abbrev collDraught : Fld := ⟨0x401E, 0, 12⟩
/-- R165, RS. -/
abbrev collWindStream : Fld := ⟨0x401F, 0, 6⟩
/-- R165, RS. -/
abbrev collPosrefStream (n : Nat) : Fld := ⟨0x4020 + n, 0, 6⟩
/-- R165, RS. -/
abbrev collHdgrefStream (n : Nat) : Fld := ⟨0x4026 + n, 0, 6⟩
/-- R165, RS. -/
abbrev collQForce (n : Nat) : Fld := ⟨0x4030 + n, 0, 16⟩
/-- R165, RS. -/
abbrev collWavePeriod : Fld := ⟨0x4034, 0, 12⟩
/-- R165, RS. -/
abbrev collWaveDamping : Fld := ⟨0x4035, 0, 6⟩
/-- R165, RS. -/
abbrev collDnForceLimit (n : Nat) : Fld := ⟨0x4038 + n, 0, 16⟩
/-- R165, RS. -/
abbrev collImuLever (n : Nat) (m : Nat) : Fld := ⟨0x4040 + 4 * n + m, 0, 32⟩
/-- R165, RS. -/
abbrev collImuAlign (n : Nat) (m : Nat) : Fld := ⟨0x4050 + 4 * n + m, 0, 16⟩
/-- R165, RS. -/
abbrev collStreamNoise (n : Nat) : Fld := ⟨0x4060 + n, 0, 16⟩
/-- R165, RS. -/
abbrev collStreamLever (n : Nat) (m : Nat) : Fld := ⟨0x4100 + 4 * n + m, 0, 32⟩
/-- R165, RS. -/
abbrev collEnvEdge (n : Nat) (m : Nat) : Fld := ⟨0x4200 + 16 * n + m, 0, 16⟩
/-- R165, RO. -/
abbrev collAdaptFactor (n : Nat) : Fld := ⟨0x4300 + n, 0, 14⟩
/-- R165, RS. -/
abbrev collEnvCount (n : Nat) : Fld := ⟨0x4400 + n, 0, 32⟩
/-- R165, RS. -/
abbrev collEnvMin (n : Nat) : Fld := ⟨0x4800 + n, 0, 16⟩
/-- R185, RS. -/
abbrev collVoteDevPos : Fld := ⟨0x4C00, 0, 16⟩
/-- R185, RS. -/
abbrev collVoteDevHdg : Fld := ⟨0x4C01, 0, 16⟩
/-- R185, RS. -/
abbrev collVoteSplitConfirm : Fld := ⟨0x4C02, 0, 8⟩
/-- R185, RS. -/
abbrev collVoteSplitTimeout : Fld := ⟨0x4C03, 0, 10⟩
/-- R185, RS. -/
abbrev collVoteRecoverTime : Fld := ⟨0x4C04, 0, 10⟩
/-- R185, RS. -/
abbrev collVoteFreezeCount : Fld := ⟨0x4C05, 0, 8⟩
/-- R185, RS. -/
abbrev collVoteVarWindow : Fld := ⟨0x4C06, 0, 7⟩
/-- R185, RS. -/
abbrev collVoteDriftWindow : Fld := ⟨0x4C07, 0, 10⟩
/-- R185, RS. -/
abbrev collVoteMaxAge : Fld := ⟨0x4C08, 0, 15⟩
/-- R185, RS. -/
abbrev collVoteVarLimit (n : Nat) : Fld := ⟨0x4C10 + n, 0, 16⟩
/-- R185, RS. -/
abbrev collVoteDriftLimit (n : Nat) : Fld := ⟨0x4C20 + n, 0, 16⟩
/-- R185, RS. -/
abbrev collVoteJumpLimit (n : Nat) : Fld := ⟨0x4C30 + n, 0, 16⟩
/-- R185, RS. -/
abbrev collVoteGroup (n : Nat) : Fld := ⟨0x4C40 + n, 0, 3⟩
/-- R185, RO. -/
abbrev collVoteRefStatus (n : Nat) : Fld := ⟨0x4C50 + n, 0, 4⟩
/-- R185, RO. -/
abbrev collVoteWeight (n : Nat) : Fld := ⟨0x4C60 + n, 0, 14⟩
/-- R185, RO. -/
abbrev collVoteStatePos : Fld := ⟨0x4C70, 0, 4⟩
/-- R185, RO. -/
abbrev collVoteStateHdg : Fld := ⟨0x4C70, 4, 4⟩
/-- R185, RO. -/
abbrev collVoteStateDriftLimiting : Fld := ⟨0x4C70, 8, 1⟩
/-- R185, RO. -/
abbrev collVoteSplitCount : Fld := ⟨0x4C71, 0, 32⟩
/-- R185, RO. -/
abbrev collVoteSelectedPos : Fld := ⟨0x4C72, 0, 4⟩
/-- R185, RO. -/
abbrev collVoteSelectedHdg : Fld := ⟨0x4C72, 4, 4⟩
/-- R42, RS. -/
abbrev ctlSolveDeadline : Fld := ⟨0x5000, 0, 8⟩
/-- R42, RO. -/
abbrev ctlApplyTick : Fld := ⟨0x5001, 0, 8⟩
/-- R42, RO. -/
abbrev ctlQuireTick : Fld := ⟨0x5002, 0, 8⟩
/-- R256, RS. -/
abbrev ctlModeSource : Fld := ⟨0x5010, 0, 1⟩
/-- R256, RO. -/
abbrev ctlMode : Fld := ⟨0x5011, 0, 4⟩
/-- R256, RO. -/
abbrev ctlStatusEstPredicted : Fld := ⟨0x5012, 0, 1⟩
/-- R256, RO. -/
abbrev ctlStatusSetpointMoving : Fld := ⟨0x5012, 1, 1⟩
/-- R256, RO. -/
abbrev ctlStatusBusLimited : Fld := ⟨0x5012, 2, 1⟩
/-- R256, RO. -/
abbrev ctlStatusPowerScaled : Fld := ⟨0x5012, 3, 1⟩
/-- R256, RO. -/
abbrev ctlStatusActReduced : Fld := ⟨0x5012, 4, 1⟩
/-- R256, RO. -/
abbrev ctlStatusJoystickTimeout : Fld := ⟨0x5012, 5, 1⟩
/-- R256, RO. -/
abbrev ctlStatusAzHeld : Fld := ⟨0x5012, 6, 1⟩
/-- R256, RO. -/
abbrev ctlStatusPdLaw : Fld := ⟨0x5012, 7, 1⟩
/-- R256, RO. -/
abbrev ctlStatusWindAbsent : Fld := ⟨0x5012, 8, 1⟩
/-- R256, RS. -/
abbrev ctlWPos (n : Nat) : Fld := ⟨0x5014 + n, 0, 16⟩
/-- R256, RS. -/
abbrev ctlWVel (n : Nat) : Fld := ⟨0x5018 + n, 0, 16⟩
/-- R256, RS. -/
abbrev ctlWPower : Fld := ⟨0x501C, 0, 16⟩
/-- R256, RS. -/
abbrev ctlWDthrust : Fld := ⟨0x501D, 0, 16⟩
/-- R256, RS. -/
abbrev ctlWForce : Fld := ⟨0x501E, 0, 16⟩
/-- R256, RS. -/
abbrev ctlMoveSpeed : Fld := ⟨0x5020, 0, 9⟩
/-- R256, RS. -/
abbrev ctlMoveAccel : Fld := ⟨0x5021, 0, 7⟩
/-- R256, RS. -/
abbrev ctlTurnRate : Fld := ⟨0x5022, 0, 10⟩
/-- R256, RS. -/
abbrev ctlTrackSpeedMax : Fld := ⟨0x5023, 0, 9⟩
/-- R256, RS. -/
abbrev ctlRollLimit : Fld := ⟨0x5024, 0, 11⟩
/-- R256, RS. -/
abbrev ctlPitchLimit : Fld := ⟨0x5025, 0, 10⟩
/-- R256, RS. -/
abbrev ctlJoystickTimeout : Fld := ⟨0x5026, 0, 11⟩
/-- R256, RS. -/
abbrev ctlPowerHeadroom : Fld := ⟨0x5027, 0, 6⟩
/-- R256, RS. -/
abbrev ctlDriftThrustFactor : Fld := ⟨0x5028, 0, 7⟩
/-- R256, RS. -/
abbrev ctlPdKp (n : Nat) : Fld := ⟨0x5030 + n, 0, 16⟩
/-- R256, RS. -/
abbrev ctlPdKd (n : Nat) : Fld := ⟨0x5034 + n, 0, 16⟩
/-- R256, RS. -/
abbrev ctlMass : Fld := ⟨0x5040, 0, 20⟩
/-- R256, RS. -/
abbrev ctlAddedMass (n : Nat) : Fld := ⟨0x5041 + n, 0, 20⟩
/-- R256, RS. -/
abbrev ctlInertiaYaw : Fld := ⟨0x5044, 0, 20⟩
/-- R256, RS. -/
abbrev ctlDampLin (n : Nat) : Fld := ⟨0x5045 + n, 0, 20⟩
/-- R256, RS. -/
abbrev ctlDampQuad (n : Nat) : Fld := ⟨0x5048 + n, 0, 20⟩
/-- R256, RS. -/
abbrev ctlRollPeriod : Fld := ⟨0x504C, 0, 12⟩
/-- R256, RS. -/
abbrev ctlPitchPeriod : Fld := ⟨0x504D, 0, 12⟩
/-- R256, RS. -/
abbrev ctlRollDamping : Fld := ⟨0x504E, 0, 7⟩
/-- R256, RS. -/
abbrev ctlPitchDamping : Fld := ⟨0x504F, 0, 7⟩
/-- R256, RS. -/
abbrev ctlWindAreaFront : Fld := ⟨0x5050, 0, 16⟩
/-- R256, RS. -/
abbrev ctlWindAreaSide : Fld := ⟨0x5051, 0, 16⟩
/-- R256, RS. -/
abbrev ctlWindLength : Fld := ⟨0x5052, 0, 10⟩
/-- R256, RS. -/
abbrev ctlBusMargin (n : Nat) : Fld := ⟨0x5060 + n, 0, 16⟩
/-- R256, RS. -/
abbrev ctlBusAvailFixed (n : Nat) : Fld := ⟨0x5068 + n, 0, 16⟩
/-- R256, RO. -/
abbrev ctlBusLoad (n : Nat) : Fld := ⟨0x5070 + n, 0, 16⟩
/-- R256, RO. -/
abbrev ctlActAvailable : Fld := ⟨0x5080, 0, 32⟩
/-- R256, RO. -/
abbrev ctlSectorSide : Fld := ⟨0x5082, 0, 64⟩
/-- R256, RO. -/
abbrev ctlThrustLoad : Fld := ⟨0x5084, 0, 14⟩
/-- R256, RO. -/
abbrev ctlProblemSize : Fld := ⟨0x5085, 0, 7⟩
/-- R256, RO. -/
abbrev ctlCandidates : Fld := ⟨0x5086, 0, 5⟩
/-- R256, RO. -/
abbrev ctlHorizon : Fld := ⟨0x5087, 0, 6⟩
/-- R256, RO. -/
abbrev ctlSpLat : Fld := ⟨0x5090, 0, 64⟩
/-- R256, RO. -/
abbrev ctlSpLon : Fld := ⟨0x5091, 0, 64⟩
/-- R256, RO. -/
abbrev ctlSpHeading : Fld := ⟨0x5092, 0, 16⟩
/-- R221, RS. -/
abbrev ctlPivotTau : Fld := ⟨0x5100, 0, 6⟩
/-- R221, RS. -/
abbrev ctlRegDelta : Fld := ⟨0x5101, 0, 6⟩
/-- R221, RS. -/
abbrev ctlFbDelta : Fld := ⟨0x5102, 0, 6⟩
/-- R221, RS. -/
abbrev ctlFbRefine : Fld := ⟨0x5103, 0, 3⟩
/-- R221, RS. -/
abbrev ctlIpMaxIter : Fld := ⟨0x5104, 0, 6⟩
/-- R221, RS. -/
abbrev ctlIpTol : Fld := ⟨0x5105, 0, 4⟩
/-- R221, RS. -/
abbrev ctlFeasTol : Fld := ⟨0x5106, 0, 4⟩
/-- R221, RS. -/
abbrev ctlUnitMask : Fld := ⟨0x5107, 0, 4⟩
/-- R221, RS. -/
abbrev ctlDegradedClear : Fld := ⟨0x5108, 0, 8⟩
/-- R221, RO. -/
abbrev ctlScheduleCheck : Fld := ⟨0x5109, 0, 32⟩
/-- R221, RO. -/
abbrev ctlSolveStatus : Fld := ⟨0x5110, 0, 16⟩
/-- R221, RO. -/
abbrev ctlSolveIterIterations : Fld := ⟨0x5111, 0, 6⟩
/-- R221, RO. -/
abbrev ctlSolveIterCandidate : Fld := ⟨0x5111, 6, 5⟩
/-- R221, RO. -/
abbrev ctlSolveTime : Fld := ⟨0x5112, 0, 14⟩
/-- R221, RO. -/
abbrev ctlSolveTimeMax (n : Nat) : Fld := ⟨0x5114 + n, 0, 14⟩
/-- R221, W1C. -/
abbrev ctlSolverStickyOverflow : Fld := ⟨0x5118, 0, 1⟩
/-- R221, W1C. -/
abbrev ctlSolverStickyInputNonfinite : Fld := ⟨0x5118, 1, 1⟩
/-- R221, RO. -/
abbrev ctlInfeasibleGroup : Fld := ⟨0x5119, 0, 3⟩
/-- R221, RO. -/
abbrev ctlStaleRun : Fld := ⟨0x511A, 0, 16⟩
/-- R221, RO. -/
abbrev ctlSolveHist (n : Nat) (m : Nat) : Fld := ⟨0x5120 + 32 * n + m, 0, 32⟩
/-- R221, RO. -/
abbrev ctlUnitStatusState (n : Nat) : Fld := ⟨0x5200 + n, 0, 2⟩
/-- R221, RO. -/
abbrev ctlUnitStatusRejections (n : Nat) : Fld := ⟨0x5200 + n, 2, 2⟩
/-- R221, RO. -/
abbrev ctlUnitEccCorrected (n : Nat) : Fld := ⟨0x5204 + n, 0, 32⟩
/-- R221, RO. -/
abbrev ctlCountTruncated : Fld := ⟨0x5210, 0, 32⟩
/-- R221, RO. -/
abbrev ctlCountStale : Fld := ⟨0x5211, 0, 32⟩
/-- R221, RO. -/
abbrev ctlCountRegularised : Fld := ⟨0x5212, 0, 32⟩
/-- R221, RO. -/
abbrev ctlCountFallback : Fld := ⟨0x5213, 0, 32⟩
/-- R221, RO. -/
abbrev ctlCountOverflow : Fld := ⟨0x5214, 0, 32⟩
/-- R221, RO. -/
abbrev ctlCountInfeasible : Fld := ⟨0x5215, 0, 32⟩
/-- R221, RO. -/
abbrev ctlCountDegraded : Fld := ⟨0x5216, 0, 32⟩
/-- R221, RO. -/
abbrev ctlFbPerturbed : Fld := ⟨0x5217, 0, 32⟩
/-- R256, RS. -/
abbrev ctlActType (n : Nat) : Fld := ⟨0x5300 + n, 0, 3⟩
/-- R256, RS. -/
abbrev ctlActBus (n : Nat) : Fld := ⟨0x5320 + n, 0, 3⟩
/-- R256, RS. -/
abbrev ctlActPos (n : Nat) (m : Nat) : Fld := ⟨0x5340 + 4 * n + m, 0, 32⟩
/-- R256, RS. -/
abbrev ctlActFmax (n : Nat) : Fld := ⟨0x53C0 + n, 0, 16⟩
/-- R256, RS. -/
abbrev ctlActPowerCoef (n : Nat) : Fld := ⟨0x53E0 + n, 0, 16⟩
/-- R256, RS. -/
abbrev ctlActSlew (n : Nat) : Fld := ⟨0x5400 + n, 0, 16⟩
/-- R256, RS. -/
abbrev ctlActRate (n : Nat) : Fld := ⟨0x5420 + n, 0, 16⟩
/-- R256, RS. -/
abbrev ctlActMap (n : Nat) : Fld := ⟨0x5440 + n, 0, 1⟩
/-- R256, RS. -/
abbrev ctlActSref (n : Nat) : Fld := ⟨0x5460 + n, 0, 16⟩
/-- R256, RS. -/
abbrev ctlActFref (n : Nat) : Fld := ⟨0x5480 + n, 0, 16⟩
/-- R256, RS. -/
abbrev ctlActRudderGain (n : Nat) : Fld := ⟨0x54A0 + n, 0, 16⟩
/-- R256, RS. -/
abbrev ctlActRudderMax (n : Nat) : Fld := ⟨0x54C0 + n, 0, 13⟩
/-- R256, RS. -/
abbrev ctlActHoldThrust (n : Nat) : Fld := ⟨0x54E0 + n, 0, 16⟩
/-- R256, RS. -/
abbrev ctlActSectorStart (n : Nat) (m : Nat) : Fld := ⟨0x5500 + 2 * n + m, 0, 16⟩
/-- R256, RS. -/
abbrev ctlActSectorWidth (n : Nat) (m : Nat) : Fld := ⟨0x5540 + 2 * n + m, 0, 16⟩
/-- R256, RS. -/
abbrev ctlActNfix (n : Nat) : Fld := ⟨0x5580 + n, 0, 16⟩
/-- R256, RS. -/
abbrev ctlWindCoef (n : Nat) (m : Nat) : Fld := ⟨0x5700 + 64 * n + m, 0, 16⟩
/-- R256, RS. -/
abbrev ctlActPolygon (n : Nat) (m : Nat) (j : Nat) : Fld := ⟨0x5800 + 32 * n + 2 * m + j, 0, 32⟩
/-- R283, RS. -/
abbrev loopCanCmdEnabled (n : Nat) : Fld := ⟨0x6000 + n, 0, 1⟩
/-- R283, RS. -/
abbrev loopCanCmdChannel (n : Nat) : Fld := ⟨0x6000 + n, 1, 3⟩
/-- R283, RS. -/
abbrev loopCanCmdSlot (n : Nat) : Fld := ⟨0x6000 + n, 4, 3⟩
/-- R283, RS. -/
abbrev loopCanCmdIdIdent (n : Nat) : Fld := ⟨0x6020 + n, 0, 29⟩
/-- R283, RS. -/
abbrev loopCanCmdIdIde (n : Nat) : Fld := ⟨0x6020 + n, 29, 1⟩
/-- R283, RS. -/
abbrev loopFaultTicks : Fld := ⟨0x6080, 0, 8⟩
/-- R283, RS. -/
abbrev loopFaultClearTicks : Fld := ⟨0x6081, 0, 13⟩
/-- R283, RS. -/
abbrev loopSpHoldFrames : Fld := ⟨0x6082, 0, 3⟩
/-- R283, RS. -/
abbrev loopAoutMode (n : Nat) : Fld := ⟨0x6090 + n, 0, 2⟩
/-- R283, RS. -/
abbrev loopAoutSrcIndex (n : Nat) : Fld := ⟨0x60A0 + n, 0, 7⟩
/-- R283, RS. -/
abbrev loopAoutSrcKind (n : Nat) : Fld := ⟨0x60A0 + n, 7, 1⟩
/-- R283, RS. -/
abbrev loopAoutScale (n : Nat) : Fld := ⟨0x60B0 + n, 0, 32⟩
/-- R283, RS. -/
abbrev loopAoutOffset (n : Nat) : Fld := ⟨0x60C0 + n, 0, 32⟩
/-- R283, RS. -/
abbrev loopAoutHoldoff (n : Nat) : Fld := ⟨0x60D0 + n, 0, 16⟩
/-- R283, RS. -/
abbrev loopCoef (e : Nat) : Fld := ⟨0x6200 + 65536 * e, 0, 32⟩
/-- R283, RO. -/
abbrev loopSectionCheck : Fld := ⟨0x6201, 0, 32⟩
/-- R283, RO. -/
abbrev loopStatusState (n : Nat) : Fld := ⟨0x6300 + n, 0, 2⟩
/-- R283, RO. -/
abbrev loopStatusWinner (n : Nat) : Fld := ⟨0x6300 + n, 2, 1⟩
/-- R283, RO. -/
abbrev loopStatusOutClipped (n : Nat) : Fld := ⟨0x6300 + n, 3, 1⟩
/-- R283, RO. -/
abbrev loopStatusNonfinite (n : Nat) : Fld := ⟨0x6300 + n, 4, 1⟩
/-- R283, RO. -/
abbrev loopStatusVdcIgnored (n : Nat) : Fld := ⟨0x6300 + n, 5, 1⟩
/-- R283, RO. -/
abbrev loopStatusUnderTest (n : Nat) : Fld := ⟨0x6300 + n, 6, 1⟩
/-- R283, RO. -/
abbrev loopChanOut (n : Nat) : Fld := ⟨0x6400 + n, 0, 32⟩
/-- R283, RO. -/
abbrev loopChanWinner (n : Nat) : Fld := ⟨0x6480 + n, 0, 8⟩
/-- R283, RO. -/
abbrev loopOutStatusHeld : Fld := ⟨0x6500, 0, 1⟩
/-- R283, RO. -/
abbrev loopOutStatusSpMissing : Fld := ⟨0x6500, 1, 1⟩
/-- R283, RO. -/
abbrev loopOutStatusTestActive : Fld := ⟨0x6500, 2, 1⟩
/-- R283, RO. -/
abbrev loopOutStatusCaptureIncomplete : Fld := ⟨0x6500, 3, 1⟩
/-- R283, RO. -/
abbrev loopActFaulted : Fld := ⟨0x6501, 0, 32⟩
/-- R283, RO. -/
abbrev loopCaptureCount : Fld := ⟨0x6502, 0, 17⟩
/-- R283, RO. -/
abbrev loopCountNonfinite : Fld := ⟨0x6503, 0, 32⟩
/-- R283, RO. -/
abbrev loopCountFbHeld : Fld := ⟨0x6504, 0, 32⟩
/-- R283, RO. -/
abbrev loopCountHeld : Fld := ⟨0x6505, 0, 32⟩
/-- R307, RS. -/
abbrev logicCyclePeriod : Fld := ⟨0x7000, 0, 3⟩
/-- R307, RS. -/
abbrev logicReplyWindow : Fld := ⟨0x7001, 0, 12⟩
/-- R307, RS. -/
abbrev logicOutputLead : Fld := ⟨0x7002, 0, 13⟩
/-- R307, RS. -/
abbrev logicStartMode : Fld := ⟨0x7003, 0, 2⟩
/-- R307, RO. -/
abbrev logicStateState : Fld := ⟨0x7010, 0, 2⟩
/-- R307, RO. -/
abbrev logicStateCause : Fld := ⟨0x7010, 2, 3⟩
/-- R307, RO. -/
abbrev logicStatePending : Fld := ⟨0x7010, 5, 1⟩
/-- R307, RO. -/
abbrev logicStateSlot : Fld := ⟨0x7010, 6, 1⟩
/-- R307, RO. -/
abbrev logicCycleCount : Fld := ⟨0x7011, 0, 64⟩
/-- R307, RO. -/
abbrev logicExecTime : Fld := ⟨0x7012, 0, 18⟩
/-- R307, RO. -/
abbrev logicExecTimeMax : Fld := ⟨0x7013, 0, 18⟩
/-- R307, RO. -/
abbrev logicOverrunCount : Fld := ⟨0x7014, 0, 32⟩
/-- R307, RO. -/
abbrev logicProgramId : Fld := ⟨0x7015, 0, 32⟩
/-- R307, RO. -/
abbrev logicShadowId : Fld := ⟨0x7016, 0, 32⟩
/-- R307, RO. -/
abbrev logicForceCount : Fld := ⟨0x7017, 0, 9⟩
/-- R307, RO. -/
abbrev logicCodeUsed : Fld := ⟨0x7018, 0, 23⟩
/-- R307, RO. -/
abbrev logicDataUsed : Fld := ⟨0x7019, 0, 21⟩
/-- R307, RO. -/
abbrev logicRetainUsed : Fld := ⟨0x701A, 0, 17⟩
/-- R307, RS. -/
abbrev logicNodeCfgEnabled (n : Nat) : Fld := ⟨0x7100 + n, 0, 1⟩
/-- R307, RS. -/
abbrev logicNodeCfgChannel (n : Nat) : Fld := ⟨0x7100 + n, 1, 3⟩
/-- R307, RS. -/
abbrev logicNodeCfgNumber (n : Nat) : Fld := ⟨0x7100 + n, 4, 6⟩
/-- R307, RS. -/
abbrev logicNodeInOffset (n : Nat) : Fld := ⟨0x7140 + n, 0, 14⟩
/-- R307, RS. -/
abbrev logicNodeInLength (n : Nat) : Fld := ⟨0x7140 + n, 16, 7⟩
/-- R307, RS. -/
abbrev logicNodeOutOffset (n : Nat) : Fld := ⟨0x7180 + n, 0, 14⟩
/-- R307, RS. -/
abbrev logicNodeOutLength (n : Nat) : Fld := ⟨0x7180 + n, 16, 7⟩
/-- R307, RO. -/
abbrev logicNodeMissing (n : Nat) : Fld := ⟨0x71C0 + n, 0, 32⟩
/-- R307, RO. -/
abbrev logicNodeLateCount (n : Nat) : Fld := ⟨0x7200 + n, 0, 32⟩
/-- R307, RO. -/
abbrev logicNodeOutMissed (n : Nat) : Fld := ⟨0x7240 + n, 0, 32⟩
/-- R326, RS. -/
abbrev canModeMode (n : Nat) : Fld := ⟨0x8000 + n, 0, 2⟩
/-- R326, RS. -/
abbrev canModeBrs (n : Nat) : Fld := ⟨0x8000 + n, 2, 1⟩
/-- R326, RS. -/
abbrev canNbtBrp (n : Nat) : Fld := ⟨0x8008 + n, 0, 6⟩
/-- R326, RS. -/
abbrev canNbtTseg1 (n : Nat) : Fld := ⟨0x8008 + n, 6, 9⟩
/-- R326, RS. -/
abbrev canNbtTseg2 (n : Nat) : Fld := ⟨0x8008 + n, 15, 8⟩
/-- R326, RS. -/
abbrev canNbtSjw (n : Nat) : Fld := ⟨0x8008 + n, 23, 8⟩
/-- R326, RS. -/
abbrev canDbtBrp (n : Nat) : Fld := ⟨0x8010 + n, 0, 6⟩
/-- R326, RS. -/
abbrev canDbtTseg1 (n : Nat) : Fld := ⟨0x8010 + n, 6, 6⟩
/-- R326, RS. -/
abbrev canDbtTseg2 (n : Nat) : Fld := ⟨0x8010 + n, 12, 5⟩
/-- R326, RS. -/
abbrev canDbtSjw (n : Nat) : Fld := ⟨0x8010 + n, 17, 5⟩
/-- R326, RS. -/
abbrev canDbtTdc (n : Nat) : Fld := ⟨0x8010 + n, 22, 1⟩
/-- R326, RS. -/
abbrev canDbtSspo (n : Nat) : Fld := ⟨0x8010 + n, 23, 7⟩
/-- R326, RS. -/
abbrev canMarkId (n : Nat) : Fld := ⟨0x8018 + n, 0, 11⟩
/-- R326, RS. -/
abbrev canRioId (n : Nat) : Fld := ⟨0x8020 + n, 0, 11⟩
/-- R326, RO. -/
abbrev canStatusState (n : Nat) : Fld := ⟨0x8028 + n, 0, 2⟩
/-- R326, RO. -/
abbrev canStatusTec (n : Nat) : Fld := ⟨0x8028 + n, 8, 8⟩
/-- R326, RO. -/
abbrev canStatusRec (n : Nat) : Fld := ⟨0x8028 + n, 16, 8⟩
/-- R326, RO. -/
abbrev canBusoffCount (n : Nat) : Fld := ⟨0x8030 + n, 0, 32⟩
/-- R326, RO. -/
abbrev canRxUnmatched (n : Nat) : Fld := ⟨0x8038 + n, 0, 32⟩
/-- R326, RO. -/
abbrev canCmdDropped (n : Nat) : Fld := ⟨0x8040 + n, 0, 32⟩
/-- R326, RO. -/
abbrev canMarkMissed (n : Nat) : Fld := ⟨0x8048 + n, 0, 32⟩
/-- R326, RO. -/
abbrev canFifoOverflow (n : Nat) : Fld := ⟨0x8050 + n, 0, 32⟩
/-- R326, RO. -/
abbrev canBusLoad (n : Nat) : Fld := ⟨0x8058 + n, 0, 10⟩
/-- R326, RO. -/
abbrev canRxOverwrites : Fld := ⟨0x8060, 0, 32⟩
/-- R326, RO. -/
abbrev canFilterCheck : Fld := ⟨0x8102, 0, 32⟩
/-- R342, RS. -/
abbrev spineRedundancy : Fld := ⟨0x9000, 0, 2⟩
/-- R342, RS. -/
abbrev spineIpAddr : Fld := ⟨0x9001, 0, 32⟩
/-- R342, RS. -/
abbrev spineIpMask : Fld := ⟨0x9002, 0, 32⟩
/-- R342, RS. -/
abbrev spineGateway : Fld := ⟨0x9003, 0, 32⟩
/-- R342, RS. -/
abbrev spinePlezenPort : Fld := ⟨0x9004, 0, 16⟩
/-- R342, RS. -/
abbrev spineHbGroup : Fld := ⟨0x9005, 0, 32⟩
/-- R342, RS. -/
abbrev spineHbPort : Fld := ⟨0x9006, 0, 16⟩
/-- R342, RS. -/
abbrev spineHbKey : Fld := ⟨0x9007, 0, 2⟩
/-- R342, RS. -/
abbrev spineHbTimeout : Fld := ⟨0x9008, 0, 10⟩
/-- R342, RS. -/
abbrev spineStormLimit : Fld := ⟨0x9009, 0, 16⟩
/-- R342, RS. -/
abbrev spineMacAge : Fld := ⟨0x900A, 0, 10⟩
/-- R342, RS. -/
abbrev spineHostIp (n : Nat) : Fld := ⟨0x9010 + n, 0, 32⟩
/-- R342, RS. -/
abbrev spineHostCfgSlot (n : Nat) : Fld := ⟨0x9014 + n, 0, 2⟩
/-- R342, RS. -/
abbrev spineHostCfgEvents (n : Nat) : Fld := ⟨0x9014 + n, 2, 1⟩
/-- R342, RS. -/
abbrev spineHostCfgEnabled (n : Nat) : Fld := ⟨0x9014 + n, 3, 1⟩
/-- R342, RS. -/
abbrev spinePartnerSerial (n : Nat) : Fld := ⟨0x9018 + n, 0, 64⟩
/-- R342, RS. -/
abbrev spinePortCfgEnabled (n : Nat) : Fld := ⟨0x9020 + n, 0, 1⟩
/-- R342, RS. -/
abbrev spinePortCfgPriority (n : Nat) : Fld := ⟨0x9020 + n, 1, 3⟩
/-- R342, RS. -/
abbrev spinePortCfgVlan (n : Nat) : Fld := ⟨0x9020 + n, 4, 4⟩
/-- R342, RS. -/
abbrev spinePortVlans (n : Nat) : Fld := ⟨0x9030 + n, 0, 16⟩
/-- R342, RS. -/
abbrev spineVlanTable (n : Nat) : Fld := ⟨0x9040 + n, 0, 12⟩
/-- R342, RO. -/
abbrev spinePortStatus (n : Nat) : Fld := ⟨0x9050 + n, 0, 2⟩
/-- R342, RO. -/
abbrev spineKeyStatus : Fld := ⟨0x9060, 0, 4⟩
/-- R342, RO. -/
abbrev spineKeyCheck (n : Nat) : Fld := ⟨0x9064 + n, 0, 32⟩
/-- R342, RO. -/
abbrev spineTxEpoch : Fld := ⟨0x9070, 0, 32⟩
/-- R342, RO. -/
abbrev spineAuthFail : Fld := ⟨0x9071, 0, 32⟩
/-- R342, RO. -/
abbrev spineAuthReplay : Fld := ⟨0x9072, 0, 32⟩
/-- R342, RO. -/
abbrev spineUnknownHost : Fld := ⟨0x9073, 0, 32⟩
/-- R342, RO. -/
abbrev spinePartnerStatusState (n : Nat) : Fld := ⟨0x9078 + n, 0, 2⟩
/-- R342, RO. -/
abbrev spinePartnerStatusSinglePath (n : Nat) : Fld := ⟨0x9078 + n, 2, 1⟩
/-- R342, RO. -/
abbrev spinePartnerStatusGridMismatch (n : Nat) : Fld := ⟨0x9078 + n, 3, 1⟩
/-- R342, RO. -/
abbrev spinePortCount (n : Nat) (m : Nat) : Fld := ⟨0x9100 + 8 * n + m, 0, 32⟩
/-- R373, RO. -/
abbrev laneRoles : Fld := ⟨0xA000, 0, 6⟩
/-- R373, RO. -/
abbrev laneState (n : Nat) : Fld := ⟨0xA001 + n, 0, 3⟩
/-- R373, RS. -/
abbrev laneRotatePeriod : Fld := ⟨0xA004, 0, 8⟩
/-- R373, RS. -/
abbrev laneRotateOffset : Fld := ⟨0xA005, 0, 17⟩
/-- R373, RS. -/
abbrev laneFailLimit : Fld := ⟨0xA006, 0, 3⟩
/-- R373, RS. -/
abbrev laneFailWindow : Fld := ⟨0xA007, 0, 10⟩
/-- R373, RS. -/
abbrev laneScrubPeriod : Fld := ⟨0xA008, 0, 12⟩
/-- R373, RO. -/
abbrev laneStatusHolding : Fld := ⟨0xA009, 0, 1⟩
/-- R373, RO. -/
abbrev laneStatusByRule : Fld := ⟨0xA009, 1, 1⟩
/-- R373, RO. -/
abbrev laneStatusSingleLane : Fld := ⟨0xA009, 2, 1⟩
/-- R373, RO. -/
abbrev laneStatusRotationPending : Fld := ⟨0xA009, 3, 1⟩
/-- R373, RO. -/
abbrev laneStatusOverlap : Fld := ⟨0xA009, 4, 1⟩
/-- R373, RO. -/
abbrev laneStatusQuireSkipped : Fld := ⟨0xA009, 5, 1⟩
/-- R373, RO. -/
abbrev laneCatchword : Fld := ⟨0xA00A, 0, 64⟩
/-- R373, RO. -/
abbrev laneQuireFrame : Fld := ⟨0xA00B, 0, 32⟩
/-- R373, RO. -/
abbrev laneQuireEpoch : Fld := ⟨0xA00C, 0, 16⟩
/-- R373, RO. -/
abbrev laneQuireSize : Fld := ⟨0xA00D, 0, 23⟩
/-- R373, RO. -/
abbrev laneQuireSkipped : Fld := ⟨0xA00E, 0, 32⟩
/-- R373, RO. -/
abbrev laneHoldCount : Fld := ⟨0xA00F, 0, 32⟩
/-- R373, RO. -/
abbrev laneHoldMax : Fld := ⟨0xA010, 0, 10⟩
/-- R373, RO. -/
abbrev laneArbByRule : Fld := ⟨0xA011, 0, 32⟩
/-- R373, RO. -/
abbrev laneNextRotation : Fld := ⟨0xA012, 0, 48⟩
/-- R373, RO. -/
abbrev laneHealth (n : Nat) (m : Nat) : Fld := ⟨0xA020 + 16 * n + m, 0, 32⟩
/-- R403, RS. -/
abbrev safePairCfgFunction (n : Nat) : Fld := ⟨0xB000 + n, 0, 3⟩
/-- R403, RS. -/
abbrev safePairCfgAntivalent (n : Nat) : Fld := ⟨0xB000 + n, 3, 1⟩
/-- R403, RS. -/
abbrev safePairCfgGroups (n : Nat) : Fld := ⟨0xB000 + n, 8, 8⟩
/-- R403, RS. -/
abbrev safePairFilter (n : Nat) : Fld := ⟨0xB008 + n, 0, 5⟩
/-- R403, RS. -/
abbrev safePairDiscrepancy (n : Nat) : Fld := ⟨0xB010 + n, 0, 10⟩
/-- R403, RS. -/
abbrev safeOutGroupGroup (n : Nat) : Fld := ⟨0xB018 + n, 0, 3⟩
/-- R403, RS. -/
abbrev safeOutGroupUsed (n : Nat) : Fld := ⟨0xB018 + n, 3, 1⟩
/-- R403, RS. -/
abbrev safeOffpulseWidth : Fld := ⟨0xB020, 0, 10⟩
/-- R403, RS. -/
abbrev safeAckWindow : Fld := ⟨0xB021, 0, 6⟩
/-- R403, RS. -/
abbrev safeEncCfgKind (n : Nat) : Fld := ⟨0xB028 + n, 0, 2⟩
/-- R403, RS. -/
abbrev safeEncCfgIndex (n : Nat) : Fld := ⟨0xB028 + n, 2, 1⟩
/-- R403, RS. -/
abbrev safeEncCfgInverted (n : Nat) : Fld := ⟨0xB028 + n, 3, 1⟩
/-- R403, RS. -/
abbrev safeEncLines (n : Nat) : Fld := ⟨0xB030 + n, 0, 16⟩
/-- R403, RS. -/
abbrev safeEncIndexAngle (n : Nat) : Fld := ⟨0xB038 + n, 0, 16⟩
/-- R403, RS. -/
abbrev safeGroupAct (n : Nat) : Fld := ⟨0xB040 + n, 0, 32⟩
/-- R403, RS. -/
abbrev safeGroupEncSpeed (n : Nat) : Fld := ⟨0xB048 + n, 0, 3⟩
/-- R403, RS. -/
abbrev safeGroupEncSpeedUsed (n : Nat) : Fld := ⟨0xB048 + n, 3, 1⟩
/-- R403, RS. -/
abbrev safeGroupEncPos (n : Nat) : Fld := ⟨0xB048 + n, 4, 3⟩
/-- R403, RS. -/
abbrev safeGroupEncPosUsed (n : Nat) : Fld := ⟨0xB048 + n, 7, 1⟩
/-- R403, RS. -/
abbrev safeSlsLimit (n : Nat) : Fld := ⟨0xB050 + n, 0, 14⟩
/-- R403, RS. -/
abbrev safeSdi (n : Nat) : Fld := ⟨0xB058 + n, 0, 2⟩
/-- R403, RS. -/
abbrev safeSdiTol (n : Nat) : Fld := ⟨0xB060 + n, 0, 10⟩
/-- R403, RS. -/
abbrev safeSlpStart (n : Nat) (m : Nat) : Fld := ⟨0xB068 + 2 * n + m, 0, 16⟩
/-- R403, RS. -/
abbrev safeSlpWidth (n : Nat) (m : Nat) : Fld := ⟨0xB078 + 2 * n + m, 0, 16⟩
/-- R403, RO. -/
abbrev safeStatusSafetyFault : Fld := ⟨0xB100, 0, 1⟩
/-- R403, RO. -/
abbrev safeStatusCommissioning : Fld := ⟨0xB100, 1, 1⟩
/-- R403, RO. -/
abbrev safeStatusKeyLoaded : Fld := ⟨0xB100, 2, 1⟩
/-- R403, RO. -/
abbrev safeColophonActive : Fld := ⟨0xB101, 0, 32⟩
/-- R403, RO. -/
abbrev safeColophonShadow : Fld := ⟨0xB102, 0, 32⟩
/-- R403, RO. -/
abbrev safeColophonConfirmed : Fld := ⟨0xB103, 0, 32⟩
/-- R403, RO. -/
abbrev safeKeyCheck : Fld := ⟨0xB104, 0, 32⟩
/-- R403, RO. -/
abbrev safeAckChallenge : Fld := ⟨0xB105, 0, 32⟩
/-- R403, RO. -/
abbrev safeFwVersion : Fld := ⟨0xB106, 0, 32⟩
/-- R403, RO. -/
abbrev safeResetRejects : Fld := ⟨0xB107, 0, 32⟩
/-- R403, RO. -/
abbrev safePairStatus (n : Nat) : Fld := ⟨0xB110 + n, 0, 2⟩
/-- R403, RO. -/
abbrev safeOutStatusOn (n : Nat) : Fld := ⟨0xB118 + n, 0, 1⟩
/-- R403, RO. -/
abbrev safeOutStatusOutputFault (n : Nat) : Fld := ⟨0xB118 + n, 1, 1⟩
/-- R403, RO. -/
abbrev safeOutStatusSwitch (n : Nat) : Fld := ⟨0xB118 + n, 2, 2⟩
/-- R403, RO. -/
abbrev safeEncSpeed (n : Nat) : Fld := ⟨0xB120 + n, 0, 32⟩
/-- R403, RO. -/
abbrev safeEncPosValue (n : Nat) : Fld := ⟨0xB128 + n, 0, 16⟩
/-- R403, RO. -/
abbrev safeEncPosReferenced (n : Nat) : Fld := ⟨0xB128 + n, 16, 1⟩
/-- R403, RO. -/
abbrev safeEncPosEncoderFault (n : Nat) : Fld := ⟨0xB128 + n, 17, 1⟩
/-- R403, RO. -/
abbrev safeGroupStatusState (n : Nat) : Fld := ⟨0xB130 + n, 0, 2⟩
/-- R403, RO. -/
abbrev safeGroupStatusCause (n : Nat) : Fld := ⟨0xB130 + n, 2, 5⟩
/-- R403, RO. -/
abbrev safeGroupStatusConditionPresent (n : Nat) : Fld := ⟨0xB130 + n, 7, 1⟩
/-- R403, RO. -/
abbrev safeGroupTrips (n : Nat) : Fld := ⟨0xB138 + n, 0, 32⟩
/-- R420, RO. -/
abbrev faultStatusDeviceFatal : Fld := ⟨0xC000, 0, 1⟩
/-- R420, RO. -/
abbrev faultStatusInjectArmed : Fld := ⟨0xC000, 1, 1⟩
/-- R420, RO. -/
abbrev faultStatusCommonMode : Fld := ⟨0xC000, 2, 1⟩
/-- R420, RO. -/
abbrev faultLaneFatal (n : Nat) : Fld := ⟨0xC001 + n, 0, 4⟩
/-- R420, RS. -/
abbrev faultCorrLimit : Fld := ⟨0xC008, 0, 16⟩
/-- R420, RS. -/
abbrev faultEscalateCount : Fld := ⟨0xC009, 0, 7⟩
/-- R420, RS. -/
abbrev faultEscalateWindow : Fld := ⟨0xC00A, 0, 12⟩
/-- R420, RS. -/
abbrev faultLogCorrected : Fld := ⟨0xC00B, 0, 1⟩
/-- R420, RO. -/
abbrev faultHwCorrected (n : Nat) : Fld := ⟨0xC010 + n, 0, 32⟩
/-- R420, RO. -/
abbrev faultHwUncorrected (n : Nat) : Fld := ⟨0xC020 + n, 0, 32⟩
/-- R420, RO. -/
abbrev faultLogSequence : Fld := ⟨0xC030, 0, 32⟩
/-- R420, RO. -/
abbrev faultCommonModeCount : Fld := ⟨0xC031, 0, 32⟩
/-- R420, RS. -/
abbrev faultSeverity (n : Nat) : Fld := ⟨0xC040 + n, 0, 2⟩
/-- R420, RO. -/
abbrev faultSourceCount (n : Nat) : Fld := ⟨0xC140 + n, 0, 32⟩
/-- R441, RO. -/
abbrev powerStateCode : Fld := ⟨0xD000, 0, 2⟩
/-- R441, RO. -/
abbrev powerStateCauses : Fld := ⟨0xD000, 2, 4⟩
/-- R441, RO. -/
abbrev powerFeedStatusSpn0 : Fld := ⟨0xD001, 0, 3⟩
/-- R441, RO. -/
abbrev powerFeedStatusSpn1 : Fld := ⟨0xD001, 3, 3⟩
/-- R441, RO. -/
abbrev powerFeedStatusAux : Fld := ⟨0xD001, 6, 1⟩
/-- R441, RO. -/
abbrev powerFeedStatusLoad : Fld := ⟨0xD001, 8, 2⟩
/-- R441, RO. -/
abbrev powerCapacity : Fld := ⟨0xD002, 0, 10⟩
/-- R441, RO. -/
abbrev powerInputPower : Fld := ⟨0xD003, 0, 14⟩
/-- R441, RO. -/
abbrev powerInputVoltage : Fld := ⟨0xD004, 0, 13⟩
/-- R441, RO. -/
abbrev powerBankVoltage : Fld := ⟨0xD005, 0, 13⟩
/-- R441, RO. -/
abbrev powerBaseplateTemp : Fld := ⟨0xD006, 0, 16⟩
/-- R441, RO. -/
abbrev powerDieTempMax : Fld := ⟨0xD007, 0, 16⟩
/-- R441, RO. -/
abbrev powerWriteGuardTripped : Fld := ⟨0xD008, 0, 1⟩
/-- R441, RO. -/
abbrev powerWriteGuardCause : Fld := ⟨0xD008, 1, 2⟩
/-- R441, RO. -/
abbrev powerWriteGuardCount : Fld := ⟨0xD009, 0, 32⟩
/-- R441, RO. -/
abbrev powerEndpaperSeq : Fld := ⟨0xD00A, 0, 32⟩
/-- R441, RS. -/
abbrev powerFeedPolicy : Fld := ⟨0xD010, 0, 1⟩
/-- R441, RS. -/
abbrev powerFeedMargin : Fld := ⟨0xD011, 0, 7⟩
/-- R441, RS. -/
abbrev powerAuxCapacity : Fld := ⟨0xD012, 0, 7⟩
/-- R441, RS. -/
abbrev powerStateCap : Fld := ⟨0xD013, 0, 2⟩
/-- R441, RS. -/
abbrev powerUpstepHold : Fld := ⟨0xD014, 0, 10⟩
/-- R441, RS. -/
abbrev powerBpLimit (n : Nat) : Fld := ⟨0xD018 + n, 0, 16⟩
/-- R441, RS. -/
abbrev powerDieLimit (n : Nat) : Fld := ⟨0xD01C + n, 0, 16⟩
/-- R441, RS. -/
abbrev powerBpHyst : Fld := ⟨0xD020, 0, 10⟩
/-- R441, RS. -/
abbrev powerDieHyst : Fld := ⟨0xD021, 0, 11⟩
/-- R441, RO. -/
abbrev powerDomainPower (n : Nat) : Fld := ⟨0xD030 + n, 0, 12⟩
/-- R441, RO. -/
abbrev powerDomainState (n : Nat) : Fld := ⟨0xD040 + n, 0, 2⟩
/-- R441, RO. -/
abbrev powerStateTime (n : Nat) : Fld := ⟨0xD050 + n, 0, 32⟩
/-- R485, RO. -/
abbrev lifePowerCycles : Fld := ⟨0xE000, 0, 48⟩
/-- R485, RO. -/
abbrev lifeWriteGuardTrips : Fld := ⟨0xE001, 0, 48⟩
/-- R485, RO. -/
abbrev lifeDeviceResets : Fld := ⟨0xE002, 0, 48⟩
/-- R485, RO. -/
abbrev lifeOperatingTime : Fld := ⟨0xE003, 0, 48⟩
/-- R485, RO. -/
abbrev lifeSafetyTrips : Fld := ⟨0xE004, 0, 48⟩
/-- R485, RO. -/
abbrev lifeFaults (n : Nat) : Fld := ⟨0xE008 + n, 0, 48⟩
/-- R485, RO. -/
abbrev lifeLaneActive (n : Nat) : Fld := ⟨0xE010 + n, 0, 48⟩
/-- R485, RO. -/
abbrev lifeLaneCold (n : Nat) : Fld := ⟨0xE014 + n, 0, 48⟩
/-- R485, RO. -/
abbrev lifeLaneWakes (n : Nat) : Fld := ⟨0xE018 + n, 0, 48⟩
/-- R485, RO. -/
abbrev lifeNandErases : Fld := ⟨0xE020, 0, 48⟩
/-- R485, RO. -/
abbrev lifeNandEraseMax : Fld := ⟨0xE021, 0, 32⟩
/-- R485, RO. -/
abbrev lifeNandRetired : Fld := ⟨0xE022, 0, 16⟩
/-- R485, RO. -/
abbrev lifeStatus : Fld := ⟨0xE028, 0, 1⟩
/-- R485, RS. -/
abbrev lifeCommitInterval : Fld := ⟨0xE029, 0, 12⟩
/-- R485, RO. -/
abbrev lifeCalStatusUnconfirmed : Fld := ⟨0xE030, 0, 1⟩
/-- R485, RO. -/
abbrev lifeCalStatusConflict : Fld := ⟨0xE030, 1, 1⟩
/-- R485, RO. -/
abbrev lifeCalStatusRtcValid : Fld := ⟨0xE030, 2, 1⟩
/-- R485, RO. -/
abbrev lifeTaiUtc : Fld := ⟨0xE031, 0, 16⟩
/-- R485, RO. -/
abbrev lifeUtc : Fld := ⟨0xE032, 0, 48⟩
/-- R485, RS. -/
abbrev lifeRecLedgerMask : Fld := ⟨0xE040, 0, 48⟩
/-- R485, RS. -/
abbrev lifeRecCanMask : Fld := ⟨0xE041, 0, 8⟩
/-- R485, RO. -/
abbrev lifeRecBacklog : Fld := ⟨0xE042, 0, 30⟩
/-- R485, RO. -/
abbrev lifeRecLost : Fld := ⟨0xE043, 0, 32⟩
/-- R485, RO. -/
abbrev lifeJournalOldest : Fld := ⟨0xE044, 0, 48⟩
/-- R485, RO. -/
abbrev lifeActRun (n : Nat) : Fld := ⟨0xE048 + n, 0, 48⟩
/-- R485, RO. -/
abbrev lifeActStarts (n : Nat) : Fld := ⟨0xE068 + n, 0, 48⟩
/-- R326, R524, word 0 of entry `e`. -/
abbrev canFilterIdent (e : Nat) : Fld := ⟨0x8100 + 65536 * (3 * e + 0), 0, 29⟩
/-- R326, R524, word 0 of entry `e`. -/
abbrev canFilterIde (e : Nat) : Fld := ⟨0x8100 + 65536 * (3 * e + 0), 29, 1⟩
/-- R326, R524, word 0 of entry `e`. -/
abbrev canFilterEnabled (e : Nat) : Fld := ⟨0x8100 + 65536 * (3 * e + 0), 31, 1⟩
/-- R326, R524, word 1 of entry `e`. -/
abbrev canFilterMask (e : Nat) : Fld := ⟨0x8100 + 65536 * (3 * e + 1), 0, 29⟩
/-- R326, R524, word 2 of entry `e`. -/
abbrev canFilterChannels (e : Nat) : Fld := ⟨0x8100 + 65536 * (3 * e + 2), 0, 8⟩
/-- R326, R524, word 2 of entry `e`. -/
abbrev canFilterTarget (e : Nat) : Fld := ⟨0x8100 + 65536 * (3 * e + 2), 8, 1⟩
/-- R326, R524, word 2 of entry `e`. -/
abbrev canFilterBuffer (e : Nat) : Fld := ⟨0x8100 + 65536 * (3 * e + 2), 9, 10⟩
/-- R326, R524, word 0 of express entry `x`. -/
abbrev canExpressIdent (x : Nat) : Fld := ⟨0x8101 + 65536 * (3 * x + 0), 0, 29⟩
/-- R326, R524, word 0 of express entry `x`. -/
abbrev canExpressIde (x : Nat) : Fld := ⟨0x8101 + 65536 * (3 * x + 0), 29, 1⟩
/-- R326, R524, word 0 of express entry `x`. -/
abbrev canExpressEnabled (x : Nat) : Fld := ⟨0x8101 + 65536 * (3 * x + 0), 31, 1⟩
/-- R326, R524, word 1 of express entry `x`. -/
abbrev canExpressMask (x : Nat) : Fld := ⟨0x8101 + 65536 * (3 * x + 1), 0, 29⟩
/-- R326, R524, word 2 of express entry `x`. -/
abbrev canExpressChannels (x : Nat) : Fld := ⟨0x8101 + 65536 * (3 * x + 2), 0, 8⟩

end Sys2Proof.Machine.F
end

