-- ==== Sys2Proof/Machine/Ops.lean ====
section
/-! DEFINITION. The named operations over the state that the meanings share: register fields, the active Folio, Station Time,
counters that stick, messages, the recorder, the fault log, the event queue and responses. -/

namespace Sys2Proof.Machine

/-- A step that acts while the converters run: the effect on the state, with the outputs of the last command gone. -/
def act (f : State → State) (s : State) : Host.Outcome State Fault Refusal :=
  .next (if s.powered then f { s with outputs := [] } else { s with outputs := [] })

/-! ### Register fields -/

/-- The value of a register field. -/
def State.rd (s : State) (f : Fld) : Nat := (s.regs.get f.key).toNat

/-- A register field is set. -/
def State.flag (s : State) (f : Fld) : Bool := s.rd f == 1

/-- The signed value of a register field. -/
def State.rdInt (s : State) (f : Fld) : Int := signed f.w (s.rd f)

/-- A register field written, cut to its width. -/
def State.wr (s : State) (f : Fld) (v : Nat) : State :=
  { s with regs := s.regs.set f.key (BitVec.ofNat 64 (v % 2 ^ f.w)) }

/-- A register field written with a flag. -/
def State.wrFlag (s : State) (f : Fld) (b : Bool) : State := s.wr f (bit b)

/-- A register field written with a signed value. -/
def State.wrInt (s : State) (f : Fld) (v : Int) : State := s.wr f (unsigned f.w v)

/-- A status counter increased, sticking at its maximum (R473). -/
def State.add (s : State) (f : Fld) (n : Nat) : State := s.wr f (min (s.rd f + n) (2 ^ f.w - 1))

/-- A status counter increased by one. -/
def State.inc (s : State) (f : Fld) : State := s.add f 1

/-- The commands whose responses are bulk transfers (R333): journal reads, program loads and firmware blocks. -/
def bulkCommand (code : Nat) : Bool := code == 0xE002 || code == 0x7001 || code == 0x0008

/-- The priority code point of what the module originates on the Spine (R333); none on pins and buses. Of group membership reports
and supervision frames no rule gives one: they count as PTP messages do (log entry 96). -/
def Output.pcp : Output → Option Nat
  | .heartbeat _ _ _ _ => some 7
  | .ptp _ _ _ => some 7
  | .supervision => some 7
  | .igmp _ _ _ => some 7
  | .event _ _ => some 5
  | .response _ _ m => some (if bulkCommand (unle (((m.headD []).drop 4).take 2)) then 0 else 5)
  | .answer _ p _ => some p
  | .frame _ f => some f.pcp.val
  | _ => none

/-- The egress queue of a priority code point (R333). -/
def queueOf (pcp : Nat) : Nat := if 6 ≤ pcp then 3 else if 4 ≤ pcp then 2 else if 1 ≤ pcp then 1 else 0

/-- What one command puts on the Spine leaves in strict priority of its queue, first in first out within one (R333). -/
def enqueue (q : Nat) (o : Output) : List Output → List Output
  | [] => [o]
  | x :: rest =>
    match x.pcp with
    | some p => if queueOf p < q then o :: x :: rest else x :: enqueue q o rest
    | none => x :: enqueue q o rest

/-- An output after those before it: a frame in the order of the egress queues (R333), everything else last. -/
def withOutput (o : Output) (outs : List Output) : List Output :=
  match o.pcp with
  | some p => enqueue (queueOf p) o outs
  | none => outs ++ [o]

/-- Something put on a pin, a bus or a link. -/
def State.put (s : State) (o : Output) : State := { s with outputs := withOutput o s.outputs }

/-! ### The Folios -/

/-- The Folio of reset values: what the module runs on while no Folio is active (R465). -/
def resetFolio : Folio := ⟨⟨[]⟩, ⟨0, ⟨[]⟩⟩, ⟨0, ⟨[]⟩⟩⟩

/-- Folio A (0) or B (1). -/
def State.folio (s : State) (n : Nat) : Folio := if n = 0 then s.folioA else s.folioB

/-- One Folio replaced. -/
def State.setFolio (s : State) (n : Nat) (x : Folio) : State :=
  if n = 0 then { s with folioA := x } else { s with folioB := x }

/-- The active Folio (R461, R465). -/
def State.active (s : State) : Folio :=
  if s.flag F.devFolioNone then resetFolio else s.folio (s.rd F.devFolioActive)

/-- The shadow Folio. -/
def State.shadow (s : State) : Folio := s.folio (1 - s.rd F.devFolioActive)

/-- The value of an RS parameter field in a Folio. -/
def Folio.val (x : Folio) (f : Fld) : Nat := (x.params.get f.key).toNat

/-- The value of an RS parameter field in force (R9). -/
def State.cfg (s : State) (f : Fld) : Nat := s.active.val f

/-- An RS flag in force. -/
def State.cfgFlag (s : State) (f : Fld) : Bool := s.cfg f == 1

/-- The signed value of an RS parameter field in force. -/
def State.cfgInt (s : State) (f : Fld) : Int := signed f.w (s.cfg f)

/-- The values of a block of parameters (R7). -/
def Folio.blockCells (x : Folio) (b : Nat) : List (Nat × W64) := x.params.cells.filter fun c => c.1 / 64 % 65536 / 4096 == b

/-- The thruster parameters that the Collator's propagation takes (R136). -/
def Folio.thrusterCells (x : Folio) : List (Nat × W64) :=
  x.params.cells.filter fun c =>
    let id := c.1 / 64 % 65536
    (decide (0x5300 ≤ id) && decide (id < 0x5700)) || (decide (0x5800 ≤ id) && decide (id < 0x5C00))

/-- The parameters of the vessel model (R136, R232). -/
def Folio.vesselModel (x : Folio) : VesselModel :=
  let axes (f : Nat → Fld) : List Nat := (List.range 3).map fun a => x.val (f a)
  { mass := x.val F.ctlMass, added := axes F.ctlAddedMass, inertia := x.val F.ctlInertiaYaw, lin := axes F.ctlDampLin
    quad := axes F.ctlDampQuad, roll := (x.val F.ctlRollPeriod, x.val F.ctlRollDamping)
    pitch := (x.val F.ctlPitchPeriod, x.val F.ctlPitchDamping) }

/-- The Training Envelope parameters as bytes (R156): edges, counts and least counts in the order of their IDs, each little-endian in the
bytes of its width, an order that the manual does not give (log entry 23). -/
def Folio.envelopeBytes (x : Folio) : List Byte :=
  ((List.range 4).flatMap fun a => (List.range (if a < 2 then 9 else 5)).flatMap fun k => le 2 (x.val (F.collEnvEdge a k))) ++
    ((List.range 1024).flatMap fun b => le 4 (x.val (F.collEnvCount b))) ++
    (List.range 1024).flatMap fun b => le 2 (x.val (F.collEnvMin b))

/-- A node of the remote I/O table is enabled (R292). -/
def Folio.nodeOn (x : Folio) (m : Nat) : Bool := x.val (F.logicNodeCfgEnabled m) == 1

/-- The channels that have an enabled node (R319). -/
def Folio.nodeChannels (x : Folio) : List Nat :=
  (List.range 8).filter fun c => (List.range 64).any fun m => x.nodeOn m && x.val (F.logicNodeCfgChannel m) == c

/-- A word of entry `c` of the acceptance filter table, 0 to 7, as the module writes it (R319): FEFF frames of the channel with bits [28:16] of
the identifier equal to can.rio_id and kind 1; no word names the remote input path. -/
def Folio.rioWord (x : Folio) (elem : Nat) : Nat :=
  let c := elem / 3
  if x.nodeChannels.contains c = false then 0 else
  match elem % 3 with
  | 0 => 2 ^ 31 + 2 ^ 29 + x.val (F.canRioId c) * 2 ^ 18 + 2 ^ 16
  | 1 => 2 ^ 29 - 2 ^ 16
  | _ => 2 ^ c

/-- The CRC-32C of a Folio image (R461). -/
def Folio.crc (x : Folio) : W32 := Config.folioCrc x.params.cells x.sec1.bytes.cells x.sec2.bytes.cells

/-- The Folio of a commit record matches the CRC that the record names (R465). -/
def State.commitHolds (s : State) (c : CommitRec) : Bool := (s.folio c.folio).crc == c.crc

/-! ### Station Time -/

/-- Nanoseconds of a second, a frame, a tick. -/
abbrev nsSecond : Nat := 1000000000
/-- The frame is 20 ms (R29). -/
abbrev nsFrame : Nat := 20000000
/-- The servo tick is 125 µs (R29). -/
abbrev nsTick : Nat := 125000
/-- Nanoseconds of a millisecond. -/
abbrev nsMs : Nat := 1000000

/-- Station Time in ns (R31). -/
def State.now (s : State) : Nat := s.time.tb0

/-- Station Time seconds. -/
def State.second (s : State) : Nat := s.time.tb0 / nsSecond

/-- The number of the frame in progress counted from the PTP epoch (R32): epoch × 2^32 + frame number. -/
def State.totalFrames (s : State) : Nat := s.rd F.timeFrameEpoch * 2 ^ 32 + s.rd F.timeFrameNumber

/-- The frame counts of R32 for a frame instant. -/
def State.setFrame (s : State) (frameNs : Nat) : State :=
  let total := frameNs / nsFrame
  ((s.wr F.timeFrameNumber (total % 2 ^ 32)).wr F.timeFrameEpoch (total / 2 ^ 32)).wr F.timeFrameIndex (total % 50)

/-- Nanoseconds on the grid since reset, which no step of Station Time moves: what every interval is measured on. -/
def State.clock (s : State) : Nat := s.time.mono

/-- The time elapsed since an earlier reading of the clock. -/
def State.since (s : State) (t : Nat) : Nat := s.clock - t

/-- The clock at an instant of Station Time that is not in the future. -/
def State.clockAt (s : State) (t : Int) : Nat := ((s.clock : Int) - (s.now - t)).toNat

/-- Station Time run forward to an instant. -/
def State.moveTo (s : State) (t : Nat) : State :=
  { s with time := { s.time with mono := s.time.mono + (t - s.time.tb0), tb0 := t } }

/-- The instant of the start of tick `n` of the frame in progress. -/
def State.tickInstant (s : State) (n : Nat) : Nat := s.time.frameAt + nsTick * (n - s.time.tickOrigin)

/-- The first multiple of a period at or after an instant. -/
def nextMultiple (p t : Nat) : Nat := t + toMultiple p t

/-- The end of the frame in progress: its last frame instant, or after a step the first frame instant of the new grid (R47). -/
def State.frameEnd (s : State) : Nat :=
  if s.time.tickOrigin = 0 then s.time.frameAt + nsFrame else nextMultiple nsFrame s.time.frameAt

/-- The end of the tick that is due; the last tick before a new grid is cut short (R47). -/
def State.tickStop (s : State) : Nat := min (s.tickInstant (s.time.tickDue + 1)) s.frameEnd

/-- An edge or the end of some work falls within the tick that is due; one at a frame instant belongs to the frame that starts there
(R47, R50, R51, R54, R108). -/
def State.withinTick (s : State) (t : Nat) : Bool :=
  decide (t < s.tickStop) && (decide (s.time.tickDue < s.time.tickEnd) || decide (t < s.now))

/-- A transfer to the lanes failed for this tick boundary (R15). -/
def State.isWithheld (s : State) (x : Transfer) : Bool := s.fault.bus.any fun w => w.what == x && !w.again

/-- At a tick boundary the transfers that failed for it wait for the next, and those repeated at it have arrived (R15, R407). -/
def State.busBoundary (s : State) : State :=
  { s with fault := { s.fault with
      bus := (s.fault.bus.filter fun w => !w.again).map fun w => { w with again := true } } }

/-- The device state: 0 BOOT, 1 START, 2 NORMAL, 3 TEST, 4 RECOVERY (R505). -/
def State.devState (s : State) : Nat := s.rd F.devState

/-- The device resets with cause DEVICE_FATAL in the last hour of operating time (R498). -/
def State.recentFatals (s : State) : List Nat := s.boot.fatalTimes.filter fun t => decide (s.since t < 3600 * nsSecond)

/-- READY: Ropor serves the mailboxes (R493). -/
def State.ready (s : State) : Bool := s.devState != 0

/-- Tick `n` of the frame in progress is the next to run: the instant of its start has come. The lanes run. -/
def State.atTick (s : State) (n : Nat) : Bool := s.ready && s.time.tickDue == n

/-- A transfer that failed for the last tick boundary is repeated at this one (R15, R407). -/
def State.isRepeated (s : State) (x : Transfer) : Bool := s.fault.bus.any fun w => w.what == x && w.again

/-- A transfer of this frame failed twice: what it carries is absent (R15, R16, R407). -/
def State.isAbsent (s : State) (x : Transfer) : Bool := s.fault.absent.contains x

/-- The core work of tick `n` is due: at its instant, or after the verdict where its instant fell inside a Rapid Check, during which
the lanes suspend all core work (R357, R359). -/
def State.atCore (s : State) (n : Nat) : Bool :=
  s.ready && !s.lane.rapid && (s.time.tickDue == n ||
    (decide (s.lane.rapidFrom ≤ n) && decide (n ≤ s.lane.rapidTo) && decide (n < s.time.tickDue) &&
      decide (s.time.tickDue ≤ s.lane.rapidTo + 1)))

/-- The core work of tick `n` that needs a transfer to the lanes is due: one tick later where that transfer failed (R15, R407). -/
def State.atTransfer (s : State) (n : Nat) (x : Transfer) : Bool :=
  (s.atCore n && !s.isWithheld x) || (s.atTick (n + 1) && !s.lane.rapid && s.isRepeated x)

/-- The budget state: 0 Full, 1 Trim, 2 Lean, 3 Survival. -/
def State.budget (s : State) : Nat := s.rd F.powerStateCode

/-- The solve deadline D in ticks (R42). -/
def State.deadline (s : State) : Nat := s.cfg F.ctlSolveDeadline

/-- The Write Guard is tripped (R427). -/
def State.writeGuard (s : State) : Bool := s.flag F.powerWriteGuardTripped

/-- An instant as a Station Time value of R445: 6 bytes of seconds, 4 of nanoseconds. -/
def stBytes (t : Nat) : List Byte := le 6 (t / nsSecond) ++ le 4 (t % nsSecond)

/-! ### Messages -/

/-- The result codes of R448. -/
abbrev Res.ok : Nat := 0
/-- R448. -/
abbrev Res.unknownCommand : Nat := 1
/-- R448. -/
abbrev Res.badLength : Nat := 2
/-- R448. -/
abbrev Res.sequence : Nat := 3
/-- R448. -/
abbrev Res.wrongTransport : Nat := 4
/-- R448. -/
abbrev Res.readOnly : Nat := 5
/-- R448. -/
abbrev Res.unknownParam : Nat := 6
/-- R448. -/
abbrev Res.outOfRange : Nat := 7
/-- R448. -/
abbrev Res.wrongState : Nat := 8
/-- R448. -/
abbrev Res.busy : Nat := 9
/-- R448. -/
abbrev Res.writeGuard : Nat := 10
/-- R448. -/
abbrev Res.wrongSource : Nat := 11
/-- R448. -/
abbrev Res.noSource : Nat := 12
/-- R448. -/
abbrev Res.full : Nat := 13
/-- R448. -/
abbrev Res.notFound : Nat := 14
/-- R448. -/
abbrev Res.programInvalid : Nat := 15
/-- R448. -/
abbrev Res.solveState : Nat := 16
/-- R448. -/
abbrev Res.capacity : Nat := 17
/-- R448. -/
abbrev Res.condition : Nat := 18
/-- R448. -/
abbrev Res.expired : Nat := 19
/-- R448. -/
abbrev Res.notArmed : Nat := 20
/-- R448. -/
abbrev Res.badTag : Nat := 21
/-- R448. -/
abbrev Res.noKey : Nat := 22
/-- R448. -/
abbrev Res.mismatch : Nat := 23
/-- R448. -/
abbrev Res.imageInvalid : Nat := 24
/-- R448. -/
abbrev Res.nothingStaged : Nat := 25
/-- R448. -/
abbrev Res.notDisputed : Nat := 26

/-- A Plezen message (R443): the 32-byte header and the payload. -/
def message (kind code seq status flags at_ cls : Nat) (payload : List Byte) : List Byte :=
  let h := le 2 0xB65E ++ le 1 1 ++ le 1 kind ++ le 2 code ++ le 2 payload.length ++ le 4 seq ++ le 2 status ++ le 2 flags ++
    stBytes at_ ++ le 1 cls ++ le 1 0
  h ++ le 4 (Crypto.crc32c (h ++ payload)).toNat ++ payload

/-- The code of an event class (R443). -/
def EvClass.code : EvClass → Nat
  | .record => 0
  | .notify => 1
  | .alarm => 2

/-- The message of a queued event (R456). -/
def Event.message (e : Event) (resent : Bool) : List Byte :=
  Sys2Proof.Machine.message 2 e.code e.seq e.rep (e.flags + if resent then 8 else 0) e.at_ e.cls.code e.payload

/-! ### The Voyage Recorder -/

/-- The size of a record in the ring: its header and body (R478). -/
def Rec.size (r : Rec) : Nat := 16 + r.body.length + r.fill

/-- The records that fit beside `n` more bytes in the 1 GiB ring, the bytes they take and how many were overwritten. -/
def ringRoom (n : Nat) : List Rec → Nat → Nat → List Rec × Nat × Nat
  | [], used, lost => ([], used, lost)
  | r :: rest, used, lost =>
    if used + n ≤ 2 ^ 30 then (r :: rest, used, lost) else ringRoom n rest (used - r.size) (lost + 1)

/-- A record put into the ring (R478, R480). -/
def State.ringRecord (s : State) (kind flags : Nat) (body : List Byte) (fill : Nat) : State :=
  let r : Rec := ⟨kind, flags, s.now, body, fill, s.free⟩
  let (kept, used, lost) := ringRoom r.size s.life.ring (s.rd F.lifeRecBacklog) 0
  let s := (s.wr F.lifeRecBacklog (min (used + r.size) (2 ^ 30 - 1))).add F.lifeRecLost lost
  { s with free := if fill = 0 then s.free else s.free + 1,
           life := { s.life with ring := kept ++ [r], lostSince := s.life.lostSince + lost } }

/-- A record written (R478): the first after a reset follows the RESET marker. In Survival no record is written (R433). -/
def State.record (s : State) (kind flags : Nat) (body : List Byte) (fill : Nat) : State :=
  if s.budget = 3 then s
  else if s.life.markDue then
    (({ s with life := { s.life with markDue := false } } : State).ringRecord 6 0 [] 0).ringRecord kind flags body fill
  else s.ringRecord kind flags body fill

/-! ### The fault log -/

/-- The bytes of a fault record (R418). -/
def FaultRec.bytes (r : FaultRec) : List Byte :=
  le 4 r.seq ++ stBytes r.at_ ++ le 1 r.kind ++ le 1 r.src ++ le 1 r.sev ++ le 1 r.place ++ le 2 r.flags ++
    le 8 r.location.toNat ++ le 4 r.syndrome.toNat

/-- A record entered in the ring of 64 (R418) and in the Voyage Recorder (R478). -/
def State.logFault (s : State) (kind src sev place flags : Nat) (location : W64) (syndrome : W32) : State :=
  let seq := if s.fault.ring.isEmpty then 0 else (s.rd F.faultLogSequence + 1) % 2 ^ 32
  let r : FaultRec := ⟨seq, s.now, kind, src % 256, sev, place, flags, location, syndrome⟩
  let ring := s.fault.ring ++ [r]
  let s := { s with fault := { s.fault with ring := ring.drop (ring.length - 64) } }
  (s.wr F.faultLogSequence seq).record 5 0 r.bytes 0

/-! ### Datagrams of the Spine -/

/-- The key slot of a Spine host is loaded. -/
def State.keyLoaded (s : State) (k : Nat) : Bool := !(s.spine.keys.get k).isEmpty

/-- The command came by the local port. -/
def fromHere (h : Hdr) : Bool :=
  match h.src with
  | .mailbox _ => true
  | .spine _ _ _ _ _ => false

/-- The check value of a key: the first 4 bytes of the HMAC of "VRELNU" (R338, R390). -/
def keyCheck (key : List Byte) : Nat := Crypto.unbe ((Crypto.hmac key [0x56, 0x52, 0x45, 0x4C, 0x4E, 0x55]).take 4)

/-- A UDP payload with its authentication trailer (R336, R337), and the counter moved on: at the wrap of its count its epoch increases
by 1 (R473). -/
def State.seal (s : State) (slot : Nat) (body : List Byte) : State × List Byte :=
  let b := body ++ le 1 slot ++ le 3 0 ++ le 4 s.spine.txCount ++ le 4 (s.rd F.spineTxEpoch)
  let n := (s.spine.txCount + 1) % 2 ^ 32
  let t : State := { s with spine := { s.spine with txCount := n } }
  (if n = 0 then t.wr F.spineTxEpoch (s.rd F.spineTxEpoch + 1) else t,
    b ++ (Crypto.hmac (s.spine.keys.get slot) b).take 16)

/-- A UDP payload as the IPv4 packets carry it (R335): up to 1,472 bytes beside the UDP header, and 1,480 in each further fragment, as many
as an Ethernet frame holds (log entry 109). The first argument bounds the fragments. -/
def furtherFragments : Nat → List Byte → List (List Byte)
  | 0, _ => []
  | n + 1, b => if b.isEmpty then [] else b.take 1480 :: furtherFragments n (b.drop 1480)

/-- The fragments of a datagram of the module; a shorter one stays whole (R335). -/
def fragments (b : List Byte) : List (List Byte) := b.take 1472 :: furtherFragments b.length (b.drop 1472)

/-- A datagram to a Spine host in its key slot; nothing is sent while the slot holds no key (log entry 46), or while the module has no
address (R335). -/
def State.sendHost (s : State) (host : Nat) (mk : List (List Byte) → Output) (body : List Byte) : State :=
  let slot := s.cfg (F.spineHostCfgSlot host)
  if s.keyLoaded slot ∧ s.cfg F.spineIpAddr ≠ 0 then
    let r := s.seal slot body
    r.1.put (mk (fragments r.2))
  else s

/-- An event sent to a Spine host (R339, R458). -/
def State.sendEvent (s : State) (host : Nat) (msg : List Byte) : State := s.sendHost host (Output.event host) msg

/-- A port forwards: the internal one always, an external one while enabled with its link up. -/
def State.portUp (s : State) (q : Nat) : Bool :=
  q == 8 || (s.cfgFlag (F.spinePortCfgEnabled q) && s.rd (F.spinePortStatus q) != 0)

/-- A port is a member of a VLAN entry (R332). -/
def State.portMember (s : State) (q v : Nat) : Bool := q == 8 || testBit (s.cfg (F.spinePortVlans q)) v

/-- The ports by which a multicast of the module leaves: every external member of the internal port's default VLAN with its link up, so
both Spine paths under PRP or HSR (R331, R332, R334). -/
def State.floodPorts (s : State) : List Nat :=
  (List.range 8).filter fun q => s.portUp q && s.portMember q (s.cfg (F.spinePortCfgVlan 8))

/-- A heartbeat sealed and sent to its group (R336, R340). -/
def State.sendHeartbeat (s : State) (body : List Byte) : State :=
  let r := s.seal (s.cfg F.spineHbKey) body
  r.1.put (.heartbeat (s.cfg F.spineHbGroup) (s.cfg F.spineHbPort) s.floodPorts r.2)

/-- A counter taken from a sender (R337): the epoch must be above the one recorded before the last reset, and the counter new. -/
def Sender.fresh (x : Sender) (c : Nat) : Bool :=
  (match x.floor with
  | some f => decide (f < c / 2 ^ 32)
  | none => true) &&
  (match x.last with
  | some l => decide (l < c) || (decide (l ≤ c + 64) && c != l && !x.window.contains c)
  | none => true)

/-- A sender after a counter was accepted; an epoch other than the recorded one is written to MRAM, unless the Write Guard stops it
(R337, R428). -/
def Sender.accept (x : Sender) (c : Nat) (guarded : Bool) : Sender :=
  let last := match x.last with
    | some l => max l c
    | none => c
  ⟨x.floor, if guarded then x.epoch else some (c / 2 ^ 32), some last, (c :: x.window).filter fun w => decide (last ≤ w + 64)⟩

/-! ### The event queue -/

/-- The oldest entry that is no Alarm taken out of a queue: the entry and what remains. -/
def takeNonAlarm : List Event → Option (Event × List Event)
  | [] => none
  | e :: rest =>
    if e.cls = .alarm then
      match takeNonAlarm rest with
      | some (x, rest') => some (x, e :: rest')
      | none => none
    else some (e, rest)

/-- The oldest later entry of a code taken out of a queue. -/
def takeCode (code : Nat) : List Event → Option (Event × List Event)
  | [] => none
  | e :: rest =>
    if e.code = code then some (e, rest) else
    match takeCode code rest with
    | some (x, rest') => some (x, e :: rest')
    | none => none

/-- Two entries of one code merged (R457): the oldest that has a later one, and the oldest of those. -/
def mergeAlarms : List Event → Option (List Event)
  | [] => none
  | e :: rest =>
    match takeCode e.code rest with
    | some (x, rest') => some ({ e with rep := e.rep + x.rep, flags := putBit e.flags 2 true } :: rest')
    | none =>
      match mergeAlarms rest with
      | some r => some (e :: r)
      | none => none

/-- How many entries of a queue are of class Alarm. -/
def alarmCount (q : List Event) : Nat := (q.filter fun e => e.cls = .alarm).length

/-- One entry removed by overflow (R457): counted, LOST set, remembered for the next report. -/
def State.countLost (s : State) (seq : Nat) : State :=
  let s := s.inc F.devEventLost
  { s with host := { s.host with irq := putBit s.host.irq 10 true, lostSince := s.host.lostSince + 1,
                                 lostSeq := max s.host.lostSeq seq } }

/-- An entry placed in the queue under the rules of R457. -/
def State.place (s : State) (e : Event) : State :=
  let q := s.host.queue
  if e.cls = .alarm then
    if q.length < 1024 then { s with host := { s.host with queue := q ++ [e] } } else
    match takeNonAlarm q with
    | some (x, q') => ({ s with host := { s.host with queue := q' ++ [e] } } : State).countLost x.seq
    | none =>
      match mergeAlarms q with
      | some q' => ({ s with host := { s.host with queue := q' ++ [e] } } : State).inc F.devEventMerged
      | none => s
  else
    if q.length - alarmCount q < 768 ∧ q.length < 1024 then { s with host := { s.host with queue := q ++ [e] } } else
    match takeNonAlarm q with
    | some (x, q') => ({ s with host := { s.host with queue := q' ++ [e] } } : State).countLost x.seq
    | none => s.countLost e.seq

/-- The Spine hosts that take events (R458): enabled, with events on. -/
def State.eventHosts (s : State) : List Nat :=
  (List.range 4).filter fun h => s.cfgFlag (F.spineHostCfgEnabled h) && s.cfgFlag (F.spineHostCfgEvents h)

/-- An occurrence numbered, queued, sent to the Spine hosts and journalled (R457 to R459, R478). -/
def State.queueOne (s : State) (code : Nat) (cls : EvClass) (flags : Nat) (payload : List Byte) : State :=
  let seq := s.host.nextSeq
  let e : Event := ⟨seq, code, cls, 1, if s.host.wrapped then putBit flags 1 true else flags, s.now, payload⟩
  let next := (seq + 1) % 2 ^ 32
  let s := { s with host := { s.host with nextSeq := next, wrapped := next == 0 } }
  let s := if next = 0 then s.inc F.devEventWraps else s
  let s := (s.wr F.devEventSeq seq).place e
  let hosts := s.eventHosts
  let s := if s.flag F.laneStatusHolding then
      { s with host := { s.host with withheld := s.host.withheld ++ hosts.map fun h => HeldBack.event h (e.message false) } }
    else hosts.foldl (fun (s : State) h => s.sendEvent h (e.message false)) s
  s.record 2 0 (e.message false) 0

/-- An occurrence queued, and at the first removal in each second of Station Time EV_EVENT_LOST after it (R457). While the lanes
are not up, nothing is queued: EV_DEV_RESET is the first event after a reset (R460). -/
def State.queueEvent (s : State) (code : Nat) (cls : EvClass) (flags : Nat) (payload : List Byte) : State :=
  if s.ready = false then s else
  let s := s.queueOne code cls flags payload
  if 0 < s.host.lostSince ∧ s.host.lostSecond ≠ some s.second then
    let body := le 4 s.host.lostSince ++ le 4 s.host.lostSeq
    let s := { s with host := { s.host with lostSince := 0, lostSecond := some s.second } }
    (s.inc (F.faultSourceCount 1)).queueOne 1 .alarm 0 body
  else s

/-- The class of a severity (R412). -/
def severityClass (sev : Nat) : EvClass := if sev = 0 then .record else if sev = 1 then .notify else .alarm

/-- An occurrence of a process source counted and judged for escalation (R412, R414): the state and whether this occurrence
is escalated. -/
def State.escalate (s : State) (src : Nat) : State × Bool :=
  let window := s.cfg F.faultEscalateWindow * nsSecond
  let count := s.cfg F.faultEscalateCount
  let before := s.fault.times.get src
  let quiet := match before.getLast? with
    | some t => decide (window ≤ s.since t)
    | none => true
  let esc := s.fault.escalated.get src && !quiet && count != 0
  let times := ((before.filter fun t => s.since t < window) ++ [s.clock])
  let times := times.drop (times.length - 100)
  let s := { s with fault := { s.fault with
    times := s.fault.times.set src times,
    escalated := s.fault.escalated.set src (esc || (count != 0 && decide (count ≤ times.length))) } }
  (s, esc)

/-- An occurrence of a process source, without the reaction of Lane-fatal (R412, R414, R418). -/
def State.emitBase (s : State) (src : Nat) (flags : Nat) (payload : List Byte) : State :=
  let sev := s.cfg (F.faultSeverity src)
  let (s, esc) := (s.inc (F.faultSourceCount src)).escalate src
  let sev' := if esc && decide (sev < 2) then sev + 1 else sev
  let flags := if sev' ≠ sev then putBit flags 5 true else flags
  let s := s.queueEvent (src % 256) (severityClass sev') flags payload
  if 2 ≤ sev' then
    s.logFault 1 src sev' 0xFF (bit (testBit flags 4) * 2 + bit (testBit flags 5) * 4) 0 0
  else s

/-- An occurrence of a process source (R412). A Lane-fatal source occurs in every active lane, because every lane computes the
same (R413): no lane is silenced, the event carries COMMON_MODE, and EV_FAULT_COMMON_MODE follows. While the lanes are not up
nothing is sent. -/
def State.emit (s : State) (src : Nat) (payload : List Byte) : State :=
  if s.ready = false then s else
  if s.cfg (F.faultSeverity src) = 3 then
    let s := (s.emitBase src 16 payload).inc F.faultCommonModeCount
    (s.wr F.faultStatusCommonMode 1).emitBase 0xC3 0 (le 1 src ++ le 4 (s.rd F.timeFrameNumber))
  else s.emitBase src 0 payload

/-- An occurrence dated to the frame instant (R180). -/
def State.emitAtFrame (s : State) (src : Nat) (payload : List Byte) : State :=
  let u := ({ s with time := { s.time with tb0 := s.time.frameAt } } : State).emit src payload
  { u with time := { u.time with tb0 := s.time.tb0 } }

/-- A byte of an event field that has no value in this event, which no rule gives (log entry 60). -/
def State.noValue (s : State) (code : Nat) : List Byte := [Config.freeByte code s.host.nextSeq]

/-- The bytes of event fields that have no value in this event (log entry 60). -/
def State.noValues (s : State) (code n : Nat) : List Byte := (List.range n).map fun k => Config.freeByte (code + 0x100 * k) s.host.nextSeq

/-! ### Responses -/

/-- A mailbox changed. -/
def State.setMailbox (s : State) (n : Nat) (b : Mailbox) : State :=
  { s with host := { s.host with mbx := s.host.mbx.set n b } }

/-- A response sent, or written over the command in its mailbox (R446, R452). -/
def State.deliver (s : State) (h : Hdr) (code res : Nat) (payload : List Byte) : State :=
  match h.src with
  | .mailbox n =>
    let msg := message 1 code h.seq.toNat res 0 s.now n.val payload
    let mb := s.host.mbx.get n.val
    { s with host := { s.host with mbx := s.host.mbx.set n.val ⟨.done, mb.buf.writeBytes 0 msg⟩,
                                   irq := putBit s.host.irq n.val true } }
  | .spine k _ _ _ ports =>
    let msg := message 1 code h.seq.toNat res 0 s.now 0xFF payload
    let kept := s.host.kept.get k.val ++ [⟨h.seq.toNat, h.check.toNat, msg⟩]
    ({ s with host := { s.host with
        kept := s.host.kept.set k.val (kept.drop (kept.length - 32)),
        outstanding := s.host.outstanding.set k.val ((s.host.outstanding.get k.val).filter fun q => q ≠ h.seq.toNat) } } :
      State).sendHost k.val (Output.response k.val ports.src.toNat) msg

/-- A response: sent at once, or waiting while the output selector holds (R446). -/
def State.respond (s : State) (h : Hdr) (code res : Nat) (payload : List Byte) : State :=
  if s.flag F.laneStatusHolding then { s with host := { s.host with waiting := s.host.waiting ++ [⟨h, code, res, payload⟩] } }
  else s.deliver h code res payload

/-- The responses, events and heartbeats that waited for the selector (R360, R446). -/
def State.flushWaiting (s : State) : State :=
  let start : State := { s with host := { s.host with waiting := [], withheld := [] } }
  let t := s.host.withheld.foldl (fun (t : State) o => match o with
    | .event h m => t.sendEvent h m
    | .heartbeat b => t.sendHeartbeat b) start
  s.host.waiting.foldl (fun (t : State) w => t.deliver w.hdr w.code w.res w.payload) t

/-- What a command comes to: the state, and its result and returned values, or none while a long command runs. -/
abbrev Reply := State × Option (Nat × List Byte)

/-- A reply with a result and returned values. -/
def State.reply (s : State) (res : Nat) (payload : List Byte := []) : Reply := (s, some (res, payload))

/-- A mailbox holds a message with this code, sequence, check code and payload (R443). -/
def Mailbox.holds (mb : Mailbox) (h : Hdr) (code : Nat) (payload : List Byte) : Bool :=
  unle (mb.buf.readBytes 4 2) == code && unle (mb.buf.readBytes 6 2) == payload.length &&
  unle (mb.buf.readBytes 8 4) == h.seq.toNat && unle (mb.buf.readBytes 28 4) == h.check.toNat &&
  mb.buf.readBytes 32 payload.length == payload

/-- A long command goes on (R446, R447): of a Spine host it is outstanding until its response. -/
def State.awaitReply (s : State) (h : Hdr) : State :=
  match h.src with
  | .mailbox _ => s
  | .spine k _ _ _ _ => { s with host := { s.host with
      outstanding := s.host.outstanding.set k.val (s.host.outstanding.get k.val ++ [h.seq.toNat]) } }

/-- A command run, with its response where it is complete. -/
def State.runCommand (s : State) (h : Hdr) (code : Nat) (body : State → Reply) : State :=
  match body s with
  | (s', some (res, payload)) => s'.respond h code res payload
  | (s', none) => s'.awaitReply h

/-- A rejected datagram counted, with EV_SPINE_AUTH no sooner than a second after the last (R337): reason 0 tag or slot, 1 replay, 2 unknown
source, and the rejections of the preceding second, this one among them (R343). -/
def State.authReject (s : State) (addr reason : Nat) : State :=
  let f := if reason = 0 then F.spineAuthFail else if reason = 1 then F.spineAuthReplay else F.spineUnknownHost
  let times := (s.spine.authTimes.filter fun t => s.since t < nsSecond) ++ [s.clock]
  let s := s.inc f
  let s : State := { s with spine := { s.spine with authTimes := times } }
  let quiet := match s.spine.authAt with
    | some t => decide (s.since t < nsSecond)
    | none => false
  if quiet then s
  else ({ s with spine := { s.spine with authAt := some s.clock } } : State).emit 0x91 (le 4 addr ++ le 1 reason ++ le 4 times.length)

/-- The UDP source port of a command of a Spine host (R339). -/
def replyPort (h : Hdr) : Nat :=
  match h.src with
  | .mailbox _ => 0
  | .spine _ _ _ _ ports => ports.src.toNat

/-- A response sent again, or a refusal with SEQUENCE or BUSY, to a command of a Spine host that is not processed (R447). -/
def State.answerSpine (s : State) (k : Nat) (h : Hdr) (msg : List Byte) : State := s.sendHost k (Output.response k (replyPort h)) msg

/-- The duplicate test of a Spine host's command (R447), then the command. -/
def State.spineCommand (s : State) (k : Nat) (h : Hdr) (code : Nat) (body : State → Reply) : State :=
  match (s.host.kept.get k).find? fun x => x.seq = h.seq.toNat with
  | some x =>
    if x.check = h.check.toNat then
      let m := x.msg.take 14 ++ [(x.msg.getD 14 0) ||| 1] ++ (x.msg.drop 15)
      s.answerSpine k h (m.take 28 ++ le 4 (Crypto.crc32c (m.take 28 ++ m.drop 32)).toNat ++ m.drop 32)
    else s.answerSpine k h (message 1 code h.seq.toNat Res.sequence 0 s.now 0xFF [])
  | none =>
    if 8 ≤ (s.host.outstanding.get k).length then s.answerSpine k h (message 1 code h.seq.toNat Res.busy 0 s.now 0xFF [])
    else s.runCommand h code body

/-- The length of a command's arguments (R444, R453): the smallest, the greatest, and the step between; none for a code that R453
does not list. -/
def argLength (code : Nat) : Option (Nat × Nat × Nat) :=
  ([(0x0001, 2, 1022, 4), (0x0002, 2, 3062, 12), (0x0003, 0, 0, 1), (0x0004, 0, 0, 1), (0x0005, 5, 3973, 1), (0x0006, 4, 4, 1),
    (0x0007, 36, 36, 1), (0x0008, 4, 3972, 1), (0x0009, 0, 0, 1), (0x000A, 0, 0, 1), (0x000B, 1, 1, 1), (0x000C, 1, 1, 1),
    (0x000D, 0, 4064, 1), (0x1001, 0, 0, 1), (0x2001, 2, 2, 1), (0x2002, 0, 0, 1), (0x4001, 2, 2, 1), (0x4002, 2, 2, 1),
    (0x5001, 0, 0, 1), (0x5002, 1, 1, 1), (0x5003, 20, 20, 1), (0x5004, 12, 12, 1), (0x5005, 13, 13, 1), (0x5006, 4, 772, 24),
    (0x6001, 21, 21, 1), (0x6002, 0, 0, 1), (0x6003, 6, 6, 1), (0x7001, 4, 3972, 1), (0x7002, 1, 1, 1), (0x7003, 1, 1, 1),
    (0x7004, 0, 0, 1), (0x7005, 3, 4064, 1), (0x7006, 1, 4064, 1), (0x7007, 4, 4, 1), (0x7008, 0, 4064, 1), (0x8001, 2, 2, 1),
    (0x8002, 5, 5, 1), (0x9001, 1, 33, 1), (0xA001, 0, 0, 1), (0xB001, 5, 13, 1), (0xB002, 4, 4, 1), (0xB003, 0, 32, 1),
    (0xC001, 3, 3, 1), (0xC002, 8, 8, 1), (0xD001, 1, 1, 1), (0xE001, 10, 10, 1), (0xE002, 14, 14, 1)] :
    List (Nat × Nat × Nat × Nat)).lookup code

/-- What a number of argument bytes is to a command (R444, R448, R453): more than its command allows, a wrong length, or right. -/
inductive ArgFit where
  | tooLong | wrong | fits
deriving DecidableEq, Repr

/-- How the argument bytes of a listed command fit it. -/
def argFit (x : Nat × Nat × Nat) (n : Nat) : ArgFit :=
  if x.2.1 < n then .tooLong else if n < x.1 ∨ (n - x.1) % x.2.2 ≠ 0 then .wrong else .fits

/-- A command message as a host sends it (R443), with the check code that it carries. -/
def commandBytes (h : Hdr) (code : Nat) (payload : List Byte) : List Byte :=
  (message 0 code h.seq.toNat 0 0 0 0 payload).take 28 ++ le 4 h.check.toNat ++ payload

/-- What a trailer is computed over (R336): the message, the key slot and the counter. -/
def signedBytes (m : List Byte) (slot : Byte) (c : W64) : List Byte := m ++ [slot] ++ le 3 0 ++ le 8 c.toNat

/-- What a datagram of a host fails (R337): 2 no enabled source, 0 key slot or tag, 1 counter. -/
def State.authFault (s : State) (k : Nat) (slot : Byte) (c : W64) (tag signed : List Byte) : Option Nat :=
  if s.cfgFlag (F.spineHostCfgEnabled k) = false then some 2
  else if slot.toNat ≠ s.cfg (F.spineHostCfgSlot k) ∨ s.keyLoaded slot.toNat = false ∨
      (Crypto.hmac (s.spine.keys.get slot.toNat) signed).take 16 ≠ tag then some 0
  else if (s.spine.senders.get k).fresh c.toNat = false then some 1
  else none

/-- The counter of an accepted datagram noted (R337). -/
def State.acceptFrom (s : State) (k : Nat) (c : W64) : State :=
  { s with spine := { s.spine with senders := s.spine.senders.set k ((s.spine.senders.get k).accept c.toNat s.writeGuard) } }

/-- A listed command of a Spine host whose datagram was accepted, by its check code and its length (R444). -/
def State.admitted (s : State) (k : Nat) (h : Hdr) (code : Nat) (payload : List Byte) (body : State → Reply) : State :=
  let right := (commandBytes h code payload == message 0 code h.seq.toNat 0 0 0 0 payload)
  match argLength code with
  | none => s.spineCommand k h code fun s => s.reply Res.unknownCommand
  | some x =>
    match right, argFit x payload.length with
    | true, .fits => s.spineCommand k h code body
    | true, .wrong => s.spineCommand k h code fun s => s.reply Res.badLength
    | _, _ => s.inc F.devMsgErrors

/-- A Plezen command from a mailbox whose message was taken, or from a Spine host whose datagram is accepted (R337, R443 to R447,
R452). While READY is clear nothing is processed, nor over the Spine while the module has no address, nor a datagram to another port
(R335, R339). -/
def State.command (s : State) (h : Hdr) (code : Nat) (payload : List Byte) (body : State → Reply) : State :=
  if s.ready = false then s else
  match h.src with
  | .mailbox n =>
    let mb := s.host.mbx.get n.val
    if mb.st = .taken ∧ mb.holds h code payload = true then s.runCommand h code body else s
  | .spine k slot c tag ports =>
    if s.cfg F.spineIpAddr = 0 ∨ ports.dst.toNat ≠ s.cfg F.spinePlezenPort ∨ s.isWithheld (.spine k) then s else
    match s.authFault k.val slot c tag (signedBytes (commandBytes h code payload) slot c) with
    | some r => s.authReject (s.cfg (F.spineHostIp k.val)) r
    | none => (s.acceptFrom k.val c).admitted k.val h code payload body

end Sys2Proof.Machine
end

