-- ==== Sys2Proof/Machine/Ledger.lean ====
section
/-! DEFINITION. The Sensor Ledger (R129 to R131) and the streams that write it (R102, R126). -/

namespace Sys2Proof.Machine

/-- A Gathering closes 4.0 ms after its frame instant (R132). -/
abbrev closeOffset : Nat := 4 * nsMs

/-- The Gathering that a stamp belongs to has closed at an instant (R132). -/
def closedAt (stamp at_ : Nat) : Bool := decide (nextMultiple nsFrame stamp + closeOffset ≤ at_)

/-- The bytes of a Ledger entry (R129). -/
def LedgerEntry.bytes (e : LedgerEntry) : List Byte :=
  le 1 e.stream ++ le 1 (bit e.late + 2 * bit e.applied + 4 * bit e.discarded) ++ le 2 e.seq ++ stBytes e.stamp ++ le 2 e.delay ++
    padTo 48 e.payload

/-- A sample written to the Ledger, or dropped where no place is free (R129 to R132, R478). -/
def State.ledgerWrite (s : State) (stream stamp : Nat) (payload : List Byte) (barred : Bool) (meas : Option GnssRec) : State :=
  if 16384 ≤ s.coll.ledger.length then
    let s := s.inc F.collLedgerFullCount
    if s.coll.droppedThisFrame then s
    else ({ s with coll := { s.coll with droppedThisFrame := true } } : State).emit 0x40 (le 1 stream)
  else
    let e : LedgerEntry :=
      ⟨stream, decide (stamp ≤ s.coll.closedUpTo) || closedAt stamp s.now, false, false, s.coll.seq, stamp,
        min ((s.now - stamp) / 1000) 65535, payload, barred, meas, s.now⟩
    let s := { s with coll := { s.coll with ledger := s.coll.ledger ++ [e], seq := (s.coll.seq + 1) % 65536 } }
    if testBit (s.cfg F.lifeRecLedgerMask) stream then s.record 3 0 e.bytes 0 else s

/-- The newest APPLIED entry of each stream that has been freed, with one freed now. -/
def keepFreed (m : Store noEntry) (e : LedgerEntry) : Store noEntry :=
  match m.get e.stream with
  | some b => if b.stamp ≤ e.stamp then m.set e.stream (some e) else m
  | none => m.set e.stream (some e)

/-- The entries of a stream that are not DISCARDED, with the newest that has been freed: a sample stays the latest of its stream when its
place is freed (R154, R169). -/
def State.samplesOf (s : State) (k : Nat) : List LedgerEntry :=
  (s.coll.freed.get k).toList ++ s.coll.ledger.filter fun e => e.stream == k && !e.discarded

/-- The newest stamp of some entries, of equal stamps the last. -/
def newest (es : List LedgerEntry) : Option LedgerEntry :=
  es.foldl (fun best e => match best with
    | some b => if b.stamp ≤ e.stamp then some e else best
    | none => some e) none

/-- APPLIED or DISCARDED entries stamped more than 220 ms before the frame instant are freed (R130), before anything is written at it. -/
def State.ledgerFree (s : State) (frame : Nat) : State :=
  let old (e : LedgerEntry) : Bool := (e.applied || e.discarded) && decide (e.stamp + 220 * nsMs < frame)
  let rest := s.coll.ledger.filter fun e => !old e
  let gone := s.coll.ledger.filter fun e => old e && e.applied
  let s := { s with coll := { s.coll with
    ledger := rest, freed := gone.foldl keepFreed s.coll.freed, droppedThisFrame := false } }
  (s.wr F.collLedgerFill rest.length).wr F.collLedgerPeak (max rest.length (s.rd F.collLedgerPeak))

/-- The streams 0 to 44 of a source kind and index (R102). -/
def State.streamsOf (s : State) (kind index : Nat) : List Nat :=
  (List.range 45).filter fun k =>
    s.cfg (F.inpStreamSourceKind k) == kind && s.cfg (F.inpStreamSourceIndex k) == index

/-- The status of a stream written; a change sends EV_INPUT_STREAM (R126). -/
def State.setStream (s : State) (k st : Nat) : State :=
  let old := s.rd (F.inpStreamStatus k)
  if old = st then s else (s.wr (F.inpStreamStatus k) st).emit 0x30 (le 1 k ++ le 1 old ++ le 1 st)

/-- A sample of a stream accepted: its time-out restarts (R126). -/
def State.streamSeen (s : State) (k : Nat) : State :=
  { s with inp := { s.inp with lastSample := s.inp.lastSample.set k (some s.clock),
                               count := s.inp.count.set k (s.inp.count.get k + 1) } }

/-- A rejected message of each of some streams (R126). -/
def State.reject (s : State) (ks : List Nat) : State := ks.foldl (fun s k => s.inc (F.inpStreamRejects k)) s

end Sys2Proof.Machine
end

