-- ==== Sys2Proof/Machine/Units.lean ====
section
/-! DEFINITION. The arithmetic of a solver unit, its factorisations and fall-back schedules, and the column that the lanes check (R188,
R190, R193, R197, R198, R201 to R203). -/

namespace Sys2Proof.Machine

open Sys2Proof.Float

/-! ### Arithmetic (R188) -/

/-- The largest finite number with a sign. -/
def largest (negative : Bool) : F64 := if negative then 0xFFEFFFFFFFFFFFFF#64 else 0x7FEFFFFFFFFFFFFF#64

/-- A result as a unit writes it, with whether that sets OVERFLOW: what would be infinite is the largest finite number with its sign. -/
def unitResult (x : F64) : F64 × Bool :=
  match n64 x with
  | .inf n => (largest n, true)
  | _ => (x, false)

/-- An operand as it is loaded into scratch, with whether that sets INPUT_NONFINITE: what is not finite is +0, and a subnormal number
zero of its sign. -/
def unitLoad (x : F64) : F64 × Bool := if dfin x then (r64 (n64 x), false) else (0, true)

/-- A fused multiply-add `a × b + c`: it rounds once. -/
def unitFma (a b c : F64) : F64 × Bool := unitResult (r64 (add (mul (n64 a) (n64 b)) (n64 c)))

/-- A quotient; by zero it is the largest finite number with the sign of the dividend. -/
def unitDiv (a b : F64) : F64 × Bool :=
  match n64 a, n64 b with
  | .fin n _ _, .fin _ 0 _ => (largest n, true)
  | _, _ => unitResult (ddiv a b)

/-- A number as a unit writes it, with whether that sets OVERFLOW: what is infinite is the largest finite number with its sign, and a
subnormal number zero of its sign. What a free value makes no number is +0. -/
def unitWrite (x : F64) : F64 × Bool :=
  match n64 x with
  | .nan => (0, true)
  | .inf n => (largest n, true)
  | y => (r64 y, false)

/-- Numbers written, with whether one of them sets OVERFLOW. -/
def unitWrites (xs : List F64) : List F64 × Bool :=
  let ys := xs.map unitWrite
  (ys.map (·.1), ys.any (·.2))

/-- A block written. -/
def writeBlock (b : Block) : Block × Bool :=
  let ys := b.map unitWrites
  (ys.map (·.1), ys.any (·.2))

/-- A block as it is loaded, with whether that set INPUT_NONFINITE. -/
def loadBlock (b : Block) : Block × Bool :=
  let ys := b.map fun c => c.map unitLoad
  (ys.map fun c => c.map (·.1), ys.any fun c => c.any (·.2))

/-- A square root; of a negative number +0. -/
def unitSqrt (a : F64) : F64 × Bool := if dlt a 0 then (0, true) else (dsqrt a, false)

/-! ### Factorisations (R190, R197, R203) -/

/-- A pivot that a factorisation meets is a breakdown (R197): it is not positive, has another sign than expected, or is below the
threshold τ × a_max. -/
def isBreakdown (ldlt want : Bool) (least : FpNum) (p : F64) : Bool :=
  let x := n64 p
  let right := if ldlt ∧ want = false then lt x zero else lt zero x
  !right || lt (magnitude x) least

/-- A column divided by its pivot or its root, with whether that set OVERFLOW. -/
def divideColumn (d : F64) (below : List F64) : List F64 × Bool :=
  let xs := below.map fun a => unitDiv a d
  (xs.map (·.1), xs.any (·.2))

/-- The trailing update of a column (R189): the factor's entries times one of the pivot's column are taken off it. -/
def updateColumn (by_ : F64) (l col : List F64) : List F64 × Bool :=
  let xs := (col.zip l).map fun p => unitFma (p.2 ^^^ 0x8000000000000000#64) by_ p.1
  (xs.map (·.1), xs.any (·.2))

/-- What a factorisation rests on: whether it is LDLT, the expected signs, τ × a_max, and δ_fb where small pivots are replaced. -/
structure Pivoting where
  ldlt : Bool
  signs : List Bool
  least : FpNum
  replace : Option F64

/-- The pivot in force at a column: none where the factorisation stops, else the pivot and whether it was replaced (R197, R203). -/
def Pivoting.take (v : Pivoting) (j : Nat) (p : F64) : Option (F64 × Bool) :=
  let want := v.signs.getD j true
  if isBreakdown v.ldlt want v.least p then
    v.replace.map fun d => (if v.ldlt && !want then d ^^^ 0x8000000000000000#64 else d, true)
  else some (p, false)

/-- The columns of a factor one after another (R189, R197): `done` holds those before column `j`, the rest the trailing matrix. -/
def factorColumns (v : Pivoting) : Nat → Nat → List (List F64) → Factor → Factor
  | fuel + 1, j, (p :: below) :: rest, done =>
    match v.take j p with
    | none => { done with failed := some j }
    | some (d, replaced) =>
      let root := if v.ldlt then (d, false) else unitSqrt d
      let l := divideColumn root.1 below
      let by_ := if v.ldlt then below else l.1
      let next := rest.zipIdx.map fun c => updateColumn (by_.getD c.2 0) (l.1.drop c.2) c.1
      factorColumns v fuel (j + 1) (next.map (·.1))
        { done with cols := done.cols ++ [root.1 :: l.1], replaced := done.replaced + bit replaced,
                    overflow := done.overflow || root.2 || l.2 || next.any (·.2) }
  | _, _, _, done => done

/-- The largest absolute diagonal entry of a matrix (R197). -/
def largestDiagonal (a : JobMatrix) : FpNum :=
  a.cols.foldl (fun m c => match c with
    | p :: _ => if lt m (magnitude (n64 p)) then magnitude (n64 p) else m
    | [] => m) zero

/-- A matrix as it is loaded into scratch, with whether that set INPUT_NONFINITE (R188). -/
def loadMatrix (a : JobMatrix) : JobMatrix × Bool :=
  let cols := a.cols.map fun c => c.map unitLoad
  ({ a with cols := cols.map fun c => c.map (·.1) }, cols.any fun c => c.any (·.2))

/-- A CHOL or LDLT job on one matrix (R190, R197): τ = 2^(−tau); `replace` is the magnitude that a small pivot takes on the fall-back
path. -/
def factorise (tau : Nat) (replace : Option F64) (a : JobMatrix) : Factor :=
  let x := loadMatrix a
  let v : Pivoting := ⟨!a.signs.isEmpty, a.signs, scale2 (-(tau : Int)) (largestDiagonal x.1), replace⟩
  factorColumns v x.1.cols.length 0 x.1.cols ⟨[], none, 0, x.2, x.2, v.ldlt⟩

/-- A matrix regularised (R198): δ = 2^(−delta) × a_max added to every diagonal entry, in LDLT taken off where a negative pivot is
expected. -/
def regularise (delta : Nat) (a : JobMatrix) : JobMatrix :=
  let d := scale2 (-(delta : Int)) (largestDiagonal a)
  { a with cols := a.cols.zipIdx.map fun c => match c.1 with
      | p :: below => r64 (add (n64 p) (if a.signs.getD c.2 true then d else neg d)) :: below
      | [] => [] }

/-! ### Products and triangular solves (R190) -/

/-- A number with its sign changed. -/
def negated (x : F64) : F64 := x ^^^ 0x8000000000000000#64

/-- A sum over the columns of a GEMM member: column `k` of `a` times row `k` of `b`ᵀ, with the diagonal between them, added to every
column of `c` or taken off it. -/
def gemmColumns (minus : Bool) (d : Option (List F64)) : Nat → List (List F64) → List (List F64) → Block × Bool → Block × Bool
  | k, a :: as, b :: bs, x =>
    let by_ : List (F64 × Bool) := b.map fun v => match d with
      | some ds => unitFma v (ds.getD k 0) 0
      | none => (v, false)
    let next := x.1.zipIdx.map fun c =>
      let v := (by_.getD c.2 (0, false)).1
      updateColumn (if minus then v else negated v) a c.1
    gemmColumns minus d (k + 1) as bs (next.map (·.1), x.2 || by_.any (·.2) || next.any (·.2))
  | _, _, _, x => x

/-- A member of a GEMM batch, with whether it set OVERFLOW and INPUT_NONFINITE. -/
def gemm (g : GemmJob) : Block × Bool × Bool :=
  let a := loadBlock g.a
  let b := loadBlock g.b
  let c := loadBlock g.c
  let d := g.d.map fun ds => loadBlock [ds]
  let bad := a.2 || b.2 || c.2 || (d.map (·.2)).getD false
  let x := gemmColumns g.minus (d.map fun y => y.1.getD 0 []) 0 a.1 b.1 (c.1, bad)
  (x.1, x.2, bad)

/-- A TRSM with L of a factor for one right-hand side, with whether it set OVERFLOW. In LDLT the diagonal of L is 1. -/
def solveLower (ldlt : Bool) : List (List F64) → List F64 → List F64 × Bool
  | (p :: below) :: cols, b :: bs =>
    let x := if ldlt then (b, false) else unitDiv b p
    let next := updateColumn x.1 below bs
    let rest := solveLower ldlt cols next.1
    (x.1 :: rest.1, x.2 || next.2 || rest.2)
  | _, bs => (bs, false)

/-- A TRSM with Lᵀ. -/
def solveUpper (ldlt : Bool) : List (List F64) → List F64 → List F64 × Bool
  | (p :: below) :: cols, b :: bs =>
    let rest := solveUpper ldlt cols bs
    let sum := (below.zip rest.1).foldl (fun v e =>
      let y := unitFma (negated e.1) e.2 v.1
      (y.1, v.2 || y.2)) (b, rest.2)
    let x := if ldlt then sum else
      let y := unitDiv sum.1 p
      (y.1, sum.2 || y.2)
    (x.1 :: rest.1, x.2)
  | _, bs => (bs, false)

/-- A TRSM with D. -/
def solveDiagonal (ds bs : List F64) : List F64 × Bool :=
  let xs := (bs.zip ds).map fun e => unitDiv e.1 e.2
  (xs.map (·.1), xs.any (·.2))

/-- The diagonal of a factor. -/
def diagonalOf (cols : List (List F64)) : List F64 := cols.map fun c => c.headD 0

/-- A right-hand side solved with a whole factor: with L, in LDLT with D, and with Lᵀ; with whether that set OVERFLOW and
INPUT_NONFINITE. -/
def solveFactor (f : Factor) (side : List F64) : List F64 × Bool × Bool :=
  let b := loadBlock [side]
  let x := solveLower f.ldlt f.cols (b.1.getD 0 [])
  let y := if f.ldlt then solveDiagonal (diagonalOf f.cols) x.1 else (x.1, false)
  let z := solveUpper f.ldlt f.cols y.1
  (z.1, b.2 || x.2 || y.2 || z.2, b.2)

/-- A wrong number left in a factor, at a column and row. -/
def spoilFactor (f : Factor) (c i : Nat) (v : F64) : Factor :=
  { f with cols := f.cols.zipIdx.map fun p => if p.2 = c then p.1.set (i - c) v else p.1 }

/-! ### The column that the lanes check (R193) -/

/-- An entry of LLᵀ or of LDLᵀ, on or below the diagonal, formed exactly. -/
def factorEntry (f : Factor) (ldlt : Bool) (i c : Nat) : FpNum :=
  total ((List.range (c + 1)).map fun j =>
    let col := f.cols.getD j []
    let at_ (k : Nat) : FpNum := if ldlt && k == j then .fin false 1 0 else n64 (col.getD (k - j) 0)
    let p := mul (at_ i) (at_ c)
    if ldlt then mul p (n64 (col.getD 0 0)) else p)

/-- Column `c` of the product agrees with that of the matrix within 2⁻³⁶ times the largest absolute diagonal entry. -/
def columnHolds (a : JobMatrix) (f : Factor) (c : Nat) : Bool :=
  let col := a.cols.getD c []
  let bound := scale2 (-36) (largestDiagonal a)
  (List.range col.length).all fun k =>
    !lt bound (magnitude (sub (factorEntry f (!a.signs.isEmpty) (c + k) c) (n64 (col.getD k 0))))

/-- The batch member and the column that both lanes check, from the Catchword and the job sequence. -/
def checkedColumn (catchword seq members order : Nat) : Nat × Nat :=
  ((catchword % 65536 + seq) % members, (catchword / 65536 % 65536 + seq) % order)

/-- A batch of factors passes the column check (R193): of a member that broke down there is no factor to check. -/
def batchHolds (catchword seq : Nat) (as : List JobMatrix) (fs : List Factor) : Bool :=
  match as with
  | [] => true
  | a :: _ =>
    let m := (catchword % 65536 + seq) % as.length
    let a := as.getD m a
    match fs[m]? with
    | some f =>
      if f.failed.isSome ∨ a.cols.isEmpty then true
      else columnHolds a f (checkedColumn catchword seq as.length a.cols.length).2
    | none => false

/-- The numbers that a block takes. -/
def blockSize (b : Block) : Nat := (b.map (·.length)).foldl (· + ·) 0

/-- The bytes that a matrix takes in scratch: itself and its factor, 8 bytes a number (log entry 99). -/
def matrixBytes (a : JobMatrix) : Nat := 16 * a.cols.length * a.cols.length
/-- The bytes of a GEMM member: its operands, and the result in the place of `c`. -/
def gemmBytes (g : GemmJob) : Nat := 8 * (blockSize g.a + blockSize g.b + blockSize g.c + (g.d.map (·.length)).getD 0)
/-- The bytes of a TRSM member: the factor, and the right-hand sides with the results in their place. -/
def trsmBytes (f : Factor) (b : Block) : Nat := 8 * (f.cols.length * f.cols.length + blockSize b)

/-- A matrix, a product or a right-hand side has no dimension above 128. -/
def blockSmall (b : Block) : Bool := decide (b.length ≤ 128) && b.all fun c => decide (c.length ≤ 128)

/-- A batch of members with their bytes fits the powered units (R190): 1 to 64 members, in contiguous groups, each within 1,984 KiB. -/
def batchFits (units : Nat) (bytes : List Nat) : Bool :=
  let per := (bytes.length + units - 1) / max units 1
  decide (1 ≤ bytes.length) && decide (bytes.length ≤ 64) &&
    (List.range units).all fun u => decide (((bytes.drop (u * per)).take per).foldl (· + ·) 0 ≤ 1984 * 1024)

/-! ### Fall-back schedules (R202, R203) -/

/-- A field of a step word. -/
def stepField (w : W64) (lo n : Nat) : Nat := w.toNat / 2 ^ lo % 2 ^ n

/-- The step word is END. -/
def isEnd (w : W64) : Bool := stepField w 61 3 == 6

/-- The steps of a schedule up to END. -/
def stepsOf (x : Schedule) : List W64 := x.steps.takeWhile fun w => !isEnd w

/-- The step kinds that use `j`: SOLVE and UPDATE (R202). -/
def usesJ (w : W64) : Bool := stepField w 61 3 == 1 || stepField w 61 3 == 2

/-- A step word has no reserved field that is not 0, 0 in `j` and `k` where they are unused, and no reserved kind or sign (R202). -/
def stepOk (w : W64) : Bool :=
  stepField w 0 20 == 0 && stepField w 61 3 != 7 && (usesJ w || stepField w 35 13 == 0) &&
    (stepField w 61 3 == 2 || stepField w 22 13 == 0) && decide (stepField w 48 13 < 4096) && decide (stepField w 35 13 < 4096) &&
    decide (stepField w 22 13 < 4096) && (stepField w 61 3 != 0 || stepField w 20 2 == 1 || stepField w 20 2 == 2)

/-- A schedule ends within 8,192 steps, its words are well formed up to its end, and its blocks have at most 64 rows and columns (R202). -/
def scheduleOk (x : Schedule) : Bool :=
  let run := stepsOf x
  decide (run.length < 8192) && decide (run.length < x.steps.length) && (x.steps.take (run.length + 1)).all stepOk &&
    x.blocks.all fun b => decide (b.1 ≤ 64) && decide (b.2.1 ≤ 64)

/-- The lower triangle of a dense block. -/
def lowerBlock (b : Block) (want : Bool) : JobMatrix := ⟨b.zipIdx.map fun c => c.1.drop c.2, List.replicate b.length want⟩

/-- What a schedule's run has come to: its blocks, the diagonal D of each block that FACTOR or SOLVE has worked on, the parts of the
right-hand side, how many pivots were replaced, and whether OVERFLOW and INPUT_NONFINITE were set. -/
structure ScheduleRun where
  blocks : List Block
  diags : List (Option (List F64))
  sides : List (List F64)
  replaced : Nat
  overflow : Bool
  nonfinite : Bool

/-- The factor that stands in a block. -/
def factorIn (b : Block) : List (List F64) := b.zipIdx.map fun c => c.1.drop c.2

/-- A FACTOR step (R202) with static pivoting (R203). -/
def factorStep (least : FpNum) (delta : F64) (x : ScheduleRun) (i : Nat) (want : Bool) : ScheduleRun :=
  let a := lowerBlock (x.blocks.getD i []) want
  let f := factorColumns ⟨true, a.signs, least, some delta⟩ a.cols.length 0 a.cols ⟨[], none, 0, false, false, true⟩
  { x with blocks := x.blocks.set i (f.cols.zipIdx.map fun c => List.replicate c.2 0 ++ c.1),
           diags := x.diags.set i (some (diagonalOf f.cols)), replaced := x.replaced + f.replaced, overflow := x.overflow || f.overflow }

/-- The columns of a block solved against a factor: the block is then what times D and Lᵀ gives it. -/
def solveColumns : List (List F64) → Block → Block × Bool
  | (d :: below) :: cols, b :: bs =>
    let next := bs.zipIdx.map fun c => updateColumn (below.getD c.2 0) b c.1
    let x := divideColumn d b
    let rest := solveColumns cols (next.map (·.1))
    (x.1 :: rest.1, x.2 || next.any (·.2) || rest.2)
  | _, bs => (bs, false)

/-- A SOLVE step (R202): block `j` against the factor in block `i`, whose D the UPDATE steps take. -/
def solveStep (x : ScheduleRun) (i j : Nat) : ScheduleRun :=
  match x.diags.getD i none with
  | some d =>
    let r := solveColumns (factorIn (x.blocks.getD i [])) (x.blocks.getD j [])
    { x with blocks := x.blocks.set j r.1, diags := x.diags.set j (some d), overflow := x.overflow || r.2 }
  | none =>
    let r := writeBlock (Config.blockStep 1 (x.blocks.getD i []) (x.blocks.getD j []) [])
    { x with blocks := x.blocks.set j r.1, overflow := x.overflow || r.2 }

/-- An UPDATE step (R202): block `k` −= block `i` · D · block `j`ᵀ. -/
def updateStep (x : ScheduleRun) (i j k : Nat) : ScheduleRun :=
  let a := x.blocks.getD i []
  let b := x.blocks.getD j []
  let c := x.blocks.getD k []
  let r := match x.diags.getD i none with
    | some d => gemmColumns true (some d) 0 a b (c, false)
    | none => writeBlock (Config.blockStep 2 a b c)
  { x with blocks := x.blocks.set k r.1, overflow := x.overflow || r.2 }

/-- A FORWARD (3), BACKWARD (4) or DIAG (5) step on a block (R202): the part of the right-hand side that stands beside a factor is solved
with L or Lᵀ, or scaled by D. -/
def sideStep (x : ScheduleRun) (kind i : Nat) : ScheduleRun :=
  match x.diags.getD i none with
  | some d =>
    let b := x.sides.getD i []
    let l := factorIn (x.blocks.getD i [])
    let r := if kind = 3 then solveLower true l b else if kind = 4 then solveUpper true l b else
      let ys := (b.zip d).map fun e => unitFma e.1 e.2 0
      (ys.map (·.1), ys.any (·.2))
    { x with sides := x.sides.set i r.1, overflow := x.overflow || r.2 }
  | none =>
    let r := writeBlock (Config.sideStep kind i x.blocks x.sides)
    { x with sides := r.1, overflow := x.overflow || r.2 }

/-- A step of a schedule (R202). -/
def scheduleStep (least : FpNum) (delta : F64) (x : ScheduleRun) (w : W64) : ScheduleRun :=
  let i := stepField w 48 13
  let j := stepField w 35 13
  match stepField w 61 3 with
  | 0 => factorStep least delta x i (stepField w 20 2 == 1)
  | 1 => solveStep x i j
  | 2 => updateStep x i j (stepField w 22 13)
  | k => sideStep x k i

/-- A SCHED job up to its solution (R190, R202, R203): the steps up to END on what is loaded, with δ_fb = 2^(−delta) × a_max. -/
def runSchedule (tau delta : Nat) (x : Schedule) (load : List Block × List (List F64)) : ScheduleRun :=
  let bs := load.1.map loadBlock
  let sides := loadBlock load.2
  let bad := bs.any (·.2) || sides.2
  let blocks := bs.map (·.1)
  let top := blocks.foldl (fun m b => let d := largestDiagonal (lowerBlock b true); if lt m d then d else m) zero
  (stepsOf x).foldl (scheduleStep (scale2 (-(tau : Int)) top) (r64 (scale2 (-(delta : Int)) top)))
    ⟨blocks, List.replicate blocks.length none, sides.1, 0, bad, bad⟩

/-- A pass of refinement (R203): the residual of the solution goes through the steps that solve, and the solution takes the result up. -/
def refinePass (x : Schedule) (residual : List (List F64) → List (List F64)) (r : ScheduleRun) : ScheduleRun :=
  let load := writeBlock (residual r.sides)
  let again := ((stepsOf x).filter fun w => decide (3 ≤ stepField w 61 3)).foldl (fun y w => sideStep y (stepField w 61 3) (stepField w 48 13))
    { r with sides := load.1, overflow := r.overflow || load.2 }
  let sums := (r.sides.zip again.sides).map fun p => (p.1.zip p.2).map fun e => unitFma e.1 0x3FF0000000000000#64 e.2
  { again with sides := sums.map fun c => c.map (·.1), overflow := again.overflow || sums.any fun c => c.any (·.2) }

/-- A solution with its passes of refinement (R203). -/
def refine (x : Schedule) (residual : List (List F64) → List (List F64)) : Nat → ScheduleRun → ScheduleRun
  | 0, r => r
  | n + 1, r => refine x residual n (refinePass x residual r)

end Sys2Proof.Machine
end

