-- ==== Sys2Proof/Machine/Fusion.lean ====
section
/-! DEFINITION. The filter of the Collator: the passes over the entries of a frame, the innovation gate, the weights, prediction and
re-runs (R133, R134, R136 to R143, R149). The equations are open functions of Config (log entry 98). -/

namespace Sys2Proof.Machine

/-- The scale of the applied network weight: the value that stands for 1 (log entry 31). -/
abbrev dnOne : Nat := 2500000

/-! ### What a frame's pass rests on -/

/-- The records latched at a frame instant (R88). -/
def State.recordsAt (s : State) (t : Nat) : List GnssRec :=
  (s.coll.ledger.filter fun e => e.stamp == t && !e.discarded).filterMap (·.meas)

/-- A value of a reference-type entry (R125). -/
def entryValue (e : LedgerEntry) (j : Nat) : F64 := BitVec.ofNat 64 (unle ((e.payload.drop (8 + 8 * j)).take 8))

/-- The latest entry of a stream: the newest stamp of those not DISCARDED, of equal stamps the one written last. -/
def State.latestOf (s : State) (k : Nat) : Option LedgerEntry := newest (s.samplesOf k)

/-- A stream carries IMU frames. -/
def State.imuStream (s : State) (k : Nat) : Bool := decide (k < 45) && s.cfg (F.inpStreamSourceKind k) == 2

/-- The stream of the mechanised IMU: the lowest that its port feeds (R137). -/
def State.activeImu (s : State) : Option Nat :=
  if s.flag F.collImuActiveModelOnly then none else (s.streamsOf 2 (s.rd F.collImuActivePort)).head?

/-- A sync edge of the mechanised port falls in the frame and has no sample (R137). -/
def State.imuGap (s : State) : Bool :=
  match s.activeImu with
  | none => false
  | some k =>
    let p := s.rd F.collImuActivePort
    (s.inp.edges.get (8 + p)).any fun e =>
      let stamp := ((e.1 : Int) + s.cfgInt (F.inpImuOffset p)).toNat
      decide (s.time.frameAt < stamp + nsFrame) && decide (stamp ≤ s.time.frameAt) &&
        !(s.coll.ledger.any fun x => x.stream == k && x.stamp == stamp)

/-- The relative wind that a wind sample gives (R121, R154, R243), from where it comes: along, across, the angle from the bow in degrees and
the speed. A sample with reference relative (0) is taken as it stands; to one with reference true (1) the vessel's own motion is added (log
entry 98). -/
def windOf (angle speed reference : F64) (low : LowFreq) : F32 × F32 × F64 × F64 :=
  let sc := Fixed.sinCos (Fixed.of64 angle)
  let v := Fixed.of64 speed
  let x := Fixed.mul sc.2 v
  let y := Fixed.mul sc.1 v
  if reference = Float.dint 1 then
    let x := x + Fixed.of32 low.surge
    let y := y + Fixed.of32 low.sway
    (Fixed.to32 x, Fixed.to32 y, Fixed.to64 (Fixed.angle x y), Fixed.to64 (Fixed.hypot x y))
  else (Fixed.to32 x, Fixed.to32 y, angle, speed)

/-- The relative wind of the latest sample of the wind stream; all 0 with no sample. -/
def State.relativeWind (s : State) : F32 × F32 × F64 × F64 :=
  match s.latestOf (s.cfg F.collWindStream) with
  | some e => windOf (entryValue e 0) (entryValue e 1) (entryValue e 2) s.coll.low
  | none => (0, 0, 0, 0)

/-- The factor f of the process noise (R161). -/
def State.noiseFactor (s : State) : F32 :=
  if s.rd F.collDnStatus = 0 then Float.fint 1
  else Float.fratio (dnOne + ((s.cfg F.collQWiden : Int) - 1) * ((dnOne : Int) - s.coll.weight)) dnOne

/-- What propagation rests on in this frame (R136, R137, R161). -/
def State.mechNow (s : State) : Mech :=
  let p := s.rd F.collImuActivePort
  { sample := none, lever := (List.range 3).map fun a => s.cfgInt (F.collImuLever p a)
    align := (List.range 3).map fun a => s.cfgInt (F.collImuAlign p a), thrust := s.ctl.force, wind := s.ctl.windForce
    network := s.coll.dnForce
    qForce := (List.range 3).map fun a => Float.fmul (Float.fratio (s.cfg (F.collQForce a)) 10) s.noiseFactor
    wave := (s.cfg F.collWavePeriod, s.cfg F.collWaveDamping), model := s.active.vesselModel, thrusters := s.active.thrusterCells, hold := [42] }

/-- What the pass of a frame takes besides its entries: its instant, the weights of its references in 0.0001 (R140), the scalars that were
shed (R152), the INCONSISTENT receivers (R142), and the stream of the mechanised IMU. -/
structure FrameCtx where
  frame : Nat
  weights : Nats
  mech : Mech
  cut : List (Nat × Nat × Nat)
  inconsistent : Nat
  imu : Option Nat

/-- The pass of the frame in progress. -/
def State.frameCtx (s : State) (cut : List (Nat × Nat × Nat)) : FrameCtx :=
  ⟨s.time.frameAt, s.vote.applied, s.mechNow, cut, s.rd F.collRxConsistency, s.activeImu⟩

/-- What a pass has come to: the filter, the gated scalars of each receiver and those that failed, the references applied, whether a
pseudorange was accepted, and whether an update was not sound. -/
structure Pass where
  filter : Filter
  gated : Nats
  failed : Nats
  pos : List Nat
  hdg : List Nat
  pseudo : Bool
  broken : Bool

/-- A pass that has taken nothing. -/
def Pass.start (f : Filter) : Pass := ⟨f, ⟨[]⟩, ⟨[]⟩, [], [], false, false⟩

/-! ### Propagation and updates -/

/-- The states that are held keep their values, and the anchor's bias is zero (R136, R139, R184). -/
def holdStates (hold : List Nat) (old new : Filter) : Filter :=
  let pick (a b : List F64) : List F64 :=
    (List.range 45).map fun i => if i = 42 then 0 else if hold.contains i then a.getD i 0 else b.getD i 0
  { new with nominal := pick old.nominal new.nominal, err := pick old.err new.err }

/-- A filter carried forward to an instant (R133, R137): on the IMU sample last mechanised, or on the vessel model alone. -/
def carryFilter (c : FrameCtx) (f : Filter) (t : Nat) : Filter :=
  if t ≤ f.at_ then f else
  let m := { c.mech with sample := if c.imu.isSome then some f.sample else none }
  { holdStates c.mech.hold f (Config.propagate f (t - f.at_) m) with at_ := t, sample := f.sample }

/-- Every number of a filter is finite, and the diagonal of its factor positive (R143). -/
def filterSound (f : Filter) : Bool :=
  f.nominal.all Float.dfin && f.err.all Float.dfin && f.factor.all Float.dfin &&
    (List.range 45).all fun i => Float.dlt 0 (f.factor.getD (45 * i - i * (i - 1) / 2) 0)

/-- The innovation gate (R141): |ν| / √S does not exceed coll.gate, in 0.01 σ. -/
def withinGate (gate : Nat) (x : F64 × F64) : Bool :=
  let v := Float.n64 x.1
  let sq := Float.mul (Float.mul v v) (Float.ofInt 10000)
  Float.dfin x.1 && Float.dfin x.2 && !Float.lt (Float.mul (Float.n64 x.2) (Float.ofInt (gate * gate : Nat))) sq

/-- A scalar applied (R136). -/
def Pass.correct (c : FrameCtx) (p : Pass) (m : Scalar) : Pass :=
  let f := { holdStates c.mech.hold p.filter (Config.correct p.filter m c.mech.hold) with at_ := p.filter.at_, sample := p.filter.sample }
  { p with filter := f, broken := p.broken || !filterSound f }

/-- A variance divided by a weight in 0.0001 (R140). -/
def weighed (v : F64) (w : Nat) : F64 := Float.dscale v 10000 w

/-! ### GNSS records -/

/-- A record counts for measurement-level fusion (R138). -/
def usable (r : GnssRec) : Bool :=
  let f := r.flags.toNat
  testBit f 0 && testBit f 5 && !testBit f 6 && !testBit f 8

/-- The record of the same channel and signal in the previous frame, where both continue the carrier phase (R138). -/
def continued (prev : List GnssRec) (r : GnssRec) : Option GnssRec :=
  let ok (x : GnssRec) : Bool := testBit x.flags.toNat 1 && testBit x.flags.toNat 2
  if ok r && !testBit r.flags.toNat 3 then
    prev.find? fun p => p.rx == r.rx && p.chan == r.chan && p.cons == r.cons && p.sat == r.sat && p.sig == r.sig && ok p
  else none

/-- The scalars of a record: 0 pseudorange, 1 carrier phase, 2 Doppler (R138). -/
def scalarKinds (prev : List GnssRec) (r : GnssRec) : List Nat :=
  if usable r then
    [0] ++ (if (continued prev r).isSome then [1] else []) ++ (if testBit r.flags.toNat 4 then [2] else [])
  else []

/-- The variance of a scalar of a record before its weight (R138): the code noise squared for a pseudorange. -/
def recordVariance (kind : Nat) (r : GnssRec) (prev : Option GnssRec) : F64 :=
  if kind = 0 then Float.dratio ((r.codeNoise.toNat ^ 2 : Nat) : Int) (10 ^ 6)
  else Config.carrierVariance kind r.carrNoise (match prev with
    | some x => x.carrNoise
    | none => 0) r.sig

/-- A scalar of a record (R138, R140). -/
def State.recordScalar (s : State) (w kind : Nat) (r : GnssRec) (data : List Byte) (prev : Option (GnssRec × List Byte)) : Scalar :=
  let nav := match s.gnss.ephs.find? fun e => e.rx == r.rx.val && e.cons == r.cons.toNat && e.sat == r.sat.toNat with
    | some e => e.data
    | none => []
  let sbas := match s.gnss.sbas.find? fun x => testBit r.flags.toNat 7 && x.1 == r.cons && x.2.1 == r.sat with
    | some x => x.2.2
    | none => []
  { kind := kind, src := r.rx.val, data := data, prev := (prev.map (·.2)).getD [], nav := nav, sbas := sbas
    scale := s.gnss.scales.get (8 * r.rx.val + r.cons.toNat % 8), leap := s.gnss.leap
    lever := (List.range 3).map fun a => s.cfgInt (F.gnssAntLever r.rx.val a)
    variance := weighed (recordVariance kind r (prev.map (·.1))) w }

/-- A GNSS entry taken into a pass (R138, R140 to R142): every scalar gated, those of an INCONSISTENT receiver not applied. -/
def State.passRecord (s : State) (c : FrameCtx) (p : Pass) (e : LedgerEntry) (r : GnssRec) : Pass :=
  let n := r.rx.val
  let w := c.weights.get (6 + n)
  let before := s.coll.ledger.filter fun x => x.stamp + nsFrame == c.frame && !x.discarded
  let prevs := before.filterMap (·.meas)
  let prev := continued prevs r
  let data := match before.find? fun x => x.meas == prev && prev.isSome with
    | some x => x.payload
    | none => []
  let on := !testBit c.inconsistent n
  if w = 0 then p else
  (scalarKinds prevs r).foldl (fun p k =>
    if c.cut.contains (n, r.chan.val, k) then p else
    let m := s.recordScalar w k r e.payload (prev.map fun x => (x, data))
    let ok := withinGate (s.cfg F.collGate) (Config.innovation p.filter m)
    let p := { p with gated := p.gated.set n (p.gated.get n + 1), failed := if ok then p.failed else p.failed.set n (p.failed.get n + 1) }
    if ok && on then
      { p.correct c m with pos := if p.pos.contains (6 + n) then p.pos else p.pos ++ [6 + n], pseudo := p.pseudo || k == 0 }
    else p) p

/-! ### External references -/

/-- The position slots of a stream (R139). -/
def State.posSlots (s : State) (k : Nat) : List Nat := (List.range 6).filter fun r => s.cfg (F.collPosrefStream r) == k

/-- The heading slots of a stream (R139). -/
def State.hdgSlots (s : State) (k : Nat) : List Nat := (List.range 3).filter fun h => s.cfg (F.collHdgrefStream h) == k

/-- The variance per axis of a sample (R139, R140): coll.stream_noise squared, four times that of a degraded sensor, divided by the
weight; in m² from mm, in degrees² from 0.01°. -/
def State.refVariance (s : State) (e : LedgerEntry) (heading : Bool) (w : Nat) : F64 :=
  let n := s.cfg (F.collStreamNoise e.stream) ^ 2 * (if testBit (e.payload.getD 3 0).toNat 1 then 4 else 1)
  weighed (Float.dratio (n : Nat) (if heading then 10 ^ 4 else 10 ^ 6)) w

/-- A scalar of an external reference: 3 north, 4 east, 5 heading (R139). -/
def State.refScalar (s : State) (e : LedgerEntry) (kind slot w : Nat) : Scalar :=
  { kind := kind, src := slot, data := e.payload, prev := [], nav := [], scale := [], leap := none, sbas := []
    lever := (List.range 3).map fun a => s.cfgInt (F.collStreamLever e.stream a), variance := s.refVariance e (kind == 5) w }

/-- The sample of a position slot (R139 to R141): both axes are gated, and it is rejected whole if either fails. -/
def State.passPosition (s : State) (c : FrameCtx) (e : LedgerEntry) (p : Pass) (r : Nat) : Pass :=
  let w := c.weights.get r
  if w = 0 then p else
  let gate (m : Scalar) : Bool := withinGate (s.cfg F.collGate) (Config.innovation p.filter m)
  let north := s.refScalar e 3 r w
  let east := s.refScalar e 4 r w
  if gate north && gate east then { (p.correct c north).correct c east with pos := p.pos ++ [r] } else p

/-- The sample of a heading slot (R139 to R141). -/
def State.passHeading (s : State) (c : FrameCtx) (e : LedgerEntry) (p : Pass) (h : Nat) : Pass :=
  let w := c.weights.get (9 + h)
  if w = 0 then p else
  let m := s.refScalar e 5 h w
  if withinGate (s.cfg F.collGate) (Config.innovation p.filter m) then { p.correct c m with hdg := p.hdg ++ [h] } else p

/-! ### The pass of a frame -/

/-- An entry of a frame (R133): the filter carried to its stamp, then its measurement. A sample of the mechanised IMU is mechanised on
from its stamp. -/
def State.passEntry (s : State) (c : FrameCtx) (p : Pass) (e : LedgerEntry) : Pass :=
  let p := { p with filter := carryFilter c p.filter e.stamp }
  if c.imu == some e.stream then { p with filter := { p.filter with sample := e.payload } }
  else
    match e.meas with
    | some r => s.passRecord c p e r
    | none => (s.hdgSlots e.stream).foldl (fun p h => s.passHeading c e p h)
        ((s.posSlots e.stream).foldl (fun p r => s.passPosition c e p r) p)

/-- The entries of a frame taken in order, then the filter carried to the frame instant. -/
def State.passOver (s : State) (c : FrameCtx) (f : Filter) (es : List LedgerEntry) : Pass :=
  let p := es.foldl (fun p e => s.passEntry c p e) (Pass.start f)
  { p with filter := carryFilter c p.filter c.frame }

/-- The heading biases that a frame holds: all where the anchor has no weight (R184). -/
def FrameCtx.heldHeadings (c : FrameCtx) : List Nat := if c.weights.get 9 = 0 then [42, 43, 44] else [42]

/-- The biases of the position slots (R139). -/
def slotBiases : List Nat := (List.range 12).map (· + 30)

/-- A frame's pass in which some states are held. -/
def FrameCtx.holding (c : FrameCtx) (hold : List Nat) : FrameCtx := { c with mech := { c.mech with hold := hold } }

/-- A filter carried over the entries of a frame without an update: its IMU samples alone (R134, R143). No pseudorange is accepted, so the
slot biases are held (R139). -/
def State.predictFrom (s : State) (f : Filter) (es : List LedgerEntry) : Pass :=
  let c := s.frameCtx []
  let c := c.holding (c.heldHeadings ++ slotBiases)
  s.passOver c f (es.filter fun e => c.imu == some e.stream)

/-- The prediction for the lanes (R134): of the state at the frame instant, from the unrevised state. -/
def State.predicted (s : State) (es : List LedgerEntry) : Pass := s.predictFrom s.coll.filter es

/-- The pass of a frame (R133, R139, R143, R184). The biases of the heading slots are held where the anchor has no weight, those of the
position slots where no pseudorange is accepted, which a first pass with the biases held finds out (log entry 98). An update that is not
sound discards every update of the frame. -/
def State.framePass (s : State) (c : FrameCtx) (f : Filter) (es : List LedgerEntry) : Pass :=
  let all := c.holding (c.heldHeadings ++ slotBiases)
  let first := s.passOver all f es
  let p := if first.pseudo then s.passOver (c.holding c.heldHeadings) f es else first
  if p.broken then { s.passOver all f (es.filter fun e => c.imu == some e.stream) with broken := true, gated := p.gated, failed := p.failed }
  else p

/-! ### Re-runs -/

/-- An entry placed among entries by stamp, then stream (R133). -/
def insertEntry (e : LedgerEntry) : List LedgerEntry → List LedgerEntry
  | [] => [e]
  | x :: rest =>
    if e.stamp < x.stamp ∨ (e.stamp = x.stamp ∧ e.stream ≤ x.stream) then e :: x :: rest else x :: insertEntry e rest

/-- The frames that are run again for a late stamp, the oldest first (R149). -/
def State.framesFrom (s : State) (stamp : Nat) : List FrameKept :=
  (s.coll.stored.filter fun k => decide (stamp ≤ k.frame)).reverse

/-- The entries of an earlier frame, its own and the late ones stamped in it, in order (R149). -/
def State.entriesOf (s : State) (frame : Nat) (late : List LedgerEntry) : List LedgerEntry :=
  (s.coll.ledger.filter fun e => decide (frame < e.stamp + nsFrame) && decide (e.stamp ≤ frame) &&
    (e.applied || late.contains e) && !e.discarded).foldl (fun xs e => insertEntry e xs) []

/-- The filter as another IMU is mechanised (R137): its biases start from zero with their initial uncertainty. -/
def restartImu (f : Filter) : Filter :=
  let clear (xs : List F64) : List F64 := xs.zipIdx.map fun p => if 9 ≤ p.2 ∧ p.2 ≤ 14 then 0 else p.1
  { f with nominal := clear f.nominal, err := clear f.err, factor := Config.restartBias f.factor, sample := [] }

/-- The biases of the mechanised IMU start afresh at this frame instant (R137). -/
def State.imuRestarts (s : State) : Bool := s.coll.imuSwitched && !s.flag F.collImuActiveModelOnly

/-- What a retrodiction has come to: the states stored, the newest first, the filter after the last frame, and the frames in which an update
was not sound. -/
structure Rerun where
  stored : List FrameKept
  filter : Filter
  broken : List Nat

/-- A frame run again (R137, R143, R149): with the weights, the IMU and the receivers of its own time. -/
def State.rerunFrame (s : State) (late : List LedgerEntry) (x : Rerun) (k : FrameKept) : Rerun :=
  let c : FrameCtx := ⟨k.frame, k.weights, k.mech, k.cut, k.inconsistent, k.imu⟩
  let p := s.framePass c (if k.restart then restartImu x.filter else x.filter) (s.entriesOf k.frame late)
  ⟨{ k with filter := p.filter } :: x.stored, p.filter, if p.broken then x.broken ++ [k.frame] else x.broken⟩

/-- A filter as the units write it (R152, R188). -/
def filterWritten (f : Filter) : Filter :=
  { f with nominal := (unitWrites f.nominal).1, err := (unitWrites f.err).1, factor := (unitWrites f.factor).1 }

/-- What a retrodiction on the units has come to (R152, R188). -/
def Rerun.written (x : Rerun) : Rerun := { x with filter := filterWritten x.filter }

/-- Retrodiction (R149): from the stored state before the oldest late stamp, frame by frame, to the filter from which the frame in progress
goes on. -/
def State.rerun (s : State) (late : List LedgerEntry) : Rerun :=
  match late, s.coll.stored.filter fun k => decide (k.frame < (late.head?.map (·.stamp)).getD 0) with
  | e :: _, b :: older =>
    let x := (s.framesFrom e.stamp).foldl (s.rerunFrame late) ⟨b :: older, b.filter, []⟩
    { x with filter := if s.imuRestarts then restartImu x.filter else x.filter }
  | _, _ => ⟨s.coll.stored, s.coll.filter, []⟩

/-! ### The heave energy index -/

/-- The filter without its wave-frequency states (R144). -/
def calm (f : Filter) : Filter :=
  { f with nominal := (List.range 45).map fun i => if 21 ≤ i ∧ i ≤ 26 then 0 else f.nominal.getD i 0 }

/-- The vertical specific force of the frame's IMU samples kept for 100 s (R154). -/
def State.noteHeave (s : State) : State :=
  let imu := s.activeImu
  let new := (s.coll.live.filter fun e => imu == some e.stream).map fun e => (e.stamp, Config.verticalForce s.coll.filter e.payload)
  let kept := s.coll.heave.filter fun x => decide (s.time.frameAt < x.1 + 100 * nsSecond)
  { s with coll := { s.coll with heave := kept ++ new } }

/-- The heave energy index in 0.001 m/s² (R154): the rms deviation from the mean, rounded down. -/
def State.heaveIndex (s : State) : Nat :=
  let xs := s.coll.heave.map (·.2)
  let n : Int := xs.length
  let sum := xs.foldl (· + ·) 0
  let sq := xs.foldl (fun t x => t + x * x) 0
  if xs.isEmpty then 0 else Float.isqrt ((n * sq - sum * sum).toNat) / (1000 * xs.length)

end Sys2Proof.Machine
end

