-- ==== Sys2Proof/Machine/Time.lean ====
section
/-! DEFINITION. Network time, the time bases and the time pulse (R55 to R81). -/

namespace Sys2Proof.Machine

/-- A source by name. -/
def State.source (s : State) : TimeSrc → Source
  | .ptp => s.time.ptp
  | .tb1 => s.time.tb1
  | .tb2 => s.time.tb2

/-- A source replaced. -/
def State.setSource (s : State) (x : TimeSrc) (o : Source) : State :=
  match x with
  | .ptp => { s with time := { s.time with ptp := o } }
  | .tb1 => { s with time := { s.time with tb1 := o } }
  | .tb2 => { s with time := { s.time with tb2 := o } }

/-- The code of a source in time.status (R80). -/
def srcCode : TimeSrc → Nat
  | .ptp => 1
  | .tb1 => 2
  | .tb2 => 3

/-- The source of a code in time.status. -/
def srcOfCode (n : Nat) : Option TimeSrc :=
  if n = 1 then some .ptp else if n = 2 then some .tb1 else if n = 3 then some .tb2 else none

/-- The order of sources (R57). -/
def State.sourceOrder (s : State) : List TimeSrc :=
  if s.cfg F.timeSourcePrimary = 0 then
    if s.cfgFlag F.timeGnssFallback then [.ptp, .tb1, .tb2] else [.ptp, .tb1]
  else [.tb2, .ptp, .tb1]

/-- The base a PTP message belongs to. -/
def ptpSrc (red : Bool) : TimeSrc := if red then .tb1 else .ptp

/-- The number of the domain followed for a base (R70). -/
def State.ptpDomain (s : State) (red : Bool) : Nat :=
  if red then s.cfg F.timePtpDomainRedundant else s.cfg F.timePtpDomain

/-- The asymmetry of a port in ns, from the Folio (R79): ports 0 and 1 are the Spine ports. -/
def Folio.asymmetry (x : Folio) (port : Nat) : Int :=
  if port = 0 then signed 16 (x.val F.timeSpn0Asymmetry) else if port = 1 then signed 16 (x.val F.timeSpn1Asymmetry) else 0

/-- Absolute difference of two whole numbers. -/
def dist (a b : Int) : Nat := (a - b).natAbs

/-- Offsets lie within ±1 µs of their mean: compared with the count cleared. -/
def steadyOffsets (xs : List Int) : Bool :=
  let n : Int := xs.length
  let sum := xs.foldl (· + ·) 0
  xs.all fun x => decide ((n * x - sum).natAbs ≤ 1000 * xs.length)

/-- A PTP domain meets its tests of R58. -/
def State.ptpQualifies (s : State) (o : Source) : Bool :=
  match o.gm with
  | some a => decide (a.clockClass.toNat ≤ s.cfg F.timeMaxGmClass) && decide (16 ≤ o.offsets.length) &&
      steadyOffsets o.offsets && !o.jumped
  | none => false

/-- The qualification of a source written, with the instant from which it holds. -/
def State.qualify (s : State) (o : Source) (q : Bool) : Source :=
  { o with qualified := q, since := if q && !o.qualified then s.clock else o.since }

/-- A measurement of a source: its offset from TB0 and its bound, judged for a jump against the measurement before it (R62). Steady
within ±1 µs is judged against the first offset after the jump, or after the last one that lay beyond it (log entry 94). -/
def State.measure (s : State) (o : Source) (off : Int) (bound : Nat) : Source :=
  if o.measured && decide (s.cfg F.timeJumpLimit < dist off o.offset) then
    { o with qualified := false, jumped := true, offset := off, bound := bound, offsets := [off],
             steadyFrom := s.clock, steadyRef := off }
  else
    let xs := (o.offsets ++ [off])
    let fresh := !o.measured
    let o := { o with offset := off, bound := bound, measured := true, offsets := xs.drop (xs.length - 16) }
    if o.jumped && (fresh || decide (1000 < dist off o.steadyRef)) then { o with steadyFrom := s.clock, steadyRef := off } else o

/-- A source whose measured offset is changed by a change of delays (R79): no jump, and what the servo has seen moves with it. -/
def Source.shifted (o : Source) (d : Int) : Source :=
  { o with offset := o.offset + d, offsets := o.offsets.map (· + d), steadyRef := o.steadyRef + d }

/-- A domain of which nothing has been received since it is followed (R58). -/
def State.loseDomain (s : State) (o : Source) : Source :=
  { s.qualify o false with gm := none, lastAnnounce := none, lastSync := none, offsets := [], measured := false, jumped := false,
                           awaitFollowUp := none }

/-- The PTP domains at a turn: a changed asymmetry moves what was measured (R79), and a domain number that changes asks for
another domain (R58, R70). A domain that fails a test under the new Folio loses its qualification at once (R58). -/
def State.ptpTurn (s : State) (old : Folio) : State :=
  let move (f : Fld) (o : Source) : Source :=
    if s.cfg f ≠ old.val f then s.loseDomain o
    else
      let o := if o.measured then o.shifted (s.active.asymmetry o.slavePort - old.asymmetry o.slavePort) else o
      if o.qualified && !s.ptpQualifies o then s.qualify o false else o
  { s with time := { s.time with ptp := move F.timePtpDomain s.time.ptp,
                                 tb1 := move F.timePtpDomainRedundant s.time.tb1 } }

/-- A Sync measured in a domain (R58, R62): the servo, qualification and the jump test. -/
def State.acceptSync (s : State) (x : TimeSrc) (port : Nat) (offset : Int) (bound : Nat) : State :=
  let o := s.source x
  let off := offset + o.pathDelay + s.active.asymmetry port
  let o := { s.measure o off bound with lastSync := some s.clock, awaitFollowUp := none }
  s.setSource x (s.qualify o (s.ptpQualifies o))

/-- PTP_SYNC_RX. -/
def execPtpSyncRx (red : Bool) (port : Fin 9) (domain : Byte) (twoStep : Bool) (offset : Int) (bound : Nat) (s : State) :
    Host.Outcome State Fault Refusal :=
  act (fun s =>
    let x := ptpSrc red
    let o := s.source x
    if domain.toNat = s.ptpDomain red ∧ o.gm.isSome ∧ o.slavePort = port.val then
      if twoStep then s.setSource x { o with awaitFollowUp := some port.val } else s.acceptSync x port.val offset bound
    else s) s

/-- PTP_FOLLOW_UP_RX: the measurement of the two-step Sync before it completes (R70). -/
def execPtpFollowUpRx (red : Bool) (port : Fin 9) (offset : Int) (bound : Nat) (s : State) :
    Host.Outcome State Fault Refusal :=
  act (fun s =>
    let x := ptpSrc red
    if (s.source x).awaitFollowUp = some port.val then s.acceptSync x port.val offset bound else s) s

/-- PTP_DELAY_REQ_TX: a Delay_Req, or under 802.1AS a peer-delay request, on the slave port (R70). -/
def execPtpDelayReqTx (red : Bool) (s : State) : Host.Outcome State Fault Refusal :=
  act (fun s =>
    let o := s.source (ptpSrc red)
    if o.gm.isSome then s.put (.ptp o.slavePort (if s.cfg F.timePtpProfile = 0 then 1 else 2) (le 1 (s.ptpDomain red)))
    else s) s

/-- PTP_DELAY_RESP_RX: the path delay measured through the slave port (R70, R79). -/
def execPtpDelayRespRx (red : Bool) (port : Fin 9) (delay : Int) (s : State) : Host.Outcome State Fault Refusal :=
  act (fun s =>
    let x := ptpSrc red
    let o := s.source x
    if o.gm.isSome ∧ o.slavePort = port.val then s.setSource x { o with pathDelay := delay } else s) s

/-- The port is a master port of the module (R73): a Spine or sensor port, not the slave port of the primary domain. -/
def State.masterPort (s : State) (port : Nat) : Bool :=
  s.cfgFlag F.timeGmEnable && decide (port < 8) &&
  !(s.time.ptp.gm.isSome && s.time.ptp.slavePort == port)

/-- A time stamp of an Ethernet port (R73): 8 ns resolution. -/
def State.portStamp (s : State) (atNs : Fin 125000) : Nat := (s.now + atNs.val) / 8 * 8

/-- PTP_DELAY_REQ_RX: under the default profile a Delay_Req is answered with a Delay_Resp on a master port (R73), under 802.1AS a
peer-delay request with its response (R70); the answer carries the receive instant. The other kind is not supported: it is
discarded and counted (R70). -/
def execPtpDelayReqRx (port : Fin 9) (requester : W64) (peer : Bool) (atNs : Fin 125000) (s : State) :
    Host.Outcome State Fault Refusal :=
  act (fun s =>
    let answer (kind : Nat) : State := s.put (.ptp port.val kind (stBytes (s.portStamp atNs) ++ le 8 requester.toNat))
    if peer = false ∧ s.cfg F.timePtpProfile = 0 then (if s.masterPort port.val then answer 3 else s)
    else if peer = true ∧ s.cfg F.timePtpProfile = 1 then answer 6
    else s.inc (F.spinePortCount port.val 7)) s

/-- PTP_SYNC_TX: a one-step Sync of the primary domain on a master port (R73). -/
def execPtpSyncTx (port : Fin 9) (atNs : Fin 125000) (s : State) : Host.Outcome State Fault Refusal :=
  act (fun s =>
    if s.masterPort port.val then s.put (.ptp port.val 0 (le 1 (s.ptpDomain false) ++ stBytes (s.portStamp atNs))) else s) s

/-- The smallest accuracy value of IEEE 1588-2019 that covers a bound in ns (R73); the codes are PRESUMED, log entry 11. -/
def clockAccuracy (bound : Nat) : Nat :=
  match [(0, 0x17), (1, 0x1D), (2, 0x1E), (10, 0x1F), (25, 0x20), (100, 0x21), (250, 0x22), (1000, 0x23), (2500, 0x24), (10000, 0x25),
      (25000, 0x26), (100000, 0x27), (250000, 0x28), (1000000, 0x29), (2500000, 0x2A), (10000000, 0x2B),
      (25000000, 0x2C), (100000000, 0x2D), (250000000, 0x2E), (1000000000, 0x2F), (10000000000, 0x30)].find?
      fun p => decide (bound ≤ p.1) with
  | some p => p.2
  | none => 0x31

/-- The role on the master ports (R73): 0 boundary clock, 1 grandmaster steered from TB1, 2 from TB2, 3 CONVERGING or a short
holdover, 4 a long holdover or PROVISIONAL. -/
def State.masterRole (s : State) : Nat :=
  let src := s.rd F.timeStatusSource
  if s.flag F.timeGridStatusProvisional then 4
  else if s.flag F.timeStatusHoldover then if s.rd F.timeErrorBound ≤ 1000 then 3 else 4
  else if s.flag F.timeStatusConverging then 3
  else if src = 1 then 0 else if src = 2 then 1 else if src = 3 then 2 else 4

/-- The clock data of an Announce message: identity, priorities, class, accuracy, variance, steps removed, TAI − UTC. -/
def announceBytes (ident : W64) (p1 p2 cls acc var steps : Nat) : List Byte :=
  le 8 ident.toNat ++ le 1 p1 ++ le 1 p2 ++ le 1 cls ++ le 1 acc ++ le 2 var ++ le 2 steps

/-- PTP_ANNOUNCE_TX: an Announce of the current time state on a master port (R73). -/
def execPtpAnnounceTx (port : Fin 9) (s : State) : Host.Outcome State Fault Refusal :=
  act (fun s =>
    if s.masterPort port.val then
      let own (cls : Nat) := announceBytes Config.clockIdentity (s.cfg F.timeGmPriority1) (s.cfg F.timeGmPriority2) cls
        (clockAccuracy (s.rd F.timeErrorBound)) Config.clockVariance.toNat 0
      let body :=
        match s.time.masterKind, s.time.masterParent with
        | 0, some a => announceBytes a.gmIdentity a.priority1.toNat a.priority2.toNat a.clockClass.toNat a.accuracy.toNat
            a.variance.toNat (a.stepsRemoved.toNat + 1)
        | 1, some a => own a.clockClass.toNat
        | 2, _ => own 6
        | 3, _ => own 7
        | _, _ => own 248
      s.put (.ptp port.val 4 (body ++ leInt 2 (s.rdInt F.lifeTaiUtc)))
    else s) s

/-- ANNOUNCE_TIMEOUT: three announce intervals without an Announce disqualify the domain (R58, R70). -/
def execAnnounceTimeout (red : Bool) (s : State) : Host.Outcome State Fault Refusal :=
  act (fun s =>
    let x := ptpSrc red
    let o := s.source x
    match o.gm, o.lastAnnounce with
    | some a, some t =>
      if 3 * a.interval * (nsSecond / 4) ≤ s.since t then
        s.setSource x { s.qualify o false with gm := none, lastAnnounce := none, offsets := [], measured := false, awaitFollowUp := none }
      else s
    | _, _ => s) s

/-- SYNC_LOSS_TIMEOUT: no Sync accepted for time.sync_loss_timeout disqualifies the domain (R58). -/
def execSyncLossTimeout (red : Bool) (s : State) : Host.Outcome State Fault Refusal :=
  act (fun s =>
    let x := ptpSrc red
    let o := s.source x
    match o.lastSync with
    | some t =>
      if s.cfg F.timeSyncLossTimeout * nsMs ≤ s.since t then
        s.setSource x { s.qualify o false with lastSync := none, offsets := [], measured := false }
      else s
    | none => s) s

/-- Some receiver meets the TB2 test of R58. -/
def State.timeReceivers (s : State) : Bool := (List.range 3).any fun n => s.gnss.timeOk.get n

/-- The offset of a source is being measured: a PTP domain accepts Sync messages, TB2 has a good time solution. -/
def State.isMeasured (s : State) (t : TimeSrc) : Bool :=
  let o := s.source t
  o.measured && (match t with
    | .tb2 => s.timeReceivers
    | _ => match o.lastSync with
      | some l => decide (s.since l < s.cfg F.timeSyncLossTimeout * nsMs)
      | none => false)

/-- JUMP_REQUALIFY: a jumped source whose offset has been steady within ±1 µs for 60 s is treated as any other (R62). -/
def execJumpRequalify (t : TimeSrc) (s : State) : Host.Outcome State Fault Refusal :=
  act (fun s =>
    let o := s.source t
    if o.jumped ∧ 60 * nsSecond ≤ s.since o.steadyFrom ∧ s.isMeasured t = true then
      let o := { o with jumped := false }
      match t with
      | .tb2 => s.setSource t (s.qualify o true)
      | _ => s.setSource t (s.qualify o (s.ptpQualifies o))
    else s) s

/-- A receiver meets the test of R58: its time solution has been good for 10 s, and since then never bad for 2 s (R92). -/
def State.meetsTime (s : State) (n : Nat) : Bool :=
  match s.gnss.timeGood.get n, s.gnss.timeBad.get n with
  | some g, _ => s.gnss.timeOk.get n || decide (10 * nsSecond ≤ s.since g)
  | none, some b => s.gnss.timeOk.get n && decide (s.since b < 2 * nsSecond)
  | none, none => false

/-- Every receiver judged by the test of R58. -/
def State.judgeReceivers (s : State) : State :=
  { s with gnss := { s.gnss with
      timeOk := (List.range 3).foldl (fun (m : Flags) n => m.set n (s.meetsTime n)) s.gnss.timeOk } }

/-- TB2_QUALIFY: a receiver meets the test after 10 s of a good time solution and fails it after 2 s of a bad one; TB2 is qualified while
one meets it (R58, R92). -/
def execTb2Qualify (s : State) : Host.Outcome State Fault Refusal :=
  act (fun s =>
    let s := s.judgeReceivers
    let o := s.time.tb2
    s.setSource .tb2 (s.qualify o (o.measured && !o.jumped && s.timeReceivers))) s

/-! ### The steering source -/

/-- A difference in ns as a field of an event (R445): 4 bytes, signed. Of one outside them no rule gives the bytes (log entry 13). -/
def State.nsBytes (s : State) (code : Nat) (v : Int) : List Byte :=
  if -(2 ^ 31 : Nat) ≤ v ∧ v < (2 ^ 31 : Nat) then leInt 4 v
  else (List.range 4).map fun k => Config.freeByte (0x1000 + 0x200 * k + code) s.host.nextSeq

/-- A register of a signed number of ns (R80). Of a difference outside its 32 bits no rule gives what it shows (log entry 13). -/
def State.showNs (s : State) (f : Fld) (v : Int) : State :=
  if -(2 ^ 31 : Nat) ≤ v ∧ v < (2 ^ 31 : Nat) then s.wrInt f v
  else ({ s with free := s.free + 1 } : State).wr f (Config.freeNat s.free)

/-- The difference still to be slewed out, and its register (R65, R80). -/
def State.setRemaining (s : State) (v : Int) : State :=
  ({ s with time := { s.time with remaining := v } } : State).showNs F.timeRemainingSlew v

/-- A rate kept within the limit of 50 ns per second, in ps per second (R37, R60). -/
def rateLimited (r : Int) : Int := max (-50000) (min 50000 r)

/-- The rate that the servo's frequency estimate gives TB0 against the OCXO, in ps per second (R60, R63). -/
def State.freqRate (s : State) : Int := if s.flag F.timeStatusAcquired then s.time.freq else 0

/-- The rate of TB0 against the OCXO, in ps per second (R37, R60, R65): the frequency estimate and a slew that takes the rest of the limit
towards the remaining difference. -/
def State.tb0Rate (s : State) : Int :=
  rateLimited (s.freqRate + if 0 < s.time.remaining then 50000 else if s.time.remaining < 0 then -50000 else 0)

/-- LOCKED follows the other flags: a source steers TB0 and CONVERGING is clear (R80). -/
def State.setLocked (s : State) : State :=
  s.wrFlag F.timeStatusLocked ((srcOfCode (s.rd F.timeStatusSource)).isSome && !s.flag F.timeStatusConverging)

/-- TB0 corrected for one frame (R60, R63, R65): the slew moves it against every source, and the frequency estimate moves it, as the
sources, against the OCXO alone, on which TB3 runs. A rate that has changed since the PPS message moves TB0 against the edge that
the message fixed (R74). Parts of a nanosecond are carried on. -/
def State.slew (s : State) : State :=
  let ps := s.time.slewRest + (s.tb0Rate - s.freqRate)
  let d := if s.time.remaining = 0 then 0 else ps / 50000
  let move (o : Source) : Source :=
    { o with offset := o.offset - d, offsets := o.offsets.map (· - d), steadyRef := o.steadyRef - d }
  let fps := s.time.freqRest + s.freqRate
  let pps := s.time.ppsRest + (s.tb0Rate - s.time.ppsRate)
  let s := s.setRemaining (s.time.remaining - d)
  { s with time := { s.time with
      tb3off := s.time.tb3off - d - fps / 50000
      slewRest := if s.time.remaining = 0 then 0 else ps % 50000
      freqRest := fps % 50000
      ppsRest := pps % 50000
      ppsEdge := s.time.ppsEdge.map fun e => ((e : Int) + pps / 50000).toNat
      ptp := move s.time.ptp, tb1 := move s.time.tb1, tb2 := move s.time.tb2 } }

/-- CONVERGING cleared: EV_TIME_CONVERGED follows where it was set (R63, R81), with the source that steers and the time since the
flag was set or, where the source has changed since, from that change (log entry 94). -/
def State.clearConverging (s : State) : State :=
  if s.flag F.timeStatusConverging then
    ((s.wrFlag F.timeStatusConverging false).setLocked).emit 0x13
      (le 1 (s.rd F.timeStatusSource) ++ le 4 (Float.fratio (s.since s.time.convergingSince) nsSecond).toNat)
  else s.setLocked

/-- The bound of R66 in ns after `t` ns of holdover with an OCXO change of `dT` mK, rounded down. -/
def State.holdoverBound (s : State) (t dT : Nat) : Nat :=
  s.time.e0 + (s.cfg F.timeHoldoverRate * t * (2 * 10 ^ 12) + s.cfg F.timeHoldoverAging * t * t +
    s.cfg F.timeHoldoverTempCoeff * dT * t * (2 * 10 ^ 9)) / (2 * 10 ^ 24)

/-- The steering source changed to a qualified one: no step, the difference is slewed out (R63, R64, R65). The duration of
CONVERGING starts anew at the change (log entry 94). -/
def State.steerTo (s : State) (x : TimeSrc) : State :=
  let old := s.rd F.timeStatusSource
  let diff := (s.source x).offset
  let conv := decide (50 ≤ diff.natAbs)
  let s := ((s.wr F.timeStatusSource (srcCode x)).inc F.timeSourceSwitches).wrFlag F.timeStatusHoldover false
  let s := s.setRemaining diff
  let s := s.emit 0x11 (le 1 old ++ le 1 (srcCode x) ++ s.nsBytes 0x11 diff)
  if conv then
    (({ s with time := { s.time with convergingSince := s.clock } } : State).wrFlag F.timeStatusConverging true).setLocked
  else s.clearConverging

/-- The start of holdover (R63, R65, R66). CONVERGING, which the table gives to a source that steers, is cleared, though a remaining
difference is still slewed out (log entry 90). -/
def State.startHoldover (s : State) : State :=
  let old := s.rd F.timeStatusSource
  let e0 := match srcOfCode old with
    | some x => min (s.source x).bound 0xFFFFFFFF
    | none => s.rd F.timeErrorBound
  let s := ((s.wr F.timeStatusSource 4).inc F.timeSourceSwitches).wrFlag F.timeStatusHoldover true
  let s := { s with time := { s.time with e0 := e0, holdStart := s.clock, holdTemp := s.time.ocxo } }
  (s.emit 0x12 (le 1 old ++ s.nsBytes 0x12 e0)).clearConverging

/-- The first qualified source of the order. -/
def State.firstQualified (s : State) : Option TimeSrc := s.sourceOrder.find? fun x => (s.source x).qualified

/-- At most one switch of the steering source at a frame instant (R63, R64). A source that left the order no longer
steers. -/
def State.chooseSource (s : State) : State :=
  if s.flag F.timeStatusAcquired = false then s else
  match srcOfCode (s.rd F.timeStatusSource) with
  | some x =>
    if (s.source x).qualified && s.sourceOrder.contains x then s else
    match s.firstQualified with
    | some y => s.steerTo y
    | none => s.startHoldover
  | none =>
    match s.firstQualified with
    | some y => s.steerTo y
    | none => s

/-- The frequency estimate of a source (R60, R63): free, within the limit of 50 ns per second. -/
def servoEstimate (o : Source) : Int := rateLimited (Config.servoFreq o.offsets)

/-- While a source steers, the remaining difference is the source's measured offset (R65, R68), and the servo follows its
frequency. -/
def State.trackRemaining (s : State) : State :=
  match srcOfCode (s.rd F.timeStatusSource) with
  | some x =>
    if s.flag F.timeStatusAcquired then
      ({ s with time := { s.time with freq := servoEstimate (s.source x) } } : State).setRemaining (s.source x).offset
    else s
  | none => s

/-- CONVERGING judged at a frame instant (R63, R64): set while a source steers and the remaining difference is 50 ns or more,
whatever its origin (R79, log entry 90). -/
def State.judgeConverging (s : State) : State :=
  let small := decide (s.time.remaining.natAbs < 50)
  if s.flag F.timeStatusConverging && small then s.clearConverging
  else if !s.flag F.timeStatusConverging && !small && (srcOfCode (s.rd F.timeStatusSource)).isSome then
    ({ s with time := { s.time with convergingSince := s.clock } } : State).wrFlag F.timeStatusConverging true |>.setLocked
  else s

/-- The reported bound and offsets (R66, R68, R80). -/
def State.reportTime (s : State) : State :=
  let off (o : Source) : Int := if o.qualified then o.offset else -(2 ^ 31 : Nat)
  let s := ((s.showNs F.timeOffsetTb1 (off s.time.tb1)).showNs F.timeOffsetTb2 (off s.time.tb2)).wrInt F.timeOffsetTb3
    s.time.tb3off
  let s := if s.flag F.timeStatusAcquired = false then s
    else if s.flag F.timeStatusHoldover then
      s.wr F.timeErrorBound (min (s.holdoverBound (s.since s.time.holdStart) (dist s.time.ocxo s.time.holdTemp)) 0xFFFFFFFF)
    else match srcOfCode (s.rd F.timeStatusSource) with
      | some x =>
        let extra := if s.flag F.timeStatusConverging then s.time.remaining.natAbs else 0
        s.wr F.timeErrorBound (min ((s.source x).bound + extra) 0xFFFFFFFF)
      | none => s
  { s with time := { s.time with
      masterKind := s.masterRole
      masterParent := if s.rd F.timeStatusSource = 2 then s.time.tb1.gm else s.time.ptp.gm } }

/-- The cross-check of TB1 and TB2 with TB0 at a frame instant (R72): since which frame instant each lies beyond the limit, and
since which one both lie within it. -/
def State.crossCheck (s : State) : State :=
  let beyond (o : Source) : Bool := o.qualified && decide (s.cfg F.timeCrosscheckLimit < o.offset.natAbs)
  let keep (b : Bool) (t : Option Nat) : Option Nat :=
    if b then (match t with
      | some v => some v
      | none => some s.clock) else none
  let b1 := beyond s.time.tb1
  let b2 := beyond s.time.tb2
  { s with time := { s.time with
      overTb1 := keep b1 s.time.overTb1, overTb2 := keep b2 s.time.overTb2,
      withinSince := if s.time.overTb1.isSome || s.time.overTb2.isSome then s.clock else s.time.withinSince } }

/-- CROSSCHECK_TIMEOUT: CROSSCHECK_FAIL set after 10 s beyond the limit, cleared after 10 s within it (R72). The event of a clear names
the base of the command (log entry 88). -/
def execCrosscheckTimeout (tb2 : Bool) (s : State) : Host.Outcome State Fault Refusal :=
  act (fun s =>
    let due := if tb2 then s.time.overTb2 else s.time.overTb1
    let o := if tb2 then s.time.tb2 else s.time.tb1
    let body (clear : Bool) : List Byte := le 1 (srcCode (if tb2 then .tb2 else .tb1)) ++ s.nsBytes 0x14 o.offset ++ le 1 (bit clear)
    match due with
    | some t =>
      if 10 * nsSecond ≤ s.since t ∧ s.flag F.timeStatusCrosscheckFail = false then
        (s.wrFlag F.timeStatusCrosscheckFail true).emit 0x14 (body false)
      else s
    | none =>
      if s.flag F.timeStatusCrosscheckFail ∧ s.time.overTb1 = none ∧ s.time.overTb2 = none ∧
          10 * nsSecond ≤ s.since s.time.withinSince then
        (s.wrFlag F.timeStatusCrosscheckFail false).emit 0x14 (body true)
      else s) s

/-- REVERT_HOLD_EXPIRY: a source earlier in the order, qualified for time.revert_hold, becomes the steering source at a frame
instant (R63). -/
def execRevertHoldExpiry (s : State) : Host.Outcome State Fault Refusal :=
  act (fun s =>
    let hold := s.cfg F.timeRevertHold
    match srcOfCode (s.rd F.timeStatusSource) with
    | some cur =>
      let earlier := s.sourceOrder.takeWhile fun x => x ≠ cur
      match earlier.find? fun x => (s.source x).qualified && decide (hold * nsSecond ≤ s.since (s.source x).since) with
      | some x =>
        if s.time.tickDue = 0 ∧ hold ≠ 0 ∧ s.flag F.timeStatusAcquired ∧ s.sourceOrder.contains cur then
          ((s.steerTo x).trackRemaining).reportTime
        else s
      | none => s
    | none => s) s

/-! ### Acquisition -/

/-- A step that is pending is cancelled: without a source to step to (R47), or when the device leaves START, outside which Station
Time never steps (R46, R60; log entry 94). -/
def State.cancelStep (s : State) : State :=
  if s.time.step.isSome then
    ({ s with time := { s.time with step := none } } : State).wrFlag F.timeGridStatusStepPending s.time.stepped.isSome
  else s

/-- The source that the first acquisition may step to (R47, R59, R61). -/
def State.acquireSource (s : State) : Option TimeSrc :=
  match s.sourceOrder with
  | [] => none
  | first :: _ =>
    if (s.source first).qualified then some first
    else if s.time.anySource || s.time.step == some .resync then s.firstQualified else none

/-- In START, a qualified source that may be acquired makes a step pending (R47, R59). -/
def State.tryAcquire (s : State) : State :=
  if s.devState = 1 ∧ s.flag F.timeStatusAcquired = false ∧ s.time.step = none ∧ s.acquireSource.isSome then
    ({ s with time := { s.time with step := some .acquire } } : State).wrFlag F.timeGridStatusStepPending true
  else s

/-- ACQUIRE_TIMEOUT: after time.acquire_timeout any qualified source may be acquired (R59). -/
def execAcquireTimeout (s : State) : Host.Outcome State Fault Refusal :=
  act (fun s =>
    if s.flag F.timeStatusAcquired = false ∧ s.cfg F.timeAcquireTimeout * nsSecond ≤ s.since s.time.resetAt then
      ({ s with time := { s.time with anySource := true } } : State).tryAcquire
    else s) s

/-- CMD_TIME_RESYNC (R61). -/
def execCmdTimeResync (h : Hdr) (s : State) : Host.Outcome State Fault Refusal :=
  act (fun s => s.command h 0x1001 [] fun s =>
    if s.devState ≠ 1 then s.reply Res.wrongState
    else if s.firstQualified = none then s.reply Res.noSource
    else (({ s with time := { s.time with step := some .resync } } : State).wrFlag F.timeGridStatusStepPending true).reply
      Res.ok) s

/-! ### The time pulse -/

/-- Quantisation of an edge in ps: its ideal instant placed on the nearest point of the 4 ns grid, the earlier of two equally
near (R74). -/
def ppsQuant (ideal : Nat) : Int :=
  let r := ideal % 4
  if r = 0 then 0 else if r = 1 then -1000 else if r = 2 then -2000 else 1000

/-- The 28-byte message of R76. -/
def State.todMessage (s : State) (edge : Nat) (quant : Int) (taiUtc leap : Int) : List Byte :=
  let flags := s.rd F.timeGridStatusProvisional + 2 * s.rd F.timeStatusHoldover + 4 * s.rd F.timeStatusConverging +
    8 * s.rd F.timeStatusCrosscheckFail + 16 * s.rd F.timeStatusLocked
  let bound := if s.rd F.timeErrorBound + 10 < 2 ^ 32 then s.rd F.timeErrorBound + 10 else 0xFFFFFFFF
  let m := le 2 0xA7C5 ++ le 1 28 ++ le 1 1 ++ le 6 edge ++ leInt 2 quant ++ le 1 flags ++ le 1 (s.rd F.timeStatusSource) ++
    le 4 bound ++ leInt 2 taiUtc ++ leInt 1 leap ++ le 3 0
  m ++ le 4 (Crypto.crc32c m).toNat

/-- The offset TAI − UTC in force at a TAI second, from the leap-second table (R474). -/
def taiUtcAt (table : List Leap) (sec : Nat) : Int :=
  match (table.filter fun l => decide (l.from_ ≤ sec)).getLast? with
  | some l => l.offset
  | none => 0

/-- The sense of a leap second that ends the UTC day of a TAI second: +1, −1 or 0 (R76, R476). -/
def leapPending (table : List Leap) (sec : Nat) : Int :=
  match table.find? fun l => decide (sec < l.from_) with
  | some l =>
    let now := taiUtcAt table sec
    if (l.from_ : Int) - l.offset ≤ (((sec : Int) - now) / 86400 + 1) * 86400 then
      if now < l.offset then 1 else if l.offset < now then -1 else 0
    else 0
  | none => 0

/-- PPS_MESSAGE: at F+0 of frame index 40 the message of the next whole second is sent and the edge is fixed (R74 to R76). -/
def execPpsMessage (s : State) : Host.Outcome State Fault Refusal :=
  act (fun s =>
    if s.time.tickDue = 0 ∧ s.rd F.timeFrameIndex = 40 ∧ s.time.ppsEdge = none then
      let edge := s.second + 1
      let ideal := edge * nsSecond - s.cfg F.timePpsCableDelay
      let q := ppsQuant ideal
      let s := s.wrInt F.timePpsQuant q
      let m := s.todMessage edge q (taiUtcAt s.life.leaps edge) (leapPending s.life.leaps s.second)
      let at_ := ((ideal : Int) + q / 1000).toNat
      (({ s with time := { s.time with ppsEdge := some at_, ppsRate := s.tb0Rate, ppsRest := 0 } } : State).put (.tod m)).emit 0x15 m
    else s) s

/-- PPS_EDGE: PPS_OUT rises at the fixed edge instant (R74), within the tick in progress. An edge at a frame instant falls in the
frame that starts there (R54). -/
def execPpsEdge (s : State) : Host.Outcome State Fault Refusal :=
  act (fun s =>
    match s.time.ppsEdge with
    | some e =>
      if s.withinTick e then
        ({ s with time := { s.time with ppsEdge := none, ppsHigh := true,
                                        ppsFall := s.clock + (e - s.now) + s.cfg F.timePpsWidth * nsMs } } : State).put
          (.pps true e)
      else s
    | none => s) s

/-- PPS_PULSE_END: PPS_OUT falls when time.pps_width has elapsed (R74). -/
def execPpsPulseEnd (s : State) : Host.Outcome State Fault Refusal :=
  act (fun s =>
    if s.time.ppsHigh ∧ s.time.ppsFall < s.clock + nsTick then
      ({ s with time := { s.time with ppsHigh := false } } : State).put
        (.pps false ((s.now : Int) + ((s.time.ppsFall : Int) - s.clock)))
    else s) s

end Sys2Proof.Machine
end

