-- ==== Sys2Proof/Machine/Gnss.lean ====
section
/-! DEFINITION. The GNSS baseband receivers (R82 to R101). -/

namespace Sys2Proof.Machine

/-! ### Which receivers run -/

/-- The receivers enabled in gnss.enable_mask. -/
def State.rxEnabled (s : State) (n : Nat) : Bool := testBit (s.cfg F.gnssEnableMask) n

/-- The receiver that Lean powers (R86): gnss.lean_receiver if enabled and free of antenna fault, otherwise the first such in
the order X1, X2, X3; with none free of antenna fault, the first enabled (log entry 30). -/
def State.leanRx (s : State) : Option Nat :=
  let good n := s.rxEnabled n && s.gnss.class_.get n == 0
  let order := s.cfg F.gnssLeanReceiver :: List.range 3
  match order.find? good with
  | some n => some n
  | none => order.find? s.rxEnabled

/-- The budget state and lay-up power a receiver (R86, R96, R97): during lay-up only the one that a keep-alive has woken. In Survival
none is powered, a keep-alive that runs on included (log entry 97). -/
def State.rxWanted (s : State) (n : Nat) : Bool :=
  if s.budget = 3 then false
  else if s.gnss.layup then s.gnss.wakeSince.isSome && s.gnss.wakeRx == n
  else if s.budget = 2 then s.leanRx == some n else s.rxEnabled n

/-- The satellites of a fix all carry EPHEMERIS_VALID and CARRIER_VALID in the receiver's records, and are at least 4 (R95). -/
def State.goodFix (s : State) (f : GnssFix) : Bool :=
  decide (4 ≤ f.used.length) && f.used.all fun x => s.gnss.records.any fun r =>
    r.rx == f.rx && r.cons == x.1 && r.sat == x.2 && testBit r.flags.toNat 1 && testBit r.flags.toNat 5

/-- The state code of a receiver (R94, R96, R100). The manual names ACQUIRING, TRACKING and FIX and no more: here they are no channel
with code lock, a start or fewer than 4 satellites in the fix, and a fix (log entry 97). A receiver in lay-up or without power shows that
whatever its antenna's class (log entry 106). -/
def State.rxCode (s : State) (n : Nat) : Nat :=
  if s.gnss.layup then 4 else if s.gnss.on.get n = false then 0
  else if s.gnss.class_.get n = 1 then 5 else if s.gnss.class_.get n = 2 then 6
  else if (s.gnss.records.filter fun r => r.rx.val = n).isEmpty then 1
  else if s.gnss.starting.get n then 2
  else if s.gnss.fixes.any fun f => f.rx.val = n && decide (4 ≤ f.used.length) then 3 else 2

/-- A receiver state written; a change sends EV_GNSS_RX_STATE (R101). -/
def State.showRx (s : State) (n : Nat) : State :=
  let old := s.rd (F.gnssRxStatusState n)
  let new := s.rxCode n
  if old = new then s else (s.wr (F.gnssRxStatusState n) new).emit 0x20 (le 1 n ++ le 1 old ++ le 1 new)

/-- The channels of a receiver that track nothing from now on. -/
def clearChans (m : Store noAlloc) (n : Nat) : Store noAlloc :=
  (List.range 96).foldl (fun (m : Store noAlloc) c => m.set (n * 96 + c) none) m

/-- The receivers powered as the budget state and lay-up ask; one powered anew starts (R86, R95, R96). -/
def State.powerRx (s : State) : State :=
  (List.range 3).foldl (fun s n =>
    let want := s.rxWanted n
    if want = s.gnss.on.get n then s else
    { s with gnss := { s.gnss with on := s.gnss.on.set n want, starting := s.gnss.starting.set n want,
                                   alloc := clearChans s.gnss.alloc n,
                                   records := s.gnss.records.filter fun r => r.rx.val ≠ n,
                                   fixes := s.gnss.fixes.filter fun f => f.rx.val ≠ n } }) s

/-- The receivers' states shown. -/
def State.showAllRx (s : State) : State := (List.range 3).foldl (fun s n => s.showRx n) s

/-! ### Antennas and independence -/

/-- The class of a bias current in 0.1 mA (R94, R518), with 1 mA of hysteresis: 0 normal, 1 open, 2 short. -/
def antennaClass (old cur : Nat) : Nat :=
  if cur < 40 ∨ (old = 1 ∧ cur < 50) then 1 else if 600 < cur ∨ (old = 2 ∧ 590 < cur) then 2 else 0

/-- The antenna inputs at a frame instant (R94): the bias as gnss.ant_bias asks, and the class of its current. A change of class sends
EV_GNSS_ANTENNA. With bias off no fault is seen: a fault that stood ends, with its event, in the class normal (log entry 97). -/
def State.antennas (s : State) (current : List Nat) : State :=
  (List.range 3).foldl (fun s n =>
    let on := s.cfgFlag (F.gnssAntBias n)
    let s := if s.gnss.bias.get n = on then s
      else ({ s with gnss := { s.gnss with bias := s.gnss.bias.set n on } } : State).put (.antBias n on)
    let cur := current.getD n 0
    let old := s.gnss.class_.get n
    let new := if on then antennaClass old cur else 0
    if old = new then s else
    ({ s with gnss := { s.gnss with class_ := s.gnss.class_.set n new } } : State).emit 0x21
      (le 1 n ++ le 1 ([1, 0, 2].getD new 1) ++ le 4 (Float.fratio cur 10).toNat)) s

/-- Two receivers count as independent (R93). -/
def State.independent (s : State) (i j : Nat) : Bool :=
  let d (a : Nat) : Int := s.cfgInt (F.gnssAntLever i a) - s.cfgInt (F.gnssAntLever j a)
  s.cfg (F.gnssAntGroup i) != s.cfg (F.gnssAntGroup j) &&
  decide ((s.cfg F.gnssAntSeparationMin : Int) ^ 2 ≤ d 0 ^ 2 + d 1 ^ 2 + d 2 ^ 2) &&
  s.gnss.class_.get i == 0 && s.gnss.class_.get j == 0

/-- gnss.independence evaluated (R93). -/
def State.judgeIndependence (s : State) : State :=
  s.wr F.gnssIndependence (bit (s.independent 0 1) + 2 * bit (s.independent 0 2) + 4 * bit (s.independent 1 2))

/-! ### Channels -/

/-- The signal's component is a pilot (R84). -/
def pilotSignal (sig : Nat) : Bool := !([0, 5, 6, 7, 10, 13].contains sig)

/-- The signals of a constellation in the order of R85: the L1/E1/B1 band, then L5/E5a, then L2 (R84). Of two signals of one band the
lower code comes first (log entry 97). -/
def signalsOf (cons : Nat) : List Nat :=
  ([[0, 2, 1], [3, 4], [5, 6], [7, 8, 9], [10, 12, 11], [13]] : List (List Nat)).getD cons []

/-- One satellite comes before another (R85): SBAS last, then by descending elevation; at equal elevation, of which the manual says
nothing, by constellation and satellite number (log entry 97). -/
def skyBefore (a b : SkySat) : Bool :=
  let (sa, sb) := (a.cons.toNat == 5, b.cons.toNat == 5)
  if sa ≠ sb then sb else if a.elev ≠ b.elev then decide (b.elev < a.elev)
  else if a.cons ≠ b.cons then decide (a.cons.toNat < b.cons.toNat) else decide (a.sat.toNat < b.sat.toNat)

/-- A satellite placed among satellites in the order of allocation. -/
def insertSky (x : SkySat) : List SkySat → List SkySat
  | [] => [x]
  | y :: rest => if skyBefore x y then x :: y :: rest else y :: insertSky x rest

/-- The satellites that a receiver allocates channels to (R85): of the constellations tracked, above the elevation mask, in order. One
exactly at the mask counts as above it (log entry 106). -/
def State.skyOf (s : State) (n : Nat) : List SkySat :=
  (s.gnss.sky.filter fun x => x.rx == n && testBit (s.cfg F.gnssConstellationMask) x.cons.toNat &&
    decide ((s.cfg F.gnssElevationMask : Int) ≤ x.elev)).foldl (fun xs x => insertSky x xs) []

/-- The signals that a receiver is to track, by constellation, satellite and code, in the order of R85: 96, in Trim 64 (R86). -/
def State.wantedSignals (s : State) (n : Nat) : List (Nat × Nat × Nat) :=
  let all := (s.skyOf n).flatMap fun x =>
    ((signalsOf x.cons.toNat).filter fun g => testBit (s.cfg F.gnssSignalMask) g).map fun g => (x.cons.toNat, x.sat.toNat, g)
  all.take (if s.budget = 1 then 64 else 96)

/-- The signal of a channel. -/
def ChanAlloc.signal (a : ChanAlloc) : Nat × Nat × Nat := (a.cons, a.sat, a.sig)

/-- Signals placed in the free channels of a receiver, the lowest first (log entry 97). -/
def placeSignals (n : Nat) : List (Nat × Nat × Nat) → List Nat → Store noAlloc → Store noAlloc
  | x :: xs, c :: cs, m => placeSignals n xs cs (m.set (n * 96 + c) (some ⟨x.1, x.2.1, x.2.2, 0, 0, none⟩))
  | _, _, m => m

/-- The allocation of a receiver's channels for the frame to come (R85, R86): a channel whose signal is still wanted keeps it, the others
are released and take what is new. -/
def State.allocate (s : State) (n : Nat) : State :=
  if s.gnss.on.get n = false then s else
  let want := s.wantedSignals n
  let keeps (c : Nat) : Bool := match s.gnss.alloc.get (n * 96 + c) with
    | some a => want.contains a.signal
    | none => false
  let held := (List.range 96).filterMap fun c => (s.gnss.alloc.get (n * 96 + c)).map ChanAlloc.signal
  let free := (List.range 96).filter fun c => !keeps c
  let cleared := free.foldl (fun (m : Store noAlloc) c => m.set (n * 96 + c) none) s.gnss.alloc
  { s with gnss := { s.gnss with alloc := placeSignals n (want.filter fun x => !held.contains x) free cleared } }

/-! ### The latch -/

/-- The flags of a record as the module delivers it (R89): SLIP, EPHEMERIS_VALID and SBAS_CORRECTED rest on what is counted and held. -/
def State.recFlags (s : State) (r : GnssRaw) (a : ChanAlloc) (elev : Int) : Nat :=
  let raw := r.flags.toNat
  let same (c t : Nat) : Bool := c == a.cons && t == a.sat
  let eph := s.gnss.ephs.any fun e => e.rx == r.rx.val && same e.cons e.sat
  let sbas := s.gnss.sbas.any fun x => same x.1.toNat x.2.1.toNat
  1 + 2 * bit (testBit raw 1) + 4 * bit (pilotSignal a.sig || testBit raw 2) + 8 * bit (r.slips != 0) + 16 * bit (testBit raw 4) +
    32 * bit (testBit raw 5 && eph) + 64 * bit (testBit raw 6) + 128 * bit (sbas && s.cfgFlag F.gnssSbasEnable) +
    256 * bit (decide (elev < (s.cfg F.gnssElevationMask : Int)) || decide (r.cn0.toNat < s.cfg F.gnssCn0Mask))

/-- A channel after a frame with code lock (R89): carrier lock held through the frame counts on, sticking at 65,535, slips count modulo 256
from code lock on (log entry 106), and the carrier phase accumulates from a lock or a slip. -/
def ChanAlloc.counted (a : ChanAlloc) (r : GnssRaw) : ChanAlloc :=
  let held := testBit r.flags.toNat 1
  { a with lock := if held then min (a.lock + 1) 65535 else 0, slips := (a.slips + r.slips) % 256
           phase := some (match a.phase with
             | some p => if held && r.slips == 0 then Float.dadd p r.cycles else r.cycles
             | none => r.cycles) }

/-- The measurement record of a channel (R89, R90): the pseudorange less c × d_ant, rounded once (log entry 97), the frequency number for
GLONASS alone, and elevation and azimuth of the satellite: whole degrees rounded down, and 0 of a satellite that the receiver holds no
place of (log entry 106). -/
def State.measureChan (s : State) (r : GnssRaw) (a : ChanAlloc) : GnssRec :=
  let (elev, azim) := match s.gnss.sky.find? fun x => x.rx == r.rx && x.cons.toNat == a.cons && x.sat.toNat == a.sat with
    | some x => (x.elev, x.azim)
    | none => (0, 0)
  { rx := r.rx, chan := r.chan, cons := BitVec.ofNat 8 a.cons, sat := BitVec.ofNat 8 a.sat, sig := BitVec.ofNat 8 a.sig,
    freq := if a.cons = 2 then BitVec.ofInt 8 (r.k.val - 7) else 0, flags := BitVec.ofNat 16 (s.recFlags r a elev),
    pr := Float.dless r.pr (299792458 * s.cfg (F.gnssAntDelay r.rx.val)) (10 ^ 10), cp := a.phase.getD r.cycles, dop := r.dop, cn0 := r.cn0,
    lock := BitVec.ofNat 16 a.lock, codeNoise := r.codeNoise, carrNoise := r.carrNoise, slips := BitVec.ofNat 8 a.slips,
    elev := BitVec.ofInt 8 (elev / 100), azim := azim }

/-- The 48 bytes of a measurement record (R89). -/
def recBytes (r : GnssRec) : List Byte :=
  le 1 r.rx.val ++ le 1 r.chan.val ++ [r.cons, r.sat, r.sig, r.freq] ++ le 2 r.flags.toNat ++ le 8 r.pr.toNat ++
    le 8 r.cp.toNat ++ le 4 r.dop.toNat ++ le 2 r.cn0.toNat ++ le 2 r.lock.toNat ++ le 2 r.codeNoise.toNat ++
    le 2 r.carrNoise.toNat ++ [r.slips, r.elev] ++ le 2 r.azim.toNat ++ le 8 0

/-- Records written to the Ledger, stamped with the frame instant (R88). -/
def State.writeRecords (s : State) (rs : List GnssRec) : State :=
  rs.foldl (fun s r => s.ledgerWrite (45 + r.rx.val) s.now (recBytes r) false (some r)) s

/-- A channel latched (R87, R89): the record of one that holds code lock on its allocation; one that does not forgets its counts and its
phase. -/
def State.latchChan (s : State) (raw : List GnssRaw) (n c : Nat) : State × Option GnssRec :=
  match s.gnss.alloc.get (n * 96 + c) with
  | none => (s, none)
  | some a =>
    match raw.find? fun r => r.rx.val == n && r.chan.val == c with
    | none => ({ s with gnss := { s.gnss with alloc := s.gnss.alloc.set (n * 96 + c) (some { a with lock := 0, slips := 0, phase := none }) } }, none)
    | some r =>
      let a := a.counted r
      ({ s with gnss := { s.gnss with alloc := s.gnss.alloc.set (n * 96 + c) (some a) } }, some (s.measureChan r a))

/-- The satellites in the standalone fix of a receiver. -/
def svUsed (i : FrameIn) (n : Nat) : Nat :=
  match i.fixes.find? fun f => f.rx.val = n with
  | some f => f.used.length
  | none => 0

/-- The channels of a receiver that hold code lock, latched in order, with their records. -/
def State.latchChans (s : State) (raw : List GnssRaw) (n : Nat) : State × List GnssRec :=
  (List.range 96).foldl (fun p c =>
    let (s, r) := p.1.latchChan raw n c
    (s, p.2 ++ r.toList)) (s, [])

/-- One receiver latched: its records, status registers and slip count (R87, R88, R100). A starting receiver delivers no measurement
yet: the manual says so of a change of budget state, and the model of every start (log entry 97). Those of a keep-alive are not
written (R97). -/
def State.latchRx (s : State) (i : FrameIn) (n : Nat) : State :=
  if s.gnss.on.get n = false then
    ((s.wr (F.gnssRxStatusChannels n) 0).wr (F.gnssRxSvUsed n) 0).wr (F.gnssAgc n) 0
  else
    let (s, rs) := s.latchChans i.gnss n
    let slips := rs.foldl (fun k r => match i.gnss.find? fun x => x.rx.val == n && x.chan == r.chan with
      | some x => k + x.slips
      | none => k) 0
    let s := (s.wr (F.gnssRxStatusChannels n) rs.length).wr (F.gnssRxSvUsed n) (svUsed i n)
    let s := (s.wr (F.gnssAgc n) (i.agc.getD n 0).toNat).add (F.gnssSlipCount n) slips
    let s : State := { s with gnss := { s.gnss with records := s.gnss.records ++ rs } }
    if s.gnss.starting.get n ∨ s.gnss.layup then s else s.writeRecords rs

/-! ### What the receivers hold -/

/-- An ephemeris taken in the place of the one held. -/
def State.holdEphemeris (s : State) (m : NavMsg) : State :=
  let n := m.rx.val
  if s.gnss.on.get n = false then s else
  let rest := s.gnss.ephs.filter fun e => !(e.rx == n && e.cons == m.cons.toNat && e.sat == m.sat.toNat)
  let wake := s.gnss.wakeSince.isSome && s.gnss.wakeRx == n
  { s with gnss := { s.gnss with
      ephs := rest ++ [⟨n, m.cons.toNat, m.sat.toNat, s.now, m.data⟩],
      wakeEphs := if wake then s.gnss.wakeEphs + 1 else s.gnss.wakeEphs } }

/-- What the receivers have decoded and where they stand (R91, R95): ephemerides, almanacs and the last positions are kept in MRAM; the
SBAS corrections in hand, the GNSS-to-TAI offsets and what is said of TAI − UTC go to the Collator. -/
def State.holdNavigation (s : State) (i : FrameIn) : State :=
  let s := i.nav.foldl State.holdEphemeris s
  let almanac := i.almanac.foldl (fun (m : Store noPayload) x => if s.gnss.on.get x.1.val then m.set x.1.val x.2 else m) s.gnss.almanac
  let last := i.fixes.foldl (fun (m : Store noFix) f => if s.gnss.on.get f.rx.val then m.set f.rx.val (some f) else m) s.gnss.lastFix
  { s with gnss := { s.gnss with almanac := almanac, lastFix := last, sky := i.sky.filter fun x => s.gnss.on.get x.rx.val,
                                 sbas := i.sbas, leap := if i.gnssUtc.isSome then i.gnssUtc else s.gnss.leap,
                                 scales := i.scales.foldl (fun (m : Store noPayload) x =>
                                   if s.gnss.on.get x.1.val then m.set (8 * x.1.val + x.2.1.toNat % 8) x.2.2 else m) s.gnss.scales } }

/-- gnss.ephemeris_age (R100): the oldest ephemeris held for a satellite in view, in s. An age of 65,535 s or more, which the field
cannot tell from none, shows as 65,534 (log entry 97). A receiver without power sees no satellite, so with none powered it shows none
(log entry 106). -/
def State.showEphemerisAge (s : State) : State :=
  let held := s.gnss.ephs.filter fun e => s.gnss.sky.any fun x => x.rx.val == e.rx && x.cons.toNat == e.cons && x.sat.toNat == e.sat
  s.wr F.gnssEphemerisAge (match held with
    | [] => 0xFFFF
    | e :: rest => min 65534 ((s.now - rest.foldl (fun t x => min t x.at_) e.at_) / nsSecond))

/-! ### TB2 -/

/-- The solution of a receiver meets the limits of R58. -/
def goodSolution (x : TimeSol) : Bool := decide (4 ≤ x.sats) && decide (x.err ≤ 100)

/-- The test of R58 on each receiver (R92): since when its solution has met the limits, and since when it has not. -/
def State.testSolutions (s : State) (i : FrameIn) : State :=
  State.judgeReceivers <| (List.range 3).foldl (fun s n =>
    let good := s.gnss.on.get n && !s.gnss.layup && i.sols.any fun x => x.rx.val == n && goodSolution x
    let since (o : Option Nat) : Option Nat := some (o.getD s.clock)
    { s with gnss := { s.gnss with
        timeGood := s.gnss.timeGood.set n (if good then since (s.gnss.timeGood.get n) else none)
        timeBad := s.gnss.timeBad.set n (if good then none else since (s.gnss.timeBad.get n)) } }) s

/-- The time solutions that form TB2 (R92): those of the receivers that meet the test of R58. -/
def State.timeSolutions (s : State) (i : FrameIn) : List TimeSol :=
  i.sols.filter fun x => s.gnss.on.get x.rx.val && s.gnss.timeOk.get x.rx.val

/-- The product of the squared errors of the other solutions: the inverse-variance weight with denominators cleared. An error
estimate of 0 ns weighs as one of 1 ns (log entry 106). -/
def solWeight (xs : List TimeSol) (x : TimeSol) : Nat :=
  (xs.filter fun y => y.rx ≠ x.rx).foldl (fun w y => w * (max y.err 1) ^ 2) 1

/-- The delays of the antennas X1 to X3 in a Folio, in 0.1 ns (R90). -/
def Folio.antDelays (x : Folio) : List Int := (List.range 3).map fun n => (x.val (F.gnssAntDelay n) : Int)

/-- The inverse-variance mean of time solutions in ns, after each antenna's delay (R90, R92). -/
def meanOffset (delays : List Int) (xs : List TimeSol) : Int :=
  let total : Nat := xs.foldl (fun n y => n + solWeight xs y) 0
  xs.foldl (fun v y => v + (y.offset * 10 + delays.getD y.rx.val 0) * solWeight xs y) 0 / (10 * total : Nat)

/-- TB2 measured (R58, R92): the mean of the contributing solutions. What a change of an antenna delay since the last measurement moves
is no jump (R79). While no receiver tracks, TB2 is not qualified (R57). -/
def State.measureTb2 (s : State) (i : FrameIn) : State :=
  let s := s.testSolutions i
  let xs := s.timeSolutions i
  let s := s.wr F.gnssTimeContrib (maskOf (xs.map fun x => x.rx.val))
  let s : State := if s.gnss.records.isEmpty ∨ s.gnss.layup then { s with gnss := { s.gnss with timeOk := ⟨[]⟩ } } else s
  if s.timeReceivers = false then s.setSource .tb2 { s.qualify s.time.tb2 false with measured := false }
  else if xs.isEmpty then s
  else
    let delays := s.active.antDelays
    let off := meanOffset delays xs
    let before := meanOffset (if s.time.tb2Delays.isEmpty then delays else s.time.tb2Delays) xs
    let s := s.setSource .tb2 (s.measure (s.time.tb2.shifted (off - before)) off (Config.tb2Bound (xs.map (·.err))))
    { s with time := { s.time with tb2Delays := delays } }

/-! ### Lay-up -/

/-- An hour in ns. -/
abbrev nsHour : Nat := 3600 * nsSecond

/-- gnss.layup_status (R100). The hours that remain are rounded up, which the manual leaves open (log entry 97). -/
def State.showLayup (s : State) : State :=
  if s.gnss.layup then
    let left := match s.gnss.layupEnd with
      | some e => (e - s.clock + nsHour - 1) / nsHour
      | none => 0xFFFF
    (s.wr F.gnssLayupStatusState (if s.gnss.wakeSince.isSome then 2 else 1)).wr F.gnssLayupStatusRemaining left
  else (s.wr F.gnssLayupStatusState 0).wr F.gnssLayupStatusRemaining 0

/-- Lay-up begins (R96). A command during lay-up, of which the manual says nothing, begins it anew: the receivers sleep, a keep-alive that
runs ends without its event, and EV_GNSS_LAYUP is sent again (log entry 97). -/
def State.beginLayup (s : State) : State :=
  match s.gnss.layupReq with
  | none => s
  | some h =>
    let s := { s with gnss := { s.gnss with
      layupReq := none, layup := true, layupHours := h, layupEnd := if h = 0 then none else some (s.clock + h * nsHour),
      nextWake := s.clock + s.cfg F.gnssLayupWakeInterval * nsHour, wakeSince := none, timeOk := ⟨[]⟩ } }
    let s := s.setSource .tb2 (s.qualify s.time.tb2 false)
    s.emit 0x22 (le 1 0 ++ le 2 h)

/-- Lay-up ends with a cause: 0 DURATION, 1 WAKE, 2 MODE (R96); the receivers start. A keep-alive that runs is cut short without
EV_GNSS_KEEPALIVE, of which the manual says nothing (log entry 97); its receiver, powered already, goes on. -/
def State.endLayup (s : State) (cause : Nat) : State :=
  let h := s.gnss.layupHours
  let s := { s with gnss := { s.gnss with layup := false, layupEnd := none, wakeReq := none, wakeSince := none } }
  ((s.powerRx.showAllRx).showLayup).emit 0x22 (le 1 1 ++ le 1 cause ++ le 2 h)

/-- CMD_GNSS_LAYUP (R96): joystick or manual pass-through mode; a duration beyond 720 h is OUT_OF_RANGE. -/
def execCmdGnssLayup (h : Hdr) (hours : W16) (s : State) : Host.Outcome State Fault Refusal :=
  act (fun s => s.command h 0x2001 (le 2 hours.toNat) fun s =>
    if s.rd F.ctlMode ≠ 4 ∧ s.rd F.ctlMode ≠ 5 then s.reply Res.wrongState
    else if 720 < hours.toNat then s.reply Res.outOfRange
    else ({ s with gnss := { s.gnss with layupReq := some hours.toNat } } : State).reply Res.ok) s

/-- CMD_GNSS_WAKE (R96, R98). -/
def execCmdGnssWake (h : Hdr) (s : State) : Host.Outcome State Fault Refusal :=
  act (fun s => s.command h 0x2002 [] fun s =>
    if s.gnss.layup then ({ s with gnss := { s.gnss with wakeReq := some 1 } } : State).reply Res.ok
    else s.reply Res.wrongState) s

/-- LAYUP_END: the first frame instant after the duration has elapsed, CMD_GNSS_WAKE, or a new mode (R96). -/
def execLayupEnd (s : State) : Host.Outcome State Fault Refusal :=
  act (fun s =>
    if s.atTick 0 = false ∨ s.gnss.layup = false then s else
    match s.gnss.wakeReq, s.gnss.layupEnd with
    | some c, _ => s.endLayup c
    | none, some e => if e ≤ s.clock then s.endLayup 0 else s
    | none, none => s) s

/-- The first scheduled wake after an instant. -/
def nextScheduled (next interval now : Nat) : Nat := if now < next ∨ interval = 0 then next else
  next + ((now - next) / interval + 1) * interval

/-- KEEPALIVE_WAKE: gnss.layup_receiver wakes when a keep-alive is due, waiting while the budget state is Survival; a wake
that falls due while one runs is skipped (R97, R98). The receiver is powered and NAV with it. -/
def execKeepaliveWake (s : State) : Host.Outcome State Fault Refusal :=
  act (fun s =>
    if s.gnss.layup = false ∨ s.clock < s.gnss.nextWake ∨ s.budget = 3 then s else
    let next := nextScheduled s.gnss.nextWake (s.cfg F.gnssLayupWakeInterval * nsHour) s.clock
    let s : State := { s with gnss := { s.gnss with nextWake := next } }
    if s.gnss.wakeSince.isSome then s else
    (({ s with gnss := { s.gnss with wakeSince := some s.clock, wakeRx := s.cfg F.gnssLayupReceiver, wakeEphs := 0 } } :
      State).powerRx).showLayup) s

/-- The woken receiver holds an ephemeris for every satellite in view of the constellations tracked (R97): one younger than 4 h, as R95
asks for a hot start; with no satellite in view it is not complete (log entry 106). -/
def State.keepaliveComplete (s : State) : Bool :=
  let sky := s.gnss.sky.filter fun x => x.rx.val == s.gnss.wakeRx && testBit (s.cfg F.gnssConstellationMask) x.cons.toNat
  !sky.isEmpty && sky.all fun x => s.gnss.ephs.any fun e =>
    e.rx == x.rx.val && e.cons == x.cons.toNat && e.sat == x.sat.toNat && decide (s.now < e.at_ + 4 * nsHour)

/-- KEEPALIVE_END: complete, or after 15 min (R97); NAV is powered down again. In Survival the wake's time runs on, with its receiver off
(log entry 97). -/
def execKeepaliveEnd (s : State) : Host.Outcome State Fault Refusal :=
  act (fun s =>
    match s.gnss.wakeSince with
    | some t =>
      if s.keepaliveComplete ∨ 15 * 60 * nsSecond ≤ s.since t then
        ((({ s with gnss := { s.gnss with wakeSince := none } } : State).powerRx).showLayup).emit 0x23
          (le 1 s.gnss.wakeRx ++ le 4 (Float.fratio (s.since t) nsSecond).toNat ++ le 4 s.gnss.wakeEphs ++
            le 1 (bit (!s.keepaliveComplete)))
      else s
    | none => s) s

/-- GNSS_START_COMPLETE: the first frame instant with a fix from at least four satellites with EPHEMERIS_VALID and
CARRIER_VALID (R95); the receiver's measurements return (R86). -/
def execGnssStartComplete (rx : Fin 3) (s : State) : Host.Outcome State Fault Refusal :=
  act (fun s =>
    let n := rx.val
    if s.atTick 0 ∧ s.gnss.on.get n ∧ s.gnss.starting.get n ∧ s.gnss.layup = false ∧
        (s.gnss.fixes.any fun f => f.rx == rx && s.goodFix f) then
      let s := { s with gnss := { s.gnss with starting := s.gnss.starting.set n false } }
      (s.writeRecords (s.gnss.records.filter fun r => r.rx == rx)).showRx n
    else s) s

/-- The receivers at a frame instant (R85 to R88, R93 to R96): lay-up, antennas, power, what is decoded, the latch, the channels of the
frame to come, and TB2. Channels that a change to Trim releases still deliver at the frame instant of the change, since R85 lets an
allocation change between two frame instants only (log entry 106). -/
def State.gnssFrame (s : State) (i : FrameIn) : State :=
  let s := (((s.antennas i.antenna).beginLayup).powerRx).holdNavigation i
  let s : State := { s with gnss := { s.gnss with records := [], fixes := i.fixes.filter fun f => s.gnss.on.get f.rx.val } }
  let s := (List.range 3).foldl (fun s n => (s.latchRx i n).allocate n) s
  let s := (((s.showAllRx).judgeIndependence).showLayup).showEphemerisAge
  s.measureTb2 i

end Sys2Proof.Machine
end

