-- ==== Sys2Proof/Machine/Vote.lean ====
section
/-! DEFINITION. Position reference checking and voting (R167 to R186). Residuals are in 1e-6 m or 1e-6 degree; values in the
vote carry a factor of 120, so that means and medians are exact. -/

namespace Sys2Proof.Machine

/-- The clock at the frame instant in force. -/
def State.frameClock (s : State) : Nat := s.clock - (s.now - s.time.frameAt)

/-- A reference. -/
def State.ref (s : State) (i : Nat) : VoteRef := s.vote.refs.get i
/-- A reference replaced. -/
def State.setRef (s : State) (i : Nat) (r : VoteRef) : State := { s with vote := { s.vote with refs := s.vote.refs.set i r } }
/-- A group: 0 position, 1 heading. -/
def State.group (s : State) (g : Nat) : VoteGroup := s.vote.groups.get g
/-- A group replaced. -/
def State.setGroup (s : State) (g : Nat) (x : VoteGroup) : State :=
  { s with vote := { s.vote with groups := s.vote.groups.set g x } }

/-- The references of a group (R167). -/
def groupRefs (g : Nat) : List Nat := if g = 0 then List.range 9 else [9, 10, 11]

/-- A reference is not UNUSED (R167). -/
def State.refUsed (s : State) (i : Nat) : Bool :=
  if i < 6 then s.cfg (F.collPosrefStream i) != 63
  else if i < 9 then s.rxEnabled (i - 6)
  else s.cfg (F.collHdgrefStream (i - 9)) != 63

/-- Two receivers form one reference (R168): both enabled and not independent. -/
def State.rxJoined (s : State) (i j : Nat) : Bool :=
  i == j || (s.rxEnabled i && s.rxEnabled j && !testBit (s.rd F.gnssIndependence) (i + j - 1))

/-- The index that carries a reference after merging (R168). -/
def State.lead (s : State) (i : Nat) : Nat :=
  if i < 6 then
    let g := s.cfg (F.collVoteGroup i)
    if g = 0 then i else
    ((List.range 6).find? fun j => s.refUsed j && s.cfg (F.collVoteGroup j) == g).getD i
  else if i < 9 then
    6 + ((List.range 3).find? fun j => (List.range 3).any fun k => s.rxJoined (i - 6) k && s.rxJoined k j).getD (i - 6)
  else i

/-! ### The reference's own tests -/

/-- The distance of two residuals of a group; heading differences in (−180°, +180°] (R169). -/
def resDist (g : Nat) (scale : Nat) (a b : Int) : Nat :=
  let d := (a - b).natAbs
  if g = 0 then d else
  let m := d % (360000000 * scale)
  min m (360000000 * scale - m)

/-- A threshold of R170 in units of 1e-6: mm for indices 0 to 8, 0.01° above. -/
def limitUnits (i limit : Nat) : Nat := if i < 9 then limit * 1000 else limit * 10000

/-- The variance test on one quantity (R170): the standard deviation exceeds the limit, with denominators cleared. -/
def varianceFails (xs : List Int) (limit : Nat) : Bool :=
  let n : Int := xs.length
  let sum := xs.foldl (· + ·) 0
  let sq := xs.foldl (fun t x => t + x * x) 0
  decide (n * n * ((limit : Int) * limit) < n * sq - sum * sum)

/-- The drift test on one quantity (R170): the least-squares slope exceeds the limit per minute, with denominators cleared. -/
def driftFails (xs : List (Int × Int)) (limit : Nat) : Bool :=
  let n : Int := xs.length
  let st := xs.foldl (fun t x => t + x.1) 0
  let sx := xs.foldl (fun t x => t + x.2) 0
  let stt := xs.foldl (fun t x => t + x.1 * x.1) 0
  let stx := xs.foldl (fun t x => t + x.1 * x.2) 0
  decide ((limit : Int) * (n * stt - st * st) < ((n * stx - st * sx).natAbs : Int) * (60 * nsSecond : Nat))

/-- A sample of a reference (R169): its stamp, its values as they came, and its residual on each quantity. -/
structure RefSample where
  stamp : Nat
  raw0 : Nat
  raw1 : Nat
  res : Int × Int

/-- A number in fixed point in millionths, to the nearest. -/
def millionths (x : Int) : Int := (2 * x * 1000000 + Fixed.one) / (2 * Fixed.one)

/-- A lever arm in mm in north and east in m, with roll, pitch and heading in degrees (R139, R169). -/
def leverOffset (lever : List Int) (roll pitch heading : F64) : Int × Int :=
  let arm (k : Nat) : Int := Fixed.ratio (lever.getD k 0) 1000
  let a := Fixed.turn (Fixed.sinCos (Fixed.of64 roll)) (arm 1) (arm 2)
  let sc := Fixed.sinCos (Fixed.of64 pitch)
  Fixed.turn (Fixed.sinCos (Fixed.of64 heading)) (Fixed.mul sc.2 (arm 0) + Fixed.mul sc.1 a.2) a.1

/-- The residuals of a sample in 1e-6 m or 1e-6 degree (R169): d = y − p against the pose that the unrevised states predict at its stamp. A
position is moved from its lever arm to the vessel reference point and taken in the tangent plane at the predicted position; a heading
difference lies in (−180°, +180°]. -/
def State.residual (s : State) (heading : Bool) (stamp : Nat) (v0 v1 : F64) (lever : List Int) : Int × Int :=
  let (lat, lon, roll, pitch, hdg) := Config.predictedPose s.coll.unrevised stamp
  if heading then (millionths (Fixed.halfTurn (Fixed.of64 v0 - Fixed.of64 hdg)), 0)
  else
    let d := Fixed.offset lat lon v0 v1
    let l := leverOffset lever roll pitch hdg
    (millionths (d.1 - l.1), millionths (d.2 - l.2))

/-- The sample that a reading gives, with its residuals against the unrevised states (R169). -/
def State.sampleOf (s : State) (heading : Bool) (stamp : Nat) (v0 v1 : F64) (lever : List Int) : RefSample :=
  ⟨stamp, v0.toNat, v1.toNat, s.residual heading stamp v0 v1 lever⟩

/-- The latest entry of a stream that was written before the close and is not DISCARDED (R169); it may be due for tipping-in. One that a
step of Station Time has left in the future is none (log entry 71). -/
def State.latestBefore (s : State) (k : Nat) : Option LedgerEntry :=
  newest ((s.samplesOf k).filter fun e => decide (e.wrote < s.time.frameAt + closeOffset) && decide (e.stamp ≤ e.wrote + nsTick))

/-- The sample that a stream gives at a close (R167, R169). -/
def State.streamSample (s : State) (heading : Bool) (k : Nat) : Option RefSample :=
  (s.latestBefore k).map fun e =>
    s.sampleOf heading e.stamp (entryValue e 0) (entryValue e 1) ((List.range 3).map fun a => s.cfgInt (F.collStreamLever k a))

/-- The latest sample of a reference (R167, R169): of a slot from its stream, of a receiver its standalone fix of the frame, also while it
starts (log entry 106). -/
def State.refSample (s : State) (i : Nat) : Option RefSample :=
  if i < 6 then s.streamSample false (s.cfg (F.collPosrefStream i))
  else if i < 9 then
    (s.gnss.fixes.find? fun f => f.rx.val == i - 6).map fun f =>
      s.sampleOf false s.time.frameAt f.lat f.lon ((List.range 3).map fun a => s.cfgInt (F.gnssAntLever (i - 6) a))
  else s.streamSample true (s.cfg (F.collHdgrefStream (i - 9)))

/-- The quantity that fails of two, the first of both; of a heading reference the heading. -/
def failing (i : Nat) (bad0 bad1 : Bool) : Option Nat :=
  if bad0 then some (if 9 ≤ i then 2 else 0) else if bad1 && decide (i < 9) then some 1 else none

/-- The freeze test (R170): the runs of identical values, and what fails. -/
def State.freezeTest (s : State) (i : Nat) (r : VoteRef) (x : RefSample) : Nat × Nat × Option Nat :=
  let run0 := if r.last.isSome ∧ r.raw0 = x.raw0 then r.run0 + 1 else 1
  let run1 := if r.last.isSome ∧ r.raw1 = x.raw1 then r.run1 + 1 else 1
  let count := s.cfg F.collVoteFreezeCount
  (run0, run1, failing i (decide (count ≤ run0)) (decide (count ≤ run1)))

/-- The jump test (R170, R171): the result stands where the previous sample is too old to judge by. -/
def State.jumpTest (s : State) (i : Nat) (r : VoteRef) (x : RefSample) : Option Nat :=
  let limit := limitUnits i (s.cfg (F.collVoteJumpLimit i))
  let g := bit (decide (9 ≤ i))
  match r.window.getLast?, r.last with
  | some (_, p0, p1), some t =>
    if s.time.frameAt ≤ t + s.cfg F.collVoteMaxAge * nsMs then
      failing i (decide (limit < resDist g 1 x.res.1 p0)) (decide (limit < resDist g 1 x.res.2 p1))
    else r.jumped
  | _, _ => none

/-- The samples of a window that are less than a time older than an instant. -/
def recent (win : List (Nat × Int × Int)) (at_ span : Nat) : List (Nat × Int × Int) :=
  win.filter fun w => decide (at_ < w.1 + span)

/-- The variance test (R170, R171): the result stands while the window holds fewer than 5 samples. -/
def State.varianceTest (s : State) (i : Nat) (old : Option Nat) (win : List (Nat × Int × Int)) (at_ : Nat) : Option Nat :=
  let xs := recent win at_ (s.cfg F.collVoteVarWindow * nsSecond)
  let limit := limitUnits i (s.cfg (F.collVoteVarLimit i))
  if xs.length < 5 then old
  else failing i (varianceFails (xs.map fun w => w.2.1) limit) (varianceFails (xs.map fun w => w.2.2) limit)

/-- The drift test (R170, R171): the result stands while the window holds fewer than 10 samples or spans less than half its length. -/
def State.driftTest (s : State) (i : Nat) (old : Option Nat) (win : List (Nat × Int × Int)) (at_ : Nat) : Option Nat :=
  let long := s.cfg F.collVoteDriftWindow * nsSecond
  let xs := recent win at_ long
  let limit := limitUnits i (s.cfg (F.collVoteDriftLimit i))
  let span := match xs.head? with
    | some w => at_ - w.1
    | none => 0
  let rel (w : Nat × Int × Int) : Int := (w.1 : Int) - at_
  if xs.length < 10 ∨ 2 * span < long then old
  else failing i (driftFails (xs.map fun w => (rel w, w.2.1)) limit) (driftFails (xs.map fun w => (rel w, w.2.2)) limit)

/-- A new sample tested (R170, R171). -/
def State.testSample (s : State) (i : Nat) (x : RefSample) : VoteRef :=
  let r := s.ref i
  let (run0, run1, frozen) := s.freezeTest i r x
  let span := max (s.cfg F.collVoteVarWindow) (s.cfg F.collVoteDriftWindow) * nsSecond
  let win := recent (r.window ++ [(x.stamp, x.res)]) x.stamp span
  { r with last := some x.stamp, res := x.res, raw0 := x.raw0, raw1 := x.raw1, run0 := run0, run1 := run1, window := win,
           frozen := frozen, jumped := s.jumpTest i r x, noisy := s.varianceTest i r.noisy win x.stamp,
           drifting := s.driftTest i r.drifting win x.stamp }

/-- The stream of a slot of a reference, none of a receiver (R167). -/
def State.refStream (s : State) (i : Nat) : Option Nat :=
  if i < 6 then some (s.cfg (F.collPosrefStream i)) else if i < 9 then none else some (s.cfg (F.collHdgrefStream (i - 9)))

/-- A sample of a reference that has since been DISCARDED (R169). -/
def State.sampleGone (s : State) (i stamp : Nat) : Bool :=
  match s.refStream i with
  | some k => (s.coll.ledger.any fun e => e.stream == k && e.stamp == stamp && e.discarded) &&
      !(s.samplesOf k).any fun e => e.stamp == stamp
  | none => false

/-- A reference without the samples that have been DISCARDED since they were judged: the latest of the others is its latest (R169). -/
def State.dropGone (s : State) (i : Nat) : VoteRef :=
  let r := s.ref i
  match r.last with
  | some t =>
    if s.sampleGone i t = false then r else
    let win := r.window.filter fun w => !s.sampleGone i w.1
    { r with window := win, last := win.getLast?.map (·.1), res := (win.getLast?.map (·.2)).getD r.res }
  | none => r

/-- A reference judged on its latest sample, where it is a new one; a receiver switched off is marked until it delivers a fix again
(R169, R171). -/
def State.judgeRef (s : State) (i : Nat) : State :=
  let on := decide (i < 6) || decide (9 ≤ i) || s.gnss.on.get (i - 6)
  let s := s.setRef i (s.dropGone i)
  let s := if on then s else s.setRef i { s.ref i with off := true }
  match s.refSample i with
  | some x =>
    let newer := match (s.ref i).last with
      | some t => decide (t < x.stamp)
      | none => true
    if on && newer && s.refUsed i then s.setRef i { s.testSample i x with off := false } else s
  | none => s

/-- The references judged on the samples of a close (R169). -/
def State.testSamples (s : State) : State := (List.range 12).foldl (fun s i => s.judgeRef i) s

/-- The status by which a reference fails on its own, none where it passes (R169, R170). -/
def State.ownFault (s : State) (i : Nat) : Option Nat :=
  let r := s.ref i
  let fresh := match r.last with
    | some t => decide (s.time.frameAt ≤ t + s.cfg F.collVoteMaxAge * nsMs)
    | none => false
  if fresh = false ∨ r.off then some 1 else if r.frozen.isSome then some 4 else if r.jumped.isSome then some 5
  else if r.noisy.isSome then some 6 else if r.drifting.isSome then some 7 else none

/-! ### The vote -/

/-- A member of a merged reference contributes to its value (R168, R179). -/
def State.passes (s : State) (i : Nat) : Bool := s.refUsed i && !(s.ref i).excluded && (s.ownFault i).isNone

/-- The members of the reference that an index carries which pass their tests. -/
def State.passing (s : State) (c : Nat) : List Nat := (List.range 12).filter fun m => s.lead m == c && s.passes m

/-- The value of a reference: the mean of its passing members (R168), times 120. -/
def State.refValue (s : State) (c : Nat) : Int × Int :=
  let ms := s.passing c
  let vs := ms.map fun m => (s.ref m).res
  let n : Int := max ms.length 1
  (vs.foldl (fun t v => t + v.1) 0 * 120 / n, vs.foldl (fun t v => t + v.2) 0 * 120 / n)

/-- The candidates of a group (R174): index and value. -/
def State.votingCandidates (s : State) (g : Nat) : List (Nat × Int × Int) :=
  ((groupRefs g).filter fun c =>
    s.lead c == c && s.refUsed c && !(s.ref c).excluded && !(s.ref c).rejected && !(s.passing c).isEmpty).map fun c =>
      (c, s.refValue c)

/-- The deviation limit of a group, times 120. -/
def State.voteDev (s : State) (g : Nat) : Nat :=
  if g = 0 then s.cfg F.collVoteDevPos * 1000 * 120 else s.cfg F.collVoteDevHdg * 10000 * 120

/-- The largest difference of two values over the quantities of a group. -/
def valueDist (g : Nat) (a b : Int × Int) : Nat :=
  if g = 0 then max (resDist 0 120 a.1 b.1) (resDist 0 120 a.2 b.2) else resDist 1 120 a.1 b.1

/-- A number placed in rising order. -/
def insertInt (x : Int) : List Int → List Int
  | [] => [x]
  | y :: rest => if x ≤ y then x :: y :: rest else y :: insertInt x rest

/-- The median of some numbers; of an even count, the mean of the two middle values (R174). -/
def median (xs : List Int) : Int :=
  let ys := xs.foldl (fun t x => insertInt x t) []
  let n := ys.length
  if n % 2 = 1 then ys.getD (n / 2) 0 else (ys.getD (n / 2 - 1) 0 + ys.getD (n / 2) 0) / 2

/-- The median per quantity. -/
def medianOf (xs : List (Nat × Int × Int)) : Int × Int := (median (xs.map fun x => x.2.1), median (xs.map fun x => x.2.2))

/-- A value beyond the deviation limit: the quantity that a rejection names, north or east or heading (R174, R186). -/
def State.votedOut (s : State) (g : Nat) (v m : Int × Int) : Nat :=
  if g ≠ 0 then 2 else if s.voteDev 0 < resDist 0 120 v.1 m.1 then 0 else 1

/-- The largest difference among some values. -/
def spread (g : Nat) (xs : List (Nat × Int × Int)) : Nat :=
  xs.foldl (fun t a => xs.foldl (fun t b => max t (valueDist g a.2 b.2)) t) 0

/-- EV_VOTE_SPLIT (R186): 0 set, 1 timeout, 2 clear; the largest difference in mm or 0.01°, at a timeout or clear that with which the
split was entered (log entry 29). -/
def State.emitSplit (s : State) (g : Nat) (disputed : List Nat) (diff kind : Nat) : State :=
  s.emitAtFrame 0x49 (le 1 g ++ le 2 (maskOf disputed) ++ le 4 (Float.fratio diff (if g = 0 then 120000 else 1200000)).toNat ++
    le 1 kind)

/-- A group enters REFERENCE_SPLIT (5) or NO_MAJORITY (6): the candidates take the status SPLIT (R174, R175). -/
def State.enterSplit (s : State) (g st : Nat) (cands : List Nat) (diff : Nat) : State :=
  let x := s.group g
  let s := cands.foldl (fun s c => s.setRef c { s.ref c with split := true, valid := false, ramp := 0 }) s
  let s := s.setGroup g { x with state := st, pair := [], run := 0, diff := diff, splitAt := s.frameClock, disputed := cands,
                                 selected := 15 }
  (s.inc F.collVoteSplitCount).emitSplit g cands diff 0

/-- The group is in REFERENCE_SPLIT, NO_MAJORITY or SPLIT_TIMED_OUT. -/
def inSplit (st : Nat) : Bool := decide (5 ≤ st) && decide (st ≤ 7)

/-- The vote among three or more (R174, R177): MEDIAN with the deviating ones rejected, or NO_MAJORITY. -/
def State.medianVote (s : State) (g : Nat) (xs : List (Nat × Int × Int)) : State × Option (Int × Int) × Bool :=
  let x := s.group g
  let m := medianOf xs
  let rej := (xs.filter fun c => decide (s.voteDev g < valueDist g c.2 m)).map (·.1)
  if rej.length = xs.length then (s.enterSplit g 6 (xs.map (·.1)) (spread g xs), none, true)
  else
    let s := xs.foldl (fun s c =>
      let r := s.ref c.1
      if rej.contains c.1 then
        s.setRef c.1 { r with rejected := true, split := false, valid := false, ramp := 0, quantity := s.votedOut g c.2 m }
      else if r.split then s.setRef c.1 { r with split := false, valid := false, ramp := 0, since := s.frameClock }
      else s) s
    let s := if inSplit x.state then s.emitSplit g x.disputed x.diff 2 else s
    let s := x.disputed.foldl (fun s c => s.setRef c { s.ref c with split := false }) s
    (s.setGroup g { x with state := 3, pair := [], run := 0, disputed := [] }, some m, false)

/-- A pair that differs beyond the limit: its count of consecutive frames (R175). -/
def State.disagree (s : State) (g st : Nat) (xs : List (Nat × Int × Int)) : State × Option (Int × Int) × Bool :=
  let x := s.group g
  let pair := xs.map (·.1)
  let run := if x.pair = pair then x.run + 1 else 1
  (s.setGroup g { x with state := st, pair := pair, run := run, diff := spread g xs }, none, true)

/-- The vote of a group (R174, R175, R177): the state, the value that rejected references are measured against, and whether
the group's weights are all 0. -/
def State.voteGroup (s : State) (g : Nat) : State × Option (Int × Int) × Bool :=
  let xs := s.votingCandidates g
  let x := s.group g
  let beyond := decide (s.voteDev g < spread g xs)
  if inSplit x.state then
    if 3 ≤ xs.length ∧ xs.any (fun c => !x.disputed.contains c.1) = true then s.medianVote g xs else (s, none, true)
  else if x.state = 8 then
    if 3 ≤ xs.length then
      let m := medianOf xs
      let rej := xs.filter fun c => decide (s.voteDev g < valueDist g c.2 m)
      if (rej.map (·.1)).contains x.selected then (s.enterSplit g 5 (xs.map (·.1)) (spread g xs), none, true)
      else
        let s := rej.foldl (fun s c => s.setRef c.1
          { s.ref c.1 with rejected := true, valid := false, ramp := 0, quantity := s.votedOut g c.2 m }) s
        (s.setGroup g { x with pair := [], run := 0 }, some m, false)
    else if xs.length = 2 ∧ beyond then s.disagree g 8 xs
    else (s.setGroup g { x with pair := [], run := 0 }, if xs.isEmpty then none else some (medianOf xs), false)
  else if 3 ≤ xs.length then s.medianVote g xs
  else if xs.length = 2 ∧ beyond then s.disagree g 4 xs
  else (s.setGroup g { x with state := xs.length, pair := [], run := 0 },
        if xs.isEmpty then none else some (medianOf xs), false)

/-! ### Statuses and weights -/

/-- The status of a reference (R173). -/
def State.refCode (s : State) (i : Nat) : Nat :=
  let r := s.ref i
  if s.refUsed i = false then 0 else if s.lead i ≠ i then 11 else if r.excluded then 10
  else if (s.passing i).isEmpty then (s.ownFault i).getD 1
  else if r.rejected then 8 else if r.split then 9 else if r.valid then 2 else 3

/-- The quantity that a status names as failing (R186). -/
def VoteRef.failed (r : VoteRef) (st : Nat) : Option Nat :=
  match st with
  | 4 => r.frozen
  | 5 => r.jumped
  | 6 => r.noisy
  | 7 => r.drifting
  | 8 => some r.quantity
  | _ => none

/-- A status written; a change sends EV_VOTE_REF_STATE with the failing quantity (R186), a byte without a value where none fails. -/
def State.showRef (s : State) (i : Nat) : State :=
  let old := s.rd (F.collVoteRefStatus i)
  let new := s.refCode i
  let r := s.ref i
  let r := if new = 2 ∨ new = 3 then r else { r with valid := false, ramp := 0 }
  let r := if new = 3 ∧ old ≠ 3 then { r with since := s.frameClock } else r
  let s := s.setRef i r
  if old = new then s else
  (s.wr (F.collVoteRefStatus i) new).emitAtFrame 0x47
    (le 1 i ++ le 1 old ++ le 1 new ++ match r.failed new with
      | some q => le 1 q
      | none => s.noValue 0x47)

/-- A group state shown; a change sends EV_VOTE_STATE (R186). -/
def State.showGroup (s : State) (g count : Nat) : State :=
  let f := if g = 0 then F.collVoteStatePos else F.collVoteStateHdg
  let old := s.rd f
  let new := (s.group g).state
  let s := s.wr (if g = 0 then F.collVoteSelectedPos else F.collVoteSelectedHdg) (s.group g).selected
  let s := s.wrFlag F.collVoteStateDriftLimiting ((s.group 0).drift || (s.group 1).drift)
  if old = new then s else (s.wr f new).emitAtFrame 0x48 (le 1 g ++ le 1 old ++ le 1 new ++ le 4 count)

/-- The weight of a carried reference (R172, R175): 0 while the group's weights are 0, risen by 0.004 while VALID, at once 1
while the estimate is INITIALISING; `hold` on the return from SPLIT_PENDING to AGREED_PAIR. -/
def State.weigh (s : State) (i : Nat) (blocked hold : Bool) : State :=
  let r := s.ref i
  if r.valid = false ∨ blocked then s.wr (F.collVoteWeight i) 0
  else
    let ramp := if s.coll.initialising then 10000 else if hold then r.ramp else min (r.ramp + 40) 10000
    (s.setRef i { r with ramp := ramp }).wr (F.collVoteWeight i) ramp

/-- A group voted on: states, statuses and weights (R172 to R175). -/
def State.voteOn (s : State) (g : Nat) : State :=
  let count := (s.votingCandidates g).length
  let before := (s.group g).state
  let (s, value, blocked) := s.voteGroup g
  let s := (groupRefs g).foldl (fun s i =>
    let r := s.ref i
    match value with
    | some m =>
      if r.rejected ∧ s.rd (F.collVoteRefStatus i) = 8 ∧ (s.passing i).isEmpty = false ∧
          valueDist g (s.refValue i) m ≤ s.voteDev g then
        s.setRef i { r with rejected := false, valid := false, ramp := 0 }
      else s
    | none => s) s
  let s := (groupRefs g).foldl (fun s i =>
    if s.coll.initialising ∧ s.refCode i = 3 then s.setRef i { s.ref i with valid := true } else s) s
  let s := (groupRefs g).foldl (fun s i => s.showRef i) s
  let hold := before == 4 && (s.group g).state == 2
  let s := (groupRefs g).foldl (fun s i => if s.lead i = i then s.weigh i blocked hold else s) s
  let s := (groupRefs g).foldl (fun s i =>
    if s.lead i = i then s else s.wr (F.collVoteWeight i) (if s.refUsed i then s.rd (F.collVoteWeight (s.lead i)) else 0)) s
  s.showGroup g count

/-- The weights sent to the Collator (R134, R180). -/
def State.sendWeights (s : State) : State :=
  { s with vote := { s.vote with voted := true, applied := (Store.empty : Nats).setAll ((List.range 12).map fun i =>
    (i, s.rd (F.collVoteWeight i))) } }

/-- The vote of the frame can run: between F+4.1 and F+4.8, once, after the Gathering close (R180). -/
def State.voteDue (s : State) : Bool :=
  s.ready && !s.lane.rapid && !s.isWithheld .ledger && !s.isAbsent .ledger && decide (33 ≤ s.time.tickDue) && decide (s.time.tickDue ≤ 38) && !s.vote.voted && s.coll.closed

/-- REFERENCE_VOTE: the references tested, voted on and weighed (R168 to R175, R180). -/
def execReferenceVote (s : State) : Host.Outcome State Fault Refusal :=
  act (fun s => if s.voteDue then (((s.testSamples).voteOn 0).voteOn 1).sendWeights else s) s

/-- WEIGHTS_DEADLINE: no weights by F+4.8; those of the previous frame apply, with WEIGHTS_HELD (R135). -/
def execWeightsDeadline (s : State) : Host.Outcome State Fault Refusal :=
  act (fun s =>
    if s.atCore 39 ∧ s.vote.voted = false ∧ s.coll.closed then { s with coll := { s.coll with held := true } } else s) s

/-- The group of a name. -/
def vgroup : VGroup → Nat
  | .position => 0
  | .heading => 1

/-- SPLIT_CONFIRM: at the coll.vote_split_confirm-th consecutive disagreeing frame the group enters REFERENCE_SPLIT (R175). -/
def execSplitConfirm (g : VGroup) (s : State) : Host.Outcome State Fault Refusal :=
  act (fun s =>
    let n := vgroup g
    let x := s.group n
    if s.vote.voted ∧ x.pair ≠ [] ∧ s.cfg F.collVoteSplitConfirm ≤ x.run then
      let s := s.enterSplit n 5 x.pair x.diff
      ((groupRefs n).foldl (fun s i => s.showRef i) s).showGroup n x.pair.length
    else s) s

/-- A group enters SPLIT_TIMED_OUT (R176). -/
def State.splitTimedOut (s : State) (n : Nat) : State :=
  let x := s.group n
  let s := (s.setGroup n { x with state := 7, drift := true }).emitSplit n x.disputed x.diff 1
  s.showGroup n (s.votingCandidates n).length

/-- A split of a group has lasted coll.vote_split_timeout at a frame instant (R176). -/
def State.splitTimeoutDue (s : State) (n : Nat) : Bool :=
  let x := s.group n
  s.atTick 0 && (x.state == 5 || x.state == 6) && decide (s.cfg F.collVoteSplitTimeout * nsSecond ≤ s.clock - x.splitAt)

/-- PROBATION_END: after coll.vote_recover_time without failure a reference becomes VALID (R171). -/
def execProbationEnd (r : Fin 12) (s : State) : Host.Outcome State Fault Refusal :=
  act (fun s =>
    let x := s.ref r.val
    if s.ready ∧ s.rd (F.collVoteRefStatus r.val) = 3 ∧ s.cfg F.collVoteRecoverTime * nsSecond ≤ s.since x.since then
      (s.setRef r.val { x with valid := true, ramp := 0 }).showRef r.val
    else s) s

/-! ### Operator commands -/

/-- A voting command that waits for the frame instant (R179). -/
def State.voteRequest (s : State) (h : Hdr) (exclude : Bool) (a b : Nat) : Reply :=
  ({ s with vote := { s.vote with requests := s.vote.requests ++ [⟨h, exclude, a, b⟩] } }, none)

/-- CMD_VOTE_SELECT (R177, R179). -/
def execCmdVoteSelect (h : Hdr) (group ref : Byte) (s : State) : Host.Outcome State Fault Refusal :=
  act (fun s => s.command h 0x4001 [group, ref] fun s =>
    s.voteRequest h false group.toNat ref.toNat) s

/-- CMD_VOTE_EXCLUDE (R179). -/
def execCmdVoteExclude (h : Hdr) (ref excl : Byte) (s : State) : Host.Outcome State Fault Refusal :=
  act (fun s => s.command h 0x4002 [ref, excl] fun s =>
    s.voteRequest h true ref.toNat excl.toNat) s

/-- The operator selects a disputed reference (R177). -/
def State.voteSelect (s : State) (g r : Nat) : State :=
  let x := s.group g
  let others := x.disputed.filter fun c => c ≠ r
  let s := others.foldl (fun s c => s.setRef c { s.ref c with excluded := true, split := false, valid := false, ramp := 0 }) s
  let s := s.setRef r { s.ref r with split := false, rejected := false, valid := true, ramp := 0 }
  let s := s.setGroup g { x with state := 8, pair := [], run := 0, disputed := [], drift := false, selected := r,
                                 selExcl := (x.selExcl.filter fun c => c != r && !others.contains c) ++ others }
  s.emitSplit g x.disputed x.diff 2

/-- Reference 15: the selection ends, and drift-limiting mode with it; what selections excluded returns to PROBATION (R171, R177,
R179). -/
def State.voteUnselect (s : State) (g : Nat) : State :=
  let x := s.group g
  let s := x.selExcl.foldl (fun s c => s.setRef c { s.ref c with excluded := false, valid := false, ramp := 0 }) s
  if x.state = 8 then
    s.setGroup g { x with state := 0, pair := [], run := 0, drift := false, selected := 15, selExcl := [] }
  else s.setGroup g { x with drift := false, selExcl := [] }

/-- The arguments of a voting command are out of range (R179). -/
def VoteReq.bad (q : VoteReq) : Bool :=
  if q.exclude then decide (11 < q.a) || decide (1 < q.b)
  else decide (1 < q.a) || (q.b != 15 && !(groupRefs q.a).contains q.b)

/-- A voting command processed at the frame instant (R179). -/
def State.voteCommand (s : State) (q : VoteReq) : State :=
  if q.bad then s.respond q.hdr (if q.exclude then 0x4002 else 0x4001) Res.outOfRange []
  else if q.exclude then
    let r := s.ref q.a
    let g := bit (decide (9 ≤ q.a))
    let s := s.setRef q.a { r with excluded := q.b == 1, valid := false, ramp := 0 }
    (s.emit 0x4A (le 1 1 ++ le 1 g ++ le 1 q.a)).respond q.hdr 0x4002 Res.ok []
  else
    let x := s.group q.a
    if q.b = 15 then
      if x.state = 8 ∨ x.drift then
        ((s.voteUnselect q.a).emit 0x4A (le 1 0 ++ le 1 q.a ++ le 1 15)).respond q.hdr 0x4001 Res.ok []
      else s.respond q.hdr 0x4001 Res.wrongState []
    else if inSplit x.state = false then s.respond q.hdr 0x4001 Res.wrongState []
    else if x.disputed.contains q.b then
      ((s.voteSelect q.a q.b).emit 0x4A (le 1 0 ++ le 1 q.a ++ le 1 q.b)).respond q.hdr 0x4001 Res.ok []
    else s.respond q.hdr 0x4001 Res.notDisputed []

/-- The voting commands processed at a frame instant (R179), in order of receipt. -/
def State.voteFrame (s : State) : State :=
  let qs := s.vote.requests
  let s := qs.foldl (fun s q => s.voteCommand q) { s with vote := { s.vote with requests := [], voted := false } }
  s.wrFlag F.collVoteStateDriftLimiting ((s.group 0).drift || (s.group 1).drift)

/-- A Folio turn: the references whose stream, lever arm, group or threshold it changes begin afresh in PROBATION (R183). -/
def State.voteTurn (s : State) (old : Folio) : State :=
  let ch (f : Fld) : Bool := old.val f != s.cfg f
  let axes (f : Nat → Fld) : Bool := (List.range 3).any fun a => ch (f a)
  let all := ch F.collVoteFreezeCount || ch F.collVoteVarWindow || ch F.collVoteDriftWindow || ch F.collVoteMaxAge
  (List.range 12).foldl (fun s i =>
    let own := ch (F.collVoteVarLimit i) || ch (F.collVoteDriftLimit i) || ch (F.collVoteJumpLimit i)
    let place :=
      if i < 6 then ch (F.collPosrefStream i) || ch (F.collVoteGroup i) || axes (F.collStreamLever (s.cfg (F.collPosrefStream i)))
      else if i < 9 then ch (F.gnssAntGroup (i - 6)) || axes (F.gnssAntLever (i - 6))
      else ch (F.collHdgrefStream (i - 9)) || axes (F.collStreamLever (s.cfg (F.collHdgrefStream (i - 9))))
    if all || own || place then
      let r := s.ref i
      s.setRef i { freshRef 0 with last := if place then none else r.last, res := r.res, off := r.off, split := r.split, excluded := r.excluded,
                                   since := s.clock }
    else s) s

end Sys2Proof.Machine
end

