-- ==== Sys2Proof/Machine/Collator.lean ====
section
/-! DEFINITION. The Collator: the close of a Gathering, tipping-in, receiver consistency, the Drift Network with its envelope and weight,
and the estimate record (R132 to R164). -/

namespace Sys2Proof.Machine

/-! ### The Gathering -/

/-- The entry waits at this close: not yet applied or discarded, stamped at or before the frame instant, and written before the close
instant (R132, R148). -/
def State.atClose (s : State) (e : LedgerEntry) : Bool :=
  !e.applied && !e.discarded && decide (e.stamp ≤ s.time.frameAt) && decide (e.wrote < s.time.frameAt + closeOffset)

/-- The entry comes after the Gathering that its stamp belongs to (R132). -/
def State.isLate (s : State) (e : LedgerEntry) : Bool := e.late || decide (e.stamp + nsFrame ≤ s.time.frameAt)

/-- What becomes of a late entry before the budget is looked at (R137, R148, R150): none where it may be applied, otherwise the index of
its reason in TOO_LATE, STEP, FOLIO, RESTORE. Tipping-in reaches back only as far as stored states go since the barrier. -/
def State.lateReason (s : State) (e : LedgerEntry) : Option Nat :=
  let depth := s.cfg F.collTipinDepth
  if s.imuStream e.stream ∨ e.stamp + depth * nsFrame < s.time.frameAt ∨ depth = 0 then some 0
  else if e.stamp ≤ s.coll.barrier ∨ (s.coll.stored.any fun k => decide (k.frame < e.stamp)) = false then
    some (match s.coll.barrierKind with
    | .step => 1
    | .folio => 2
    | .restore => 3)
  else none

/-! ### Work and shedding -/

/-- Work in quarters of a microsecond (R152): a live frame, or a re-run of one with the same scalars. -/
def frameCost (scalars : Nat) : Nat := 120 + scalars

/-- Re-runs go to the Solver Cluster (R152). -/
def State.offloading (s : State) : Bool := s.cfgFlag F.collOffload && decide (s.budget ≤ 1)

/-- The scalars of the GNSS records of a frame, by receiver, channel and kind, with their C/N0 (R138). Those of a receiver that is
INCONSISTENT in it are not applied (R142). -/
def State.gnssScalars (s : State) (frame inconsistent : Nat) (rs : List GnssRec) : List ((Nat × Nat × Nat) × Nat) :=
  (rs.filter fun r => !testBit inconsistent r.rx.val).flatMap fun r =>
    (scalarKinds (s.recordsAt (frame - nsFrame)) r).map fun k => ((r.rx.val, r.chan.val, k), r.cn0.toNat)

/-- The scalar measurements of an entry of an external reference: two for a position slot, one for a heading slot (R139). -/
def State.refScalars (s : State) (k : Nat) : Nat :=
  2 * (s.posSlots k).length + (s.hdgSlots k).length

/-- The scalars of a frame whose entries are these (R152). -/
def State.countScalars (s : State) (frame inconsistent : Nat) (es : List LedgerEntry) : Nat :=
  (s.gnssScalars frame inconsistent (es.filterMap (·.meas))).length + es.foldl (fun n e => n + s.refScalars e.stream) 0

/-- The cost of re-running the frames from the oldest applicable stamp on, in sixteenths of a microsecond (R149, R152). -/
def State.rerunCost (s : State) (late : List LedgerEntry) : Nat :=
  match late with
  | [] => 0
  | e :: _ =>
    let own := (s.framesFrom e.stamp).foldl (fun n k =>
      n + frameCost (s.countScalars k.frame k.inconsistent (s.entriesOf k.frame late) - k.cut.length)) 0
    own * (if s.offloading then 1 else 4)

/-- Late entries shed, oldest stamp first, until the work fits a budget in sixteenths of a microsecond (R152). -/
def State.shedLate (s : State) (live budget : Nat) : List LedgerEntry → List LedgerEntry
  | [] => []
  | e :: rest => if live + s.rerunCost (e :: rest) ≤ budget then e :: rest else s.shedLate live budget rest

/-- A scalar is shed before another (R152): Doppler, carrier phase, pseudorange, within each the lowest C/N0 first. -/
def shedBefore (a b : (Nat × Nat × Nat) × Nat) : Bool :=
  if a.1.2.2 ≠ b.1.2.2 then decide (b.1.2.2 < a.1.2.2) else decide (a.2 < b.2)

/-- A scalar placed among scalars in the order of shedding. -/
def insertShed (x : (Nat × Nat × Nat) × Nat) : List ((Nat × Nat × Nat) × Nat) → List ((Nat × Nat × Nat) × Nat)
  | [] => [x]
  | y :: rest => if shedBefore x y then x :: y :: rest else y :: insertShed x rest

/-- The late entries of a close, oldest first, by whether they may be applied. -/
def State.lateEntries (s : State) : List LedgerEntry :=
  s.coll.ledger.filter fun e => s.atClose e && !e.barred && s.isLate e

/-- The entries of the Gathering of the frame (R132). -/
def State.gathering (s : State) : List LedgerEntry :=
  s.coll.ledger.filter fun e => s.atClose e && !e.barred && !s.isLate e

/-- The work of a close (R148 to R152). -/
def State.closeWork (s : State) : CloseWork :=
  let live := s.gathering
  let ready := (s.lateEntries.filter fun e => (s.lateReason e).isNone).foldl (fun xs e => insertEntry e xs) []
  let count := s.countScalars s.time.frameAt (s.rd F.collRxConsistency) live
  let budget := s.cfg F.collFuseBudget * 16
  let kept := s.shedLate (frameCost count * 4) budget ready
  let excess := frameCost count * 4 - budget
  let order := (s.gnssScalars s.time.frameAt (s.rd F.collRxConsistency) (live.filterMap (·.meas))).foldl (fun xs x => insertShed x xs) []
  let cut := (order.take ((excess + 3) / 4)).map (·.1)
  { late := kept, cut := cut, shed := decide (kept.length < ready.length) || !cut.isEmpty }

/-! ### The close -/

/-- Discards counted by reason, for the event of the frame (R151). -/
def State.noteDiscards (s : State) (reason n : Nat) : State :=
  let ds := (List.range 5).map fun k => s.coll.discards.getD k 0 + if k = reason then n else 0
  ({ s with coll := { s.coll with discards := ds } } : State).add F.collTipinDiscarded n

/-- EV_COLL_TIPIN_DISCARD with the counts since the last (R151). -/
def State.tellDiscards (s : State) : State :=
  if s.coll.discards.all (· == 0) then s
  else ({ s with coll := { s.coll with discards := [] } } : State).emit 0x41
    ((List.range 5).flatMap fun k => le 4 (s.coll.discards.getD k 0))

/-- The entries of a close marked (R132, R148): the Gathering APPLIED, those with the third condition and late ones that may not be applied
DISCARDED. Late entries that are kept wait for the re-run. -/
def State.markEntries (s : State) (w : CloseWork) : State :=
  let mark (e : LedgerEntry) : LedgerEntry :=
    if s.atClose e = false then e
    else if e.barred then { e with discarded := true }
    else if s.isLate e then (if w.late.contains e then e else { e with discarded := true })
    else { e with applied := true }
  { s with coll := { s.coll with ledger := s.coll.ledger.map mark } }

/-- The discards of a close counted: by reason, and those that were shed (R151, R152). -/
def State.discardLate (s : State) (w : CloseWork) : State :=
  let lates := s.lateEntries
  let count (n : Nat) : Nat := (lates.filter fun e => s.lateReason e == some n).length
  let ready := (lates.filter fun e => (s.lateReason e).isNone).length
  ((List.range 4).foldl (fun s n => s.noteDiscards n (count n)) s).noteDiscards 4 (ready - w.late.length)

/-- The samples of the mechanised IMU between the filter and the Gathering: of a gap that a restore has left (R164). -/
def State.gapSamples (s : State) : List LedgerEntry :=
  s.coll.ledger.filter fun e =>
    s.activeImu == some e.stream && decide (s.coll.filter.at_ < e.stamp) && decide (e.stamp + nsFrame ≤ s.time.frameAt) && !e.discarded

/-- The re-runs sent to the Solver Cluster (R152, R215): its ready units are busy from now. -/
def State.startOffload (s : State) : State :=
  (List.range 4).foldl (fun s u =>
    if s.rd (F.ctlUnitStatusState u) = 1 then
      ({ s with solv := { s.solv with jobFrom := s.solv.jobFrom.set u (some s.clock) } } : State).wr (F.ctlUnitStatusState u) 2
    else s) { s with coll := { s.coll with offload := .waiting }, solv := { s.solv with jobSeq := s.solv.jobSeq + 1 } }

/-- The end of the re-runs on the Solver Cluster (R152, R215): the units are ready again. -/
def State.endOffload (s : State) (end_ : Offload) : State :=
  (List.range 4).foldl (fun s u =>
    let s := { s with solv := { s.solv with jobFrom := s.solv.jobFrom.set u none } }
    if s.rd (F.ctlUnitStatusState u) = 2 then s.wr (F.ctlUnitStatusState u) 1 else s)
    { s with coll := { s.coll with offload := end_ } }

/-- What the close fixes (R132, R134): the Gathering, the work, and the prediction for the lanes from the unrevised state. -/
def State.takeGathering (s : State) (w : CloseWork) : State :=
  let live := (s.gapSamples ++ s.gathering).foldl (fun xs e => insertEntry e xs) []
  { s with coll := { s.coll with
      closed := true, closedUpTo := s.time.frameAt, work := some w, live := live, shed := w.shed, gap := s.imuGap,
      unrevised := (s.predicted live).filter :: s.coll.stored.map (·.filter), offload := .none, updatesLost := false } }

/-- GATHERING_CLOSE (R132 to R134, R148 to R152): the Gathering is fixed, the prediction goes to the lanes, and the re-runs to the
Solver Cluster where it takes them. -/
def execGatheringClose (s : State) : Host.Outcome State Fault Refusal :=
  act (fun s =>
    if s.atCore 32 = false ∨ s.coll.closed then s else
    let w := s.closeWork
    let offload := s.offloading && !w.late.isEmpty
    let s := ((s.discardLate w).takeGathering w).markEntries w
    if offload then s.startOffload else s) s

/-! ### Receiver consistency -/

/-- The consistency counts of a receiver (R142): consecutive frames beyond and within the fraction. -/
def State.countConsistency (s : State) (p : Pass) (n : Nat) : State :=
  let bad := decide (s.cfg F.collRxRejectFrac * p.gated.get n < 100 * p.failed.get n)
  { s with coll := { s.coll with
      rxBad := s.coll.rxBad.set n (if bad then s.coll.rxBad.get n + 1 else 0),
      rxGood := s.coll.rxGood.set n (if bad then 0 else s.coll.rxGood.get n + 1) } }

/-- RX_CONSISTENCY_COUNT: INCONSISTENT set or cleared (R142). -/
def execRxConsistencyCount (rx : Fin 3) (s : State) : Host.Outcome State Fault Refusal :=
  act (fun s =>
    let n := rx.val
    let old := s.rd F.collRxConsistency
    let set (b : Bool) : State :=
      (s.wr F.collRxConsistency (putBit old n b)).emit 0x42 (le 1 n ++ le 1 (bit (!b)))
    if testBit old n then
      if s.cfg F.collRxRecoverFrames ≤ s.coll.rxGood.get n then set false else s
    else if s.cfg F.collRxInconsistentFrames ≤ s.coll.rxBad.get n then set true else s) s

/-! ### The Drift Network -/

/-- The active Folio holds a network section (R156, R157). -/
def State.dnSection (s : State) : Bool := s.active.sec1.len != 0

/-- The network status (R157). -/
def State.dnCode (s : State) : Nat :=
  if s.cfgFlag F.collDnEnable = false ∨ s.dnSection = false then 0
  else if s.coll.dnFault then 6
  else if s.budget = 3 then 5
  else if s.coll.dnWarm.isSome then 1
  else if s.coll.blocked then 4
  else if s.coll.target < dnOne then 3 else 2

/-- The status shown; a change sends EV_COLL_DN_STATE with the bin and the reason (R157). On entry into EXTRAPOLATION_BLOCKED
or SUSPENDED the fade starts from the weight in force (R160). -/
def State.showDn (s : State) : State :=
  let old := s.rd F.collDnStatus
  let new := s.dnCode
  if old = new then s else
  let s := if new = 4 ∨ new = 5 then { s with coll := { s.coll with fadeFrom := s.coll.weight, fadeStep := 0 } } else s
  (s.wr F.collDnStatus new).emit 0x45
    (le 1 old ++ le 1 new ++ le 2 (s.rd F.collEnvBinBin) ++ le 1 (s.rd F.collEnvBinReason))

/-- The applied weight written. -/
def State.setWeight (s : State) (g : Nat) : State :=
  ({ s with coll := { s.coll with weight := g } } : State).wr F.collDnWeight (g / 250)

/-- The applied weight moved for one frame (R157, R160): 0.004 is 10,000 units. -/
def State.moveWeight (s : State) (entered : Bool) : State :=
  let g := s.coll.weight
  match s.rd F.collDnStatus with
  | 2 | 3 =>
    let t := s.coll.target
    s.setWeight (if g < t then min t (g + 10000) else max t (g - 10000))
  | 4 | 5 =>
    let n := if entered then 0 else min (s.coll.fadeStep + 1) 250
    let s := { s with coll := { s.coll with fadeStep := n } }
    s.setWeight (s.coll.fadeFrom * (250 - n) / 250)
  | _ => s.setWeight 0

/-- The hidden state reset to zero (R158). -/
def State.dnReset (s : State) : State :=
  { s with coll := { s.coll with dnWarm := some 0, hidden := List.replicate 256 0, dnOut := [], dnInputs := [] } }

/-- The bins of an axis (R159). -/
def axisBins (x : Nat) : Nat := if x < 2 then 8 else 4

/-- The bin of a filtered value on an axis, none outside the edges (R159). -/
def State.axisBin (s : State) (x : Nat) : Option Nat :=
  let v := s.coll.filtered.get x
  let edge (k : Nat) : Int := (s.cfg (F.collEnvEdge x k) : Int) * nsSecond
  if v < edge 0 ∨ edge (axisBins x) ≤ v then none
  else (List.range (axisBins x)).find? fun k => decide (v < edge (k + 1))

/-- The wind stream, and the draught source where it is a stream, are OK (R159). -/
def State.axesKnown (s : State) : Bool :=
  let ok k := decide (k < 45) && s.rd (F.inpStreamStatus k) == 1
  let d := s.cfg F.collDraughtSource
  ok (s.cfg F.collWindStream) && (d == 0 || ok (d - 1))

/-- The wind speed, the draught and the heave energy index as they enter the axes, in their units times 10^9 (R154, R159). A draught that
a stream supplies is read in cm, of which the manual says nothing (log entry 98). -/
def State.axisValue (s : State) (x : Nat) : Int :=
  let value (k j num : Nat) : Int := match s.latestOf k with
    | some e => (Float.floorOf (Float.n64 (entryValue e j)) num 1 : Nat)
    | none => s.coll.axes.get x
  if x = 0 then (s.rd F.ctlThrustLoad : Int) * (nsSecond / 10)
  else if x = 1 then value (s.cfg F.collWindStream) 1 (10 * nsSecond)
  else if x = 2 then
    (if s.cfg F.collDraughtSource = 0 then (s.cfg F.collDraught : Int) * nsSecond else value (s.cfg F.collDraughtSource - 1) 0 nsSecond)
  else (s.heaveIndex : Int) * nsSecond

/-- The operating point filtered for one frame: it moves by 0.02 s / τ of the difference (R159). -/
def State.filterAxes (s : State) : State :=
  let step (x : Nat) : Nat × Int :=
    let old := s.coll.filtered.get x
    (x, old + (s.axisValue x - old) / (5 * s.cfg F.collEnvTau))
  { s with coll := { s.coll with axes := s.coll.axes.setAll ((List.range 4).map fun x => (x, s.axisValue x)),
                                 filtered := s.coll.filtered.setAll ((List.range 4).map step) } }

/-- The bin, the reason and the target weight of the filtered point (R159). Outside the edges the bin is a free value. -/
def State.judgeEnvelope (s : State) : State :=
  let was := s.flag F.collEnvBinOutside
  let (bin, reason, free) := match s.axisBin 0, s.axisBin 1, s.axisBin 2, s.axisBin 3 with
    | some a, some b, some c, some d =>
      let bin := ((a * 8 + b) * 4 + c) * 4 + d
      (bin, if s.cfg (F.collEnvCount bin) = 0 then 2 else if s.axesKnown then 0 else 3, s.free)
    | _, _, _, _ => (Config.freeNat s.free % 1024, 1, s.free + 1)
  let w := if reason = 0 then min dnOne (s.cfg (F.collEnvCount bin) * dnOne / max (s.cfg (F.collEnvMin bin)) 1) else 0
  let s := ((s.wr F.collEnvBinBin bin).wr F.collEnvBinReason reason).wrFlag F.collEnvBinOutside (reason != 0)
  { s with free := free, coll := { s.coll with
      target := w, blocked := s.coll.blocked || reason != 0,
      inside := if reason = 0 ∧ was = false then s.coll.inside + 1 else 0 } }

/-- A frame since the hidden state was reset, counted before what resets it at this frame instant (R157). -/
def State.dnCount (s : State) : State := { s with coll := { s.coll with dnWarm := s.coll.dnWarm.map (· + 1) } }

/-- The Drift Network at a frame instant (R157 to R160): a DN_FAULT has lasted its frame. -/
def State.dnFrame (s : State) : State :=
  let s := if s.coll.dnFault then { s with coll := { s.coll with dnFault := false, dnWarm := some 0 } } else s
  let s := if s.budget = 3 then { s with coll := { s.coll with suspended := s.coll.suspended + 1 } }
    else
      let long := decide (s.cfg F.collDnResumeLimit < s.coll.suspended)
      let s := { s with coll := { s.coll with suspended := 0 } }
      if long then s.dnReset else s
  let s := s.filterAxes.judgeEnvelope
  let old := s.rd F.collDnStatus
  let s := s.showDn
  s.moveWeight (s.rd F.collDnStatus != old)

/-- DN_WARMUP_END: WARMING ends after coll.dn_warmup frames (R157). -/
def execDnWarmupEnd (s : State) : Host.Outcome State Fault Refusal :=
  act (fun s =>
    match s.coll.dnWarm with
    | some n =>
      if s.ready ∧ s.cfg F.collDnWarmup ≤ n then
        ({ s with coll := { s.coll with dnWarm := none } } : State).showDn
      else s
    | none => s) s

/-- ENV_REENTRY: EXTRAPOLATION_BLOCKED ends after coll.env_reentry frames inside the envelope (R160). -/
def execEnvReentry (s : State) : Host.Outcome State Fault Refusal :=
  act (fun s =>
    if s.ready ∧ s.coll.blocked ∧ s.flag F.collEnvBinOutside = false ∧ s.cfg F.collEnvReentry ≤ s.coll.inside then
      ({ s with coll := { s.coll with blocked := false } } : State).showDn
    else s) s

/-- The network steps in this frame (R155). -/
def State.dnSteps (s : State) : Bool :=
  let i := s.rd F.timeFrameIndex
  s.rd F.collDnStatus != 0 &&
  (s.budget == 0 || (s.budget == 1 && i % 2 == 0) || (s.budget == 2 && i % 5 == 0))

/-! ### The network's step -/

/-- The 16 inputs of a frame (R154). -/
def State.networkInputs (s : State) : List F32 :=
  let low := s.coll.low
  let f (x : F64) : F32 := Float.narrow x
  let w := s.relativeWind
  let sc := Fixed.sinCos (Fixed.of32 low.heading)
  [low.surge, low.sway, low.yawRate] ++ (List.range 3).map (fun a => f (s.ctl.force.getD a 0)) ++
    (List.range 3).map (fun a => f (s.coll.filter.nominal.getD (27 + a) 0)) ++ [w.1, w.2.1, Float.fratio (s.axisValue 2) nsSecond,
    Float.fratio s.heaveIndex 1000, Float.fratio (s.rd F.ctlThrustLoad) 10000, Fixed.to32 sc.1,
    Fixed.to32 sc.2]

/-- The mean of some binary32 numbers, rounded once. -/
def meanF32 (xs : List F32) : F32 :=
  let (a, b) := Float.ratioOf (xs.foldl (fun t x => Float.add t (Float.n32 x)) (.fin false 0 0))
  if xs.all Float.ffin then Float.fratio a (b * max xs.length 1) else Float.r32 .nan

/-- The network after the updates of a frame (R154, R155): its inputs gathered, and on the frames where it runs a step on their mean since
the last. A value that is not finite is DN_FAULT: the hidden state is reset and the weight 0 at once (R157, R158, R160). -/
def State.stepNetwork (s : State) : State :=
  let inputs := s.coll.dnInputs ++ [s.networkInputs]
  if s.dnSteps = false then { s with coll := { s.coll with dnInputs := inputs } }
  else
    let means := (List.range 16).map fun i => meanF32 (inputs.map fun x => x.getD i 0)
    let (hidden, out) := Config.networkStep s.active.sec1.bytes.cells s.coll.hidden means
    if hidden.all Float.ffin && out.all Float.ffin then
      { s with coll := { s.coll with hidden := hidden, dnOut := out, dnInputs := [] } }
    else (({ s.dnReset with coll := { s.dnReset.coll with dnFault := true } } : State).showDn).setWeight 0

/-! ### The frame fused -/

/-- EV_COLL_FILTER_FAULT with the number of the frame in which an update was not sound (R143). -/
def State.tellBroken (s : State) (frames : List Nat) : State :=
  frames.foldl (fun s f => s.emit 0x44 (le 4 (f / nsFrame % 2 ^ 32))) s

/-- A pass of the filter taken into the state (R143, R149): what is stored, and the marks of the estimate. It is PREDICTED_ONLY also where
a frame that was run again lost its updates (log entry 98). -/
def State.takePass (s : State) (p : Pass) (again : Rerun) (kept : FrameKept) (revised : Bool) : State :=
  let lost := s.coll.updatesLost || p.broken
  let tell := p.broken && !s.coll.updatesLost
  let s : State := { s with coll := { s.coll with
    filter := p.filter, stored := (kept :: again.stored).take 11, tipped := revised, filterFault := lost || !again.broken.isEmpty,
    pos := if lost then [] else p.pos, hdg := if lost then [] else p.hdg } }
  s.tellBroken (again.broken ++ if tell then [kept.frame] else [])

/-- The late entries of the frame APPLIED and counted, or discarded with reason SHED where the offloaded re-run gave no checked result
(R149, R152). -/
def State.endLate (s : State) (w : CloseWork) (applied : Bool) : State :=
  let mark (e : LedgerEntry) : LedgerEntry :=
    if w.late.contains e then (if applied then { e with applied := true } else { e with discarded := true }) else e
  let s : State := { s with coll := { s.coll with ledger := s.coll.ledger.map mark } }
  if applied then s.add F.collTipinApplied w.late.length
  else ({ s with coll := { s.coll with shed := true } } : State).noteDiscards 4 w.late.length

/-- The frame fused (R133, R143, R149, R152): the re-runs, then the frame's own updates with the weights of the frame. -/
def State.fuse (s : State) : State :=
  match s.coll.work with
  | none => s
  | some w =>
    let revised := !w.late.isEmpty && (s.coll.offload == .none || s.coll.offload == .done)
    let again := s.rerun (if revised then w.late else [])
    let again := if s.coll.offload == .done then again.written else again
    let c := s.frameCtx w.cut
    let p := if s.coll.updatesLost then s.predictFrom again.filter s.coll.live else s.framePass c again.filter s.coll.live
    let kept : FrameKept := ⟨s.time.frameAt, p.filter, c.weights, c.mech, w.cut, c.inconsistent, c.imu, s.imuRestarts⟩
    let s := (s.takePass p again kept revised).noteHeave
    let s := (List.range 3).foldl (fun s n => s.countConsistency p n) s
    let s := if w.late.isEmpty then s else s.endLate w revised
    ({ s with coll := { s.coll with work := none, low := Config.lowFrequency (calm p.filter) } } : State).tellDiscards

/-! ### The estimate -/

/-- The status bits of R146. -/
def State.estStatus (s : State) (pos hdg : List Nat) : Nat :=
  bit (!pos.isEmpty || !hdg.isEmpty) + 2 * bit pos.isEmpty + 4 * bit s.coll.tipped + 8 * bit s.coll.shed +
    16 * bit (s.coll.gap && !s.flag F.collImuActiveModelOnly) +
    32 * bit s.coll.imuSwitched + 64 * bit (s.flag F.collImuActiveModelOnly) + 128 * bit s.coll.filterFault +
    256 * bit s.coll.restored + 512 * bit (s.rd F.collDnStatus == 4) + 1024 * bit (s.rd F.collRxConsistency != 0) +
    2048 * bit s.coll.held + 4096 * bit s.coll.initialising

/-- An output of the network clipped and weighted (R154). -/
def State.feedForward (s : State) (a : Nat) : F32 :=
  let out := s.coll.dnOut.getD a 0
  let lim := Float.fint (s.cfg (F.collDnForceLimit a) * (if a = 2 then 10 else 1))
  Float.fmul (Float.fmin (Float.fmax out (Float.fneg lim)) lim) (Float.fratio s.coll.weight dnOne)

/-- The FP32 fields of an estimate from offset 24 to 96 (R144, R145): the low-frequency part of the filter, in which the wave states have
no part, the wave-frequency part, states 27 to 29, the feed-forward and the σ fields. -/
def State.estFields (s : State) : List F32 :=
  let x := s.coll.low
  let w := Config.waveMotion s.coll.filter
  let g := Config.sigmas s.coll.filter
  [x.height, x.heading, x.surge, x.sway, x.yawRate, x.roll, x.pitch, w.1, w.2.1, w.2.2] ++
    (List.range 3).map (fun a => Float.narrow (s.coll.filter.nominal.getD (27 + a) 0)) ++
    (List.range 3).map s.feedForward ++ [g.1, g.2.1, g.2.2]

/-- The estimate record of R145. -/
def State.estimateBytes (s : State) (status : Nat) (pos hdg : List Nat) : List Byte :=
  let f (x : F32) : List Byte := le 4 x.toNat
  let slots := pos.filter (· < 6) ++ hdg.map (· + 6) ++ (pos.filter (6 ≤ ·)).map (· + 3)
  let b := le 4 (s.rd F.timeFrameNumber) ++ le 2 (s.rd F.timeFrameEpoch) ++ le 2 status ++ le 8 s.coll.low.lat.toNat ++
    le 8 s.coll.low.lon.toNat ++ s.estFields.flatMap f ++ f (Float.fratio s.coll.weight dnOne) ++ le 4 (maskOf slots) ++
    f s.noiseFactor ++ le 12 0
  b ++ le 4 (Crypto.crc32c b).toNat

/-- Every field of an estimate is finite and the σ fields are not negative (R147). -/
def State.estimateSound (s : State) : Bool :=
  let g := Config.sigmas s.coll.filter
  Float.dfin s.coll.low.lat && Float.dfin s.coll.low.lon && s.estFields.all Float.ffin &&
  [g.1, g.2.1, g.2.2].all fun x => !Float.flt x 0

/-- The estimate published and checked by both lanes (R134, R145, R147): rejected by either, the frame has none. -/
def State.publishEstimate (s : State) (corrupt : Bool) : State :=
  let s := s.fuse.stepNetwork
  let pos := s.coll.pos
  let hdg := s.coll.hdg
  let s := { s with coll := { s.coll with
    initialising := s.coll.initialising && (pos.isEmpty || hdg.isEmpty) } }
  let status := s.estStatus pos hdg
  let record := s.estimateBytes status pos hdg
  let good := s.estimateSound && !corrupt
  let s := s.wr F.collStatus status
  { s with coll := { s.coll with
      estimate := if good then record else s.coll.estimate, estPresent := good, published := true, restored := false,
      dnForce := (List.range 3).map fun a => Float.widen (s.feedForward a) } }

/-- The thrust-efficiency factors adapted after publication (R162). -/
def State.adaptThrust (s : State) : State :=
  if s.cfgFlag F.collAdaptEnable && s.flag F.collEnvBinOutside == false && s.coll.target == dnOne then
    let thrusts := match s.ctl.published with
      | some r => r.entries.map (·.thrust)
      | none => []
    let (rls, factors) := Config.adaptStep s.coll.rls ((List.range 32).map fun i => s.rd (F.collAdaptFactor i)) thrusts
      ((List.range 3).map fun a => s.coll.filter.nominal.getD (27 + a) 0)
    (List.range 32).foldl (fun s i => match factors[i]? with
      | some v => s.wr (F.collAdaptFactor i) (max 5000 (min 12000 v))
      | none => s) { s with coll := { s.coll with rls := rls } }
  else s

/-! ### The frame instant -/

/-- The IMU that the order and the port statuses give, none where no port is OK (R137). -/
def State.imuPick (s : State) : Option Nat :=
  let order := (List.range 4).map fun i => s.cfg F.collImuOrder / 4 ^ i % 4
  order.find? fun p => s.rd (F.inpImuStatus p) == 1

/-- The mechanised IMU at a frame instant (R137): a change sends EV_COLL_IMU_SWITCH with the old and the new port, or 4 for
MODEL_ONLY. -/
def State.switchImu (s : State) : State :=
  let old := s.rd F.collImuActivePort + 4 * s.rd F.collImuActiveModelOnly
  let new := match s.imuPick with
    | some p => p
    | none => 4
  let same := old == new || (new == 4 && decide (4 ≤ old))
  let s := { s with coll := { s.coll with imuSwitched := !same } }
  if same then s else
  let s := if new = 4 then s else { s with coll := { s.coll with filter := restartImu s.coll.filter } }
  let s := (s.wr F.collImuActivePort (if new = 4 then old % 4 else new)).wrFlag F.collImuActiveModelOnly (new == 4)
  s.emit 0x43 (le 1 (min old 4) ++ le 1 new)

/-- A barrier of tipping-in set at an instant (R150): the stored states are cleared. -/
def State.setBarrier (s : State) (kind : Barrier) (at_ : Nat) : State :=
  { s with coll := { s.coll with barrier := at_, barrierKind := kind, stored := [] } }

/-- The Collator at a frame instant (R130, R137, R157). -/
def State.collFrame (s : State) : State :=
  let s := { s with coll := { s.coll with
    closed := false, published := false, held := false, work := none, live := [], offload := .none, updatesLost := false } }
  (s.switchImu).dnFrame

/-- A cold initialisation of the Collator (R158, R164). -/
def State.collCold (s : State) : State :=
  ({ s with coll := { s.coll with
      initialising := true, restored := false, filter := { Config.coldFilter with at_ := s.now } } } : State).dnReset.setBarrier
    .restore s.now

end Sys2Proof.Machine
end

