-- ==== Sys2Proof/Machine/Operands.lean ====
section
/-! DEFINITION. What several blocks read of each other: the roles of the lanes (R344), actuators that are locked out or whose
loops are faulted (R242), and the request record in the output image (R225). -/

namespace Sys2Proof.Machine

/-- Lane states of R344. -/
abbrev laneOff : Nat := 0
/-- R344. -/
abbrev laneDuty : Nat := 1
/-- R344. -/
abbrev lanePartner : Nat := 2
/-- R344. -/
abbrev laneStandby : Nat := 3
/-- R344. -/
abbrev laneWaking : Nat := 4
/-- R344. -/
abbrev laneJoining : Nat := 5
/-- R344. -/
abbrev laneSilenced : Nat := 6
/-- R344. -/
abbrev laneFailed : Nat := 7

/-- The lane in a state, the lowest of several. -/
def State.laneIn (s : State) (st : Nat) : Option Nat := (List.range 3).find? fun n => s.rd (F.laneState n) == st

/-- Both a duty and a partner lane are active. -/
def State.twoLanes (s : State) : Bool := (s.laneIn laneDuty).isSome && (s.laneIn lanePartner).isSome

/-- A result that either active lane rejects (R16). -/
def State.rejectedBy (s : State) (duty partner : Bool) : Bool := duty || (s.twoLanes && partner)

/-- The verdicts of the active lanes on a result: where they differ, the fault collector records a lane disagreement (R16, R191). -/
def State.noteVerdicts (s : State) (duty partner : Bool) : State :=
  if s.twoLanes ∧ duty ≠ partner then { s with fault := { s.fault with disagreements := s.fault.disagreements + 1 } } else s

/-- Actuators of the groups that are locked out (R242, R378). -/
def State.lockedActs (s : State) : Nat :=
  (List.range 8).foldl (fun m g =>
    if s.rd (F.safeGroupStatusState g) = 2 ∨ s.rd (F.safeGroupStatusState g) = 3 then m ||| s.cfg (F.safeGroupAct g) else m) 0

/-- Word `w` of loop `l` (R259). -/
def State.loopWord (s : State) (l w : Nat) : Nat := s.cfg (F.loopCoef (32 * l + w))
/-- ENABLE. -/
def State.loopOn (s : State) (l : Nat) : Bool := testBit (s.loopWord l 0) 0
/-- The channel code 4i + c of a loop (R258). -/
def State.loopChan (s : State) (l : Nat) : Nat := l / 4 * 4 + s.loopWord l 0 / 2 % 4
/-- The role LIMIT. -/
def State.loopLimit (s : State) (l : Nat) : Bool := testBit (s.loopWord l 0) 3
/-- The loop that is PRIMARY on a channel. -/
def State.primaryOf (s : State) (h : Nat) : Option Nat :=
  ((List.range 4).map fun k => h / 4 * 4 + k).find? fun l => s.loopOn l && s.loopChan l == h && !s.loopLimit l

/-- A field of the request record, least significant byte first. -/
def State.recordField (s : State) (off n : Nat) : Nat := unle ((s.ctl.record.drop off).take n)

/-- An FP32 field of the request record. -/
def State.recordF32 (s : State) (off : Nat) : F32 := BitVec.ofNat 32 (s.recordField off 4)

/-- An FP64 field of the request record. -/
def State.recordF64 (s : State) (off : Nat) : F64 := BitVec.ofNat 64 (s.recordField off 8)

/-- A free value used up: the number it stands for, and the state that has used it (log entry 3). -/
def State.freeNat (s : State) : Nat × State := (Config.freeNat s.free, { s with free := s.free + 1 })

end Sys2Proof.Machine
end

