-- ==== Sys2Proof/Machine/Flags.lean ====
section
/-! DEFINITION. The status bits of a solve (R217): their places, and how the outcome of a frame is put together. -/

namespace Sys2Proof.Machine

/-- Bit of R217: OPTIMAL. -/
abbrev svOptimal : Nat := 0
/-- Bit of R217: TRUNCATED. -/
abbrev svTruncated : Nat := 1
/-- Bit of R217: ABORTED. -/
abbrev svAborted : Nat := 2
/-- Bit of R217: REGULARISED. -/
abbrev svRegularised : Nat := 3
/-- Bit of R217: FALLBACK. -/
abbrev svFallback : Nat := 4
/-- Bit of R217: STALE. -/
abbrev svStale : Nat := 5
/-- Bit of R217: INFEASIBLE. -/
abbrev svInfeasible : Nat := 6
/-- Bit of R217: OVERFLOW. -/
abbrev svOverflow : Nat := 7
/-- Bit of R217: STALLED. -/
abbrev svStalled : Nat := 8
/-- Bit of R217: ITER_LIMIT. -/
abbrev svIterLimit : Nat := 9
/-- Bit of R217: UNITS_REDUCED. -/
abbrev svUnitsReduced : Nat := 10
/-- Bit of R217: CONTROL_DEGRADED. -/
abbrev svDegraded : Nat := 11
/-- Bit of R217: COLD_START. -/
abbrev svColdStart : Nat := 12
/-- Bit of R217: RESULT_REJECTED. -/
abbrev svRejected : Nat := 13

/-- A solve status without its outcome bits (R217). -/
def clearOutcome (st : Nat) : Nat :=
  [svOptimal, svTruncated, svStale, svStalled, svIterLimit].foldl (fun v b => putBit v b false) st

/-- A status bit of the frame's solve set. -/
def State.solveBit (s : State) (b : Nat) : State :=
  { s with solv := { s.solv with status := putBit s.solv.status b true } }

/-- A status bit of the frame's solve. -/
def State.hasSolveBit (s : State) (b : Nat) : Bool := testBit s.solv.status b

/-- CONTROL_DEGRADED is in force (R213). -/
def State.degraded (s : State) : Bool := testBit (s.rd F.ctlSolveStatus) svDegraded

end Sys2Proof.Machine
end

