-- ==== Sys2Proof/Machine/Vessel.lean ====
section
/-! DEFINITION. Thrusts and the force they make, the vessel model, and the reference between two points (R227, R230, R232, R245, R253).
The manual gives the model's form and parameters and not its integration (log entry 108). -/

namespace Sys2Proof.Machine

open Sys2Proof.Float

/-! ### Thrusts -/

/-- No thrust. -/
def noThrusts : Thrusts := List.replicate 32 (0, 0)

/-- The thrust of an actuator. -/
def thrustOf (x : Thrusts) (i : Nat) : F64 × F64 := x.getD i (0, 0)

/-- A position in mm as metres times 1,000, exactly, times a thrust. -/
def moment (arm : Int) (f : F64) : FpNum := mul (ofInt arm) (n64 f)

/-- The generalised force of some thrusts in surge, sway and yaw, in kN and kN·m (R253). -/
def generalForce (acts : List (Nat × Int × Int)) (x : Thrusts) : List F64 :=
  let fs := acts.map fun a => (a.2, thrustOf x a.1)
  let yaw := total (fs.map fun f => sub (moment f.1.1 f.2.2) (moment f.1.2 f.2.1))
  [r64 (total (fs.map fun f => n64 f.2.1)), r64 (total (fs.map fun f => n64 f.2.2)), dscale (r64 yaw) 1 1000]

/-- The actuators of a problem with their positions. -/
def actLever (a : ActSpec) : Nat × Int × Int := (a.idx, a.pos)

/-- The moments of some thrusts about the actuators' heights, in roll and pitch in kN·m (R232): of a position z down. -/
def tiltMoments (acts : List ActSpec) (x : Thrusts) : F64 × F64 :=
  let sum (f : ActSpec → FpNum) : F64 := dscale (r64 (total (acts.map f))) 1 1000
  (sum fun a => neg (moment a.height (thrustOf x a.idx).2), sum fun a => moment a.height (thrustOf x a.idx).1)

/-! ### The vessel model (R232) -/

/-- The hull in fixed point: position in m in a tangent plane, roll, pitch and heading in degrees; the velocities in surge, sway and heave in
m/s, in roll and pitch in °/s and in yaw in rad/s. -/
structure Hull where
  north : Int
  east : Int
  heave : Int
  roll : Int
  pitch : Int
  heading : Int
  surge : Int
  sway : Int
  heaveRate : Int
  rollRate : Int
  pitchRate : Int
  yaw : Int

/-- What moves the hull: the force in surge, sway and yaw in kN and kN·m, and the angular accelerations that the thrust moments and the
wind give in roll and pitch in °/s². -/
structure Push where
  force : List Int
  roll : Int
  pitch : Int

/-- The mass of an axis with its added mass, in t or t·m² (R232). -/
def inertial (m : VesselModel) (a : Nat) : Int :=
  if a = 2 then ((m.inertia + m.added.getD 2 0) * 1000 : Nat) else (m.mass + m.added.getD a 0 : Nat)

/-- The force of the damping of an axis at a velocity: the quadratic part as it is, or linearised about the velocity `about` (R232). -/
def dampingForce (m : VesselModel) (a : Nat) (about : Option Int) (v : Int) : Int :=
  let square : Int := match about with
    | none => Fixed.mul v v.natAbs
    | some w => 2 * Fixed.mul w.natAbs v - Fixed.mul w w.natAbs
  m.lin.getD a 0 * v + m.quad.getD a 0 * square

/-- The acceleration of an axis under a force. -/
def axisAccel (m : VesselModel) (a : Nat) (about : Option Int) (v force : Int) : Int :=
  let n := inertial m a
  if n = 0 then 0 else (force - dampingForce m a about v) / n

/-- The angular acceleration of an oscillator of a natural period in 0.01 s and a damping ratio in 0.01 (R232). -/
def oscillator (period damping : Nat) (x rate : Int) : Int :=
  let w := Fixed.div (200 * Fixed.pi) (period * Fixed.one)
  let drag := damping * Fixed.mul w rate / 50
  0 - drag - Fixed.mul (Fixed.mul w w) x

/-- The hull some fixed-point seconds later: the velocities first, then the positions (log entry 108). Heave is carried and not coupled. -/
def hullStep (m : VesselModel) (p : Push) (about : Option (List Int)) (h : Int) (x : Hull) : Hull :=
  let ref (a : Nat) : Option Int := about.map fun w => w.getD a 0
  let grow (v a : Int) : Int := v + Fixed.mul a h
  let u := grow x.surge (axisAccel m 0 (ref 0) x.surge (p.force.getD 0 0))
  let v := grow x.sway (axisAccel m 1 (ref 1) x.sway (p.force.getD 1 0))
  let r := grow x.yaw (axisAccel m 2 (ref 2) x.yaw (p.force.getD 2 0))
  let rr := grow x.rollRate (oscillator m.roll.1 m.roll.2 x.roll x.rollRate + p.roll)
  let pr := grow x.pitchRate (oscillator m.pitch.1 m.pitch.2 x.pitch x.pitchRate + p.pitch)
  let ne := Fixed.turn (Fixed.sinCos x.heading) u v
  { north := grow x.north ne.1, east := grow x.east ne.2, heave := grow x.heave x.heaveRate, roll := grow x.roll rr
    pitch := grow x.pitch pr, heading := grow x.heading (Fixed.degrees r), surge := u, sway := v, heaveRate := x.heaveRate
    rollRate := rr, pitchRate := pr, yaw := r }

/-- The hull after some equal steps. -/
def hullSteps (m : VesselModel) (p : Push) (about : Option (List Int)) (h : Int) : Nat → Hull → Hull
  | 0, x => x
  | n + 1, x => hullSteps m p about h n (hullStep m p about h x)

/-- The hull some ns later, in equal steps of at most 20 ms. -/
def hullAfter (m : VesselModel) (p : Push) (about : Option (List Int)) (ns : Nat) (x : Hull) : Hull :=
  let n := (ns + 19999999) / 20000000
  hullSteps m p about (Fixed.ratio ns (1000000000 * max n 1)) n x

/-- What pushes the hull: thrusts, and the known forces with the part of them that is wind. The inertias in roll and pitch and the
height at which the wind acts are not the manual's: how the moments and the wind act on them is free. -/
def pushOf (m : VesselModel) (acts : List ActSpec) (x : Thrusts) (known wind : List F64) : Push :=
  let f := generalForce (acts.map actLever) x
  let t := tiltMoments acts x
  { force := (List.range 3).map fun a => Fixed.of64 (f.getD a 0) + Fixed.of64 (known.getD a 0)
    roll := Fixed.of64 (Config.tilt 0 m t.1 wind), pitch := Fixed.of64 (Config.tilt 1 m t.2 wind) }

/-- The estimate as a hull in the tangent plane at a position (R230). What it does not hold, the rates of heave, roll and pitch, is
free. -/
def hullOf (lat lon : F64) (x : LowFreq) : Hull :=
  let d := Fixed.offset lat lon x.lat x.lon
  let r := Config.unestimated x
  { north := d.1, east := d.2, heave := -Fixed.of32 x.height, roll := Fixed.of32 x.roll, pitch := Fixed.of32 x.pitch
    heading := Fixed.of32 x.heading, surge := Fixed.of32 x.surge, sway := Fixed.of32 x.sway, heaveRate := Fixed.of64 r.1
    rollRate := Fixed.of64 r.2.1, pitchRate := Fixed.of64 r.2.2, yaw := Fixed.radians (Fixed.of32 x.yawRate) }

/-- A hull in binary64, its yaw rate in °/s. -/
def Hull.stage (x : Hull) : StageState :=
  { north := Fixed.to64 x.north, east := Fixed.to64 x.east, heave := Fixed.to64 x.heave, heading := Fixed.to64 x.heading
    vel := [Fixed.to64 x.surge, Fixed.to64 x.sway, Fixed.to64 (Fixed.degrees x.yaw)]
    roll := Fixed.to64 x.roll, pitch := Fixed.to64 x.pitch
    rates := [Fixed.to64 x.heaveRate, Fixed.to64 x.rollRate, Fixed.to64 x.pitchRate] }

/-- A state in fixed point. -/
def hullState (x : StageState) : Hull :=
  let f (v : F64) : Int := Fixed.of64 v
  { north := f x.north, east := f x.east, heave := f x.heave, roll := f x.roll, pitch := f x.pitch, heading := f x.heading
    surge := f (x.vel.getD 0 0), sway := f (x.vel.getD 1 0), heaveRate := f (x.rates.getD 0 0), rollRate := f (x.rates.getD 1 0)
    pitchRate := f (x.rates.getD 2 0), yaw := Fixed.radians (f (x.vel.getD 2 0)) }

/-- The hulls at the starts of the stages of a plan, the quadratic damping linearised about the velocities given, stage by stage. -/
def hulls (p : Problem) : List (Nat × Thrusts × Option (List Int)) → Hull → List Hull
  | [], _ => []
  | (ms, x, about) :: rest, h =>
    h :: hulls p rest (hullAfter p.model (pushOf p.model p.acts x p.known p.wind) about (ms * 1000000) h)

/-- The velocities of the warm plan at the starts of its stages, about which a frame's damping is linearised (R232). -/
def warmVelocities (p : Problem) : List (List Int) :=
  (hulls p (p.stages.zipIdx.map fun k => (k.1, p.warm.getD k.2 noThrusts, none)) (hullState p.start)).map fun h => [h.surge, h.sway, h.yaw]

/-- The states at the starts of the stages of a plan (R232). -/
def trajectory (p : Problem) (plan : List Thrusts) : List StageState :=
  let about := warmVelocities p
  (hulls p (p.stages.zipIdx.map fun k => (k.1, plan.getD k.2 noThrusts, some (about.getD k.2 []))) (hullState p.start)).map Hull.stage

/-- The initial state of a problem (R230): the estimate carried forward by some ns with the thrusts in force and the known forces. -/
def initialState (m : VesselModel) (acts : List ActSpec) (origin : F64 × F64) (low : LowFreq) (ns : Nat) (x : Thrusts)
    (known wind : List F64) : StageState :=
  (hullAfter m (pushOf m acts x known wind) none ns (hullOf origin.1 origin.2 low)).stage

/-- The position errors in surge, sway and yaw of an estimate against a reference, and the velocity errors, in m, degrees, m/s and °/s
(R245), in the tangent plane at the setpoint. -/
def bodyErrors (origin : F64 × F64) (low : LowFreq) (r : Ref) : List F64 × List F64 :=
  let a := Fixed.offset origin.1 origin.2 low.lat low.lon
  let b := Fixed.offset origin.1 origin.2 r.lat r.lon
  let d := Fixed.unturn (Fixed.sinCos (Fixed.of32 low.heading)) (a.1 - b.1) (a.2 - b.2)
  let turn := Fixed.halfTurn (Fixed.of32 low.heading - Fixed.of32 r.heading)
  let v (x : F32) (k : Nat) : F64 := Fixed.to64 (Fixed.of32 x - Fixed.of64 (r.vel.getD k 0))
  ([Fixed.to64 d.1, Fixed.to64 d.2, Fixed.to64 turn], [v low.surge 0, v low.sway 1, v low.yawRate 2])

/-! ### The reference between two points (R227) -/

/-- The motion along the line of a move in fixed point: its length, the speed at its start, its greatest speed and its acceleration. -/
structure Course where
  length : Int
  first : Int
  top : Int
  accel : Int

/-- The target of a move in the tangent plane at its start. -/
def moveSpan (m : Move) : Int × Int := Fixed.offset m.start.lat m.start.lon m.lat m.lon

/-- How far a move turns, in degrees the shorter way round. -/
def moveTurn (m : Move) : Int := Fixed.halfTurn (Fixed.of32 m.heading - Fixed.of32 m.start.heading)

/-- The course of a move: it sets out with the part of the reference's velocity that lies along the line, speeds up, runs on and slows down
to rest at its end within its limits (log entry 108). -/
def courseOf (m : Move) : Course :=
  let d := moveSpan m
  let length := Fixed.hypot d.1 d.2
  let accel := Fixed.ratio (m.limits.getD 1 0) 100
  let most := match m.leg with
    | some v => Fixed.of32 v
    | none => Fixed.ratio (m.limits.getD 0 0) 100
  let ne := Fixed.turn (Fixed.sinCos (Fixed.of32 m.start.heading)) (Fixed.of64 (m.start.vel.getD 0 0)) (Fixed.of64 (m.start.vel.getD 1 0))
  let along := Fixed.div (Fixed.mul ne.1 d.1 + Fixed.mul ne.2 d.2) length
  let first := Fixed.clamp 0 (min most (Fixed.root (2 * Fixed.mul accel length))) along
  { length := length, first := first, accel := accel
    top := max first (min most (Fixed.root (Fixed.mul accel length + Fixed.mul first first / 2))) }

/-- How long a course speeds up, runs on and slows down, in seconds. -/
def Course.times (c : Course) : Int × Int × Int :=
  let sq (x : Int) : Int := Fixed.mul x x
  let rest := c.length - Fixed.div (2 * sq c.top - sq c.first) (2 * c.accel)
  (Fixed.div (c.top - c.first) c.accel, Fixed.div (max rest 0) c.top, Fixed.div c.top c.accel)

/-- The way along a course, the speed and the acceleration at a time. -/
def Course.at_ (c : Course) (t : Int) : Int × Int × Int :=
  let (t1, t2, t3) := c.times
  let sq (x : Int) : Int := Fixed.mul x x
  if t < t1 then (Fixed.mul c.first t + Fixed.mul c.accel (sq t) / 2, c.first + Fixed.mul c.accel t, c.accel)
  else if t < t1 + t2 then (Fixed.div (sq c.top - sq c.first) (2 * c.accel) + Fixed.mul c.top (t - t1), c.top, 0)
  else if t < t1 + t2 + t3 then
    let left := t1 + t2 + t3 - t
    (c.length - Fixed.mul c.accel (sq left) / 2, Fixed.mul c.accel left, -c.accel)
  else (c.length, 0, 0)

/-- The rate at which a move turns, in °/s. -/
def turnRate (m : Move) : Int := Fixed.ratio (m.limits.getD 2 0) 100

/-- How long a move takes in ns: until it has arrived and turned. -/
def moveTime (m : Move) : Nat :=
  let (t1, t2, t3) := (courseOf m).times
  let turn := Fixed.div (moveTurn m).natAbs (turnRate m)
  ((max (t1 + t2 + t3) turn * 1000000000 + Fixed.one - 1) / Fixed.one).toNat

/-- The reference some ns after a move began: on the straight line, turning the shorter way (R227). -/
def reference (m : Move) (ns : Nat) : Ref :=
  if moveTime m ≤ ns then ⟨m.lat, m.lon, m.heading, [0, 0, 0], [0, 0, 0]⟩
  else
    let t := Fixed.ratio ns 1000000000
    let d := moveSpan m
    let c := courseOf m
    let (way, speed, accel) := c.at_ t
    let part (x : Int) (axis : Int) : Int := Fixed.mul x (Fixed.div axis c.length)
    let all := moveTurn m
    let turned := min (Fixed.mul (turnRate m) t) all.natAbs
    let left := decide (turned < all.natAbs)
    let heading := Fixed.of32 m.start.heading + (if all < 0 then -turned else turned)
    let sc := Fixed.sinCos heading
    let body (x : Int) : List F64 :=
      let b := Fixed.unturn sc (part x d.1) (part x d.2)
      [Fixed.to64 b.1, Fixed.to64 b.2]
    let yaw := if left then (if all < 0 then -turnRate m else turnRate m) else 0
    let pos := Fixed.displaced m.start.lat m.start.lon (part way d.1, part way d.2)
    ⟨pos.1, pos.2, Fixed.to32 (heading % (360 * Fixed.one)), body speed ++ [Fixed.to64 yaw], body accel ++ [0]⟩

end Sys2Proof.Machine
end

