-- ==== Sys2Proof/Machine/Problem.lean ====
section
/-! DEFINITION. What a problem of vessel control makes of a plan: the force, the power, the cost, the hard constraints, feasibility and
convergence, and how a plan is shifted along its time axis (R194 to R196, R205, R212, R214, R231, R234 to R237, R240, R241). -/

namespace Sys2Proof.Machine

open Sys2Proof.Float

/-! ### Plans -/

/-- The stage lengths of a problem in ms (R231). An allocation is in force for one frame (log entry 99). -/
def stageLengths (form : Nat) : List Nat :=
  if form < 20 then [20] else List.replicate 10 100 ++ List.replicate (form - 10) 300

/-- The instant in ns at which a stage starts on the time axis of a plan (R231). -/
def stageStart (k : Nat) : Nat := (((stageLengths 40).take k).foldl (· + ·) 0 + 300 * (k - 40)) * 1000000

/-- The stage of a plan that an instant of its time axis falls in; beyond its end the last (R194, R205, R212). -/
def stageAt (n t : Nat) : Nat := ((List.range n).filter fun k => decide (stageStart k ≤ t)).length - 1

/-- The thrusts of a plan at an instant after its present start. -/
def planAt (p : Plan) (t : Nat) : Thrusts := p.inputs.getD (stageAt p.inputs.length (p.ahead + t)) noThrusts

/-- A plan shifted forward by one frame (R194, R212). -/
def shiftPlan (p : Plan) : Plan := { p with ahead := p.ahead + 20000000 }

/-- The stages of a problem as a plan gives them (R194, R205): each stage takes the plan's input at its start (log entry 99). -/
def stagesOf (p : Plan) (form : Nat) : List Thrusts :=
  (List.range (stageLengths form).length).map fun k => planAt p (stageStart k)

/-! ### Magnitudes and power -/

/-- The square of a thrust's magnitude, exactly. -/
def thrustSquare (f : F64 × F64) : FpNum := add (mul (n64 f.1) (n64 f.1)) (mul (n64 f.2) (n64 f.2))

/-- The magnitude of a thrust. -/
def thrustSize (f : F64 × F64) : F64 := dsqrt (r64 (thrustSquare f))

/-- The power of an actuator in kW (R241): k × (|F|² + 1 kN²)^0.75, with k in 0.001 kW/kN^1.5. -/
def thrustPower (coef : Nat) (f : F64 × F64) : F64 :=
  dscale (Fixed.pow34 (r64 (add (thrustSquare f) (ofInt 1)))) coef 1000

/-! ### The cost (R195, R234, R245) -/

/-- The square of a number. -/
def square (x : FpNum) : FpNum := mul x x

/-- Squares weighted and summed. -/
def weighted (ws : List Nat) (xs : List FpNum) : FpNum := total ((ws.zip xs).map fun p => mul (ofInt p.1) (square p.2))

/-- The position, heading and velocity errors of a stage, weighted (R234), in the tangent plane at the setpoint. -/
def trackingCost (p : Problem) (st : StageState) (ref : Ref) : FpNum :=
  let heading := halfTurn (sub (n64 st.heading) (n32 ref.heading))
  let at_ := Fixed.offset p.origin.1 p.origin.2 ref.lat ref.lon
  let error (x : F64) (r : Int) : FpNum := sub (n64 x) (n64 (Fixed.to64 r))
  add (weighted p.wPos [error st.north at_.1, error st.east at_.2, heading])
    (weighted p.wVel ((List.range 3).map fun a => sub (n64 (st.vel.getD a 0)) (n64 (ref.vel.getD a 0))))

/-- The change of every actuator variable between two stages, weighted. -/
def changeCost (p : Problem) (x y : Thrusts) : FpNum :=
  mul (ofInt p.wDthrust) (total (p.acts.map fun a =>
    let f := thrustOf x a.idx
    let g := thrustOf y a.idx
    add (square (sub (n64 g.1) (n64 f.1))) (square (sub (n64 g.2) (n64 f.2)))))

/-- The power term of a stage. -/
def powerCost (p : Problem) (x : Thrusts) : FpNum :=
  mul (ofInt p.wPower) (total (p.acts.map fun a => n64 (thrustPower a.coef (thrustOf x a.idx))))

/-- The generalised force tracked to the demand, weighted (R234, R245). -/
def forceCost (p : Problem) (x : Thrusts) : FpNum :=
  let f := generalForce (p.acts.map actLever) x
  weighted p.wForce ((List.range 3).map fun a => sub (n64 (f.getD a 0)) (n64 (p.demand.getD a 0)))

/-- The cost of a plan over a horizon, times 1,000 (R234): the terms of each stage times its length in ms, and the terminal term, which no
length weighs (log entry 99). -/
def horizonCost (p : Problem) (plan : List Thrusts) : FpNum :=
  let states := trajectory p plan
  let n := p.stages.length
  let stage (k : Nat) : FpNum :=
    let x := plan.getD k noThrusts
    let change := if k = 0 then zero else changeCost p (plan.getD (k - 1) noThrusts) x
    let sum := total [trackingCost p (states.getD k default) (p.refs.getD k default), powerCost p x, change, forceCost p x]
    mul (ofInt (p.stages.getD k 0)) sum
  add (total ((List.range n).map stage))
    (mul (ofInt 10000) (trackingCost p (states.getD (n - 1) default) (p.refs.getD (n - 1) default)))

/-- The cost of an allocation (R195, R245): the demand soft-tracked, the power, and the change from the thrust in force. -/
def allocationCost (p : Problem) (x : Thrusts) : FpNum := total [forceCost p x, powerCost p x, changeCost p p.inForce x]

/-- The cost of a plan. -/
def planCost (p : Problem) (plan : List Thrusts) : FpNum :=
  if p.form < 20 then allocationCost p (plan.getD 0 noThrusts) else horizonCost p plan

/-! ### The hard constraints (R235) -/

/-- A constraint of a group exceeded by so much, in scaled units. -/
def exceeds (group : Nat) (x : FpNum) : Nat × F64 := (group, if lt zero x then Config.scaled group (r64 x) else 0)

/-- A vertex in 1e-5 kN as a number. -/
def vertex (v : Int × Int) : FpNum × FpNum := (ofInt v.1, ofInt v.2)

/-- The edges of a polygon. -/
def edges (vs : List (Int × Int)) : List ((Int × Int) × (Int × Int)) := vs.zip (vs.drop 1 ++ vs.take 1)

/-- How far a thrust lies outside an edge of a convex region whose vertices stand in increasing angle (R236). -/
def outside (f : F64 × F64) (e : (Int × Int) × (Int × Int)) : FpNum :=
  let (ax, ay) := vertex e.1
  let (bx, by_) := vertex e.2
  let x := sub (mul (ofInt 100000) (n64 f.1)) ax
  let y := sub (mul (ofInt 100000) (n64 f.2)) ay
  sub (mul (sub by_ ay) x) (mul (sub bx ax) y)

/-- The region of an actuator (R236, R242): zero where it is not available, a polygon, or an interval. -/
def regionLimits (a : ActSpec) (f : F64 × F64) : List (Nat × F64) :=
  let single (v : F64) : List (Nat × F64) :=
    let x := mul (ofInt 100000) (n64 v)
    let lo := ofInt (a.region.getD 0 (0, 0)).1
    let hi := ofInt (a.region.getD 1 (0, 0)).1
    [exceeds 1 (sub lo x), exceeds 1 (sub x hi)]
  if a.available = false then [exceeds 1 (magnitude (n64 f.1)), exceeds 1 (magnitude (n64 f.2))]
  else if a.typ = 2 then single f.2 else if a.typ = 3 then single f.1
  else (edges a.region).map fun e => exceeds 1 (outside f e)

/-- The rate limit of an actuator at a stage (R240): the change of thrust along the unit vector and across it. -/
def rateLimits (r : RateLimit) (old new : F64 × F64) : List (Nat × F64) :=
  let dx := sub (n64 new.1) (n64 old.1)
  let dy := sub (n64 new.2) (n64 old.2)
  let ux := n64 r.dir.1
  let uy := n64 r.dir.2
  let along := magnitude (add (mul ux dx) (mul uy dy))
  let across := magnitude (sub (mul ux dy) (mul uy dx))
  exceeds 2 (sub along (n64 r.along)) :: match r.across with
    | some v => [exceeds 2 (sub across (n64 v))]
    | none => []

/-- The half-plane of a sector's side (R237): side 0 the thrust angles from the bounding angle on, side 1 those up to it. -/
def sectorLimit (side angle : Nat) (f : F64 × F64) : Nat × F64 :=
  let (sn, cs) := Fixed.sinCos (Fixed.ratio angle 100)
  let cross := sub (mul (n64 (Fixed.to64 cs)) (n64 f.2)) (mul (n64 (Fixed.to64 sn)) (n64 f.1))
  exceeds 3 (if side = 0 then neg cross else cross)

/-- The power of a bus against its allowance (R241). -/
def busLimit (p : Problem) (x : Thrusts) (b : Nat) : List (Nat × F64) :=
  match p.allow.getD b none with
  | some a =>
    let sum := total ((p.acts.filter fun c => c.bus == b).map fun c => n64 (thrustPower c.coef (thrustOf x c.idx)))
    [exceeds 4 (sub sum (n32 a))]
  | none => []

/-- The hard constraints of a stage, each with its group and by how much it is exceeded (R235). -/
def stageLimits (p : Problem) (plan : List Thrusts) (states : List StageState) (k : Nat) : List (Nat × F64) :=
  let x := plan.getD k noThrusts
  let before := if k = 0 then p.inForce else plan.getD (k - 1) noThrusts
  let tilt (v : F64) (limit : Nat) : Nat × F64 := exceeds 5 (sub (magnitude (mul (ofInt 100) (n64 v))) (ofInt limit))
  (p.acts.flatMap fun a => regionLimits a (thrustOf x a.idx)) ++
    ((p.rates.filter fun r => r.stage == k).flatMap fun r => rateLimits r (thrustOf before r.act) (thrustOf x r.act)) ++
    (p.sectors.map fun c => sectorLimit c.2.1 c.2.2 (thrustOf x c.1)) ++ ((List.range 6).flatMap fun b => busLimit p x b) ++
    (if p.form < 20 then [] else
      let st := states.getD k default
      [tilt st.roll p.limits.1, tilt st.pitch p.limits.2])

/-- The hard constraints of a plan. -/
def planLimits (p : Problem) (plan : List Thrusts) : List (Nat × F64) :=
  let states := if p.form < 20 then [] else trajectory p plan
  (List.range p.stages.length).flatMap fun k => stageLimits p plan states k

/-- Every one of some constraints holds within 10^(−tol) in scaled units (R193, R194). -/
def withinTol (tol : Nat) (ls : List (Nat × F64)) : Bool :=
  ls.all fun l => dfin l.2 && !lt (ofInt 1) (mul (n64 l.2) (ofInt (10 ^ tol : Nat)))

/-- An iterate is feasible (R194). -/
def feasible (tol : Nat) (p : Problem) (plan : List Thrusts) : Bool := withinTol tol (planLimits p plan)

/-- Every hard constraint of a plan's first stage holds (R193). -/
def firstStageHolds (tol : Nat) (p : Problem) (plan : List Thrusts) : Bool :=
  withinTol tol (stageLimits p plan (if p.form < 20 then [] else trajectory p plan) 0)

/-- The violation of some constraints together (R214). -/
def violationOf (ls : List (Nat × F64)) : F64 := r64 (total (ls.map fun l => n64 l.2))

/-- The group that holds the largest share of the violation, the lowest of equals, none where nothing is violated (R214). -/
def worstGroup (ls : List (Nat × F64)) : Nat :=
  let share (g : Nat) : FpNum := total ((ls.filter fun l => l.1 == g).map fun l => n64 l.2)
  ([1, 2, 3, 4, 5].foldl (fun (best : Nat × FpNum) g => if lt best.2 (share g) then (g, share g) else best) (0, zero)).1

/-- The index of the most violated constraint, the first of equals (R222). -/
def worstConstraint (ls : List (Nat × F64)) : Nat :=
  (ls.zipIdx.foldl (fun (best : Nat × F64) l => if dlt best.2 l.1.2 then (l.2, l.1.2) else best) (0, 0)).1

/-! ### Convergence (R196, R214) -/

/-- A number is at most 10^(−tol). -/
def atMost (tol : Nat) (x : F64) : Bool := dfin x && !lt (ofInt 1) (mul (n64 x) (ofInt (10 ^ tol : Nat)))

/-- An iterate that is feasible has converged: the scaled KKT residual and the average complementarity product are small enough. -/
def converged (tol : Nat) (p : Problem) (x : Point) : Bool :=
  let k := Config.kkt p x
  atMost tol k.1 && atMost tol k.2

/-- The dual iterate's norm exceeds 10⁸ (R214). -/
def dualsLarge (x : Point) : Bool := lt (ofInt (10 ^ 16)) (total (x.duals.map fun d => square (n64 d)))

/-- The variables that an iterate may hold: those of the problem's actuators, by type (R233). -/
def tidyThrusts (p : Problem) (x : Thrusts) : Thrusts :=
  (List.range 32).map fun i =>
    match p.acts.find? fun a => a.idx == i with
    | some a =>
      let f := thrustOf x i
      (if a.typ = 2 then 0 else f.1, if a.typ = 3 then 0 else f.2)
    | none => (0, 0)

/-- An iterate with the variables of the problem and its stages. -/
def tidyPoint (p : Problem) (x : Point) : Point :=
  { x with plan := (List.range p.stages.length).map fun k => tidyThrusts p (x.plan.getD k noThrusts) }

end Sys2Proof.Machine
end

