-- ==== Sys2Proof/Machine/Solver.lean ====
section
/-! DEFINITION. The Solver Cluster: units, jobs, the main and the fall-back path, the deadline and the outcome of a frame
(R187 to R222). -/

namespace Sys2Proof.Machine

/-! ### Units -/

/-- The state of a unit: 0 OFF, 1 READY, 2 BUSY, 3 FAULTED (R221). -/
def State.unitState (s : State) (u : Nat) : Nat := s.rd (F.ctlUnitStatusState u)

/-- The enabled units that are not FAULTED, in ascending number (R205). -/
def State.healthyUnits (s : State) : List Nat :=
  (List.range 4).filter fun u => testBit (s.cfg F.ctlUnitMask) u && s.unitState u != 3

/-- How many units the budget state asks for (R205). -/
def State.unitsAsked (s : State) : Nat := if s.budget = 0 then 4 else if s.budget = 1 then 2 else 1

/-- A unit powered or not (R207): powered up it is OFF with its scratch cleared, powered off it takes no jobs. -/
def State.powerUnit (s : State) (u : Nat) (on : Bool) : State :=
  if s.solv.powered.get u = on then s else
  let s : State := { s with solv := { s.solv with
    powered := s.solv.powered.set u on, poweredAt := s.solv.poweredAt.set u s.clock, scratch := s.solv.scratch.set u [],
    desc := s.solv.desc.set u none, jobFrom := s.solv.jobFrom.set u none } }
  if s.unitState u = 3 then s else s.wr (F.ctlUnitStatusState u) 0

/-- The units powered at a frame instant (R205 to R207). -/
def State.powerUnits (s : State) : State :=
  let on := s.healthyUnits.take s.unitsAsked
  (List.range 4).foldl (fun s u => s.powerUnit u (on.contains u)) s

/-- A unit takes a job at an instant of the clock (R209, R221). -/
def State.startJob (s : State) (at_ u : Nat) : State :=
  ({ s with solv := { s.solv with jobFrom := s.solv.jobFrom.set u (some at_) } } : State).wr (F.ctlUnitStatusState u) 2

/-- A unit has no job (R221). -/
def State.endUnit (s : State) (u : Nat) : State :=
  let s : State := { s with solv := { s.solv with jobFrom := s.solv.jobFrom.set u none } }
  if s.unitState u = 2 then s.wr (F.ctlUnitStatusState u) 1 else s

/-- A powered unit whose power has ramped up and whose scratch is clear is ready (R207); the fall-back path may wait for it. -/
def State.makeReady (s : State) (u : Nat) : State :=
  let s := s.wr (F.ctlUnitStatusState u) 1
  if s.solv.isOpen ∧ s.solv.fallUnit = some u then s.startJob s.clock u else s

/-- UNIT_READY: a unit is ready within 1.5 ms of its power, of which the ramp takes 300 µs (R207). -/
def execUnitReady (u : Fin 4) (s : State) : Host.Outcome State Fault Refusal :=
  act (fun s =>
    let t := s.since (s.solv.poweredAt.get u.val)
    if s.ready ∧ s.solv.powered.get u.val ∧ s.unitState u.val = 0 ∧ 300000 < t + nsTick ∧ t ≤ 1500000 then s.makeReady u.val
    else s) s

/-- The units that have been powered for 1.5 ms are ready (R207). -/
def State.readyUnits (s : State) : State :=
  (List.range 4).foldl (fun s u =>
    if s.solv.powered.get u ∧ s.unitState u = 0 ∧ 1500000 ≤ s.since (s.solv.poweredAt.get u) then s.makeReady u else s) s

/-! ### The problem of a job -/

/-- The problem of the frame. -/
def State.problemNow (s : State) : Problem := s.solv.problem.getD default

/-- The open sectors and the sides of a candidate (R238): bit `j` of the candidate is the side of the `j`-th open sector. -/
def candidateSides (opens : List Nat) (closed cand : Nat) : Nat :=
  (List.range opens.length).foldl (fun m j => putBit m (opens.getD j 0) (testBit cand j)) closed

/-- The forbidden sectors that are configured, bit 2i + j of actuator i (R237, R238). -/
def State.sectorBits (s : State) : List Nat :=
  (List.range 64).filter fun b => s.cfg (F.ctlActType (b / 2)) == 1 && s.cfg (F.ctlActSectorWidth (b / 2) (b % 2)) != 0

/-- The sectors with the sides of a mask in force (R237): the actuator, the side, and the angle that bounds it, θ₂ for side 0 and θ₁ for
side 1. -/
def State.sectorList (s : State) (mask : Nat) : List (Nat × Nat × Nat) :=
  s.sectorBits.map fun b =>
    let start := s.cfg (F.ctlActSectorStart (b / 2) (b % 2))
    let end_ := (start + s.cfg (F.ctlActSectorWidth (b / 2) (b % 2))) % 36000
    (b / 2, bit (testBit mask b), if testBit mask b then start else end_)

/-- The allocation of a candidate (R195, R245): the force that the problem demands, of a plan over a horizon that of the warm plan's first
stage, tracked with ctl.w_force. -/
def State.candidateProblem (s : State) (c : Nat) : Problem :=
  let p := s.problemNow
  let w := s.cfg F.ctlWForce
  let sectors := s.sectorList (candidateSides s.solv.openSectors s.solv.sides c)
  if p.form < 20 then { p with sectors := sectors }
  else { p with form := 2, stages := stageLengths 2, wForce := [w, w, w], sectors := sectors
                demand := generalForce (p.acts.map actLever) (p.warm.getD 0 noThrusts) }

/-! ### Jobs issued -/

/-- Microseconds since F+6.0 of the frame in progress. -/
def State.solveUs (s : State) : Nat := (s.now - s.time.frameAt) / 1000 - 6000

/-- The units that the solve's next job runs on (R190, R204): on the fall-back path its one, else those that were ready as the window
opened. -/
def State.jobUnits (s : State) : List Nat :=
  match s.solv.fallUnit with
  | some u => [u]
  | none => s.solv.crew.filter fun u => s.unitState u == 1 || s.unitState u == 2

/-- The kind of a job (R190): 0 CHOL, 1 LDLT, 2 TRSM, 3 GEMM, 4 SCHED. -/
def State.kindOf (s : State) : JobNext → Nat
  | .none | .assemble => 3
  | .forward => 2
  | .schedule | .allocation _ => 4
  | .candidates | .candidateRetry _ => bit (!(Config.candidateMatrix (s.candidateProblem 0)).signs.isEmpty)
  | .stage k | .retry k => bit (!(Config.stageMatrix s.problemNow s.solv.point k s.solv.blocks s.solv.factors).signs.isEmpty)

/-- A job issued at an instant in µs from F+6.0 (R190, R191): its sequence counts on. A unit that is still ramping up takes it when it is
ready. -/
def State.issue (s : State) (job : JobNext) (atUs : Nat) : State :=
  let s : State := { s with solv := { s.solv with next := job, jobSeq := s.solv.jobSeq + 1 } }
  let seq : Sequencer := ⟨s.solv.jobSeq, s.kindOf job, 0⟩
  s.jobUnits.foldl (fun s u =>
    let s : State := { s with solv := { s.solv with desc := s.solv.desc.set u (some seq) } }
    if s.unitState u = 0 then s else s.startJob (s.frameClock + (6000 + atUs) * 1000) u) s

/-- No job of the solve runs. -/
def State.clearJobs (s : State) : State :=
  (List.range 4).foldl (fun s u => s.endUnit u) ({ s with solv := { s.solv with next := .none, held := [] } } : State)

/-! ### The end of a solve -/

/-- The iterations end at an instant in µs from F+6.0. -/
def State.solveEnd (s : State) (atUs : Nat) : State :=
  ({ s with solv := { s.solv with isOpen := false, ended := some atUs } } : State).clearJobs

/-- The iterations end early (R217): STALLED with an incumbent; without one the frame has no plan. -/
def State.solveStall (s : State) (atUs : Nat) : State :=
  (if s.solv.incumbent then s.solveBit svStalled else s).solveEnd atUs

/-- No candidate is feasible, or the iteration declares the constraints infeasible (R214). -/
def State.solveInfeasible (s : State) (limits : List (Nat × F64)) (atUs : Nat) : State :=
  let s := s.solveBit svInfeasible
  ({ s with solv := { s.solv with
      infeasible := true, best := none, group := worstGroup limits, worst := worstConstraint limits } } : State).solveEnd atUs

/-- The iterations end at an optimum (R196). -/
def State.solveOptimal (s : State) (atUs : Nat) : State := (s.solveBit svOptimal).solveEnd atUs

/-- The job that the fall-back path starts or goes on with: an iteration of schedule 0 or 1, or an allocation by schedule 2 where the
problem has no horizon (R204; log entry 99). -/
def State.fallJob (s : State) : JobNext :=
  if 20 ≤ s.solv.form then .schedule
  else match s.solv.next with
    | .allocation c => .allocation c
    | _ => .allocation 0

/-- The frame handed to the fall-back path on a unit (R199, R204), for a reason: 0 BREAKDOWN, 1 OVERFLOW, 2 REJECTED, 3 UNIT_FAULT,
4 UNITS_REDUCED. EV_SOLV_FALLBACK is sent in the first frame of a run. A unit without power is powered (log entry 99). -/
def State.fallBackOn (s : State) (unit : Option Nat) (reason atUs : Nat) : State :=
  let first := s.solv.fallReason.isNone && !s.solv.fallRun
  let job := s.fallJob
  let s := (s.clearJobs).solveBit svFallback
  let s : State := { s with solv := { s.solv with fallUnit := unit, fallReason := s.solv.fallReason.or (some reason) } }
  let s := if first then s.emit 0x50 (le 4 (s.rd F.timeFrameNumber) ++ le 1 reason) else s
  match unit with
  | some u => if s.solv.isOpen then (s.powerUnit u true).issue job atUs else s
  | none => s

/-- The frame handed over on the lowest-numbered healthy powered unit (R204). -/
def State.fallBack (s : State) (reason atUs : Nat) : State :=
  s.fallBackOn (s.healthyUnits.filter fun u => s.solv.powered.get u).head? reason atUs

/-- What a unit's fault does to the jobs in flight (R152, R204, R209): a re-run of the Collator is lost; during the solve the frame goes on
along the fall-back path on the lowest-numbered remaining healthy unit, or stops where none remains. -/
def State.lostUnit (s : State) (u atUs : Nat) : State :=
  let s := if s.coll.offload = .waiting then s.endOffload .lost else s
  if s.solv.isOpen = false ∨ (s.solv.fallUnit.isSome ∧ s.solv.fallUnit ≠ some u) then s
  else if s.healthyUnits.isEmpty then s.solveStall atUs
  else s.fallBackOn s.healthyUnits.head? 3 atUs

/-- A unit becomes FAULTED (R209), for a cause: 0 SCRATCH_ECC, 1 TEST, 2 SEQUENCER, 3 REJECTED. It is powered off. -/
def State.unitFault (s : State) (u cause atUs : Nat) : State :=
  let old := s.unitState u
  if old = 3 then s else
  let s := (s.wr (F.ctlUnitStatusState u) 3).emit 0x54 (le 1 u ++ le 1 old ++ le 1 3 ++ le 1 cause)
  (s.powerUnit u false).lostUnit u atUs

/-- A rejection counted against its unit (R193, R209): the third within 250 consecutive frames makes it FAULTED. -/
def State.countRejection (s : State) (u atUs : Nat) : State :=
  let now := s.totalFrames
  let kept := ((s.solv.rejects.get u).filter fun f => now < f + 250) ++ [now]
  let s := { s with solv := { s.solv with rejects := s.solv.rejects.set u kept } }
  let s := (s.wr (F.ctlUnitStatusRejections u) (min kept.length 3)).solveBit svRejected
  if 3 ≤ kept.length then s.unitFault u 3 atUs else s

/-! ### What a job comes to -/

/-- What a job returns (R190, R192): its kind, the matrices and factors of a CHOL or LDLT batch, the blocks of a GEMM or TRSM batch or the
solution of a schedule, the iterate with the residual of the Newton system, the steps run, the pivots replaced, and OVERFLOW,
INPUT_NONFINITE and TOO_LARGE. -/
structure JobOutcome where
  kind : Nat
  mats : List JobMatrix
  factors : List Factor
  blocks : List Block
  point : Point
  residual : F64
  steps : Nat
  replaced : Nat
  overflow : Bool
  nonfinite : Bool
  tooLarge : Bool
deriving Inhabited

/-- The words of a result, as they stand in scratch (R187, R192). -/
def JobOutcome.words (o : JobOutcome) : List F64 := (o.factors.flatMap fun f => f.cols.flatten) ++ o.blocks.flatMap fun b => b.flatten

/-- The status word of a result (R192; its layout is log entry 99's): BREAKDOWN, OVERFLOW, INPUT_NONFINITE, ABORTED, ECC_CORRECTED and
TOO_LARGE from bit 0 up, the member from bit 8 and the column from bit 16. -/
def JobStatus.word (x : JobStatus) : Nat :=
  let at_ := x.breakdown.getD (0, 0)
  bit x.breakdown.isSome + 2 * bit x.overflow + 4 * bit x.nonfinite + 8 * bit x.aborted + 16 * bit x.ecc + 32 * bit x.tooLarge +
    256 * (at_.1 % 256) + 65536 * (at_.2 % 256)

/-- The check code over result data and a status word (R192). -/
def jobCheck (words : List F64) (x : JobStatus) : W32 := Crypto.crc32c ((words.flatMap fun w => le 8 w.toNat) ++ le 4 x.word)

/-- A status with its check code. -/
def JobStatus.checked (x : JobStatus) (words : List F64) : JobStatus := { x with check := some (jobCheck words x) }

/-- A lane finds the check code of a result right, that reaches it with some bits changed (R193). -/
def checkHolds (words : List F64) (x : JobStatus) (err : W32) : Bool :=
  match x.check with
  | some c => c ^^^ err == jobCheck words x
  | none => false

/-- The outcome of a CHOL or LDLT batch (R190, R197). One that does not fit the units does not start. -/
def State.factorJob (s : State) (mats : List JobMatrix) (flaw : Option (Nat × Nat × Nat × F64)) : JobOutcome :=
  let kind := bit (mats.any fun a => !a.signs.isEmpty)
  if !batchFits s.jobUnits.length (mats.map matrixBytes) || !(mats.all fun a => blockSmall a.cols) then
    { (default : JobOutcome) with kind := kind, tooLarge := true } else
  let fs := mats.map (factorise (s.cfg F.ctlPivotTau) none)
  let fs := match flaw with
    | some (m, c, i, v) => fs.zipIdx.map fun f => if f.2 = m then spoilFactor f.1 c i v else f.1
    | none => fs
  { (default : JobOutcome) with kind := kind, mats := mats, factors := fs, overflow := fs.any (·.overflow),
                                nonfinite := fs.any (·.nonfinite) }

/-- The outcome of a GEMM batch (R190). -/
def State.gemmJob (s : State) (gs : List GemmJob) : JobOutcome :=
  if !batchFits s.jobUnits.length (gs.map gemmBytes) || !(gs.all fun g => blockSmall g.a && blockSmall g.b && blockSmall g.c) then
    { (default : JobOutcome) with kind := 3, tooLarge := true } else
  let xs := gs.map gemm
  { (default : JobOutcome) with kind := 3, blocks := xs.map (·.1), overflow := xs.any fun x => x.2.1, nonfinite := xs.any fun x => x.2.2 }

/-- The outcome of a TRSM batch (R190): each factor solved for its right-hand sides. -/
def State.trsmJob (s : State) (fs : List (Factor × Block)) : JobOutcome :=
  if !batchFits s.jobUnits.length (fs.map fun f => trsmBytes f.1 f.2) || !(fs.all fun f => blockSmall f.1.cols && blockSmall f.2) then
    { (default : JobOutcome) with kind := 2, tooLarge := true } else
  let xs := fs.map fun f => f.2.map (solveFactor f.1)
  { (default : JobOutcome) with kind := 2, blocks := xs.map fun b => b.map (·.1), overflow := xs.any fun b => b.any fun c => c.2.1,
                                nonfinite := xs.any fun b => b.any fun c => c.2.2 }

/-- The schedule of a problem form (R201). -/
def State.scheduleFor (s : State) (form : Nat) : Schedule :=
  (Config.schedules s.active.sec2.bytes.cells).getD (if form = 40 then 0 else if form = 20 then 1 else 2) default

/-- The outcome of a SCHED job (R202, R203). -/
def State.scheduleJob (s : State) (p : Problem) : JobOutcome :=
  let x := s.scheduleFor p.form
  let first := runSchedule (s.cfg F.ctlPivotTau) (s.cfg F.ctlFbDelta) x (Config.scheduleLoad x p s.solv.point)
  let run := refine x (Config.newtonResidual x p s.solv.point) (s.cfg F.ctlFbRefine) first
  let r := Config.scheduleRead x p s.solv.point run.sides
  { (default : JobOutcome) with
      kind := 4, blocks := [run.sides], point := r.1, residual := r.2, steps := (stepsOf x).length, replaced := run.replaced,
      overflow := run.overflow, nonfinite := run.nonfinite }

/-- The stage matrix of the iteration in progress (R194), regularised in a retry (R198). -/
def State.stageJob (s : State) (k : Nat) (again : Bool) : JobMatrix :=
  let a := Config.stageMatrix s.problemNow s.solv.point k s.solv.blocks s.solv.factors
  if again then regularise (s.cfg F.ctlRegDelta) a else a

/-- The matrices of some candidates (R195), regularised in a retry (R198). -/
def State.candidateJob (s : State) (cs : List Nat) (again : Bool) : List JobMatrix :=
  cs.map fun c =>
    let a := Config.candidateMatrix (s.candidateProblem c)
    if again then regularise (s.cfg F.ctlRegDelta) a else a

/-- The allocation of a candidate solved with its factor (R195). -/
def State.candidateSolution (s : State) (c : Nat) (f : Factor) : List F64 × Bool × Bool :=
  solveFactor f (Config.candidateSide (s.candidateProblem c))

/-- The outcome of a batch of candidates (R195): their factorisations, and the solves with those that did not break down. -/
def State.candidatesJob (s : State) (cs : List Nat) (again : Bool) (flaw : Option (Nat × Nat × Nat × F64)) : JobOutcome :=
  let o := s.factorJob (s.candidateJob cs again) flaw
  let xs := ((cs.zip o.factors).filter fun x => x.2.failed.isNone).map fun x => (s.candidateSolution x.1 x.2).2
  { o with overflow := o.overflow || xs.any (·.1), nonfinite := o.nonfinite || xs.any (·.2) }

/-- What the job in progress returns. -/
def State.runJob (s : State) (flaw : Option (Nat × Nat × Nat × F64)) : JobOutcome :=
  match s.solv.next with
  | .none => { (default : JobOutcome) with kind := 3 }
  | .candidates => s.candidatesJob (List.range (s.rd F.ctlCandidates)) false flaw
  | .candidateRetry cs => s.candidatesJob cs true flaw
  | .assemble => s.gemmJob (Config.assembly s.problemNow s.solv.point)
  | .stage k => s.factorJob [s.stageJob k false] flaw
  | .retry k => s.factorJob [s.stageJob k true] flaw
  | .forward =>
    let o := s.trsmJob (s.solv.factors.zip (Config.newtonSides s.problemNow s.solv.point s.solv.blocks s.solv.factors))
    { o with point := Config.advance s.problemNow s.solv.point o.blocks }
  | .schedule => s.scheduleJob s.problemNow
  | .allocation c => s.scheduleJob (s.candidateProblem c)

/-- The first failed pivot of a batch: its member and column (R192). -/
def firstBreakdown (fs : List Factor) : Option (Nat × Nat) :=
  match fs.zipIdx.find? fun f => f.1.failed.isSome with
  | some (f, m) => f.failed.map fun c => (m, c)
  | none => none

/-! ### Results accepted -/

/-- The frame's mode poses a problem (R218, R223). -/
def State.posing (s : State) : Bool := !([0, 5] : List Nat).contains (s.rd F.ctlMode)

/-- An iterate completed (R194, R196, R214): the incumbent, convergence, the iteration limit and infeasibility. -/
def State.iterate (s : State) (x : Point) (unit atUs : Nat) : State :=
  let p := s.problemNow
  let x := tidyPoint p x
  let limits := planLimits p x.plan
  let viol := violationOf limits
  let ok := withinTol (s.cfg F.ctlFeasTol) limits
  let better := match s.solv.best with
    | some b => Float.lt (planCost p x.plan) (planCost p b.1.plan)
    | none => true
  let n := s.solv.iter + 1
  let diverging := dualsLarge x && !Float.dlt viol s.solv.violation
  let s : State := { s with solv := { s.solv with
    iter := n, point := x, violation := viol, diverging := if diverging then s.solv.diverging + 1 else 0,
    best := if ok && better then some (x, unit) else s.solv.best } }
  if ok && converged (s.cfg F.ctlIpTol) p x then
    ({ s with solv := { s.solv with best := some (x, unit) } } : State).solveOptimal atUs
  else if 3 ≤ s.solv.diverging then s.solveInfeasible limits atUs
  else if s.cfg F.ctlIpMaxIter ≤ n then (if s.solv.incumbent then s.solveBit svIterLimit else s).solveEnd atUs
  else s.issue (if s.solv.fallUnit.isSome then .schedule else .assemble) atUs

/-- A candidate chosen, its sides in force for every stage (R195). -/
def State.chooseCandidate (s : State) (c : Nat) : State :=
  let sides := candidateSides s.solv.openSectors s.solv.sides c
  let p := { s.problemNow with sectors := s.sectorList sides }
  ({ s with solv := { s.solv with candidate := c, problem := some p } } : State).wr F.ctlSectorSide sides

/-- The thrusts of a candidate's allocation, with its constraints: none where its factorisation broke down (R195). -/
def State.candidateResult (s : State) (c : Nat) : Option (Thrusts × List (Nat × F64)) :=
  match s.solv.batch[c]? with
  | some f =>
    if f.failed.isSome then none
    else
      let p := s.candidateProblem c
      let x := tidyThrusts p (Config.candidateThrust p (s.candidateSolution c f).1)
      some (x, planLimits p [x])
  | none => none

/-- The best candidate (R195): feasible and of the lowest cost, of equal costs the lowest index. -/
def State.bestCandidate (s : State) : Option (Nat × Thrusts) :=
  (List.range (s.rd F.ctlCandidates)).foldl (fun best c =>
    match s.candidateResult c with
    | some (x, limits) =>
      if withinTol (s.cfg F.ctlFeasTol) limits then
        match best with
        | some b => if Float.lt (planCost (s.candidateProblem c) [x]) (planCost (s.candidateProblem b.1) [b.2]) then some (c, x) else best
        | none => some (c, x)
      else best
    | none => best) none

/-- The candidate batch is complete (R195, R214). In JOYSTICK it is the whole problem (R223). -/
def State.endBatch (s : State) (unit atUs : Nat) : State :=
  match s.bestCandidate with
  | none =>
    s.solveInfeasible ((List.range (s.rd F.ctlCandidates)).flatMap fun c => ((s.candidateResult c).map (·.2)).getD []) atUs
  | some (c, x) =>
    let s := s.chooseCandidate c
    if s.solv.form = 2 then
      ({ s with solv := { s.solv with iter := 1, best := some (⟨[x], []⟩, unit) } } : State).solveOptimal atUs
    else s.issue .assemble atUs

/-- The candidate batch returned (R195, R198): what broke down is regularised once. -/
def State.candidateBatch (s : State) (fs : List Factor) (unit atUs : Nat) : State :=
  let failed := (fs.zipIdx.filter fun f => f.1.failed.isSome).map (·.2)
  let s : State := { s with solv := { s.solv with batch := fs } }
  if failed.isEmpty then s.endBatch unit atUs else s.issue (.candidateRetry failed) atUs

/-- The regularised candidates returned (R195, R217): REGULARISED where one succeeds. -/
def State.candidatesAgain (s : State) (cs : List Nat) (fs : List Factor) (unit atUs : Nat) : State :=
  let batch := (cs.zip fs).foldl (fun b x => b.set x.1 x.2) s.solv.batch
  let s : State := if fs.any (·.failed.isNone) then s.solveBit svRegularised else s
  ({ s with solv := { s.solv with batch := batch } } : State).endBatch unit atUs

/-- A stage is factorised (R194): the recursion goes on to the stage before it, then to the forward pass. -/
def State.stageDone (s : State) (k : Nat) (f : Factor) (atUs : Nat) : State :=
  let s : State := { s with solv := { s.solv with factors := f :: s.solv.factors } }
  s.issue (if k = 0 then .forward else .stage (k - 1)) atUs

/-- A stage factorisation returned (R198, R199). -/
def State.stageReturned (s : State) (k : Nat) (again : Bool) (f : Factor) (atUs : Nat) : State :=
  if f.failed.isNone then (if again then s.solveBit svRegularised else s).stageDone k f atUs
  else if again ∨ s.solv.regUsed then s.fallBack 0 atUs
  else ({ s with solv := { s.solv with regUsed := true } } : State).issue (.retry k) atUs

/-- The relative residual of the Newton system is at most 2⁻³⁰ (R203). -/
def residualOk (x : F64) : Bool := Float.dfin x && !Float.lt (Float.scale2 (-30) (Float.ofInt 1)) (Float.magnitude (Float.n64 x))

/-- An allocation of the fall-back path returned (R203, R204): one candidate at a time; after the last the best is chosen. -/
def State.allocated (s : State) (c : Nat) (x : Point) (unit atUs : Nat) : State :=
  let p := s.candidateProblem c
  let x := tidyThrusts p (x.plan.getD 0 noThrusts)
  let limits := planLimits p [x]
  let better := match s.solv.best with
    | some b => Float.lt (planCost p [x]) (planCost p b.1.plan)
    | none => true
  let s : State := { s with solv := { s.solv with excess := s.solv.excess ++ limits } }
  let s := if withinTol (s.cfg F.ctlFeasTol) limits && better then
      ({ s with solv := { s.solv with best := some (⟨[x], []⟩, unit) } } : State).chooseCandidate c
    else s
  if c + 1 < s.rd F.ctlCandidates then s.issue (.allocation (c + 1)) atUs
  else if s.solv.incumbent then ({ s with solv := { s.solv with iter := 1 } } : State).solveOptimal atUs
  else s.solveInfeasible s.solv.excess atUs

/-- An accepted result on its path (R194 to R199, R203). -/
def State.acceptJob (s : State) (o : JobOutcome) (unit atUs : Nat) : State :=
  let f := o.factors.getD 0 default
  match s.solv.next with
  | .none => s
  | .candidates => s.candidateBatch o.factors unit atUs
  | .candidateRetry cs => s.candidatesAgain cs o.factors unit atUs
  | .assemble =>
    ({ s with solv := { s.solv with blocks := o.blocks, factors := [] } } : State).issue (.stage (s.problemNow.stages.length - 1)) atUs
  | .stage k => s.stageReturned k false f atUs
  | .retry k => s.stageReturned k true f atUs
  | .forward => s.iterate o.point unit atUs
  | .schedule =>
    if residualOk o.residual then s.iterate o.point unit atUs else s.solveStall atUs
  | .allocation c =>
    if residualOk o.residual then s.allocated c o.point unit atUs else s.solveStall atUs

/-- A result that is absent (R193, R199, R200): the frame goes on along the fall-back path, there with the same job again; an OVERFLOW on
the fall-back path ends it. -/
def State.lostJob (s : State) (overflow : Bool) (atUs : Nat) : State :=
  if s.solv.isOpen = false then s
  else if s.solv.fallUnit.isSome then (if overflow then s.solveStall atUs else s.issue s.solv.next atUs)
  else s.fallBack (if overflow then 1 else 2) atUs

/-! ### SOLVER_JOB_COMPLETE -/

/-- OVERFLOW and INPUT_NONFINITE of a job kept in the sticky register (R188, R200, R218); a kind that no rule gives is free. -/
def State.noteOverflow (s : State) (u : Nat) (kind : Option Nat) (overflow nonfinite : Bool) : State :=
  if overflow = false ∧ nonfinite = false then s else
  let was := s.flag F.ctlSolverStickyOverflow
  let s := (s.wrFlag F.ctlSolverStickyOverflow true).solveBit svOverflow
  let s := if s.posing then s.inc F.ctlCountOverflow else s
  let s := if nonfinite then s.wrFlag F.ctlSolverStickyInputNonfinite true else s
  if was then s else
  s.emit 0x51 (le 1 u ++ (match kind with
    | some k => le 1 k
    | none => s.noValue 0x51) ++ le 1 (bit nonfinite))

/-- A result names the job and the frame that the lanes issued (R193). -/
def State.namesJob (s : State) (r : JobResult) : Bool := r.job == s.solv.jobSeq && r.frame.toNat == s.rd F.timeFrameNumber

/-- What both lanes find of the column of a CHOL or LDLT job that they check (R16, R193). -/
def State.columnGood (s : State) (o : JobOutcome) : Bool :=
  batchHolds (s.rd F.laneCatchword) s.solv.jobSeq o.mats o.factors

/-- A result with its status and check code held, the sequencer at the end of its job, and the scratch with its words (R187, R192, R203):
every pivot that a schedule replaced is counted. -/
def State.holdResult (s : State) (u : Nat) (o : JobOutcome) (ecc : Bool) : State :=
  let status : JobStatus := ⟨firstBreakdown o.factors, o.overflow || o.nonfinite, o.nonfinite, false, ecc, o.tooLarge, none⟩
  let s := s.add F.ctlFbPerturbed o.replaced
  { s with solv := { s.solv with
      last := status.checked o.words, scratch := s.solv.scratch.set u ((o.mats.flatMap fun a => a.cols.flatten) ++ o.words),
      desc := s.solv.desc.set u ((s.solv.desc.get u).map fun d => { d with step := o.steps }) } }

/-- What a lane finds of a result (R193): its check code as the lane received it, its name, and `good`, what both lanes compute. -/
def State.laneRejects (s : State) (r : JobResult) (words : List F64) (err : W32) (good : Bool) : Bool :=
  !checkHolds words s.solv.last err || !s.namesJob r || !good

/-- A result of the solve's job (R191 to R200, R203, R204, R209). A difference of descriptors is a lane disagreement and counts as a
rejected result. -/
def State.solveJob (s : State) (r : JobResult) : State :=
  let u := r.unit.val
  let atUs := r.atUs - 6000
  if r.descDiffer ∧ s.twoLanes then
    let s := (s.noteVerdicts false true).countRejection u atUs
    if s.solv.next = .none then s else s.lostJob false atUs
  else
    let o := s.runJob r.flaw
    let s := (s.noteOverflow u (some o.kind) o.overflow o.nonfinite).holdResult u o r.ecc
    if o.overflow || o.nonfinite then s.lostJob true atUs
    else if o.tooLarge then s.solveStall atUs
    else
      let duty := s.laneRejects r o.words r.errDuty (s.columnGood o)
      let partner := s.laneRejects r o.words r.errPartner (s.columnGood o)
      let s := s.noteVerdicts duty partner
      if s.rejectedBy duty partner then
        let job := s.solv.next
        let s := s.countRejection u atUs
        if s.solv.isOpen && s.solv.next == job then s.lostJob false atUs else s
      else s.acceptJob o u atUs

/-- The words of a filter, which a re-run on the units loads and writes. -/
def filterWords (f : Filter) : List F64 := f.nominal ++ f.err ++ f.factor

/-- OVERFLOW and INPUT_NONFINITE of a re-run on the units (R152, R188): of what they write and of what they load. -/
def State.rerunFlags (s : State) (late : List LedgerEntry) : Bool × Bool :=
  let bad := s.coll.stored.any fun k => (filterWords k.filter).any fun x => (unitLoad x).2
  let x := s.rerun late
  (bad || (x.filter :: x.stored.map (·.filter)).any fun f => (unitWrites (filterWords f)).2, bad)

/-- The result of the Collator's re-run (R152, R191, R193, R215): it is used only if it was checked. -/
def State.offloadJob (s : State) (r : JobResult) : State :=
  let u := r.unit.val
  if r.descDiffer ∧ s.twoLanes then ((s.noteVerdicts false true).countRejection u 0).endOffload .lost
  else
    let late := (s.coll.work.map (·.late)).getD []
    let flags := s.rerunFlags late
    let words := filterWords (s.rerun late).filter
    let status : JobStatus := ⟨none, flags.1 || flags.2, flags.2, false, r.ecc, false, none⟩
    let s := s.noteOverflow u none flags.1 flags.2
    let s : State := { s with solv := { s.solv with last := status.checked words, scratch := s.solv.scratch.set u words } }
    if flags.1 || flags.2 then s.endOffload .lost
    else
      let duty := s.laneRejects r words r.errDuty true
      let partner := s.laneRejects r words r.errPartner true
      let s := s.noteVerdicts duty partner
      if s.rejectedBy duty partner then (s.countRejection u 0).endOffload .lost
      else s.endOffload .done

/-- A job of a unit can return at an instant of the tick in progress (R152, R190, R215): an offload before F+6.0, else the solve's. -/
def State.jobDue (s : State) (r : JobResult) : Bool :=
  let at_ := s.time.frameAt + r.atUs * 1000
  let from_ := s.solv.jobFrom.get r.unit.val
  s.ready && decide (s.now ≤ at_) && decide (at_ < s.now + nsTick) && s.unitState r.unit.val == 2 &&
  (match from_ with
  | some t => decide (t ≤ s.frameClock + r.atUs * 1000)
  | none => false) &&
  ((s.coll.offload == .waiting && decide (r.atUs < 6000)) || (s.solv.isOpen && s.solv.next != .none && s.jobUnits.contains r.unit.val))

/-- A completed job taken. -/
def State.takeJob (s : State) (r : JobResult) : State :=
  if s.coll.offload = .waiting then s.offloadJob r else if s.solv.isOpen then s.solveJob r else s

/-- SOLVER_JOB_COMPLETE (R190 to R200, R203, R204, R209): while Rapid Check runs, the result is held (R216), and so is one whose transfer failed (R15). -/
def execSolverJobComplete (r : JobResult) (s : State) : Host.Outcome State Fault Refusal :=
  act (fun s =>
    if s.jobDue r = false then s
    else if s.lane.rapid ∨ s.isWithheld (.result r.unit) then { s with solv := { s.solv with held := s.solv.held ++ [r] } }
    else s.takeJob r) s

/-- An offload job still running at F+6.0 is aborted within 2 µs and returns ABORTED (R215): the Collator has no re-run. -/
def State.abortOffload (s : State) : State :=
  if s.coll.offload = .waiting then
    let status : JobStatus := ⟨none, false, false, true, false, false, none⟩
    ({ s with solv := { s.solv with last := status.checked [], held := [] } } : State).endOffload .lost
  else s

/-- The results that an arbitration held are taken once it has ended (R216), and those whose transfer failed at the tick boundary after
(R15): they are there from that instant. -/
def State.releaseHeld (s : State) : State :=
  if s.lane.rapid then s else
  let stays (r : JobResult) : Bool := s.isWithheld (.result r.unit)
  let us := (s.now - s.time.frameAt) / 1000
  (s.solv.held.filter fun r => !stays r).foldl (fun s r => s.takeJob { r with atUs := max r.atUs us })
    { s with solv := { s.solv with held := s.solv.held.filter stays } }

/-- SOLVER_JOB_TIMEOUT: a sequencer that does not report completion of a job within 4 ms makes its unit FAULTED (R209). -/
def execSolverJobTimeout (u : Fin 4) (s : State) : Host.Outcome State Fault Refusal :=
  act (fun s =>
    match s.solv.jobFrom.get u.val with
    | some t => if s.ready ∧ 4 * nsMs ≤ s.since t then s.unitFault u.val 2 s.solveUs else s
    | none => s) s

/-- UNIT_TEST_JOB: each powered unit, once between the deadline and the next frame instant (R208). -/
def execUnitTestJob (u : Fin 4) (sigOk : Bool) (s : State) : Host.Outcome State Fault Refusal :=
  act (fun s =>
    if s.ready = false ∨ s.time.tickDue < s.deadline ∨ s.solv.powered.get u.val = false ∨ s.solv.tested.get u.val ∨
        (s.unitState u.val ≠ 1 ∧ s.unitState u.val ≠ 2) ∨ s.solv.isOpen then s
    else
      let s := ({ s with solv := { s.solv with tested := s.solv.tested.set u.val true } } : State).endUnit u.val
      if sigOk then s else s.unitFault u.val 1 s.solveUs) s

/-- The TEST jobs that the powered units start at the deadline (R208). -/
def State.startTests (s : State) : State :=
  (List.range 4).foldl (fun s u =>
    if s.solv.powered.get u ∧ s.unitState u = 1 ∧ s.solv.tested.get u = false then s.startJob s.clock u else s) s

/-- The job in progress aborted by the deadline (R211, R216): OVERFLOW counts where the job had set it before. -/
def State.abortJob (s : State) (reached : Bool) : State :=
  let o := s.runJob none
  let s := s.noteOverflow (s.jobUnits.headD 0) (some o.kind) (reached && o.overflow) (reached && o.nonfinite)
  let status : JobStatus := ⟨none, reached && (o.overflow || o.nonfinite), reached && o.nonfinite, true, false, false, none⟩
  ({ s with solv := { s.solv with last := status.checked [] } } : State).solveBit svAborted

/-- The solve cut off by the deadline (R210, R211): `inJob` when it comes during a job of an iteration, with whether the job had come to
what sets OVERFLOW. -/
def State.cutSolve (s : State) (inJob : Option Bool) : State :=
  let s := match inJob with
    | some reached => s.abortJob reached
    | none => s
  let s := if s.solv.incumbent then s.solveBit svTruncated else s
  ({ s with solv := { s.solv with isOpen := false, ended := none } } : State).clearJobs

/-- SOLVE_DEADLINE: no new iteration starts, jobs abort, and the incumbent is returned as TRUNCATED; the TEST jobs start (R208, R210,
R211). -/
def execSolveDeadline (inJob : Option Bool) (s : State) : Host.Outcome State Fault Refusal :=
  act (fun s =>
    if s.atTick s.deadline = false then s else (if s.solv.isOpen then s.cutSolve inJob else s).startTests) s

/-! ### The window and the outcome -/

/-- The problem of the frame (R205, R206, R223). -/
def State.solveForm (s : State) (joystick : Bool) : Nat :=
  let h := s.healthyUnits.length
  if h = 0 then 0
  else if 2 ≤ s.budget ∨ h = 1 then 1
  else if joystick then 2
  else if s.budget = 0 ∧ 3 ≤ h then 40 else 20

/-- The frame's solve set up afresh for a problem (R194, R205, R206): iterate 0 is its warm plan, and the incumbent where it is feasible. The
bits that an offload of the frame has set stand (R217). -/
def State.freshSolve (s : State) (p : Option Problem) (cold : Bool) (opens : List Nat) (sides : Nat) : State :=
  let reduced := decide (s.healthyUnits.length < s.unitsAsked)
  let form : Nat := (p.map (·.form)).getD 0
  let x : Point := ⟨(p.map (·.warm)).getD [], []⟩
  let limits := match p with
    | some q => planLimits q x.plan
    | none => []
  let ok := decide (20 ≤ form) && withinTol (s.cfg F.ctlFeasTol) limits
  { s with solv := { s.solv with
    posed := p.isSome, isOpen := decide (0 < form), openedAt := s.clock, form := form,
    status := if p.isSome then s.solv.status + 1024 * bit reduced + 4096 * bit cold else s.solv.status, iter := 0, candidate := 31,
    problem := p, point := x, best := if ok then some (x, 4) else none, next := .none, blocks := [],
    factors := [], batch := [], excess := [],
    crew := (List.range 4).filter fun u => s.unitState u == 1, violation := violationOf limits, held := [], regUsed := false,
    fallUnit := none, openSectors := opens, sides := sides, diverging := 0, ended := none, infeasible := false, group := 0, worst := 0,
    fallReason := none } }

/-- The allocation-only problem runs on the fall-back path (R204): for want of units in Full and Trim, else by its budget
state. -/
def State.startAllocation (s : State) : State :=
  if s.budget ≤ 1 then s.fallBack 4 0 else
  (({ s with solv := { s.solv with fallUnit := s.healthyUnits.head? } } : State).solveBit svFallback).issue (.allocation 0) 0

/-- The solve window opened at F+6.0 for a problem (R194, R204 to R206): the sectors that stay open, in rising order, and the sides of
the others. -/
def State.openSolve (s : State) (p : Option Problem) (cold : Bool) (opens : List Nat) (sides : Nat) : State :=
  let s := s.freshSolve p cold opens sides
  match p with
  | none => (s.wr F.ctlHorizon 0).wr F.ctlCandidates 0
  | some q =>
    let s := (s.wr F.ctlHorizon (if q.form = 2 then 1 else q.form)).wr F.ctlCandidates (2 ^ opens.length)
    let s := s.wr F.ctlSectorSide sides
    if q.form = 0 then s else if q.form = 1 then s.startAllocation else s.issue .candidates 0

/-- A count of R221 increased for a status bit. -/
def State.countBit (s : State) (b : Nat) (f : Fld) : State := if s.hasSolveBit b then s.inc f else s

/-- The bin of a solve time in µs (R220). -/
def solveBin (ready : Option Nat) : Nat :=
  match ready with
  | some t => min (t / 500) 19
  | none => 20

/-- The outcome of a frame without a problem (R218). -/
def State.solveNone (s : State) : State :=
  let d := if s.degraded then 2048 else 0
  let s := (((s.wr F.ctlSolveStatus d).wr F.ctlSolveTime 0).wr F.ctlSolveIterIterations 0).wr F.ctlSolveIterCandidate 31
  let s := s.wr F.ctlStaleRun 0
  { s with solv := { s.solv with notStale := s.solv.notStale + 1, fallRun := false } }

/-- The frame's final result checked by each lane (R16, R193, R217): every hard constraint of its first stage. `badDuty` and `badPartner`
are where a lane finds otherwise than the arithmetic. A result that either rejects is withdrawn. -/
def State.withdrawFinal (s : State) (badDuty badPartner : Bool) : State :=
  match s.solv.best with
  | some (x, unit) =>
    let bad := !firstStageHolds (s.cfg F.ctlFeasTol) s.problemNow x.plan
    let s := s.noteVerdicts (badDuty || bad) (badPartner || bad)
    if s.rejectedBy (badDuty || bad) (badPartner || bad) then
      let s : State := { s with solv := { s.solv with best := none } }
      if unit < 4 then s.countRejection unit s.solveUs else s.solveBit svRejected
    else s
  | none => s

/-- The frame has a plan: an incumbent of a feasible problem (R193, R212). -/
def State.hasPlan (s : State) : Bool := s.solv.incumbent && !s.solv.infeasible

/-- Without a plan the frame is STALE and nothing else (R212). -/
def State.markStale (s : State) (plan : Bool) : State :=
  if plan then s else ({ s with solv := { s.solv with status := clearOutcome s.solv.status } } : State).solveBit svStale

/-- The counts of the outcomes (R221). -/
def State.countOutcome (s : State) : State :=
  ((((s.countBit svTruncated F.ctlCountTruncated).countBit svStale F.ctlCountStale).countBit svRegularised
    F.ctlCountRegularised).countBit svFallback F.ctlCountFallback).countBit svInfeasible F.ctlCountInfeasible

/-- The registers of a solve: its time, status, iterations, the statistics of its budget state and the stale run (R213, R218,
R220). -/
def State.showSolve (s : State) (plan : Bool) : State :=
  let ready := if plan then s.solv.ended else none
  let time := match ready with
    | some t => min t 10000
    | none => 16383
  let s := (s.wr F.ctlSolveTime time).wr F.ctlSolveStatus (s.solv.status + if s.degraded then 2048 else 0)
  let s := (s.wr F.ctlSolveIterIterations s.solv.iter).wr F.ctlSolveIterCandidate s.solv.candidate
  let s := s.wr (F.ctlSolveTimeMax s.budget) (max time (s.rd (F.ctlSolveTimeMax s.budget)))
  let s := s.inc (F.ctlSolveHist s.budget (solveBin ready))
  if plan then s.wr F.ctlStaleRun 0 else s.inc F.ctlStaleRun

/-- EV_INFEASIBLE: at the first frame of a run of infeasible problems, and at the first plan after it (R214). -/
def State.tellInfeasible (s : State) (plan : Bool) : State :=
  if s.solv.infeasible then
    let s := s.wr F.ctlInfeasibleGroup s.solv.group
    if s.solv.infeasRun then s else s.emit 0x52 (le 1 s.solv.group ++ le 2 s.solv.worst ++ le 1 0)
  else if s.solv.infeasRun ∧ plan then s.emit 0x52 (le 1 (s.rd F.ctlInfeasibleGroup) ++ le 2 s.solv.worst ++ le 1 1)
  else s

/-- The runs that the frame's solve ends or goes on with (R193, R204, R214). -/
def State.closeSolve (s : State) (plan : Bool) : State :=
  { s with solv := { s.solv with
      infeasRun := s.solv.infeasible || (s.solv.infeasRun && !plan), fallRun := s.solv.fallReason.isSome,
      notStale := if plan then s.solv.notStale + 1 else 0, isOpen := false } }

/-- The plan that the frame leaves (R194, R212): its result, or the previous plan shifted forward by one frame. -/
def State.keepPlan (s : State) (plan : Bool) : State :=
  { s with ctl := { s.ctl with
      plan := match plan, s.solv.best with
        | true, some b => some ⟨b.1.plan, 0⟩
        | _, _ => s.ctl.plan.map shiftPlan } }

/-- The outcome of the frame's solve (R193, R212, R214, R217, R220): a final result rejected by the lanes, no incumbent and
INFEASIBLE leave the frame STALE. -/
def State.solveOutcome (s : State) (badDuty badPartner : Bool) : State :=
  if s.solv.posed = false then s.solveNone else
  let s := s.withdrawFinal badDuty badPartner
  let plan := s.hasPlan
  (((((s.markStale plan).countOutcome.showSolve plan).tellInfeasible plan)).closeSolve plan).keepPlan plan

/-- CONTROL_DEGRADED_COUNT: set at the third consecutive STALE frame, cleared after ctl.degraded_clear frames that are not
(R213). -/
def execControlDegradedCount (s : State) : Host.Outcome State Fault Refusal :=
  act (fun s =>
    let st := s.rd F.ctlSolveStatus
    let run := s.rd F.ctlStaleRun
    if s.degraded = false ∧ 3 ≤ run then
      ((s.wr F.ctlSolveStatus (putBit st svDegraded true)).inc F.ctlCountDegraded).emit 0x53 (le 1 0 ++ le 4 run)
    else if s.degraded ∧ s.cfg F.ctlDegradedClear ≤ s.solv.notStale then
      (s.wr F.ctlSolveStatus (putBit st svDegraded false)).emit 0x53 (le 1 1 ++ le 4 run)
    else s) s

/-- CMD_SOLVER_STATS_CLEAR: the statistics are cleared at the next frame instant (R222). -/
def execCmdSolverStatsClear (h : Hdr) (s : State) : Host.Outcome State Fault Refusal :=
  act (fun s => s.command h 0x5001 [] fun s =>
    ({ s with solv := { s.solv with clearStats := true } } : State).reply Res.ok) s

/-- The statistics of R220 cleared. -/
def State.clearStats (s : State) : State :=
  let s := (List.range 4).foldl (fun s b =>
    (List.range 21).foldl (fun s k => s.wr (F.ctlSolveHist b k) 0) (s.wr (F.ctlSolveTimeMax b) 0)) s
  { s with solv := { s.solv with clearStats := false } }

/-- The Solver Cluster at a frame instant (R205 to R209, R217, R222). -/
def State.solverFrame (s : State) : State :=
  let s := if s.solv.clearStats then s.clearStats else s
  let s := { s with solv := { s.solv with tested := (Store.empty : Flags), isOpen := false, posed := false, status := 0, next := .none } }
  let s := (List.range 4).foldl (fun s u =>
    let kept := (s.solv.rejects.get u).filter fun f => s.totalFrames < f + 250
    ({ s with solv := { s.solv with rejects := s.solv.rejects.set u kept } } : State).wr (F.ctlUnitStatusRejections u)
      (min kept.length 3)) s
  s.powerUnits

end Sys2Proof.Machine
end

