-- ==== Sys2Proof/Machine/Control.lean ====
section
/-! DEFINITION. Vessel control and thrust allocation: thrust and setpoints, modes, requests, the reference and the controller at a
frame instant (R223 to R229, R242, R243, R246, R257). -/

namespace Sys2Proof.Machine

/-! ### Thrust and setpoints (R246) -/

/-- The thrust-efficiency factor of an actuator in 0.0001 (R162, R236). -/
def State.eta (s : State) (i : Nat) : Nat := s.rd (F.collAdaptFactor i)

/-- The setpoint that the magnitude of a thrust makes, in rpm, or in 0.01 % of pitch (R246). -/
def State.setpointOf (s : State) (i : Nat) (size : F64) : F64 :=
  let ref := s.eta i * s.cfg (F.ctlActFref i)
  if ref = 0 then Config.noReference i size
  else Float.dmul (Float.dint (s.cfg (F.ctlActSref i))) (Float.dsqrt (Float.dscale size 100000 ref))

/-- The magnitude of the thrust that a setpoint makes: the inverse (R253). -/
def State.sizeOf (s : State) (i : Nat) (sp : F64) : F64 :=
  let sref := s.cfg (F.ctlActSref i)
  if sref = 0 then Config.noReference i sp
  else Float.dscale (Float.r64 (square (Float.n64 sp))) (s.eta i * s.cfg (F.ctlActFref i)) (100000 * sref ^ 2)

/-- A number with the sign of another. -/
def signedAs (sign x : F64) : F64 := if Float.dlt sign 0 then Float.r64 (Float.neg (Float.n64 x)) else x

/-- The setpoint of an entry in the unit of its reference: the shaft speed, or the pitch in 0.01 % (R246). -/
def State.entrySetpoint (s : State) (i : Nat) (x : SpOut) : F64 :=
  if s.cfg (F.ctlActMap i) = 1 then Float.dscale (Float.widen x.pitch) 100 1 else Float.widen x.speed

/-- The rudder gain of an actuator, per rad. -/
def State.rudderGain (s : State) (i : Nat) : F64 := Float.dratio (s.cfg (F.ctlActRudderGain i)) 1000

/-- The effective thrust of an entry, by inverting R246 (R253). -/
def State.entryThrust (s : State) (i : Nat) (x : SpOut) : F64 × F64 :=
  let sp := s.entrySetpoint i x
  let size := s.sizeOf i sp
  match s.cfg (F.ctlActType i) with
  | 1 =>
    let (sn, cs) := Fixed.sinCos (Fixed.of32 x.angle)
    (Float.dmul size (Fixed.to64 cs), Float.dmul size (Fixed.to64 sn))
  | 2 => (0, signedAs sp size)
  | 3 => (signedAs sp size, 0)
  | 4 =>
    let fx := signedAs sp size
    (fx, Float.dmul (Float.dmul (s.rudderGain i) (Fixed.to64 (Fixed.radians (Fixed.of32 x.angle)))) fx)
  | _ => (0, 0)

/-- The thrusts of a setpoint record. -/
def State.recordThrusts (s : State) (r : SpRecord) : Thrusts :=
  (List.range 32).map fun i => s.entryThrust i (r.entries.getD i SpOut.zero)

/-- The thrusts in force: of the record published last, none before the first (R226, R240). -/
def State.applied (s : State) : Thrusts :=
  match s.ctl.published with
  | some r => s.recordThrusts r
  | none => noThrusts

/-- The low-frequency part of the estimate of the frame; without an estimate of the prediction (R144, R147, R250). -/
def State.lowNow (s : State) : LowFreq :=
  if s.coll.estPresent then s.coll.low
  else match s.coll.unrevised with
    | f :: _ => Config.lowFrequency (calm f)
    | [] => s.coll.low

/-! ### Modes and setpoints -/

/-- The mode in force (R223): 0 IDLE, 1 STATION_KEEPING, 2 LOW_SPEED_TRACK, 3 HEADING_ONLY, 4 JOYSTICK, 5 MANUAL,
6 DRIFT_LIMITING. -/
def State.mode (s : State) : Nat := s.rd F.ctlMode

/-- The modes whose problem is MPC (R223). -/
def mpcMode (m : Nat) : Bool := m == 1 || m == 2 || m == 3 || m == 6

/-- The causes of EV_CTL_MODE (R257). -/
abbrev modeRequest : Nat := 0
/-- R257. -/
abbrev modeRefused : Nat := 1
/-- R257. -/
abbrev modeDriftEntry : Nat := 2
/-- R257. -/
abbrev modeDriftExit : Nat := 3
/-- R257. -/
abbrev modeTrackEnd : Nat := 4
/-- The causes of EV_CTL_SETPOINT (R257). -/
abbrev spCommand : Nat := 0
/-- R257. -/
abbrev spCapture : Nat := 1
/-- R257. -/
abbrev spDriftExit : Nat := 2
/-- R257. -/
abbrev spTrackEnd : Nat := 3

/-- The plan as a mode is entered (R226): IDLE and MANUAL have none; an MPC mode entered from a mode without a plan starts from the thrust
applied in the last frame, held over the horizon. JOYSTICK plans one frame and no horizon (log entry 99). -/
def State.entryPlan (s : State) (old new : Nat) : Option Plan :=
  if new = 0 ∨ new = 5 then none
  else if mpcMode new ∧ (old = 4 ∨ (mpcMode old = false ∧ s.ctl.plan.isNone)) then some ⟨[s.applied], 0⟩
  else s.ctl.plan

/-- The mode changed: EV_CTL_MODE with its cause. Only STATION_KEEPING and LOW_SPEED_TRACK move a reference (R227). -/
def State.setMode (s : State) (new cause : Nat) : State :=
  let old := s.mode
  let s : State := { s with ctl := { s.ctl with plan := s.entryPlan old new } }
  let s := if new = 1 ∨ new = 2 then s
    else ({ s with ctl := { s.ctl with legs := [], moved := 0 } } : State).wr F.ctlStatusSetpointMoving 0
  (s.wr F.ctlMode new).emit 0x55 (le 1 old ++ le 1 new ++ le 1 cause)

/-- A heading in units of 0.01°, 0 to 35,999. -/
def headingUnits (h : F32) : Nat := Float.floorOf (Float.n32 (Float.reduce false h)) 100 1 % 36000

/-- The position of the setpoint in force. -/
def State.spPosition (s : State) : F64 × F64 := (BitVec.ofNat 64 (s.rd F.ctlSpLat), BitVec.ofNat 64 (s.rd F.ctlSpLon))

/-- A setpoint set other than by a move, with the distance from the previous one in the tangent plane there (R257; log entry 40). -/
def State.setSetpoint (s : State) (lat lon : F64) (heading : F32) (cause : Nat) : State :=
  let old := s.spPosition
  let d : F32 := Fixed.to32 (Fixed.distance old.1 old.2 lat lon)
  let s := ((s.wr F.ctlSpLat lat.toNat).wr F.ctlSpLon lon.toNat).wr F.ctlSpHeading (headingUnits heading)
  let s := { s with ctl := { s.ctl with heading := heading } }
  s.emit 0x56 (le 8 lat.toNat ++ le 8 lon.toNat ++ le 4 heading.toNat ++ le 1 cause ++ le 4 d.toNat)

/-- The low-frequency position and heading of the last estimate (R144, R226). -/
def State.estimated (s : State) : F64 × F64 × F32 := (s.lowNow.lat, s.lowNow.lon, s.lowNow.heading)

/-! ### The reference (R227) -/

/-- A point of the reference at rest. -/
def restRef (lat lon : F64) (heading : F32) : Ref := ⟨lat, lon, heading, [0, 0, 0], [0, 0, 0]⟩

/-- The reference some ns along its moves, at rest at the target after the last. -/
def refAlong : List Move → Nat → Option Ref
  | [], _ => none
  | m :: rest, t =>
    if t < moveTime m then some (reference m t)
    else if rest.isEmpty then some (restRef m.lat m.lon m.heading)
    else refAlong rest (t - moveTime m)

/-- How long the moves of the reference take in ns. -/
def legsTime (legs : List Move) : Nat := (legs.map moveTime).foldl (· + ·) 0

/-- The reference some ns after the frame instant: along its moves, else at rest at the setpoint. -/
def State.refAt (s : State) (t : Nat) : Ref :=
  (refAlong s.ctl.legs (s.ctl.moved + t)).getD (restRef s.spPosition.1 s.spPosition.2 s.ctl.heading)

/-- The limits of a move of the reference. -/
def State.moveLimits (s : State) : List Nat := [s.cfg F.ctlMoveSpeed, s.cfg F.ctlMoveAccel, s.cfg F.ctlTurnRate]

/-- The moves of a reference from a point through waypoints, each from where the one before it ends. The move to a waypoint runs at the
leg speed of that waypoint (log entry 99). -/
def moveChain (limits : List Nat) : Ref → List (F64 × F64 × F32 × Option F32) → List Move
  | _, [] => []
  | from_, (lat, lon, h, leg) :: rest =>
    let m : Move := ⟨from_, lat, lon, h, limits, leg⟩
    m :: moveChain limits (reference m (moveTime m)) rest

/-- The reference sets out from a point through waypoints. -/
def State.setOut (s : State) (from_ : Ref) (ws : List (F64 × F64 × F32 × Option F32)) : State :=
  ({ s with ctl := { s.ctl with legs := moveChain s.moveLimits from_ ws, moved := 0 } } : State).wr F.ctlStatusSetpointMoving 1

/-- The reference at rest at the setpoint. -/
def State.settle (s : State) : State :=
  ({ s with ctl := { s.ctl with legs := [], moved := 0 } } : State).wr F.ctlStatusSetpointMoving 0

/-- The setpoint captured at the estimate (R226, R229). -/
def State.capture (s : State) (cause : Nat) : State :=
  let (lat, lon, h) := s.estimated
  s.setSetpoint lat lon h cause

/-- Drift-limiting mode is in force (R176). -/
def State.driftFlag (s : State) : Bool := s.flag F.collVoteStateDriftLimiting

/-- SPLIT_TIMEOUT: a split that has lasted coll.vote_split_timeout enters SPLIT_TIMED_OUT, and with it drift-limiting mode
(R176, R229). -/
def execSplitTimeout (g : VGroup) (s : State) : Host.Outcome State Fault Refusal :=
  act (fun s =>
    if s.splitTimeoutDue (vgroup g) then
      let s := s.splitTimedOut (vgroup g)
      if s.mode = 1 ∨ s.mode = 2 then s.setMode 6 modeDriftEntry else s
    else s) s

/-! ### Requests -/

/-- Why a mode request is refused (R226, R494): 0 INITIALISING, 1 no track, 2 no manual setpoints, 3 the device state,
4 not requestable; none where it is accepted. -/
def State.modeRefusal (s : State) (m : Nat) : Option Nat :=
  if 6 ≤ m then some 4
  else if (s.devState = 1 ∨ s.devState = 3) ∧ (m = 0 ∨ m = 4 ∨ m = 5) = false then some 3
  else if s.devState = 4 ∧ (m = 0 ∨ m = 5) = false then some 3
  else if (m = 1 ∨ m = 2 ∨ m = 3) ∧ s.coll.initialising then some 0
  else if m = 2 ∧ s.ctl.track.isEmpty then some 1
  else if m = 5 ∧ s.ctl.manual.cells.isEmpty then some 2
  else none

/-- An accepted STATION_KEEPING, LOW_SPEED_TRACK or HEADING_ONLY ends lay-up at the next frame instant (R99). -/
def State.wakeForMode (s : State) (m : Nat) : State :=
  if s.gnss.layup ∧ (m = 1 ∨ m = 2 ∨ m = 3) then { s with gnss := { s.gnss with wakeReq := some 2 } } else s

/-- Where a reference sets out from as a mode is entered (R227): the current reference where the mode before has one, else the estimated
position and heading at rest. -/
def State.entryRef (s : State) : Ref :=
  if s.mode = 1 ∨ s.mode = 2 then s.refAt 0 else restRef s.estimated.1 s.estimated.2.1 s.estimated.2.2

/-- The reference of a mode entered (R226, R227): a track from the current position, a supplied setpoint from the current reference. -/
def State.beginReference (s : State) (new : Nat) (from_ : Ref) (sp : Option (F64 × F64 × F32)) : State :=
  match new, sp with
  | 2, _ => s.setOut (restRef s.estimated.1 s.estimated.2.1 s.estimated.2.2)
      (s.ctl.track.map fun w => (w.1, w.2.1, w.2.2.1, some w.2.2.2))
  | 1, some (lat, lon, h) => s.setOut from_ [(lat, lon, h, none)]
  | _, _ => s.settle

/-- A mode entered on request, with the supplied setpoint if there is one (R226). -/
def State.enterMode (s : State) (m : Nat) (sp : Option (F64 × F64 × F32)) : State :=
  let new := if (m = 1 ∨ m = 2) ∧ s.driftFlag then 6 else m
  if new = s.mode ∨ (m = 1 ∧ s.mode = 6) then s else
  let from_ := s.entryRef
  let s := s.setMode new (if new = 6 then modeDriftEntry else modeRequest)
  let s := match new with
    | 3 => (match sp with
      | some (_, _, h) => s.setSetpoint s.spPosition.1 s.spPosition.2 h spCommand
      | none => s.setSetpoint s.spPosition.1 s.spPosition.2 s.estimated.2.2 spCapture)
    | 1 | 2 | 6 => (match sp with
      | some (lat, lon, h) => s.setSetpoint lat lon h spCommand
      | none => s.capture spCapture)
    | 4 => { s with ctl := { s.ctl with joyX := 0, joyY := 0, joyN := 0, joyAt := s.clock } }
    | _ => s
  s.beginReference new from_ sp

/-- A mode request (R226): whether it is accepted. -/
def State.requestMode (s : State) (m : Nat) (sp : Option (F64 × F64 × F32)) : State × Bool :=
  match s.modeRefusal m with
  | some why => (s.emit 0x55 (le 1 s.mode ++ le 1 m ++ le 1 modeRefused ++ le 1 why), false)
  | none => ((s.enterMode m sp).wakeForMode m, true)

/-- Latitude, longitude and heading lie in the ranges of a setpoint. -/
def setpointOk (lat lon : F64) (heading : F32) : Bool :=
  Float.dfin lat && Float.dfin lon && Float.ffin heading &&
  !Float.dlt (Float.dint 90) lat && !Float.dlt lat (Float.dint (-90)) &&
  !Float.dlt (Float.dint 180) lon && !Float.dlt lon (Float.dint (-180)) &&
  Float.fle 0 heading && Float.flt heading (Float.fint 360)

/-- A new setpoint in STATION_KEEPING, to which the current reference sets out, or the heading of HEADING_ONLY (R227, R257). -/
def State.newSetpoint (s : State) (lat lon : F64) (heading : F32) : State :=
  if s.mode = 3 then s.setSetpoint s.spPosition.1 s.spPosition.2 heading spCommand
  else (s.setSetpoint lat lon heading spCommand).setOut (s.refAt 0) [(lat, lon, heading, none)]

/-- A valid demand (R228): it renews the timer and clears JOYSTICK_TIMEOUT. A demand that is not finite is read as absent. -/
def State.renewDemand (s : State) (x y n : F32) : State :=
  if (Float.ffin x && Float.ffin y && Float.ffin n) = false then s else
  let s := { s with ctl := { s.ctl with joyX := x, joyY := y, joyN := n, joyAt := s.clock } }
  if s.flag F.ctlStatusJoystickTimeout then (s.wr F.ctlStatusJoystickTimeout 0).emit 0x5A (le 1 1) else s

/-- JOYSTICK_TIMEOUT: a demand that was not renewed for ctl.joystick_timeout is replaced by zero (R228). -/
def execJoystickTimeout (s : State) : Host.Outcome State Fault Refusal :=
  act (fun s =>
    if s.ready ∧ s.mode = 4 ∧ s.flag F.ctlStatusJoystickTimeout = false ∧
        s.cfg F.ctlJoystickTimeout * nsMs ≤ s.since s.ctl.joyAt then
      (({ s with ctl := { s.ctl with joyX := 0, joyY := 0, joyN := 0 } } : State).wr F.ctlStatusJoystickTimeout 1).emit 0x5A
        (le 1 0)
    else s) s

/-- A waypoint is in range (R227, R257). -/
def State.waypointOk (s : State) (w : F64 × F64 × F32 × F32) : Bool :=
  setpointOk w.1 w.2.1 w.2.2.1 && Float.ffin w.2.2.2 && Float.flt 0 w.2.2.2 &&
  Float.fle w.2.2.2 (Float.fratio (s.cfg F.ctlTrackSpeedMax) 100)

/-- A host request taken at the frame instant (R224, R257): the state, the command code and its result. -/
def State.hostRequest (s : State) (r : CtlRequest) : State × Nat × Nat :=
  let host := s.cfg F.ctlModeSource = 0
  match r with
  | .mode m =>
    if host = false then (s, 0x5002, Res.wrongSource) else if 5 < m then (s, 0x5002, Res.outOfRange) else
    let (s, ok) := s.requestMode m none
    (s, 0x5002, if ok then Res.ok else Res.wrongState)
  | .setpoint lat lon h =>
    if host = false then (s, 0x5003, Res.wrongSource) else if setpointOk lat lon h = false then (s, 0x5003, Res.outOfRange)
    else if s.mode = 1 ∨ s.mode = 3 then (s.newSetpoint lat lon h, 0x5003, Res.ok) else (s, 0x5003, Res.wrongState)
  | .joystick x y n => if host = false then (s, 0x5004, Res.wrongSource) else (s.renewDemand x y n, 0x5004, Res.ok)
  | .manual a sp pi an =>
    if host = false then (s, 0x5005, Res.wrongSource)
    else if 31 < a ∨ (Float.ffin sp && Float.ffin pi && Float.ffin an) = false then (s, 0x5005, Res.outOfRange)
    else ({ s with ctl := { s.ctl with manual := s.ctl.manual.set a (some (sp, pi, an)) } }, 0x5005, Res.ok)
  | .track ws =>
    if ws.all s.waypointOk = false then (s, 0x5006, Res.outOfRange)
    else if s.mode = 2 then (s, 0x5006, Res.wrongState)
    else ({ s with ctl := { s.ctl with track := ws } }, 0x5006, Res.ok)

/-- A host request queued for the frame instant. -/
def State.queueRequest (s : State) (h : Hdr) (r : CtlRequest) : Reply :=
  ({ s with ctl := { s.ctl with requests := s.ctl.requests ++ [(h, r)] } }, none)

/-- CMD_CTL_MODE (R224, R226, R257). -/
def execCmdCtlMode (h : Hdr) (mode : Byte) (s : State) : Host.Outcome State Fault Refusal :=
  act (fun s => s.command h 0x5002 [mode] fun s => s.queueRequest h (.mode mode.toNat)) s

/-- CMD_CTL_SETPOINT (R224, R227, R257). -/
def execCmdCtlSetpoint (h : Hdr) (lat lon : F64) (heading : F32) (s : State) : Host.Outcome State Fault Refusal :=
  act (fun s => s.command h 0x5003 (le 8 lat.toNat ++ le 8 lon.toNat ++ le 4 heading.toNat) fun s =>
    s.queueRequest h (.setpoint lat lon heading)) s

/-- CMD_CTL_JOYSTICK (R224, R228, R257). -/
def execCmdCtlJoystick (h : Hdr) (surge sway yaw : F32) (s : State) : Host.Outcome State Fault Refusal :=
  act (fun s => s.command h 0x5004 (le 4 surge.toNat ++ le 4 sway.toNat ++ le 4 yaw.toNat) fun s =>
    s.queueRequest h (.joystick surge sway yaw)) s

/-- CMD_CTL_MANUAL (R224, R252, R257). -/
def execCmdCtlManual (h : Hdr) (act_ : Byte) (speed pitch angle : F32) (s : State) : Host.Outcome State Fault Refusal :=
  act (fun s => s.command h 0x5005 ([act_] ++ le 4 speed.toNat ++ le 4 pitch.toNat ++ le 4 angle.toNat) fun s =>
    s.queueRequest h (.manual act_.toNat speed pitch angle)) s

/-- The bytes of a waypoint (R257). -/
def waypointBytes (w : F64 × F64 × F32 × F32) : List Byte :=
  le 8 w.1.toNat ++ le 8 w.2.1.toNat ++ le 4 w.2.2.1.toNat ++ le 4 w.2.2.2.toNat

/-- CMD_CTL_TRACK_LOAD (R227, R257). -/
def execCmdCtlTrackLoad (h : Hdr) (count : W32) (wps : List (F64 × F64 × F32 × F32)) (s : State) :
    Host.Outcome State Fault Refusal :=
  act (fun s => s.command h 0x5006 (le 4 count.toNat ++ wps.flatMap waypointBytes) fun s =>
    if count.toNat < 2 ∨ 32 < count.toNat then s.reply Res.outOfRange
    else if wps.length ≠ count.toNat then s.reply Res.badLength
    else s.queueRequest h (.track wps)) s

/-! ### The frame instant -/

/-- An actuator is configured (R236). -/
def State.actUsed (s : State) (i : Nat) : Bool := s.cfg (F.ctlActType i) != 0

/-- Why an actuator is not available (R242): 0 ENABLE, 1 LOCKOUT, 2 LOOP_FAULT. -/
def State.actBlocked (s : State) (locked i : Nat) : Option Nat :=
  if testBit (s.recordField 4 4) i = false then some 0
  else if testBit locked i then some 1
  else if testBit (s.rd F.loopActFaulted) i then some 2
  else none

/-- Availability at the frame instant (R242): EV_CTL_ACTUATOR for each change, ACT_REDUCED while an enabled actuator is
unavailable. -/
def State.availability (s : State) : State :=
  let locked := s.lockedActs
  let acts := (List.range 32).filter s.actUsed
  let s := acts.foldl (fun s i =>
    let was := testBit (s.rd F.ctlActAvailable) i
    match s.actBlocked locked i with
    | none =>
      if was then s else (s.wr F.ctlActAvailable (putBit (s.rd F.ctlActAvailable) i true)).emit 0x57
        (le 1 i ++ le 1 0 ++ le 1 (s.ctl.blockedBy.get i))
    | some why =>
      let s := { s with ctl := { s.ctl with blockedBy := s.ctl.blockedBy.set i why } }
      if was then (s.wr F.ctlActAvailable (putBit (s.rd F.ctlActAvailable) i false)).emit 0x57 (le 1 i ++ le 1 1 ++ le 1 why)
      else s) s
  let s := s.wr F.ctlActAvailable ((List.range 32).foldl (fun m i => if s.actUsed i then m else putBit m i false)
    (s.rd F.ctlActAvailable))
  s.wrFlag F.ctlStatusActReduced (acts.any fun i => testBit (s.recordField 4 4) i && !testBit (s.rd F.ctlActAvailable) i)

/-- The setpoint of the request record, where valid (R225). -/
def State.recordSetpoint (s : State) : Option (F64 × F64 × F32) :=
  let lat := s.recordF64 8
  let lon := s.recordF64 16
  let h := s.recordF32 24
  if testBit (s.recordField 2 2) 0 ∧ Float.dfin lat ∧ Float.dfin lon ∧ Float.ffin h then some (lat, lon, h) else none

/-- The manual setpoints of the request record; one that is not finite is read as absent (R225). -/
def State.recordManual (s : State) : State :=
  (List.range 32).foldl (fun s i =>
    let f (k : Nat) : F32 := s.recordF32 (88 + 12 * i + 4 * k)
    if Float.ffin (f 0) && Float.ffin (f 1) && Float.ffin (f 2) then
      { s with ctl := { s.ctl with manual := s.ctl.manual.set i (some (f 0, f 1, f 2)) } }
    else s) s

/-- The setpoint that the DP logic moves in STATION_KEEPING or HEADING_ONLY (R224, R227): one that its record did not carry in
the frame before and that is not in force. -/
def State.recordMove (s : State) : State :=
  match s.recordSetpoint with
  | some (lat, lon, h) =>
    let same := (s.mode == 3 || (s.rd F.ctlSpLat == lat.toNat && s.rd F.ctlSpLon == lon.toNat)) && s.ctl.heading == h
    if (s.mode = 1 ∨ s.mode = 3) ∧ same = false ∧ s.ctl.asked ≠ some (lat, lon, h) then s.newSetpoint lat lon h else s
  | none => s

/-- The requests that the DP logic writes (R224, R225). -/
def State.logicRequests (s : State) : State :=
  if s.ctl.record.isEmpty then s else
  let s := s.recordManual
  let s := if s.recordField 1 1 ≠ s.ctl.counter then (s.requestMode (s.recordField 0 1) s.recordSetpoint).1 else s
  let s := s.recordMove
  if testBit (s.recordField 2 2) 1 then s.renewDemand (s.recordF32 28) (s.recordF32 32) (s.recordF32 36) else s

/-- The reference one frame on (R227): it reaches its setpoint, or the last waypoint. -/
def State.advanceReference (s : State) : State :=
  if s.ctl.legs.isEmpty ∨ (s.mode ≠ 1 ∧ s.mode ≠ 2) then s else
  let s : State := { s with ctl := { s.ctl with moved := s.ctl.moved + nsFrame } }
  if s.ctl.moved < legsTime s.ctl.legs then s
  else if s.mode = 2 then
    match s.ctl.track.getLast? with
    | some (lat, lon, h, _) => ((s.setMode 1 modeTrackEnd).setSetpoint lat lon h spTrackEnd).settle
    | none => s
  else s.settle

/-! ### Wind (R243) -/

/-- The wind stream delivers (R243). -/
def State.windOk (s : State) : Bool :=
  let k := s.cfg F.collWindStream
  decide (k < 45) && s.rd (F.inpStreamStatus k) == 1

/-- The force of the wind on an axis in kN, in yaw in kN·m, at an angle from the bow and a speed (R243): ½ ρ A C V² with
ρ = 1.226 kg/m³, the coefficients interpolated at 10°. -/
def State.windOn (s : State) (a : Nat) (angle speed : F64) : F64 :=
  let (g, den) := Float.ratioOf (Float.n64 angle)
  let g := (g % (360 * den : Nat)).toNat
  let step := 10 * den
  let coef (k : Nat) : Int := s.cfgInt (F.ctlWindCoef a (k % 36))
  let k := g / step
  let c : Int := coef k * step + ((g % step : Nat) : Int) * (coef (k + 1) - coef k)
  let area := if a = 0 then s.cfg F.ctlWindAreaFront else s.cfg F.ctlWindAreaSide * if a = 2 then s.cfg F.ctlWindLength else 1
  let (v, vden) := Float.ratioOf (Float.n64 speed)
  Float.dratio (613 * area * c * v ^ 2) (10 ^ 9 * step * vden ^ 2)

/-- The wind force of the frame (R243); zero with WIND_ABSENT where the wind stream is not OK. -/
def State.feelWind (s : State) : State :=
  let w := s.relativeWind
  let force := if s.windOk then (List.range 3).map fun a => s.windOn a w.2.2.1 w.2.2.2 else [0, 0, 0]
  ({ s with ctl := { s.ctl with windForce := force } } : State).wrFlag F.ctlStatusWindAbsent !s.windOk

/-- DRIFT_LIMITING ends when drift-limiting mode does (R229): back to STATION_KEEPING at a captured position, the heading
setpoint in force kept. -/
def State.leaveDrift (s : State) : State :=
  if s.mode = 6 ∧ s.driftFlag = false then
    let (lat, lon, _) := s.estimated
    ((s.setMode 1 modeDriftExit).setSetpoint lat lon s.ctl.heading spDriftExit).settle
  else s

/-- The host requests that wait, taken in order of receipt (R224). -/
def State.hostRequests (s : State) : State :=
  let start : State := { s with ctl := { s.ctl with requests := [] } }
  s.ctl.requests.foldl (fun (s : State) q =>
    let r := s.hostRequest q.2
    r.1.respond q.1 r.2.1 r.2.2 []) start

/-- The vessel controller at a frame instant (R224 to R229, R242, R243). -/
def State.controlFrame (s : State) : State :=
  let s : State := { s with ctl := { s.ctl with spPublished := false } }
  let s := (((s.availability.feelWind).leaveDrift).advanceReference).hostRequests
  let s := if s.cfg F.ctlModeSource = 1 then s.logicRequests else s
  { s with ctl := { s.ctl with counter := s.recordField 1 1, asked := s.recordSetpoint } }

end Sys2Proof.Machine
end

