-- ==== Sys2Proof/Machine/Setpoints.lean ====
section
/-! DEFINITION. Vessel control and thrust allocation: the problem posed each frame and the setpoint record (R230 to R253). -/

namespace Sys2Proof.Machine

/-! ### Actuators of the problem -/

/-- The actuators that are configured (R236). -/
def State.actsUsed (s : State) : List Nat := (List.range 32).filter s.actUsed

/-- A vertex of an actuator's region in 1e-5 kN, as its efficiency scales it (R236). -/
def State.vertexOf (s : State) (i v : Nat) : Int × Int :=
  (s.cfgInt (F.ctlActPolygon i v 0) * s.eta i, s.cfgInt (F.ctlActPolygon i v 1) * s.eta i)

/-- An actuator of the problem (R236, R242). -/
def State.actSpec (s : State) (i : Nat) : ActSpec :=
  { idx := i, typ := s.cfg (F.ctlActType i), pos := (s.cfgInt (F.ctlActPos i 0), s.cfgInt (F.ctlActPos i 1))
    height := s.cfgInt (F.ctlActPos i 2)
    available := testBit (s.rd F.ctlActAvailable) i, coef := s.cfg (F.ctlActPowerCoef i), bus := s.cfg (F.ctlActBus i)
    region := (List.range 16).map (s.vertexOf i) }

/-- Thrust below which an actuator holds its angle, in kN (R240, R246). -/
def State.holdThrust (s : State) (i : Nat) : F64 := Float.dratio (s.cfg (F.ctlActHoldThrust i)) 10

/-- The unit vector of a thrust. -/
def unitOf (f : F64 × F64) : F64 × F64 := (Float.ddiv f.1 (thrustSize f), Float.ddiv f.2 (thrustSize f))

/-- The direction that the rate limit of an actuator is linearised about (R240): its warm thrust's, or that of stage 0 where its thrust is
below ctl.act_hold_thrust. -/
def State.rateDir (s : State) (i : Nat) (first here : F64 × F64) : F64 × F64 :=
  let typ := s.cfg (F.ctlActType i)
  if typ = 2 then (0, Float.dint 1) else if typ = 3 then (Float.dint 1, 0)
  else
    let f := if Float.dlt (thrustSize here) (s.holdThrust i) then first else here
    if Float.lt Float.zero (thrustSquare f) then unitOf f else Config.noDirection i

/-- The rate limit of an actuator at a stage of some length in ms (R240). -/
def State.rateLimit (s : State) (warm : List Thrusts) (i k ms : Nat) : RateLimit :=
  let here := thrustOf (warm.getD k noThrusts) i
  let size := thrustSize here
  let least := s.holdThrust i
  let size := if Float.dlt size least then least else size
  let slew := Fixed.to64 (Fixed.radians (Fixed.ratio (s.cfg (F.ctlActSlew i) * ms : Nat) 100000))
  let typ := s.cfg (F.ctlActType i)
  { act := i, stage := k, dir := s.rateDir i (thrustOf (warm.getD 0 noThrusts) i) here
    along := Float.dratio (s.cfg (F.ctlActRate i) * ms : Nat) 10000
    across := if typ = 2 ∨ typ = 3 then none else some (Float.dmul size slew) }

/-! ### Forbidden sectors (R237, R238) -/

/-- The measured angle of a thruster: the last valid feedback of the PRIMARY loop of its angle channel, else the angle of its setpoint in
force (log entry 99). -/
def State.measuredAngle (s : State) (i : Nat) : F32 :=
  match s.primaryOf (4 * i + 2), s.ctl.published with
  | some l, _ => (s.loop.rt.get l).yLast
  | none, some r => (r.entries.getD i SpOut.zero).angle
  | none, none => 0

/-- An angle lies from one angle on to another, in 0.01° after the start of a sector. -/
def State.angleWithin (s : State) (b : Nat) (x : F32) (lo hi : Nat) : Bool :=
  let (n, den) := Float.ratioOf (Float.n32 x)
  let start : Int := (s.cfg (F.ctlActSectorStart (b / 2) (b % 2)) * den : Nat)
  let rel := ((100 * n - start) % (36000 * den : Nat)).toNat
  let rel := if rel = 0 ∧ hi = 36000 then 36000 * den else rel
  decide (lo * den ≤ rel) && decide (rel ≤ hi * den)

/-- The width of a sector in 0.01°. -/
def State.sectorWidth (s : State) (b : Nat) : Nat := s.cfg (F.ctlActSectorWidth (b / 2) (b % 2))

/-- The mirror wedge of a sector contains an angle. -/
def State.inWedge (s : State) (b : Nat) (x : F32) : Bool := s.angleWithin b x 18000 (18000 + s.sectorWidth b)

/-- A side of a sector contains an angle (R237). -/
def State.sideHolds (s : State) (b side : Nat) (x : F32) : Bool :=
  if side = 0 then s.angleWithin b x (s.sectorWidth b) (s.sectorWidth b + 18000) else s.angleWithin b x 18000 36000

/-- The side of a sector that contains an angle, side 0 if both do (R238). -/
def State.sideFor (s : State) (b : Nat) (x : F32) : Bool :=
  if s.sideHolds b 0 x then false else if s.sideHolds b 1 x then true else Config.insideSector b x

/-- The angle of a thrust in degrees from 0 to 360, clockwise from ahead (R246); of no thrust it is free. -/
def thrustAngle (f : F64 × F64) : F32 :=
  if Float.lt Float.zero (thrustSquare f) then Fixed.to32 (Fixed.angle (Fixed.of64 f.1) (Fixed.of64 f.2)) else Config.noAngle

/-- The sectors whose mirror wedge contains the measured angle (R238). -/
def State.wedgeSectors (s : State) : List Nat := s.sectorBits.filter fun b => s.inWedge b (s.measuredAngle (b / 2))

/-- The open sectors of a frame (R238): of more than four the four whose thrusters carry the largest thrust in the warm plan's stage 0, of
equal ones the lowest. -/
def State.openSectors (s : State) (warm : Thrusts) : List Nat :=
  let all := s.wedgeSectors
  let size (b : Nat) : Float.FpNum := thrustSquare (thrustOf warm (b / 2))
  let ahead (c b : Nat) : Bool := Float.lt (size b) (size c) || (!Float.lt (size c) (size b) && decide (c < b))
  all.filter fun b => decide ((all.filter fun c => ahead c b).length < 4)

/-- The sides of the sectors before the candidates are solved (R238): of those that are not open the side that contains the measured angle;
of the others, which more than four leave over, the side that contains the warm plan's angle (log entry 99). -/
def State.sectorSides (s : State) (warm : Thrusts) : Nat :=
  let wedge := s.wedgeSectors
  s.sectorBits.foldl (fun m b =>
    let x := if wedge.contains b then thrustAngle (thrustOf warm (b / 2)) else s.measuredAngle (b / 2)
    putBit m b (s.sideFor b x)) 0

/-! ### Buses (R241) -/

/-- The bus allowance A − L − margin, none where the bus is unconstrained (R241). -/
def State.busAllowance (s : State) (b : Nat) : Option F32 :=
  let a := s.recordF32 (40 + 4 * b)
  let l := s.recordF32 (64 + 4 * b)
  let margin := Float.fint (s.cfg (F.ctlBusMargin b))
  if testBit (s.recordField 2 2) 2 && Float.ffin a && Float.ffin l then
    (if a = Float.fint 0xFFFF then none else some (Float.fsub (Float.fsub a l) margin))
  else
    let fixed := s.cfg (F.ctlBusAvailFixed b)
    if fixed = 0xFFFF then none else some (Float.fsub (Float.fint fixed) margin)

/-! ### Forces (R243 to R245) -/

/-- A list of axes added. -/
def axesSum (xs : List (List F64)) : List F64 :=
  (List.range 3).map fun a => Float.r64 (Float.total (xs.map fun x => Float.n64 (x.getD a 0)))

/-- States 27 to 29 of the estimate of the frame; without an estimate of the prediction (R244, R250). -/
def State.disturbance (s : State) : List F64 :=
  let f := if s.coll.estPresent then s.coll.filter else (s.coll.unrevised.head?).getD s.coll.filter
  (List.range 3).map fun a => f.nominal.getD (27 + a) 0

/-- The known forces of the frame (R243, R244): wind, network and disturbance. -/
def State.knownForces (s : State) : List F64 := axesSum [s.ctl.windForce, s.ctl.network, s.disturbance]

/-- The force demand of an allocation in the lanes' own law (R245): −kp ⊙ e − kd ⊙ ν + τ_ref − the known forces, where τ_ref is the reference
acceleration times the mass. -/
def State.pdDemand (s : State) (known : List F64) : List F64 :=
  let r := s.refAt 0
  let (e, v) := bodyErrors s.spPosition s.lowNow r
  let hold := s.mode = 3 ∨ s.mode = 6
  let gain (f : Fld) (a : Nat) : Float.FpNum := Float.ofInt (if hold ∧ a < 2 then 0 else s.cfg f)
  (List.range 3).map fun a =>
    let mass := if a = 2 then s.cfg F.ctlInertiaYaw * 1000 else s.cfg F.ctlMass
    let term (g : Float.FpNum) (x : F64) : Float.FpNum := Float.neg (Float.mul g (Float.n64 x))
    Float.r64 (Float.total [term (gain (F.ctlPdKp a) a) (e.getD a 0), term (gain (F.ctlPdKd a) a) (v.getD a 0),
      Float.mul (Float.ofInt mass) (Float.n64 (r.acc.getD a 0)), Float.neg (Float.n64 (known.getD a 0))])

/-! ### The problem of the frame -/

/-- The instant at which a plan's time axis starts, in ns after the frame instant (R230): the apply tick. -/
def State.applyOffset (s : State) : Nat := (s.deadline + 8) * nsTick

/-- The weights of the position errors in a mode (R223, R229, R234). -/
def State.posWeights (s : State) : List Nat :=
  (List.range 3).map fun a => if (s.mode = 3 ∨ s.mode = 6) ∧ a < 2 then 0 else s.cfg (F.ctlWPos a)

/-- The weight of power in a mode (R229, R234). -/
def State.powerWeight (s : State) : Nat := s.cfg F.ctlWPower * if s.mode = 6 then s.cfg F.ctlDriftThrustFactor else 1

/-- The weights of force tracking (R234, R245): an allocation tracks its demand on every axis; over a horizon HEADING_ONLY tracks zero
surge and sway force. -/
def State.forceWeights (s : State) (form : Nat) : List Nat :=
  let w := s.cfg F.ctlWForce
  if form < 20 then [w, w, w] else if s.mode = 3 then [w, w, 0] else [0, 0, 0]

/-- The force demand (R223, R234, R245): in JOYSTICK the demand, in an allocation of another mode the lanes' own law, else zero. -/
def State.demand (s : State) (form : Nat) (known : List F64) : List F64 :=
  if s.mode = 4 then [Float.widen s.ctl.joyX, Float.widen s.ctl.joyY, Float.widen s.ctl.joyN]
  else if form < 20 then s.pdDemand known else [0, 0, 0]

/-- The warm plan in the stages of a problem (R194, R205, R226): the plan shifted by one frame, zero thrust without one. -/
def State.warmPlan (s : State) (form : Nat) : List Thrusts :=
  match s.ctl.plan with
  | some p => stagesOf (shiftPlan p) form
  | none => List.replicate (stageLengths form).length noThrusts

/-- The problem of the frame (R230 to R245), with the sides of the forbidden sectors before the candidates are solved. -/
def State.problem (s : State) (form sides : Nat) : Problem :=
  let warm := s.warmPlan form
  let stages := stageLengths form
  let known := s.knownForces
  let refs := (List.range stages.length).map fun k => s.refAt (s.applyOffset + stageStart k)
  { form := form, stages := stages, refs := refs
    start := initialState s.active.vesselModel (s.actsUsed.map s.actSpec) s.spPosition s.lowNow s.applyOffset s.applied known s.ctl.windForce
    origin := s.spPosition, wPos := s.posWeights, wVel := (List.range 3).map fun a => s.cfg (F.ctlWVel a)
    wPower := s.powerWeight, wDthrust := s.cfg F.ctlWDthrust, wForce := s.forceWeights form, demand := s.demand form known
    known := known, wind := s.ctl.windForce, acts := s.actsUsed.map s.actSpec
    rates := (List.range stages.length).flatMap fun k => s.actsUsed.map fun i => s.rateLimit warm i k (stages.getD k 0)
    sectors := s.sectorList sides, allow := (List.range 6).map s.busAllowance
    limits := (s.cfg F.ctlRollLimit, s.cfg F.ctlPitchLimit), model := s.active.vesselModel, warm := warm, inForce := s.applied }

/-- The absence of an estimate shown, its first frame with an event (R250); an estimate accepted gives the network's feed-forward. -/
def State.noteAbsent (s : State) : State :=
  let absent := !s.coll.estPresent
  let first := absent && !s.ctl.absentRun
  let s : State := { s with ctl := { s.ctl with
    absentRun := absent, network := if absent then s.ctl.network else s.coll.dnForce } }
  let s := s.wrFlag F.ctlStatusEstPredicted absent
  if first then s.emit 0x59 (le 4 (s.rd F.timeFrameNumber)) else s

/-- The solve window opens for the problem of the mode (R194, R204 to R206, R223, R238, R245). -/
def State.pose (s : State) : State :=
  let joystick := s.mode == 4
  let s := s.adaptThrust
  if (mpcMode s.mode || joystick) = false then (s.openSolve none false [] 0).wrFlag F.ctlStatusPdLaw false
  else
    let form := s.solveForm joystick
    let first := (s.warmPlan form).getD 0 noThrusts
    let sides := s.sectorSides first
    let p := s.problem form sides
    let cold := s.ctl.plan.isNone
    (s.openSolve (some p) cold (s.openSectors first) sides).wrFlag F.ctlStatusPdLaw (form == 1 && !joystick)

/-- ESTIMATE_PUBLISH: the estimate is published and checked by each lane, one tick later where its transfer failed, and the solve window opens (R16, R134, R145, R147, R194, R204 to
R206, R230, R238, R243, R245, R250). -/
def execEstimatePublish (corruptDuty corruptPartner : Bool) (s : State) : Host.Outcome State Fault Refusal :=
  act (fun s =>
    if (s.atTransfer 48 .estimate || (s.isAbsent .estimate && s.atTick 49)) = false ∨ s.coll.closed = false ∨ s.coll.published then s
    else
      let s := s.publishEstimate (s.isAbsent .estimate || s.rejectedBy corruptDuty corruptPartner)
      let bad := !s.estimateSound
      ((s.noteVerdicts (corruptDuty || bad) (corruptPartner || bad)).noteAbsent).pose) s

/-! ### Setpoints (R246) -/

/-- A number negated where another is negative. -/
def State.signedSetpoint (s : State) (i : Nat) (f : F64) : F64 := signedAs f (s.setpointOf i (thrustSize (f, 0)))

/-- The rudder angle of a thrust in degrees (R246): F_y / (gain × F_x) in rad, within ±ctl.act_rudder_max; 0 without F_x. -/
def State.rudder (s : State) (i : Nat) (f : F64 × F64) : F64 :=
  let max_ := Float.dratio (s.cfg (F.ctlActRudderMax i)) 100
  let min_ := Float.dratio (-(s.cfg (F.ctlActRudderMax i) : Int)) 100
  if thrustSize (f.1, 0) = 0 then 0
  else
    let x := Fixed.to64 (Fixed.degrees (Fixed.div (Fixed.of64 f.2) (Fixed.mul (Fixed.of64 (s.rudderGain i)) (Fixed.of64 f.1))))
    if Float.dlt max_ x then max_ else if Float.dlt x min_ then min_ else x

/-- The setpoint and the angle in degrees of a thrust, none where the angle is held (R246). -/
def State.pairOf (s : State) (i : Nat) (f : F64 × F64) : F64 × Option F64 :=
  match s.cfg (F.ctlActType i) with
  | 1 => (s.setpointOf i (thrustSize f),
      if Float.dlt (thrustSize f) (s.holdThrust i) then none else some (Float.widen (thrustAngle f)))
  | 2 => (s.signedSetpoint i f.2, some 0)
  | 3 => (s.signedSetpoint i f.1, some 0)
  | _ => (s.signedSetpoint i f.1, some (s.rudder i f))

/-- The rate of a value from stage 0 to stage 1, per second (R246); stage 0 lasts 0.1 s. -/
def stageRate (old new : F64) : F32 := Float.r32 (Float.mul (Float.sub (Float.n64 new) (Float.n64 old)) (Float.ofInt 10))

/-- The rate of an angle the shorter way round. -/
def angleRate (old new : F64) : F32 :=
  Float.r32 (Float.mul (Float.halfTurn (Float.sub (Float.n64 new) (Float.n64 old))) (Float.ofInt 10))

/-- The effective thrust of an entry in kN: signed of a single variable, else its magnitude (log entry 99). -/
def State.thrustShown (s : State) (i : Nat) (f : F64 × F64) : F32 :=
  let typ := s.cfg (F.ctlActType i)
  Float.narrow (if typ = 2 then f.2 else if typ = 3 then f.1 else thrustSize f)

/-- The angle that an actuator holds: of its last setpoint. -/
def State.heldAngle (s : State) (i : Nat) : F32 :=
  match s.ctl.published with
  | some r => (r.entries.getD i SpOut.zero).angle
  | none => 0

/-- The speed setpoint of a pitch-mapped actuator (R246). -/
def State.fixedSpeed (s : State) (i : Nat) : F32 := Float.fint (s.cfg (F.ctlActNfix i))

/-- The entry of an actuator with zero thrust and its angle held (R242, R249). -/
def State.zeroEntry (s : State) (i : Nat) (available : Bool) : SpOut :=
  let speed := if s.cfg (F.ctlActMap i) = 1 then s.fixedSpeed i else 0
  let hold := s.cfg (F.ctlActType i) == 1 && s.cfg (F.ctlActHoldThrust i) != 0
  ⟨available, hold, 0, speed, 0, 0, 0, s.heldAngle i, 0, 0⟩

/-- The entry of an actuator whose thrust in stage 0 is `f` and in stage 1 `g` (R246). -/
def State.planEntry (s : State) (i : Nat) (f g : F64 × F64) : SpOut :=
  let x := s.pairOf i f
  let y := s.pairOf i g
  let byPitch := s.cfg (F.ctlActMap i) = 1
  let rate := stageRate x.1 y.1
  let angle := match x.2 with
    | some a => Float.narrow a
    | none => s.heldAngle i
  let held := x.2.getD (Float.widen (s.heldAngle i))
  let turn := angleRate held (y.2.getD held)
  let value := Float.narrow x.1
  ⟨true, x.2.isNone, s.thrustShown i f, if byPitch then s.fixedSpeed i else value, if byPitch then 0 else rate,
    if byPitch then Float.fdiv value (Float.fint 100) else 0, if byPitch then Float.fdiv rate (Float.fint 100) else 0, angle, turn, 0⟩

/-- The power of a thrust of an actuator (R241). -/
def State.powerOf (s : State) (i : Nat) (f : F64 × F64) : F32 := Float.narrow (thrustPower (s.cfg (F.ctlActPowerCoef i)) f)

/-- The thrusts of stage 0 and stage 1 of the plan in force (R246, R249): zero without one; the one stage of an allocation has no
stage 1 to move to. -/
def State.planStages (s : State) : Thrusts × Thrusts :=
  match s.ctl.plan with
  | some p => (planAt p 0, if p.inputs.length < 2 then planAt p 0 else planAt p 100000000)
  | none => (noThrusts, noThrusts)

/-- The entry of an actuator in MANUAL (R252), zero thrust where it has no manual setpoints. -/
def State.manualEntry (s : State) (i : Nat) : SpOut × F32 :=
  match s.ctl.manual.get i with
  | some (speed, pitch, angle) =>
    let x : SpOut := ⟨true, false, 0, speed, 0, pitch, 0, angle, 0, 0⟩
    let f := s.entryThrust i x
    ({ x with thrust := s.thrustShown i f }, s.powerOf i f)
  | none => (s.zeroEntry i true, s.powerOf i (0, 0))

/-- The entry of an actuator and its planned power (R242, R246, R249, R252). -/
def State.spEntry (s : State) (stages : Thrusts × Thrusts) (i : Nat) : SpOut × F32 :=
  let available := testBit (s.rd F.ctlActAvailable) i
  let m := s.mode
  if s.actUsed i = false then (SpOut.zero, 0)
  else if available = false ∨ m = 0 ∨ 7 ≤ m then (s.zeroEntry i available, s.powerOf i (0, 0))
  else if m = 5 then s.manualEntry i
  else (s.planEntry i (thrustOf stages.1 i) (thrustOf stages.2 i), s.powerOf i (thrustOf stages.1 i))

/-! ### Power limits (R248) -/

/-- The sum of FP32 values, in order. -/
def fsum (xs : List F32) : F32 := xs.foldl Float.fadd 0

/-- The entry list with the power limits of a bus (R248): whether they were scaled to the allowance. -/
def State.limitBus (s : State) (b : Nat) (xs : List (SpOut × F32)) : List (SpOut × F32) × Bool :=
  let onBus (i : Nat) : Bool := s.actUsed i && s.cfg (F.ctlActBus i) == b
  let planned := (List.range 32).filterMap fun i => if onBus i then some (xs.getD i (SpOut.zero, 0)).2 else none
  let room (p : F32) : F32 := Float.fmul p (Float.fratio (100 + s.cfg F.ctlPowerHeadroom) 100)
  let total := fsum planned
  let allowed := match s.busAllowance b with
    | some a => if Float.flt a (fsum (planned.map room)) then some a else none
    | none => none
  let limit (p : F32) : F32 := match allowed with
    | some a => if Float.fzero total then 0 else Float.fdiv (Float.fmul a p) total
    | none => room p
  ((List.range 32).map fun i =>
    let x := xs.getD i (SpOut.zero, 0)
    if onBus i then ({ x.1 with limit := limit x.2 }, x.2) else x, allowed.isSome)

/-- The planned power of a bus shown, and whether its constraint holds within 1 % (R241). -/
def State.showBus (s : State) (b : Nat) (xs : List (SpOut × F32)) : State × Bool :=
  let planned := fsum ((List.range 32).filterMap fun i =>
    if s.actUsed i ∧ s.cfg (F.ctlActBus i) = b then some (xs.getD i (SpOut.zero, 0)).2 else none)
  let near := match s.busAllowance b with
    | some a => !Float.flt planned (Float.fmul a (Float.fratio 99 100))
    | none => false
  (s.wr (F.ctlBusLoad b) (min (Float.floorOf (Float.n32 planned) 1 1) 65535), near)

/-- POWER_SCALED of a bus (R248): EV_CTL_POWER when it is set or cleared. -/
def State.showScaled (s : State) (b : Nat) (now : Bool) : State :=
  let was := s.ctl.scaled.get b
  if now = was then s else
  let s := { s with ctl := { s.ctl with scaled := s.ctl.scaled.set b now } }
  s.emit 0x58 (le 1 b ++ le 1 (bit was) ++ le 4 ((s.busAllowance b).getD 0x7F800000#32).toNat)

/-! ### The setpoint record (R247) -/

/-- The bytes of an entry (R247). -/
def SpOut.bytes (x : SpOut) : List Byte :=
  let f (v : F32) : List Byte := le 4 v.toNat
  le 1 (bit x.available + 2 * bit x.held) ++ le 3 0 ++ f x.thrust ++ f x.speed ++ f x.speedRate ++ f x.pitch ++
    f x.pitchRate ++ f x.angle ++ f x.angleRate ++ f x.limit ++ le 4 0

/-- The 1,296 bytes of a setpoint record (R247). -/
def SpRecord.bytes (r : SpRecord) : List Byte :=
  let b := le 4 r.frame ++ le 2 r.epoch ++ le 1 r.mode ++ le 1 r.flags ++ le 1 r.applyTick ++ le 3 0 ++
    r.entries.flatMap SpOut.bytes
  b ++ le 4 (Crypto.crc32c b).toNat

/-- The thrust load fraction in 0.0001 (R253): Σ|F_i| / Σ ctl.act_fmax over available actuators. -/
def State.thrustLoad (s : State) (x : Thrusts) : Nat :=
  let on := (List.range 32).filter fun i => s.actUsed i && testBit (s.rd F.ctlActAvailable) i
  let sum := Float.total (on.map fun i => Float.n64 (thrustSize (thrustOf x i)))
  let full := (on.map fun i => s.cfg (F.ctlActFmax i)).foldl (· + ·) 0
  if full = 0 then 0 else min 10000 (Float.floorOf sum 100000 full)

/-- The entries of the frame within the buses' limits, with which buses are scaled (R246, R248). -/
def State.limitBuses (s : State) : List (SpOut × F32) × List Bool :=
  let stages := s.planStages
  (List.range 6).foldl (fun (xs, sc) b =>
    let (xs, o) := s.limitBus b xs
    (xs, sc ++ [o])) ((List.range 32).map (s.spEntry stages), ([] : List Bool))

/-- The planned power of every bus shown, and whether one is near its constraint (R241). -/
def State.showBuses (s : State) (xs : List (SpOut × F32)) : State :=
  let p := (List.range 6).foldl (fun (p : State × Bool) b =>
    let o := State.showBus p.1 b xs
    (o.1, p.2 || o.2)) (s, false)
  p.1.wrFlag F.ctlStatusBusLimited (p.1.solv.posed && p.2)

/-- POWER_SCALED of every bus and of the block (R248). -/
def State.showScaling (s : State) (scaled : List Bool) : State :=
  let s := (List.range 6).foldl (fun (s : State) b => s.showScaled b (scaled.getD b false)) s
  s.wrFlag F.ctlStatusPowerScaled ((List.range 6).any fun b => s.ctl.scaled.get b)

/-- The setpoint record of the frame (R247, R249). -/
def State.setpointRecord (s : State) (outs : List SpOut) : SpRecord :=
  let m := s.mode
  let flags := bit (s.solv.posed && s.hasSolveBit svStale) + 2 * bit (s.flag F.ctlStatusPdLaw) + 4 * bit (m == 5) + 8 * bit (m == 0)
  ⟨s.rd F.timeFrameNumber, s.rd F.timeFrameEpoch, m, flags, s.deadline + 8, outs⟩

/-- The setpoint record published (R247, R253), with the force and the thrust load fraction that the Collator is given. -/
def State.putSetpoints (s : State) (outs : List SpOut) : State :=
  let s := s.wrFlag F.ctlStatusAzHeld (outs.any (·.held))
  let r := s.setpointRecord outs
  let x := s.recordThrusts r
  let s := s.wr F.ctlThrustLoad (s.thrustLoad x)
  let acts := s.actsUsed.map fun i => actLever (s.actSpec i)
  { s with ctl := { s.ctl with published := some r, spPublished := true, force := generalForce acts x } }

/-- The record of the frame formed (R246 to R249, R253). -/
def State.publishSetpoints (s : State) : State :=
  let x := s.limitBuses
  ((s.showBuses x.1).showScaling x.2).putSetpoints (x.1.map (·.1))

/-- SETPOINT_PUBLISH: at tick D + 4 the frame's outcome and its setpoint record (R193, R212, R217, R247 to R249). -/
def execSetpointPublish (badDuty badPartner : Bool) (s : State) : Host.Outcome State Fault Refusal :=
  act (fun s =>
    if s.atCore (s.deadline + 4) = false ∨ s.deadline + 8 ≤ s.time.tickDue ∨ s.ctl.spPublished then s else
    (s.solveOutcome badDuty badPartner).publishSetpoints) s

end Sys2Proof.Machine
end

