-- ==== Sys2Proof/Machine/Sentences.lean ====
section
/-! DEFINITION. IEC 61162-1 sentences and IEC 61162-450 datagrams, parsed (R119 to R121). The manual names the values; the places of
the fields in a sentence are those of the standard (PRESUMED, log entry 95). -/

namespace Sys2Proof.Machine

/-- A parsed sentence (R121): its code, 0 for one that R121 does not list, whether its checksum is there and right, whether it is
proprietary, whether a status or mode field marks it invalid, and its values. -/
structure Parsed where
  code : Nat
  checksumOk : Bool
  proprietary : Bool
  invalid : Bool
  values : List F64
deriving DecidableEq, Repr

/-- Bytes split at a separator. -/
def splitAt (c : Byte) : List Byte → List (List Byte)
  | [] => [[]]
  | b :: rest =>
    match splitAt c rest with
    | [] => [[b]]
    | x :: xs => if b = c then [] :: x :: xs else (b :: x) :: xs

/-- The value of a hexadecimal character. -/
def hexDigit (b : Byte) : Option Nat :=
  let n := b.toNat
  if 48 ≤ n ∧ n ≤ 57 then some (n - 48) else if 65 ≤ n ∧ n ≤ 70 then some (n - 55) else if 97 ≤ n ∧ n ≤ 102 then some (n - 87) else none

/-- A decimal number read so far: its digits, and how many stand after the point. -/
def readDigits : List Byte → Nat → Option Nat → Option (Nat × Nat)
  | [], v, k => some (v, k.getD 0)
  | b :: rest, v, k =>
    let n := b.toNat
    if n = 46 then (match k with
      | none => readDigits rest v (some 0)
      | some _ => none)
    else if 48 ≤ n ∧ n ≤ 57 then readDigits rest (v * 10 + (n - 48)) (k.map (· + 1)) else none

/-- A decimal field as a ratio: its sign, numerator and denominator. -/
def decimal (xs : List Byte) : Option (Bool × Nat × Nat) :=
  match xs with
  | [] => none
  | 45 :: rest => if rest.isEmpty then none else (readDigits rest 0 none).map fun p => (true, p.1, 10 ^ p.2)
  | _ => (readDigits xs 0 none).map fun p => (false, p.1, 10 ^ p.2)

/-- A ratio as FP64. -/
def ratio64 (neg : Bool) (num den : Nat) : F64 := BitVec.ofNat 64 (Float.ofRatio 11 52 neg num den)

/-- The value of a null or unreadable field, which no rule gives (log entry 95): free, by the sentence's code and the value's place. -/
def noField (code i : Nat) : F64 := Config.nullField code i

/-- A field times a factor `a / b`. -/
def scaledField (code i : Nat) (xs : List Byte) (a b : Nat) : F64 :=
  match decimal xs with
  | some (neg, n, d) => ratio64 neg (n * a) (d * b)
  | none => noField code i

/-- A field that holds degrees and minutes, ddmm.m, with its hemisphere, in degrees. -/
def angleField (code i : Nat) (xs hemi : List Byte) : F64 :=
  match decimal xs with
  | some (_, n, d) =>
    let deg := n / (100 * d)
    ratio64 (hemi == [83] || hemi == [87]) (deg * 60 * d + (n - 100 * deg * d)) (60 * d)
  | none => noField code i

/-- The code of a sentence formatter (R121). -/
def sentenceCode (xs : List Byte) : Nat :=
  match ([([71, 71, 65], 1), ([71, 78, 83], 2), ([71, 83, 84], 3), ([72, 68, 84], 4), ([84, 72, 83], 5), ([82, 79, 84], 6),
    ([86, 84, 71], 7), ([86, 66, 87], 8), ([77, 87, 86], 9)] : List (List Byte × Nat)).find? fun p => p.1 == xs with
  | some p => p.2
  | none => 0

/-- The unit of a wind speed as a factor to m/s: K km/h, M m/s, N knots, S statute miles per hour. -/
def windUnit (xs : List Byte) : Nat × Nat :=
  if xs = [75] then (1000, 3600) else if xs = [78] then (1852, 3600) else if xs = [83] then (1609344, 3600000) else (1, 1)

/-- The mode of THS as R121 numbers it. -/
def thsMode (xs : List Byte) : Nat :=
  match ([65, 69, 77, 83, 86] : List Byte).findIdx? fun b => xs == [b] with
  | some k => k + 1
  | none => 0

/-- The values of a sentence, from its fields after the address (R121). -/
def sentenceValues (code : Nat) (f : Nat → List Byte) : List F64 :=
  let n (i k : Nat) : F64 := scaledField code i (f k) 1 1
  let knots (i k : Nat) : F64 := scaledField code i (f k) 1852 3600
  if code = 1 then [angleField 1 0 (f 1) (f 2), angleField 1 1 (f 3) (f 4), n 2 8, n 3 5, n 4 7]
  else if code = 2 then [angleField 2 0 (f 1) (f 2), angleField 2 1 (f 3) (f 4), n 2 8, n 3 6, n 4 7]
  else if code = 3 then [n 0 5, n 1 6, n 2 7, n 3 4, n 4 1]
  else if code = 4 then [n 0 0]
  else if code = 5 then [n 0 0, Float.dint (thsMode (f 1))]
  else if code = 6 then [scaledField 6 0 (f 0) 1 60]
  else if code = 7 then [n 0 0, knots 1 4]
  else if code = 8 then [knots 0 0, knots 1 1, knots 2 3, knots 3 4]
  else if code = 9 then
    let u := windUnit (f 3)
    [n 0 0, scaledField 9 1 (f 2) u.1 u.2, Float.dint (if f 1 = [84] then 1 else 0)]
  else []

/-- A status or mode field marks the sentence invalid (R121): quality 0, mode N, status or mode V. -/
def sentenceInvalid (code : Nat) (f : Nat → List Byte) : Bool :=
  if code = 1 then f 5 == [48]
  else if code = 2 then !(f 5).isEmpty && (f 5).all fun b => b == 78
  else if code = 5 then f 1 == [86]
  else if code = 6 then f 1 == [86]
  else if code = 7 then f 8 == [78]
  else if code = 8 then f 2 == [86] || f 5 == [86]
  else if code = 9 then f 4 == [86]
  else false

/-- The exclusive or of characters. -/
def xorAll (xs : List Byte) : Byte := xs.foldl (fun a b => a ^^^ b) 0

/-- Two hexadecimal characters spell the exclusive or of the characters before them. -/
def checkIs (body hex : List Byte) : Bool :=
  match hex with
  | a :: b :: _ =>
    match hexDigit a, hexDigit b with
    | some x, some y => 16 * x + y == (xorAll body).toNat
    | _, _ => false
  | _ => false

/-- A sentence parsed: a `$`, the address of a talker and a formatter, the fields, `*` and the checksum (R119, R121). -/
def parseSentence (xs : List Byte) : Parsed :=
  let body := (xs.drop 1).takeWhile (· != 42)
  let check := (xs.drop 1).dropWhile (· != 42)
  let fields := splitAt 44 body
  let address := fields.headD []
  let f (k : Nat) : List Byte := (fields.drop 1).getD k []
  let proprietary := address.head? == some 80
  let code := if xs.head? ≠ some 36 ∨ proprietary ∨ address.length ≠ 5 then 0 else sentenceCode (address.drop 2)
  { code := code, checksumOk := checkIs body (check.drop 1), proprietary := proprietary, invalid := sentenceInvalid code f,
    values := sentenceValues code f }

/-- A line of an IEC 61162-450 datagram (R120): the source and the line count of its tag block, and its sentence. -/
structure TaggedLine where
  source : Nat
  count : Option Nat
  sentence : List Byte
deriving DecidableEq, Repr

/-- The value of a tag-block parameter: what follows its letter and the colon. -/
def tagParam (c : Byte) (ps : List (List Byte)) : Option (List Byte) :=
  match ps.find? fun p => p.take 2 == [c, 58] with
  | some p => some (p.drop 2)
  | none => none

/-- A line parsed: a tag block between two backslashes with its checksum, then the sentence. None without one. -/
def parseLine (xs : List Byte) : Option TaggedLine :=
  if xs.head? ≠ some 92 then none else
  let tag := (xs.drop 1).takeWhile (· != 92)
  let body := tag.takeWhile (· != 42)
  let ps := splitAt 44 body
  if checkIs body ((tag.dropWhile (· != 42)).drop 1) = false then none
  else some {
    source := unle (((tagParam 115 ps).getD []).take 6)
    count := match tagParam 110 ps with
      | some d => (readDigits d 0 none).map (·.1)
      | none => none
    sentence := ((xs.drop 1).dropWhile (· != 92)).drop 1 }

/-- The lines of a sentence transport datagram: the header "UdPbC" and a zero, then lines that end with CR and LF. None without the
header, or where a line has no tag block (R120). -/
def parseL450 (b : List Byte) : Option (List TaggedLine) :=
  if b.take 6 ≠ [85, 100, 80, 98, 67, 0] then none else
  let lines := ((splitAt 10 (b.drop 6)).map fun l => l.filter (· != 13)).filter fun l => !l.isEmpty
  let parsed := lines.filterMap parseLine
  if parsed.length = lines.length then some parsed else none

end Sys2Proof.Machine
end

