-- ==== Sys2Proof/Machine/Inputs.lean ====
section
/-! DEFINITION. Sensor inputs, triggers and the decimation chain (R102 to R127). -/

namespace Sys2Proof.Machine

/-! ### Triggers and IMU sync -/

/-- The period of a trigger code in ns (R128), 0 when off. -/
def trigPeriod (code : Nat) : Nat :=
  [0, 20000000, 10000000, 5000000, 4000000, 2500000, 2000000, 1250000, 1000000, 625000, 500000, 250000, 125000, 40000000,
    100000000, 200000000, 500000000, 1000000000].getD code 0

/-- The point of the 4 ns grid nearest to an instant, the earlier of two equally near (R36, R74, R107). -/
def nearest4 (t : Nat) : Nat := (t + 1) / 4 * 4

/-- How far the grid that triggers follow lies from the grid of Station Time (R109): after a step, edges continue on the old grid up
to the first frame instant of the new one. -/
def State.gridShift (s : State) : Int :=
  match s.time.stepped with
  | some g => g.size
  | none => 0

/-- The earliest grid instant that output `k` may still serve, its edges `adv` ahead (R107 to R109): its edge not before the last tick, nor
before a turn or the start of a new grid, and past the last grid instant served. -/
def State.gridFrom (s : State) (k adv : Nat) : Nat :=
  max (max (s.now + 1 - nsTick + adv) (s.inp.trigFrom.get k)) (match s.inp.trigEdge.get k with
    | some g => g + 1
    | none => 0)

/-- The next grid instant of output `k`, whose edge is `adv` ahead of it (R107 to R109). -/
def State.nextGrid (s : State) (k period adv : Nat) : Nat :=
  ((nextMultiple period ((s.gridFrom k adv : Int) - s.gridShift).toNat : Int) + s.gridShift).toNat

/-- An edge of output `k` at a grid instant noted, with those of the last 2 s: at the longest period a message may start after an edge and
be complete after the next (R103, R108). -/
def InputState.edge (x : InputState) (k g e : Nat) : InputState :=
  { x with trigEdge := x.trigEdge.set k (some g),
           edges := x.edges.set k ((g, e) :: (x.edges.get k).filter fun p => decide (e < p.2 + 2 * nsSecond)) }

/-- At the first frame instant of a new grid (R109): no edge of the new grid falls before it. -/
def State.newGrid (s : State) : State :=
  { s with inp := { s.inp with trigFrom := (List.range 12).foldl (fun (m : Nats) k =>
      m.set k (s.now + if k < 8 then s.cfg (F.inpTrigAdvance k) else 0)) s.inp.trigFrom } }

/-- The edges after a step of Station Time by `d` (R109): those driven keep their places on the old grid, which goes on up to the new
one. -/
def InputState.stepEdges (x : InputState) (d : Int) : InputState :=
  let move (t : Nat) : Nat := ((t : Int) + d).toNat
  { x with
    trigEdge := (List.range 12).foldl (fun (m : Opts) k => m.set k ((m.get k).map move)) x.trigEdge
    edges := (List.range 12).foldl (fun (m : Store noEdges) k => m.set k ((m.get k).map fun p => (move p.1, move p.2))) x.edges
    usedEdge := (List.range 45).foldl (fun (m : Opts) k => m.set k ((m.get k).map move)) x.usedEdge
    imuUsed := (List.range 4).foldl (fun (m : Opts) k => m.set k ((m.get k).map move)) x.imuUsed
    trigFrom := Store.empty }

/-- TRIGGER_EDGE: the output is driven active at a grid instant minus the advance, on the 4 ns grid (R107 to R109). -/
def execTriggerEdge (t : Fin 8) (s : State) : Host.Outcome State Fault Refusal :=
  act (fun s =>
    let p := trigPeriod (s.cfg (F.inpTrigPeriod t.val))
    let adv := s.cfg (F.inpTrigAdvance t.val)
    let g := s.nextGrid t.val p adv
    let edge := nearest4 (g - adv)
    if p = 0 ∨ s.ready = false ∨ s.withinTick edge = false then s else
    let high := s.cfg (F.inpTrigPolarity t.val) == 0
    ({ s with inp := { (s.inp.edge t.val g edge) with
        trigHigh := s.inp.trigHigh.set t.val true,
        trigFall := s.inp.trigFall.set t.val (s.clock + edge + s.cfg (F.inpTrigWidth t.val) * 1000 - s.now) } } : State).put
      (.trig t.val high edge)) s

/-- TRIGGER_PULSE_END: the output returns inactive after inp.trig_width (R107). -/
def execTriggerPulseEnd (t : Fin 8) (s : State) : Host.Outcome State Fault Refusal :=
  act (fun s =>
    if s.inp.trigHigh.get t.val ∧ s.inp.trigFall.get t.val ≤ s.clock + nsTick then
      ({ s with inp := { s.inp with trigHigh := s.inp.trigHigh.set t.val false } } : State).put
        (.trig t.val (s.cfg (F.inpTrigPolarity t.val) == 1) ((s.now : Int) + ((s.inp.trigFall.get t.val : Int) - s.clock)))
    else s) s

/-- The period of an IMU port in ns (R116), 0 when off. -/
def imuPeriod (code : Nat) : Nat := [0, 10000000, 5000000, 2500000, 2000000, 1000000, 500000].getD code 0

/-- IMU_SYNC_EDGE: IMUn_SYNC rises at its grid rate (R116). -/
def execImuSyncEdge (p : Fin 4) (s : State) : Host.Outcome State Fault Refusal :=
  act (fun s =>
    let per := imuPeriod (s.cfg (F.inpImuRate p.val))
    let g := s.nextGrid (8 + p.val) per 0
    if per = 0 ∨ s.ready = false ∨ s.withinTick g = false then s else
    ({ s with inp := s.inp.edge (8 + p.val) g g } : State).put (.imuSync p.val g)) s

/-- The stamp of a sample taken a signed time after an instant. -/
def shifted (t : Nat) (d : Int) : Nat := ((t : Int) + d).toNat

/-- The bytes form an IMU frame (R117): length, sync word, length byte and CRC-32C. -/
def imuGood (bytes : List Byte) : Bool :=
  decide (bytes.length = 36) && unle (bytes.take 2) == 0x3AC5 && (bytes.getD 2 0) == 36 &&
    unle (bytes.drop 32) == (Crypto.crc32c (bytes.take 32)).toNat

/-- The Ledger payload of an IMU frame (R118); `gap`: its sequence number does not follow the last. -/
def imuPayload (n : Nat) (gap : Bool) (bytes : List Byte) : List Byte :=
  le 1 n ++ le 1 (bytes.getD 3 0).toNat ++ (bytes.drop 30).take 2 ++ (bytes.drop 28).take 2 ++ le 1 (bit gap) ++ le 1 0 ++
    (bytes.drop 4).take 24

/-- An accepted IMU frame: its sequence number, the port's status, and one entry for each stream (R117, R118). -/
def State.takeImu (s : State) (n edge : Nat) (bytes : List Byte) : State :=
  let q := (bytes.getD 3 0).toNat
  let gap := match s.inp.imuSeq.get n with
    | some o => decide (q ≠ (o + 1) % 256)
    | none => false
  let s : State := { s with inp := { s.inp with imuSeq := s.inp.imuSeq.set n (some q) } }
  let s := s.wr (F.inpImuStatus n) 1
  (s.streamsOf 2 n).foldl (fun s k =>
    ((s.ledgerWrite k (shifted edge (s.cfgInt (F.inpImuOffset n))) (imuPayload n gap bytes) false none).streamSeen k).setStream
      k 1) s

/-- The sync edge of port `n` that a frame answers whose last byte comes `delay` after the edge: the last from which that byte is in by the
end of this tick. -/
def State.imuAnswers (s : State) (n delay : Nat) : Option Nat :=
  ((s.inp.edges.get (8 + n)).find? fun p => decide (p.2 + delay < s.tickStop)).map (·.2)

/-- An edge of port `n` comes after one edge and not after an instant (R118): one driven, or the next to be driven. -/
def State.imuPassed (s : State) (n edge t : Nat) : Bool :=
  ((s.inp.edges.get (8 + n)).any fun p => decide (edge < p.2) && decide (p.2 ≤ t)) ||
    decide (s.nextGrid (8 + n) (imuPeriod (s.cfg (F.inpImuRate n))) 0 ≤ t)

/-- IMU_FRAME_RX: the frame that answers a sync edge, its last byte `delayNs` after it, accepted into the Ledger or rejected where it is
malformed or the next edge came first (R117, R118). An edge is answered once. -/
def execImuFrameRx (p : Fin 4) (bytes : List Byte) (delayNs : Nat) (s : State) : Host.Outcome State Fault Refusal :=
  act (fun s =>
    let n := p.val
    match s.imuAnswers n delayNs with
    | none => s
    | some edge =>
      if imuPeriod (s.cfg (F.inpImuRate n)) = 0 ∨ (s.inp.imuUsed.get n).any (fun u => decide (edge ≤ u)) then s else
      let late := s.imuPassed n edge (edge + delayNs)
      let s : State := { s with inp := { s.inp with imuUsed := s.inp.imuUsed.set n (some edge) } }
      if imuGood bytes = false ∨ late then (s.inc (F.inpImuErrors n)).reject (s.streamsOf 2 n)
      else s.takeImu n edge bytes) s

/-- The Ledger payload of a reference-type sample: stream, source kind, number of values, flags, sequence, type and up to
five FP64 values. -/
def refPayload (k kind flags seq typ : Nat) (vals : List F64) : List Byte :=
  le 1 k ++ le 1 kind ++ le 1 vals.length ++ le 1 flags ++ le 2 seq ++ le 2 typ ++ (vals.take 5).flatMap fun v => le 8 v.toNat

/-- The stamp of a message linked to a trigger: the grid instant whose edge is the last before its start, when the message is the
first that starts after that edge (R103). -/
def State.linkedStamp (s : State) (k startNs : Nat) : Option Nat :=
  match (s.inp.edges.get (s.cfg (F.inpStreamTimingTrigger k))).find? fun p => decide (p.2 ≤ startNs) with
  | some p => if p.2 < startNs ∧ s.inp.usedEdge.get k ≠ some p.1 then some p.1 else none
  | none => none

/-- A message entered in the Ledger; one linked to a trigger uses up the edge (R103). -/
def State.enterRef (s : State) (k kind flags seq typ : Nat) (vals : List F64) (stamp : Nat) : State :=
  let s := s.ledgerWrite k stamp (refPayload k kind flags seq typ vals) (testBit flags 0) none
  let s := if s.cfg (F.inpStreamTimingCls k) = 0 then
    { s with inp := { s.inp with usedEdge := s.inp.usedEdge.set k (some stamp) } } else s
  (s.streamSeen k).setStream k 1

/-- A triggered or arrival-stamped message of a stream: its stamp, or rejected as UNMATCHED (R103). -/
def State.acceptRef (s : State) (k kind flags seq typ : Nat) (vals : List F64) (startNs : Nat) : State :=
  if s.cfg (F.inpStreamTimingCls k) = 0 then
    match s.linkedStamp k startNs with
    | some g => s.enterRef k kind flags seq typ vals g
    | none => s.reject [k]
  else s.enterRef k kind flags seq typ vals (startNs - s.cfg (F.inpStreamLatency k) * 1000)

/-- A sentence on a port or in a group, taken by every stream of its code that the filter passes, or rejected as FORMAT (R119, R121,
R122). `seq` is the line count of a datagram's line; a serial sentence has the count of the stream's messages (log entry 25). -/
def State.sentence (s : State) (kind index : Nat) (pass : Nat → Bool) (seq : Option Nat) (chars : List Byte) (startNs : Nat) : State :=
  let x := parseSentence chars
  let all := s.streamsOf kind index
  let ks := all.filter fun k => s.cfg (F.inpStreamSourceSelector k) == x.code && pass k
  if x.checksumOk = false ∨ x.code = 0 then s.reject (if x.code = 0 then all else ks)
  else
    ks.foldl (fun s k => s.acceptRef k kind (bit x.invalid) (seq.getD (s.inp.count.get k % 65536)) x.code x.values startNs) s

/-- SERIAL_SENTENCE_RX (R119, R121, R122). -/
def execSerialSentenceRx (k : Fin 4) (chars : List Byte) (startNs : Nat) (s : State) : Host.Outcome State Fault Refusal :=
  act (fun s => if s.cfg (F.inpSerBaud k.val) = 0 ∨ s.ready = false then s
    else s.sentence 3 k.val (fun _ => true) none chars startNs) s

/-- The groups that a datagram belongs to: its address and UDP port are those of the group (R120, R128). -/
def State.l450Groups (s : State) (d : Datagram) : List Nat :=
  (List.range 4).filter fun g => s.cfg (F.inpL450Group g) != 0 && s.cfg (F.inpL450Group g) == d.addr.toNat &&
    s.cfg (F.inpL450Udp g) == d.udp.toNat

/-- A port of the switch that brings datagrams: enabled, with its link up, a sensor port where `sensor` (R123, R124). -/
def State.bringsDatagrams (s : State) (q : Nat) (sensor : Bool) : Bool :=
  (if sensor then decide (2 ≤ q) else true) && decide (q < 8) && s.cfgFlag (F.spinePortCfgEnabled q) && s.rd (F.spinePortStatus q) != 0

/-- L450_DATAGRAM_RX: a sentence transport datagram with the UdPbC header and tag blocks; the source of each line is matched with
inp.l450_src. Any other datagram of a group is rejected (R120 to R122). -/
def execL450DatagramRx (d : Datagram) (startNs : Nat) (s : State) : Host.Outcome State Fault Refusal :=
  act (fun s =>
    if s.ready = false ∨ s.bringsDatagrams d.port.val false = false then s else
    (s.l450Groups d).foldl (fun s g =>
      match parseL450 d.bytes with
      | none => s.reject (s.streamsOf 4 g)
      | some lines => lines.foldl (fun s l => s.sentence 4 g
          (fun k => s.cfg (F.inpL450Src k) == 0 || s.cfg (F.inpL450Src k) == l.source) l.count l.sentence startNs) s) s) s

/-- The FP64 values of a datagram, `n` of them. -/
def readValues : Nat → List Byte → List F64
  | 0, _ => []
  | n + 1, bs => BitVec.ofNat 64 (unle (bs.take 8)) :: readValues n (bs.drop 8)

/-- The streams a sensor datagram is for: its identifier selects them (R124). -/
def State.datagramStreams (s : State) (b : List Byte) : List Nat :=
  (List.range 45).filter fun k =>
    s.cfg (F.inpStreamSourceKind k) == 5 && s.cfg (F.inpStreamSourceSelector k) == (b.getD 3 0).toNat

/-- The bytes form a sensor datagram with a right CRC (R124). -/
def datagramGood (b : List Byte) : Bool :=
  let n := (b.getD 18 0).toNat
  unle (b.take 2) == 0x5D3C && (b.getD 2 0) == 1 && decide (1 ≤ n) && decide (n ≤ 5) && decide (b.length = 24 + 8 * n) &&
    unle (b.drop (20 + 8 * n)) == (Crypto.crc32c (b.take (20 + 8 * n))).toNat

/-- A good datagram on one stream: a self-stamped one carries its own instant, not in the future nor older than 1 s
(R105, R124, R125). SEQ_GAP follows the last well-formed datagram, also one then rejected (log entry 107). -/
def State.takeDatagram (s : State) (k : Nat) (b : List Byte) (startNs : Nat) : State :=
  let seq := unle ((b.drop 4).take 2)
  let typ := unle ((b.drop 6).take 2)
  let own := unle ((b.drop 8).take 6) * nsSecond + unle ((b.drop 14).take 4)
  let vals := readValues (b.getD 18 0).toNat (b.drop 20)
  let gap := match s.inp.seq.get k with
    | some o => decide (seq ≠ (o + 1) % 65536)
    | none => false
  let flags := (b.getD 19 0).toNat % 4 + 4 * bit gap
  let s : State := { s with inp := { s.inp with seq := s.inp.seq.set k (some seq) } }
  if s.cfg (F.inpStreamTimingCls k) = 1 then
    if startNs + 1000 < own ∨ own + nsSecond < startNs then s.reject [k] else s.enterRef k 5 flags seq typ vals own
  else s.acceptRef k 5 flags seq typ vals startNs

/-- SENSOR_DATAGRAM_RX: a datagram to inp.dgram_port on a sensor port is checked, stamped and written to the Ledger, or rejected (R105, R124, R125). -/
def execSensorDatagramRx (d : Datagram) (startNs : Nat) (s : State) : Host.Outcome State Fault Refusal :=
  act (fun s =>
    if s.ready = false ∨ s.bringsDatagrams d.port.val true = false ∨ d.udp.toNat ≠ s.cfg F.inpDgramPort then s
    else if datagramGood d.bytes = false then s.reject (s.datagramStreams d.bytes)
    else (s.datagramStreams d.bytes).foldl (fun s k => s.takeDatagram k d.bytes startNs) s) s

/-- STREAM_TIMEOUT: no accepted sample for inp.stream_timeout sets NO_DATA (R126); the port of an IMU stream reads NO_DATA as
well. -/
def execStreamTimeout (st : Fin 45) (s : State) : Host.Outcome State Fault Refusal :=
  act (fun s =>
    let k := st.val
    let kind := s.cfg (F.inpStreamSourceKind k)
    let from_ := match s.inp.lastSample.get k with
      | some t => t
      | none => s.time.resetAt
    if kind = 0 ∨ s.ready = false ∨ s.since from_ < s.cfg (F.inpStreamTimeout k) * nsMs then s else
    let s := if kind = 2 then s.wr (F.inpImuStatus (s.cfg (F.inpStreamSourceIndex k))) 2 else s
    s.setStream k 5) s

/-! ### The decimation chain -/

/-- The output period of a preset in ns (R111). -/
def ainPeriod (preset : Nat) : Nat := [20000000, 5000000, 1000000, 250000].getD preset 20000000
/-- The group delay of a preset in ns (R111). -/
def ainDelay (preset : Nat) : Nat := [50000000, 15000000, 3500000, 1000000].getD preset 50000000
/-- The filter length N of a preset in samples (R111). -/
def ainLength (preset : Nat) : Nat := [5, 6, 7, 8].getD preset 5

/-- The clip limits of a mode in sample units (R110). -/
def ainLimits (mode : Nat) : Int × Int :=
  if mode = 1 then (-10500000, 10500000) else if mode = 2 then (-2625000, 2625000) else (0, 21000000)

/-- A current out of range (R110): below 3.6 mA or above 21.0 mA. -/
def wireBad (mode : Nat) (raw : Int) : Bool := mode == 3 && (decide (raw < 3600000) || decide (21000000 < raw))

/-- The payload of an analog entry (R114). -/
def ainPayload (ch preset mode : Nat) (xs : List AinSample) (wire restart : Bool) : List Byte :=
  let mask (f : AinSample → Bool) : Nat := maskOf ((List.range xs.length).filter fun i => match xs[i]? with
    | some x => f x
    | none => false)
  le 1 ch ++ le 1 preset ++ le 1 xs.length ++ le 1 mode ++ le 1 (mask (·.unsettled)) ++ le 1 (mask (·.clipped)) ++
    le 1 (bit wire + 2 * bit restart) ++ le 1 0 ++ padTo 32 (xs.flatMap fun x => leInt 4 x.value)

/-- The status of a channel after a sample (R126, R128). Where several hold at once the manual gives no order: WIRE_FAULT comes before
OVERRANGE before UNSETTLED (log entry 107). -/
def ainStatus (wire outside unsettled : Bool) : Nat := if wire then 4 else if outside then 3 else if unsettled then 2 else 1

/-- A status of the chain written to the channel and its stream. -/
def State.setAin (s : State) (ch st : Nat) : State :=
  (s.streamsOf 1 ch).foldl (fun s k => s.setStream k st) (s.wr (F.inpAinStatus ch) st)

/-- What a channel's chain delivers for a source (R115): the sample of its pins, the internal +2.000 V reference or internal zero. The
reference and zero are read without noise or error (log entry 107). -/
def ainInput (source mode : Nat) (pins : Int) : Int :=
  if source = 1 then (if mode = 3 then Config.referenceCurrent else 2000000) else if source = 2 then 0 else pins

/-- A sample ends an excursion of its run (R115): the first within range and free of wire fault. -/
def ainCleared (r : AinRun) (raw : Int) : Bool :=
  let (lo, hi) := ainLimits r.mode
  let wire := r.wire && wireBad r.mode raw
  (r.outside && !(decide (raw < lo) || decide (hi < raw)) && !wire) || (r.wire && !wire)

/-- How many samples from this one on are UNSETTLED (R115). -/
def ainUnsettled (r : AinRun) (raw : Int) : Nat := if ainCleared r raw then ainLength r.preset else r.unsettled

/-- The current of a run has been out of range for 50 ms (R110): from the first bad sample to the newest, by their stamps. -/
def AinRun.wireDue (r : AinRun) : Bool :=
  r.mode == 3 && match r.wireSince with
    | some t => decide (t + 50 * nsMs + ainPeriod r.preset ≤ r.next)
    | none => false

/-- The next sample of an old run is its last (R115). -/
def AinRun.ends (r : AinRun) : Bool :=
  match r.last with
  | some l => decide (l < r.next + ainPeriod r.preset)
  | none => false

/-- A sample of a run: the run with the sample packed and its marks, and the finished entry if the sample is its newest (R114). -/
def ainStep (r : AinRun) (raw : Int) : AinRun × Option (List AinSample × Bool) :=
  let (lo, hi) := ainLimits r.mode
  let clipped := decide (raw < lo) || decide (hi < raw)
  let value := if raw < lo then lo else if hi < raw then hi else raw
  let bad := wireBad r.mode raw
  let cleared := ainCleared r raw
  let unsettled := ainUnsettled r raw
  let x : AinSample := ⟨r.next, value, decide (0 < unsettled), clipped⟩
  let xs := r.samples ++ [x]
  let full := decide (xs.length = 8) || r.next % nsFrame == 0 || r.ends
  let r' := { r with next := r.next + ainPeriod r.preset, samples := if full then [] else xs, unsettled := unsettled - 1,
                     restart := if full then false else r.restart || cleared,
                     outside := clipped, wire := r.wire && bad,
                     wireSince := if bad then (match r.wireSince with
                       | some t => some t
                       | none => some r.next) else none }
  (r', if full then some (xs, r.restart || cleared) else none)

/-- The instant at which the next output sample of a run is complete (R112), in Station Time as it now runs. -/
def AinRun.due (r : AinRun) : Int := (r.next : Int) + ainDelay r.preset + r.moved

/-- The old run whose output sample is the next to complete, where none of the run in force completes before it (R115). -/
def AinChan.oldRun (c : AinChan) : Option AinRun :=
  match c.old with
  | [] => none
  | o :: rest =>
    let first := rest.foldl (fun (b : AinRun) r => if r.due < b.due then r else b) o
    if c.run.mode = 0 ∨ first.due ≤ c.run.due then some first else none

/-- The run whose output sample is the next to complete. -/
def AinChan.current (c : AinChan) : AinRun := c.oldRun.getD c.run

/-- The channel with the run after a sample: an old run after its last sample ends. -/
def AinChan.advance (c : AinChan) (r : AinRun) : AinChan :=
  match c.oldRun with
  | some o => { c with old := if o.ends then c.old.erase o else c.old.map fun x => if x = o then r else x }
  | none => { c with run := r }

/-- A value limited to the range of a mode. -/
def ainClip (mode : Nat) (raw : Int) : Int :=
  let (lo, hi) := ainLimits mode
  if raw < lo then lo else if hi < raw then hi else raw

/-- A finished entry written for every stream of a channel (R114); `wire`: its run is in WIRE_FAULT at the newest sample. -/
def State.enterAnalog (s : State) (n : Nat) (r : AinRun) (wire : Bool) (entry : Option (List AinSample × Bool)) : State :=
  match entry with
  | some (xs, restart) =>
    let barred := match xs.getLast? with
      | some x => x.unsettled || x.clipped || wire
      | none => true
    (if r.last.isSome then r.streams else s.streamsOf 1 n).foldl (fun s k =>
      (s.ledgerWrite k r.next (ainPayload n r.preset r.mode xs wire restart) barred none).streamSeen k) s
  | none => s

/-- ANALOG_SAMPLE_COMPLETE: the earliest output sample that is complete by now, of an old run or the run in force, the sample of the pins
being `pins` (R112 to R115). The Loop Engine reads it from its completion on (R265). -/
def execAnalogSampleComplete (ch : Fin 16) (pins : Int) (s : State) : Host.Outcome State Fault Refusal :=
  act (fun s =>
    let n := ch.val
    let c := s.inp.ain.get n
    let r := c.current
    if r.mode = 0 ∨ s.ready = false ∨ (s.now : Int) < r.due then s else
    let raw := ainInput r.source r.mode pins
    let (r', entry) := ainStep r raw
    let value := ainClip r.mode raw
    let s : State := { s with inp := { s.inp with
      ain := s.inp.ain.set n (c.advance r'), latest := s.inp.latest.set n (some (value, s.clockAt r.due)) } }
    let s : State := if value = raw then s else s.inc (F.inpAinOverrangeCount n)
    let s := s.enterAnalog n r (r'.wire || r'.wireDue) entry
    if c.oldRun.isSome then s else s.setAin n (ainStatus r'.wire r'.outside (decide (0 < ainUnsettled r raw)))) s

/-- A run whose current has been out of range for 50 ms is in WIRE_FAULT (R110). -/
def AinRun.detect (r : AinRun) : AinRun := { r with wire := r.wire || r.wireDue }

/-- The runs of a channel that are in WIRE_FAULT noted (R110). -/
def AinChan.detect (c : AinChan) : AinChan := { run := c.run.detect, old := c.old.map AinRun.detect }

/-- WIRE_FAULT_DETECT: a 4–20 mA current out of range for 50 ms sets WIRE_FAULT (R110), in the run in force and in old ones that still
deliver; the status is that of the run in force. -/
def execWireFaultDetect (ch : Fin 16) (s : State) : Host.Outcome State Fault Refusal :=
  act (fun s =>
    let c := s.inp.ain.get ch.val
    let s : State := { s with inp := { s.inp with ain := s.inp.ain.set ch.val c.detect } }
    if c.run.wireDue then s.setAin ch.val 4 else s) s

/-- A channel's filter restarted for a mode, preset and source from an instant on (R115): the old run delivers, to the streams that it served,
the samples stamped up to `last`, which are complete `moved` ns later on a Station Time that has stepped. Runs that were old before go
on. -/
def AinChan.restart (c : AinChan) (mode preset source first last : Nat) (moved : Int) (streams : List Nat) : AinChan :=
  { run := { AinRun.off with preset := preset, mode := mode, source := source, next := nextMultiple (ainPeriod preset) first,
                             unsettled := ainLength preset, restart := true },
    old := (c.old.map fun r => { r with moved := r.moved + moved }) ++
      (if c.run.mode = 0 then []
       else if c.run.next ≤ last then [{ c.run with last := some last, moved := moved, streams := streams }] else []) }

/-- The restart of every channel at a step of Station Time by `d` (R115, R47): the last instant of the old grid before the new one,
and the first frame instant of the new one. -/
def State.restartChains (s : State) (oldEnd newStart : Nat) (d : Int) : State :=
  (List.range 16).foldl (fun s n =>
    let c := s.inp.ain.get n
    if c.run.mode = 0 then s else
    ({ s with inp := { s.inp with ain := s.inp.ain.set n (c.restart c.run.mode c.run.preset c.run.source newStart (oldEnd - 1) d (s.streamsOf 1 n)) } } :
      State).setAin n 2) s

/-- The channels under a new Folio at its frame instant (R115): a change of mode, preset or source restarts the filter. -/
def State.turnChains (s : State) (old : Folio) (frame : Nat) : State :=
  (List.range 16).foldl (fun s n =>
    let ch (f : Fld) : Bool := old.val f != s.cfg f
    if ch (F.inpAinMode n) || ch (F.inpAinPreset n) || ch (F.inpAinSource n) then
      let c := (s.inp.ain.get n).restart (s.cfg (F.inpAinMode n)) (s.cfg (F.inpAinPreset n)) (s.cfg (F.inpAinSource n))
        (frame + 1) frame 0
        ((List.range 45).filter fun k => old.val (F.inpStreamSourceKind k) == 1 && old.val (F.inpStreamSourceIndex k) == n)
      ({ s with inp := { s.inp with ain := s.inp.ain.set n c } } : State).setAin n (if s.cfg (F.inpAinMode n) = 0 then 0 else 2)
    else s) s

/-- The triggers at a turn (R108): no edge under new values falls before the turn. -/
def State.triggerTurn (s : State) (old : Folio) (frame : Nat) : State :=
  { s with inp := { s.inp with trigFrom := (List.range 8).foldl (fun (m : Nats) t =>
      if old.val (F.inpTrigPeriod t) = s.cfg (F.inpTrigPeriod t) ∧ old.val (F.inpTrigAdvance t) = s.cfg (F.inpTrigAdvance t) then m
      else m.set t (frame + s.cfg (F.inpTrigAdvance t))) s.inp.trigFrom } }

/-- The IPv4 groups that the module is a member of: inp.l450_group and spine.hb_group (R120, R334). -/
def Folio.groups (x : Folio) : List Nat :=
  (((List.range 4).map fun g => x.val (F.inpL450Group g)) ++ [x.val F.spineHbGroup]).filter (· != 0)

/-- IGMP version 2 membership reports of every group on some ports that are up (R120, R334). -/
def State.joinGroups (s : State) (ports : List Nat) : State :=
  ports.foldl (fun s q => if s.bringsDatagrams q false then s.active.groups.foldl (fun s g => s.put (.igmp q g true)) s else s) s

/-- At a turn the module leaves the groups that it is no longer a member of, and reports the others (R120, R334). -/
def State.groupTurn (s : State) (old : Folio) : State :=
  if old.groups = s.active.groups then s else
  let gone := old.groups.filter fun g => !s.active.groups.contains g
  let s := (List.range 8).foldl (fun s q =>
    if s.bringsDatagrams q false then gone.foldl (fun s g => s.put (.igmp q g false)) s else s) s
  s.joinGroups (List.range 8)

/-- The source of a stream as its configuration names it. -/
def Folio.streamSource (x : Folio) (k : Nat) : Nat × Nat × Nat :=
  (x.val (F.inpStreamSourceKind k), x.val (F.inpStreamSourceIndex k), x.val (F.inpStreamSourceSelector k))

/-- The streams and IMU ports at a turn (R126, R128): an unused stream and a port that is off read OFF, an analog stream reads the
status of its channel, and the time-out of a stream with a new source starts (log entry 91). -/
def State.streamTurn (s : State) (old : Folio) : State :=
  let s := (List.range 4).foldl (fun (s : State) p => if s.cfg (F.inpImuRate p) = 0 then s.wr (F.inpImuStatus p) 0 else s) s
  (List.range 45).foldl (fun (s : State) k =>
    if old.streamSource k = s.active.streamSource k then s else
    let s : State := { s with inp := { s.inp with lastSample := s.inp.lastSample.set k (some s.clock) } }
    let kind := s.cfg (F.inpStreamSourceKind k)
    if kind = 0 then s.setStream k 0
    else if kind = 1 then s.setStream k (s.rd (F.inpAinStatus (s.cfg (F.inpStreamSourceIndex k)))) else s) s

/-- The inputs under a new Folio at its frame instant (R108, R115, R126). -/
def State.inputTurn (s : State) (old : Folio) (frame : Nat) : State := (((s.turnChains old frame).triggerTurn old frame).streamTurn old).groupTurn old

/-- Ledger entries per frame of a stream at its configured rate (inp.ledger_load, R128), in units of 1/50; a stream without a
configured rate counts none (log entry 24). -/
def Folio.streamLoad (x : Folio) (k : Nat) : Nat :=
  let kind := x.val (F.inpStreamSourceKind k)
  let index := x.val (F.inpStreamSourceIndex k)
  if kind = 1 then if x.val (F.inpAinMode index) = 0 then 0 else 50 * [1, 1, 3, 10].getD (x.val (F.inpAinPreset index)) 1
  else if kind = 2 then [0, 100, 200, 400, 500, 1000, 2000].getD (x.val (F.inpImuRate index)) 0
  else if 3 ≤ kind ∧ x.val (F.inpStreamTimingCls k) = 0 then
    let p := trigPeriod (x.val (F.inpTrigPeriod (x.val (F.inpStreamTimingTrigger k))))
    if p = 0 then 0 else nsSecond / p
  else 0

/-- inp.ledger_load of a Folio, rounded up to whole entries. -/
def Folio.ledgerLoad (x : Folio) : Nat := ((List.range 45).foldl (fun n k => n + x.streamLoad k) 0 + 49) / 50

/-- The faults of R106 in a Folio: the lowest ID involved, none where it passes. -/
def Folio.inputFault (x : Folio) : Option Nat :=
  let kind k := x.val (F.inpStreamSourceKind k)
  let index k := x.val (F.inpStreamSourceIndex k)
  let cls k := x.val (F.inpStreamTimingCls k)
  let ks := List.range 45
  let dup k := ks.any fun j => j != k && kind j == kind k &&
    (if kind k = 5 then x.val (F.inpStreamSourceSelector j) == x.val (F.inpStreamSourceSelector k) else index j == index k)
  let off k :=
    (kind k == 1 && x.val (F.inpAinMode (index k)) == 0) || (kind k == 2 && x.val (F.inpImuRate (index k)) == 0) ||
    (kind k == 3 && x.val (F.inpSerBaud (index k)) == 0) || (kind k == 4 && x.val (F.inpL450Group (index k)) == 0) ||
    (decide (3 ≤ kind k) && cls k == 0 && x.val (F.inpTrigPeriod (x.val (F.inpStreamTimingTrigger k))) == 0)
  let wide t := x.val (F.inpTrigPeriod t) != 0 &&
    decide (trigPeriod (x.val (F.inpTrigPeriod t)) ≤ x.val (F.inpTrigWidth t) * 1000)
  match (List.range 8).find? wide with
  | some t => some (0x3200 + t)
  | none =>
    match ks.find? fun k => kind k != 0 && (((kind k == 1 || kind k == 2) && cls k != 0) || (cls k == 1 && kind k != 5) ||
        ((kind k == 1 || kind k == 2 || kind k == 5) && dup k) || off k) with
    | some k => some (0x3400 + k)
    | none => none

end Sys2Proof.Machine
end

