-- ==== Sys2Proof/Machine/Journal.lean ====
section
/-! DEFINITION. What every block adds to the lifetime counters, and the blocks and pages of the NAND journal (R470 to R472, R481,
R482). -/

namespace Sys2Proof.Machine

/-! ### Lifetime counters, as the other blocks accrue them -/

/-- The value of a lifetime counter, by its parameter ID: what MRAM holds and what has accrued since (R470 to R472). -/
def State.lifeValue (s : State) (id : Nat) : Nat := min (2 ^ 48 - 1) (s.life.committed.get id + s.life.accrued.get id)

/-- The first saturation of a counter: LIFETIME_SATURATED, and EV_LIFE_SATURATED once (R472). -/
def State.checkSaturated (s : State) (id : Nat) : State :=
  if s.lifeValue id = 2 ^ 48 - 1 ∧ s.life.saturated.get id = false then
    let s : State := { s with life := { s.life with saturated := s.life.saturated.set id true } }
    (s.wrFlag F.lifeStatus true).emit 0xE0 (le 2 id)
  else s

/-- An increment of a lifetime counter (R470, R471). -/
def State.accrue (s : State) (id n : Nat) : State :=
  let s : State := { s with life := { s.life with accrued := s.life.accrued.set id (s.life.accrued.get id + n) } }
  s.checkSaturated id

/-! ### The journal's blocks -/

/-- The pages that the journal of 1,920 MiB holds (R481). -/
abbrev journalPages : Nat := 491520

/-- The pages of an erase block. -/
def pagesPerBlock : Nat := max 1 (journalPages / Config.journalBlocks)

/-- life.journal_oldest follows the oldest page (R485). -/
def State.showOldest (s : State) : State :=
  match s.life.pages with
  | p :: _ => s.wr F.lifeJournalOldest (p.at_ / nsSecond)
  | [] => s

/-- A block is retired: none of its pages is programmed any more (R407, R482; log entry 69). -/
def State.retireBlock (s : State) (b : Nat) : State :=
  let s : State := if s.life.block = some b then { s with life := { s.life with block := none } } else s
  if s.life.retired.contains b then s
  else ({ s with life := { s.life with retired := s.life.retired ++ [b] } } : State).add F.lifeNandRetired 1

/-- The highest erase count has reached 80,000; more than 2 % of the journal's blocks are retired (R482). -/
def State.wornErases (s : State) : Bool := decide (80000 ≤ s.rd F.lifeNandEraseMax)

def State.wornRetired (s : State) : Bool := decide (2 * Config.journalBlocks < 100 * s.rd F.lifeNandRetired)

/-- EV_LIFE_NAND_WEAR, once for either case, when the case comes about (R482). -/
def State.checkWear (s : State) : State :=
  let e := s.wornErases
  let r := s.wornRetired
  if (e && !s.life.wearErases) || (r && !s.life.wearRetired) then
    ({ s with life := { s.life with wearErases := e, wearRetired := r } } : State).emit 0xE3
      (le 4 (s.rd F.lifeNandEraseMax) ++ le 4 (s.rd F.lifeNandRetired))
  else s

/-- A page that fails its BCH check: it is lost, and its block is retired (R407 checker 6, R481, R482). -/
def State.losePage (s : State) (seq : Nat) : State :=
  match s.life.pages.find? fun p => p.seq == seq with
  | some x =>
    let s : State := { s with life := { s.life with pages := s.life.pages.filter fun p => p.seq != seq } }
    ((s.retireBlock x.block).checkWear).showOldest
  | none => s

/-- The blocks that hold no page and are not retired. -/
def State.freeBlocks (s : State) : List Nat :=
  (List.range Config.journalBlocks).filter fun b => !s.life.retired.contains b && !s.life.pages.any fun p => p.block == b

/-- The least-erased of some blocks, of equals the lowest (R482). -/
def State.leastErased (s : State) (bs : List Nat) : Option Nat :=
  bs.foldl (fun m b => match m with
    | some a => if s.life.erases.get b < s.life.erases.get a then some b else some a
    | none => some b) none

/-- The circle is full: the block of the oldest page is given up with what it holds (R481). -/
def State.freeOldest (s : State) : State :=
  let rest := s.life.pages.dropWhile fun p => s.life.retired.contains p.block
  match rest with
  | x :: _ => { s with life := { s.life with pages := rest.filter fun p => p.block != x.block } }
  | [] => s

/-- A block erased for new pages (R470, R482). -/
def State.countErase (s : State) (b : Nat) : State :=
  let k := s.life.erases.get b + 1
  let s : State := { s with life := { s.life with erases := s.life.erases.set b k } }
  (s.accrue 0xE020 1).wr F.lifeNandEraseMax (min (2 ^ 32 - 1) (max k (s.rd F.lifeNandEraseMax)))

/-- A new block: the least-erased free one, erased (R482). -/
def State.newBlock (s : State) : State :=
  let s := if s.freeBlocks.isEmpty then s.freeOldest else s
  let b := s.leastErased s.freeBlocks
  let s : State := { s with life := { s.life with block := b, used := 0 } }
  match b with
  | some n => s.countErase n
  | none => s

/-- A block with room for a page: the one in use, or a new one. -/
def State.openBlock (s : State) : State :=
  if s.life.block.isSome ∧ s.life.used < pagesPerBlock then s else s.newBlock

/-- A page programmed into the block in use (R481); none where every block is retired. -/
def State.addPage (s : State) (at_ : Nat) (compressed resetMark : Bool) (body : List Byte) : State :=
  let s := s.openBlock
  match s.life.block with
  | some b =>
    ({ s with life := { s.life with
        pages := s.life.pages ++ [⟨s.life.nextPage, b, at_, compressed, resetMark, body⟩], nextPage := s.life.nextPage + 1,
        used := s.life.used + 1 } } : State).showOldest
  | none => s

end Sys2Proof.Machine
end

