-- ==== Sys2Proof/Machine/Can.lean ====
section
/-! DEFINITION. Field channels: acceptance, receive targets, transmit queues, error states and remote I/O frames (R309 to R327). -/

namespace Sys2Proof.Machine

/-- A channel's mode (R326): 0 off, 1 normal, 2 listen-only. -/
def State.canMode (s : State) (c : Nat) : Nat := s.cfg (F.canModeMode c)

/-- The counter of R314: Station Time in units of 12.5 ns. -/
def stampOf (t : Nat) : Nat := t * 2 / 25

/-- The identifier bits of a frame. -/
def canId (f : CanFrame) : Nat := f.ident.toNat % 2 ^ 29
/-- The extended format. -/
def canExt (f : CanFrame) : Bool := testBit f.ident.toNat 29

/-- The bytes a DLC implies in CAN FD. -/
def dlcBytes (dlc : Nat) : Nat := if dlc ≤ 8 then dlc else [12, 16, 20, 24, 32, 48, 64].getD (dlc - 9) 64

/-- The smallest DLC that holds a number of bytes. -/
def dlcFor (n : Nat) : Nat := ((List.range 16).find? fun d => decide (n ≤ dlcBytes d)).getD 15

/-- The place of a frame in arbitration: the lower wins (ISO 11898-1). -/
def canOrder (f : CanFrame) : Nat :=
  if (canExt f) then (canId f) / 2 ^ 18 * 2 ^ 19 + 2 ^ 18 + (canId f) % 2 ^ 18 else (canId f) * 2 ^ 19

/-- The 80 bytes of a frame record (R525). -/
def CanRec.bytes (r : CanRec) (overwritten : Bool) : List Byte :=
  let f := r.frame
  le 8 r.stamp ++ le 1 r.chan ++ le 1 (bit overwritten + 4 * bit f.fdf + 8 * bit f.brs + 16 * bit f.esi) ++ le 1 f.dlc ++
    le 1 0 ++ le 4 (f.ident.toNat % 2 ^ 30) ++ padTo 64 f.data

/-! ### The bus -/

/-- A bit of the nominal phase, in ns (R312): controller clocks of 12.5 ns. -/
def Folio.nominalBit (x : Folio) (c : Nat) : Nat :=
  x.val (F.canNbtBrp c) * (1 + x.val (F.canNbtTseg1 c) + x.val (F.canNbtTseg2 c)) * 25 / 2

/-- The Folio under which a frame passes: a frame in progress at a turn completes under the old one (R313). -/
def State.folioFor (s : State) (sof : Nat) : Folio :=
  match s.can.turned with
  | some u => if sof < u.at_ then u.folio else s.active
  | none => s.active

/-- A channel is on the bus for a frame that starts at an instant: error-active or error-passive, and past the recessive bits that follow a
change of timing; a frame in progress at the turn completes (R311, R313, R324). -/
def State.onBus (s : State) (c sof : Nat) : Bool :=
  let st := s.rd (F.canStatusState c)
  let live := st != 0 && st != 3 && !s.can.resync.get c
  match s.can.turned with
  | some u => if sof < u.at_ then u.live.contains c else live
  | none => live

/-- The bus of a channel was busy for some time (R326, log entry 41). -/
def State.wasBusy (s : State) (c ns : Nat) : State :=
  { s with can := { s.can with busy := s.can.busy.set c (s.can.busy.get c + ns) } }

/-- An instant on the clock that no step moves. -/
def State.onClock (s : State) (t : Nat) : Nat := (s.clock + t) - s.now

/-! ### Errors -/

/-- The error state of a channel (R327): a change sends EV_CAN_BUS_STATE. -/
def State.setBusState (s : State) (c new tec rec : Nat) : State :=
  let old := s.rd (F.canStatusState c)
  let s := ((s.wr (F.canStatusState c) new).wr (F.canStatusTec c) (min tec 255)).wr (F.canStatusRec c) (min rec 255)
  if old = new then s else
  let s := if new = 3 then
      ({ s with can := { s.can with offAt := s.can.offAt.set c s.clock } } : State).inc (F.canBusoffCount c)
    else s
  s.emit 0x80 (le 1 c ++ le 1 old ++ le 1 new ++ le 1 (min tec 255) ++ le 1 (min rec 255))

/-- The error state that the counters give (R309, log entry 101): bus-off above 255, error-passive above 127. -/
def State.judgeBus (s : State) (c tec rec : Nat) : State :=
  s.setBusState c (if 256 ≤ tec then 3 else if 128 ≤ tec ∨ 128 ≤ rec then 2 else 1) tec rec

/-- What an error adds to the counters (R309, log entry 101). -/
def errorStep (e : CanErr) (passive : Bool) : Nat × Nat :=
  match e with
  | .transmit => (8, 0)
  | .ack => (if passive then 0 else 8, 0)
  | .receive => (0, 1)
  | .dominant => (0, 8)

/-- CAN_BUS_ERROR: the error counters as ISO 11898-1 moves them, and the state they give (R309, R324). -/
def execCanBusError (ch : Fin 8) (e : CanErr) (busyNs : Nat) (s : State) : Host.Outcome State Fault Refusal :=
  act (fun s =>
    let c := ch.val
    if s.ready = false ∨ s.onBus c s.now = false ∨ (s.canMode c = 2 ∧ (e = .transmit ∨ e = .ack)) then s else
    let d := errorStep e (s.rd (F.canStatusState c) == 2)
    (s.wasBusy c busyNs).judgeBus c (s.rd (F.canStatusTec c) + d.1) (s.rd (F.canStatusRec c) + d.2)) s

/-- The receive error counter after a frame received without error (R309, log entry 101): one less, and from above 127 some value of 119 to 127. -/
def State.lessRec (s : State) (c : Nat) : State :=
  let n := s.rd (F.canStatusRec c)
  if s.rd (F.canStatusState c) = 0 ∨ n = 0 then s
  else if n < 128 then s.judgeBus c (s.rd (F.canStatusTec c)) (n - 1)
  else
    let r := s.freeNat
    r.2.judgeBus c (s.rd (F.canStatusTec c)) (119 + r.1 % 9)

/-- The transmit error counter after a frame sent without error (R309, log entry 101). -/
def State.lessTec (s : State) (c : Nat) : State :=
  let n := s.rd (F.canStatusTec c)
  if s.rd (F.canStatusState c) = 0 ∨ n = 0 then s else s.judgeBus c (n - 1) (s.rd (F.canStatusRec c))

/-- CAN_BUSOFF_RECOVERY: after 128 occurrences of 11 recessive bits, no sooner than 1,408 nominal bit times, a channel is error-active again
(R324). -/
def execCanBusoffRecovery (ch : Fin 8) (s : State) : Host.Outcome State Fault Refusal :=
  act (fun s =>
    let c := ch.val
    if s.ready ∧ s.rd (F.canStatusState c) = 3 ∧ s.can.resync.get c = false ∧
        s.can.offAt.get c + 1408 * s.active.nominalBit c < s.clock + nsTick then
      s.setBusState c 1 0 0
    else s) s

/-- The clock of the last turn. -/
def State.turnedAt (s : State) : Nat :=
  match s.can.turned with
  | some u => u.mono
  | none => 0

/-- CAN_TIMING_RESYNC: 11 recessive bits under the new timing after a change of mode or timing (R313). -/
def execCanTimingResync (ch : Fin 8) (s : State) : Host.Outcome State Fault Refusal :=
  act (fun s =>
    let c := ch.val
    if s.ready ∧ s.can.resync.get c ∧ s.turnedAt + 11 * s.active.nominalBit c < s.clock + nsTick then
      ({ s with can := { s.can with resync := s.can.resync.set c false } } : State).setBusState c 1 0 0
    else s) s

/-- A Folio turn: the channels whose mode or timing it changes clear their error counters and wait for recessive bits (R313). -/
def State.canTurn (s : State) (old : Folio) : State :=
  let live := (List.range 8).filter fun c => s.onBus c s.now
  let ch (f : Fld) : Bool := old.val f != s.cfg f
  let s : State := { s with can := { s.can with turned := some ⟨s.now, s.clock, old, live⟩ } }
  (List.range 8).foldl (fun (s : State) c =>
    if ch (F.canModeMode c) || ch (F.canNbtBrp c) || ch (F.canNbtTseg1 c) || ch (F.canNbtTseg2 c) || ch (F.canNbtSjw c) ||
        ch (F.canDbtBrp c) || ch (F.canDbtTseg1 c) || ch (F.canDbtTseg2 c) || ch (F.canDbtSjw c) || ch (F.canDbtTdc c) ||
        ch (F.canDbtSspo c) then
      let on := s.canMode c != 0
      let s : State := { s with can := { s.can with resync := s.can.resync.set c on } }
      if on then (s.wr (F.canStatusTec c) 0).wr (F.canStatusRec c) 0 else s.setBusState c 0 0 0
    else s) s

/-! ### Acceptance -/

/-- A node of the remote I/O table is enabled (R292). -/
def State.nodeOn (s : State) (m : Nat) : Bool := s.active.nodeOn m

/-- The channels that have an enabled node (R319). -/
def State.nodeChannels (s : State) : List Nat := s.active.nodeChannels

/-- A frame meets an identifier and a mask (R316, R524). -/
def idMatches (f : CanFrame) (ide : Bool) (ident mask : Nat) : Bool :=
  let m := if ide then mask else mask % 2 ^ 11
  (canExt f) == ide && ((canId f) &&& m) == (ident &&& m)

/-- A frame matches an entry of the acceptance filter table (R316). -/
def Folio.filterMatches (x : Folio) (e c : Nat) (f : CanFrame) : Bool :=
  x.val (F.canFilterEnabled e) == 1 && testBit (x.val (F.canFilterChannels e)) c &&
  idMatches f (x.val (F.canFilterIde e) == 1) (x.val (F.canFilterIdent e)) (x.val (F.canFilterMask e))

/-- A frame matches an express entry (R316). -/
def Folio.expressMatches (x : Folio) (e c : Nat) (f : CanFrame) : Bool :=
  x.val (F.canExpressEnabled e) == 1 && testBit (x.val (F.canExpressChannels e)) c &&
  idMatches f (x.val (F.canExpressIde e) == 1) (x.val (F.canExpressIdent e)) (x.val (F.canExpressMask e))

/-- The target of a frame (R316, R319): remote I/O entries, express entries, then entries 8 to 4,095. -/
def Folio.canTarget (x : Folio) (c : Nat) (f : CanFrame) : Option CanTarget :=
  if x.nodeChannels.contains c && (canExt f) && f.fdf && (canId f) / 2 ^ 18 == x.val (F.canRioId c) && (canId f) / 2 ^ 16 % 4 == 1 then
    some .remote
  else match (List.range 64).find? fun e => x.expressMatches e c f with
    | some e => some (.buffer (1024 + e))
    | none =>
      match (List.range 4088).find? fun e => x.filterMatches (8 + e) c f with
      | some e => some (if x.val (F.canFilterTarget (8 + e)) = 1 then .fifo else .buffer (x.val (F.canFilterBuffer (8 + e))))
      | none => none

/-- A received frame matched to its target, or counted as unmatched (R309, R316), under the table of its start of frame (R313). -/
def State.takeFrame (s : State) (c sof eof : Nat) (f : CanFrame) : State :=
  if f.rtr then s.inc (F.canRxUnmatched c) else
  match (s.folioFor sof).canTarget c f with
  | none => s.inc (F.canRxUnmatched c)
  | some t => { s with can := { s.can with rx := s.can.rx ++ [⟨⟨stampOf sof, c, f⟩, t, eof⟩] } }

/-- CAN_FRAME_RX: a frame that ends in this tick is acknowledged, stamped and matched (R309, R310, R314, R316). -/
def execCanFrameRx (ch : Fin 8) (f : CanFrame) (sofNs eofNs : Nat) (s : State) : Host.Outcome State Fault Refusal :=
  act (fun s =>
    let c := ch.val
    if s.ready = false ∨ s.onBus c sofNs = false ∨ eofNs < s.now ∨ s.withinTick eofNs = false then s else
    let s := if (s.folioFor sofNs).val (F.canModeMode c) = 1 then s.put (.canAck c) else s
    ((s.wasBusy c (eofNs - sofNs)).takeFrame c sofNs eofNs f).lessRec c) s

/-! ### Delivery -/

/-- A frame in a receive or express buffer (R315, R317). -/
def State.fillBuffer (s : State) (n : Nat) (r : CanRec) : State :=
  let old := s.can.bufs.get n
  let hadOne := old.rec_.isSome
  let s := { s with can := { s.can with bufs := s.can.bufs.set n ⟨some r, old.overwritten || hadOne⟩ } }
  let s := if hadOne then s.inc F.canRxOverwrites else s
  if n < 1024 then s else
  s.emit 0x81 (le 1 (n - 1024) ++ le 1 r.chan ++ le 4 (r.frame.ident.toNat % 2 ^ 30) ++ le 8 r.stamp ++ padTo 8 r.frame.data)

/-- A frame in its channel's FIFO (R315, R318), and in the Voyage Recorder for the channels of life.rec_can_mask (R478). -/
def State.fillFifo (s : State) (r : CanRec) : State :=
  let q := s.can.fifo.get r.chan
  if 256 ≤ q.length then
    ({ s with can := { s.can with lost := s.can.lost.set r.chan (s.can.lost.get r.chan + 1) } } : State).inc
      (F.canFifoOverflow r.chan)
  else
    let s := { s with can := { s.can with fifo := s.can.fifo.set r.chan (q ++ [r]) } }
    if testBit (s.cfg F.lifeRecCanMask) r.chan then s.record 4 0 (r.bytes false) 0 else s

/-- The node of a reply (R319). -/
def State.replyNode (s : State) (r : CanRec) : Option Nat :=
  (List.range 64).find? fun m =>
    s.nodeOn m && s.cfg (F.logicNodeCfgChannel m) == r.chan && s.cfg (F.logicNodeCfgNumber m) == (canId r.frame) % 64

/-- A reply to a Cycle Mark (R293, R322). -/
def State.remoteReply (s : State) (r : CanRec) (eof : Nat) : State :=
  match s.replyNode r with
  | none => s
  | some m =>
    let len := s.cfg (F.logicNodeInLength m)
    let off := s.cfg (F.logicNodeInOffset m)
    let tag := (canId r.frame) / 256 % 256
    let now := s.rd F.logicCycleCount
    let late := s.logic.phase ≠ 1 ∨ s.logic.cycleAt + s.cfg F.logicReplyWindow * 1000 ≤ eof
    if tag ≠ now % 256 ∨ late then
      let s : State :=
        if tag = now % 256 then { s with logic := { s.logic with lateNext := putBit s.logic.lateNext m true } }
        else if s.logic.phase = 1 ∧ tag = (now + 255) % 256 then
          { s with logic := { s.logic with lateNow := putBit s.logic.lateNow m true } }
        else s
      s.inc (F.logicNodeLateCount m)
    else if dlcBytes r.frame.dlc < len then s.inc (F.canRxUnmatched r.chan)
    else
      let input := s.logic.input.writeBytes off (padTo len r.frame.data)
      let valid := putBit (unle (input.readBytes 48 8)) m true
      { s with logic := { s.logic with input := input.writeBytes 48 (le 8 valid) } }

/-- A frame enters its target. -/
def State.canDeliver (s : State) (x : CanRx) : State :=
  match x.target with
  | .buffer n => s.fillBuffer n x.rec_
  | .fifo => s.fillFifo x.rec_
  | .remote => s.remoteReply x.rec_ x.eof

/-- The frames in flight that meet a test, delivered in order of arrival. -/
def State.deliverWhere (s : State) (p : CanRx → Bool) : State :=
  let start : State := { s with can := { s.can with rx := s.can.rx.filter fun x => !p x } }
  (s.can.rx.filter p).foldl (fun (s : State) x => s.canDeliver x) start

/-- CAN_RX_DELIVER: at the tick boundary after its end of frame a frame enters its target (R315), one that completes at a boundary at the next
(R265); one whose transfer failed is withheld
until the next (R15). -/
def execCanRxDeliver (ch : Fin 8) (s : State) : Host.Outcome State Fault Refusal :=
  act (fun s =>
    if s.ready ∧ s.isWithheld (.can ch) = false then s.deliverWhere fun x => x.rec_.chan == ch.val && decide (x.eof < s.now) else s) s

/-! ### Transmission -/

/-- A frame that the module sends: CAN FD, base or extended (R309). -/
def State.txFrame (s : State) (c : Nat) (ext : Bool) (ident : Nat) (data : List Byte) : CanFrame :=
  let n := dlcFor data.length
  ⟨BitVec.ofNat 32 (ident + if ext then 2 ^ 29 else 0), n, true, s.cfgFlag (F.canModeBrs c), s.rd (F.canStatusState c) == 2, false,
    padTo (dlcBytes n) data⟩

/-- A dropped frame counted (R294, R321). -/
def State.countDrop (s : State) (c : Nat) (k : TxKind) : State :=
  match k with
  | .mark => s.inc (F.canMarkMissed c)
  | .command _ => s.inc (F.canCmdDropped c)
  | .output n => s.inc (F.logicNodeOutMissed n.val)

/-- Frames taken out of a channel's queue, and counted as dropped (R321). -/
def State.dropTx (s : State) (c : Nat) (p : TxItem → Bool) : State :=
  let q := s.can.tx.get c
  let start : State := { s with can := { s.can with tx := s.can.tx.set c (q.filter fun x => !p x) } }
  (q.filter p).foldl (fun (s : State) x => s.countDrop c x.kind) start

/-- A frame queued on a channel in normal mode (R321). -/
def State.queueTx (s : State) (c : Nat) (x : TxItem) : State :=
  if s.canMode c ≠ 1 then s else
  { s with can := { s.can with tx := s.can.tx.set c (s.can.tx.get c ++ [x]) } }

/-- A queued frame may start: an output frame only while the engine is RUNNING, and after those of lower node index (R294). -/
def State.mayStart (s : State) (q : List TxItem) (x : TxItem) : Bool :=
  match x.kind with
  | .output m =>
    s.rd F.logicStateState == 2 && q.all fun y => match y.kind with
      | .output n => decide (m.val ≤ n.val)
      | _ => true
  | _ => true

/-- The queued frame that wins arbitration. -/
def firstTx : List TxItem → Option TxItem
  | [] => none
  | x :: rest =>
    match firstTx rest with
    | some y => if canOrder y.frame < canOrder x.frame then some y else some x
    | none => some x

/-- The frame that a channel sends at a start of frame: the first in arbitration of those queued by then whose lifetime lasts and that may
start (R294, R321). -/
def State.sending (s : State) (c sof : Nat) : Option TxItem :=
  let t := s.onClock sof
  let q := (s.can.tx.get c).filter fun x => decide (x.from_ ≤ t) && decide (t < x.ends)
  firstTx (q.filter fun x => s.mayStart q x)

/-- A queued frame completes: it leaves the queue and the channel, with the channel's error state in its ESI and the stamp of its start of
frame (R275, R309, R314, R321). -/
def State.completeTx (s : State) (c sof : Nat) (x : TxItem) : State :=
  let s : State := { s with can := { s.can with tx := s.can.tx.set c ((s.can.tx.get c).erase x) } }
  let s := s.put (.can c (stampOf sof) { x.frame with esi := s.rd (F.canStatusState c) == 2 })
  match x.kind with
  | .mark => { s with logic := { s.logic with marks := s.logic.marks.set c (stampOf sof) } }
  | .command a => { s with loop := { s.loop with counters := s.loop.counters.set a.val (s.loop.counters.get a.val + 1) } }
  | .output _ => s

/-- CAN_FRAME_TX_COMPLETE: a queued frame completes, or loses arbitration or errors and is retried (R275, R314, R321). -/
def execCanFrameTxComplete (ch : Fin 8) (sofNs eofNs : Nat) (done : Bool) (s : State) : Host.Outcome State Fault Refusal :=
  act (fun s =>
    let c := ch.val
    if s.ready = false ∨ s.onBus c sofNs = false ∨ (s.folioFor sofNs).val (F.canModeMode c) ≠ 1 ∨ eofNs < s.now ∨
        s.withinTick eofNs = false then s else
    match s.sending c sofNs with
    | none => s
    | some x => if done = false then s else ((s.wasBusy c (eofNs - sofNs)).completeTx c sofNs x).lessTec c) s

/-- CAN_LIFETIME_END: a queued frame whose lifetime ends before its start of frame is dropped and counted (R321); one whose start of frame
has passed is on the bus, and completes. -/
def execCanLifetimeEnd (ch : Fin 8) (k : TxDue) (s : State) : Host.Outcome State Fault Refusal :=
  act (fun s =>
    if s.ready ∧ k.onBus = false then s.dropTx ch.val fun x => x.kind == k.kind && decide (x.ends < s.clock + nsTick) else s) s

/-- The channels at a frame instant that begins a second: the overflows of the second before (R318) and the bus load
(R326, log entry 41). -/
def State.canFrame (s : State) : State :=
  if s.rd F.timeFrameIndex ≠ 0 then s else
  (List.range 8).foldl (fun (s : State) c =>
    let n := s.can.lost.get c
    let s : State := { s with can := { s.can with lost := s.can.lost.set c 0 } }
    let s := if n = 0 then s else s.emit 0x82 (le 1 c ++ le 4 n)
    let busy := s.can.busy.get c
    let s : State := { s with can := { s.can with busy := s.can.busy.set c 0 } }
    s.wr (F.canBusLoad c) (min (busy / nsMs) 1000)) s

/-! ### Commands -/

/-- CMD_CAN_BUF_READ (R327, R525). -/
def execCmdCanBufRead (h : Hdr) (buf : W16) (s : State) : Host.Outcome State Fault Refusal :=
  act (fun s => s.command h 0x8001 (le 2 buf.toNat) fun s =>
    let n := buf.toNat
    if 1087 < n then s.reply Res.outOfRange else
    let b := s.can.bufs.get n
    match b.rec_ with
    | none => s.reply Res.ok (le 9 0 ++ le 1 2 ++ le 70 0)
    | some r =>
      ({ s with can := { s.can with bufs := s.can.bufs.set n { b with overwritten := false } } } : State).reply Res.ok
        (r.bytes b.overwritten)) s

/-- CMD_CAN_FIFO_READ (R327, R525). -/
def execCmdCanFifoRead (h : Hdr) (chan : Byte) (count : W32) (s : State) : Host.Outcome State Fault Refusal :=
  act (fun s => s.command h 0x8002 ([chan] ++ le 4 count.toNat) fun s =>
    let c := chan.toNat
    if 7 < c ∨ count.toNat = 0 ∨ 48 < count.toNat then s.reply Res.outOfRange else
    let q := s.can.fifo.get c
    let out := q.take count.toNat
    ({ s with can := { s.can with fifo := s.can.fifo.set c (q.drop count.toNat) } } : State).reply Res.ok
      (le 4 out.length ++ out.flatMap fun r => r.bytes false)) s

end Sys2Proof.Machine
end

