-- ==== Sys2Proof/Machine/Types.lean ====
section
/-! DEFINITION. The types of logic variables and when a forced value of one is representable in another (R303). -/

namespace Sys2Proof.Machine

open Sys2Proof.Float

/-- The whole number that a value of an integer, bit string or BOOL spells. -/
def wholeOf (t : IecType) (val : List Byte) : Option Int :=
  match t with
  | .bool => some (unle (val.take 1))
  | .int sgn n => let v := unle (val.take n); some (if sgn then signed (8 * n) v else v)
  | .bits n => some (unle (val.take n))
  | _ => none

/-- A whole number as a value of an integer, bit string or BOOL, none outside its range. -/
def wholeTo (t : IecType) (v : Int) : Option (List Byte) :=
  let range (lo hi : Int) (n : Nat) : Option (List Byte) :=
    if lo ≤ v ∧ v < hi then some (le n (v % (2 ^ (8 * n) : Nat)).toNat) else none
  match t with
  | .bool => range 0 2 1
  | .int sgn n => if sgn then range (-(2 ^ (8 * n - 1) : Nat)) (2 ^ (8 * n - 1) : Nat) n else range 0 (2 ^ (8 * n) : Nat) n
  | .bits n => range 0 (2 ^ (8 * n) : Nat) n
  | _ => none

/-- The number that a REAL or LREAL spells. -/
def realOf (t : IecType) (val : List Byte) : Option FpNum :=
  match t with
  | .real => some (n32 (BitVec.ofNat 32 (unle (val.take 4))))
  | .lreal => some (n64 (BitVec.ofNat 64 (unle (val.take 8))))
  | _ => none

/-- Two numbers are equal and finite. -/
def sameNum (a b : FpNum) : Bool := finite a && finite b && !lt a b && !lt b a

/-- A number as a REAL or LREAL, none where it is not exactly representable. -/
def realTo (t : IecType) (x : FpNum) : Option (List Byte) :=
  match t with
  | .real => if sameNum (n32 (r32 x)) x then some (le 4 (r32 x).toNat) else none
  | .lreal => if sameNum (n64 (r64 x)) x then some (le 8 (r64 x).toNat) else none
  | _ => none

/-- A forced value in a new type, none where the force is lost (R303). -/
def convertForce (old new : IecType) (val : List Byte) : Option (List Byte) :=
  match old, new with
  | .str _, .str n => if val.length ≤ n then some val else none
  | .duration u1 n1, .duration u2 n2 =>
    let t := unle (val.take n1) * u1
    if t % u2 = 0 ∧ t / u2 < 2 ^ (8 * n2) then some (le n2 (t / u2)) else none
  | _, _ =>
    match wholeOf old val, realOf old val with
    | some v, _ =>
      match old, new with
      | .int _ _, .real => realTo new (ofInt v)
      | .int _ _, .lreal => realTo new (ofInt v)
      | _, _ => wholeTo new v
    | none, some x =>
      match new with
      | .int _ _ =>
        let r := ratioOf x
        if finite x && r.1 % (r.2 : Int) == 0 then wholeTo new (r.1 / (r.2 : Int)) else none
      | _ => realTo new x
    | none, none => none

end Sys2Proof.Machine
end

