-- ==== Sys2Proof/Machine/Logic.lean ====
section
/-! DEFINITION. The Cyclic Logic Engine: cycles, images, remote I/O, forces, restarts and online change (R285 to R308). -/

namespace Sys2Proof.Machine

/-! ### States -/

/-- The engine's state (R296): 0 EMPTY, 1 STOPPED, 2 RUNNING, 3 FAULTED. -/
def State.logicState (s : State) : Nat := s.rd F.logicStateState

/-- The causes and reasons of EV_LOGIC_STATE, in the order of R308. -/
abbrev whyCommand : Nat := 3
/-- R308. -/
abbrev whyNoRetain : Nat := 4
/-- R308. -/
abbrev whyRetainMismatch : Nat := 5

/-- A change of state, with its cause in logic.state (R307, R308); of a start that a reset makes R308 lists no reason, and it is free. -/
def State.setLogicState (s : State) (new fault : Nat) (why : Option Nat) : State :=
  let old := s.logicState
  let s := (s.wr F.logicStateState new).wr F.logicStateCause fault
  if old = new then s else s.emit 0x70 (le 1 old ++ le 1 new ++ (match why with
    | some n => le 1 n
    | none => s.noValue 0x70))

/-- The active slot, P0 or P1. -/
def State.activeSlot (s : State) : Nat := s.rd F.logicStateSlot

/-- What validation read of the active program. -/
def State.program (s : State) : Option ProgInfo := (s.logic.slots.get s.activeSlot).info

/-- The cycle period in ns of a code (R307). -/
def periodNs (code : Nat) : Nat := [5, 10, 20, 40, 100, 200].getD code 20 * nsMs

/-- What logic.code_used to logic.shadow_id show (R307). -/
def State.showProgram (s : State) : State :=
  let other := (s.logic.slots.get (1 - s.activeSlot)).info
  let s := match s.program with
    | some p => (((s.wr F.logicProgramId p.progId.toNat).wr F.logicCodeUsed p.code).wr F.logicDataUsed p.data).wr F.logicRetainUsed
        p.retain
    | none => (((s.wr F.logicProgramId 0).wr F.logicCodeUsed 0).wr F.logicDataUsed 0).wr F.logicRetainUsed 0
  s.wr F.logicShadowId (match other with
    | some p => p.progId.toNat
    | none => 0)

/-! ### Forces -/

/-- The target of a force in a command (R308, log entry 43): kind, then offset or path. -/
def targetBytes : ForceTarget → List Byte
  | .input off => le 1 0 ++ le 4 off
  | .output off => le 1 1 ++ le 4 off
  | .var path => le 1 2 ++ le 1 path.length ++ path

/-- The target of a force in an event, whose payload has 96 bytes (R456, log entry 43): a longer path is cut. -/
def eventTarget : ForceTarget → List Byte
  | .var path => le 1 2 ++ le 1 path.length ++ path.take 80
  | t => targetBytes t

/-- EV_LOGIC_FORCE (R308): 0 set, 1 removed. -/
def State.forceEvent (s : State) (t : ForceTarget) (what : Nat) : State := s.emit 0x72 (eventTarget t ++ le 1 what)

/-- EV_LOGIC_FORCE for a lost force (R303): reason 0 UNDECLARED, 1 TYPE. -/
def State.forceLost (s : State) (t : ForceTarget) (why : Nat) : State := s.emit 0x72 (eventTarget t ++ le 1 2 ++ le 1 why)

/-- The forces in effect replaced, with their count. -/
def State.setForces (s : State) (fs : List Force) : State :=
  ({ s with logic := { s.logic with forces := fs } } : State).wr F.logicForceCount fs.length

/-- Every force removed (R296, R298). -/
def State.clearForces (s : State) : State :=
  let fs := s.logic.forces
  fs.foldl (fun (s : State) f => s.forceEvent f.target 1) (s.setForces [])

/-- A force set or removed at a cycle instant (R298). -/
def State.forceOp (s : State) (op : ForceOp) : State :=
  match op with
  | .set f => (s.setForces (s.logic.forces.filter (fun g => g.target != f.target) ++ [f])).forceEvent f.target 0
  | .remove (some t) =>
    if s.logic.forces.any fun g => g.target == t then
      (s.setForces (s.logic.forces.filter fun g => g.target != t)).forceEvent t 1
    else s
  | .remove none => s.clearForces

/-- A symbol of the active program. -/
def State.symbol (s : State) (path : List Byte) : Option Sym :=
  match s.program with
  | some p => p.syms.find? fun y => y.path == path
  | none => none

/-- A variable written in the data or the retain area. -/
def State.writeSym (s : State) (y : Sym) (val : List Byte) : State :=
  if y.retain then { s with logic := { s.logic with retain := s.logic.retain.writeBytes y.off (val.take y.len) } }
  else { s with logic := { s.logic with data := s.logic.data.writeBytes y.off (val.take y.len) } }

/-- A variable's bytes. -/
def State.readSym (s : State) (y : Sym) : List Byte :=
  (if y.retain then s.logic.retain else s.logic.data).readBytes y.off y.len

/-- A variable written in a working copy. -/
def WorkCopy.write (w : WorkCopy) (y : Sym) (val : List Byte) : WorkCopy :=
  if y.retain then { w with retain := w.retain.writeBytes y.off (val.take y.len) }
  else { w with data := w.data.writeBytes y.off (val.take y.len) }

/-- The forces on variables applied to a working copy: every read returns the forced value, and no write of the program has an effect
(R298). -/
def State.forceVars (s : State) (w : WorkCopy) : WorkCopy :=
  s.logic.forces.foldl (fun w f =>
    match f.target with
    | .var path => match s.symbol path with
      | some y => w.write y f.val
      | none => w
    | _ => w) w

/-- The forces on input entries and variables applied at C + W (R298): the latter in the working copy of the cycle (R288). -/
def State.forceInputs (s : State) : State :=
  let input := s.logic.forces.foldl (fun (m : Mem) f =>
    match f.target with
    | .input off => m.writeBytes off f.val
    | _ => m) s.logic.input
  { s with logic := { s.logic with input := input, work := some (s.forceVars ⟨s.logic.data, s.logic.retain⟩) } }

/-- The output image with the forces on its entries (R298). -/
def State.forcedOutput (s : State) : Mem :=
  s.logic.forces.foldl (fun (m : Mem) f =>
    match f.target with
    | .output off => m.writeBytes off f.val
    | _ => m) s.logic.written

/-! ### Restarts and swaps -/

/-- The memory of a list of initial values. -/
def memOf (xs : List (Nat × Byte)) : Mem := (Store.empty : Mem).setAll xs

/-- The data of a matched variable carried from the old areas to the new ones (R301). -/
def carrySyms (old new : List Sym) (oldData oldRetain : Mem) (s : State) : State :=
  new.foldl (fun (s : State) y =>
    match old.find? fun x => x.path == y.path && x.typ == y.typ && x.len == y.len with
    | some x => s.writeSym y ((if x.retain then oldRetain else oldData).readBytes x.off x.len)
    | none => s) s

/-- Data and retain area at their initial values. -/
def State.initialValues (s : State) (p : ProgInfo) : State :=
  { s with logic := { s.logic with data := memOf p.dataInit, retain := memOf p.retainInit, retainProg := some p.progId.toNat } }

/-- The start of the engine common to every restart: cycle numbers begin afresh (R296, R307). -/
def State.beginRun (s : State) (first : Nat) (why : Option Nat) : State :=
  let s := { s with logic := { s.logic with first := first, committed := none, phase := 0, work := none, divZero := false } }
  (((s.wr F.logicCycleCount 0).wr F.logicExecTime 0).wr F.logicExecTimeMax 0).setLogicState 2 0 why

/-- A cold restart (R296). -/
def State.coldRestart (s : State) (p : ProgInfo) (why : Option Nat) : State :=
  ((s.clearForces).initialValues p).beginRun 2 why

/-- A warm restart (R296, R297): retained data kept, or carried over from the program in the other slot; otherwise cold. -/
def State.warmRestart (s : State) (p : ProgInfo) (why : Option Nat) : State :=
  let other := (s.logic.slots.get (1 - s.activeSlot)).info
  match s.logic.retainProg with
  | none => s.coldRestart p (some whyNoRetain)
  | some id =>
    if id = p.progId.toNat then
      let kept := p.timerBytes.foldl (fun (m : Mem) a => m.set a 0) s.logic.retain
      ({ s with logic := { s.logic with data := memOf p.dataInit, retain := kept } } : State).beginRun 1 why
    else match other with
      | some o =>
        if id = o.progId.toNat then
          let old := s.logic.retain
          let kept := o.syms.filter (·.retain)
          let s := carrySyms kept p.syms (Store.empty : Mem) old (s.initialValues p)
          let m := p.timerBytes.foldl (fun (m : Mem) a => m.set a 0) s.logic.retain
          ({ s with logic := { s.logic with retain := m } } : State).beginRun 1 why
        else s.coldRestart p (some whyRetainMismatch)
      | none => s.coldRestart p (some whyRetainMismatch)

/-- The retained data that a warm restart by command takes: that of the latest Quire, where one is committed (R297). -/
def State.quireRetain (s : State) : State :=
  match s.lane.latest.bind fun n => (s.lane.quires.get n).image with
  | some x =>
    { s with logic := { s.logic with retain := x.retain.bytes, retainProg := if x.retain.valid then some x.retain.progId else none } }
  | none => s

/-- A restart carried out at a cycle instant (R296, R297): that of a reset has its retained data from the boot. -/
def State.restartLogic (s : State) (cold : Bool) : State :=
  let boot := s.logic.atBoot
  let why := if boot then none else some whyCommand
  let s : State := { s with logic := { s.logic with atBoot := false } }
  match s.program with
  | none => s
  | some p => if cold then s.coldRestart p why else (if boot then s else s.quireRetain).warmRestart p why

/-- A force under a changed program (R303): kept, converted, or lost. -/
def State.carryForce (s : State) (p : ProgInfo) (old : Option ProgInfo) (f : Force) : State × Option Force :=
  match f.target with
  | .input _ => (s, some f)
  | .output _ => (s, some f)
  | .var path =>
    match p.syms.find? fun y => y.path == path with
    | none => (s.forceLost f.target 0, none)
    | some y =>
      let was : Option Sym := match old with
        | some o => o.syms.find? fun x => x.path == path
        | none => none
      let same := match was with
        | some x => x.typ == y.typ && x.len == y.len
        | none => f.typ == y.typ.toNat
      if same then (s, some f) else
      let from_ : IecType := match was with
        | some x => Config.iecType x.typ x.len
        | none => Config.iecType (BitVec.ofNat 8 f.typ) f.val.length
      match convertForce from_ (Config.iecType y.typ y.len) f.val with
      | some v => (s, some { f with typ := y.typ.toNat, val := v })
      | none => (s.forceLost f.target 1, none)

/-- The forces under a changed program (R303). -/
def State.carryForces (s : State) (p : ProgInfo) (old : Option ProgInfo) : State :=
  let fs := s.logic.forces
  fs.foldl (fun (s : State) f =>
    let r := s.carryForce p old f
    match r.2 with
    | some g => r.1.setForces (r.1.logic.forces ++ [g])
    | none => r.1) (s.setForces [])

/-- The swap of an online change (R301 to R303), or a replacement by cold restart (R300). -/
def State.swapLogic (s : State) (c : LogicChange) (p : ProgInfo) : State :=
  let old := s.program
  let oldId := s.rd F.logicProgramId
  let data := s.logic.data
  let retain := s.logic.retain
  let s := (s.wr F.logicStateSlot (1 - s.activeSlot)).wr F.logicStatePending 0
  let s : State := { s with logic := { s.logic with change := none } }
  let s := s.showProgram
  if c.replace then
    (s.coldRestart p (some whyCommand)).emit 0x71 (le 4 oldId ++ le 4 p.progId.toNat ++ le 4 0 ++ le 4 p.syms.length ++ le 4 0 ++ le 4 0)
  else
    let oldSyms := match old with
      | some o => o.syms
      | none => []
    let hit (y : Sym) : Bool := oldSyms.any fun x => x.path == y.path && x.typ == y.typ && x.len == y.len
    let before := s.logic.forces.length
    let s := (carrySyms oldSyms p.syms data retain (s.initialValues p)).carryForces p old
    let cold := (p.syms.filter fun y => !hit y).map (·.path)
    let moved := ((p.syms.filter hit).map (·.len)).foldl (· + ·) 0
    let s : State := { s with logic := { s.logic with first := 4, report := cold, moveNs := (400 * moved + 1023) / 1024 } }
    let kept := s.logic.forces.length
    s.emit 0x71 (le 4 oldId ++ le 4 p.progId.toNat ++ le 4 (p.syms.filter hit).length ++ le 4 cold.length ++ le 4 kept ++
      le 4 (before - kept))

/-- The swap due at a cycle instant: the first after validation; it waits while the Write Guard is tripped (log entry 100). -/
def State.swapDue (s : State) : State :=
  match s.logic.change with
  | none => s
  | some c => match c.info with
    | none => s
    | some p => if s.writeGuard ∨ s.clock ≤ c.at_ then s else s.swapLogic c p

/-! ### The cycle -/

/-- Fields composed into one word at their bit positions. -/
def State.word (s : State) (fs : List Fld) : Nat := fs.foldl (fun v f => v + s.rd f * 2 ^ f.lo) 0

/-- Groups in lock-out (R290, R378). -/
def State.lockedGroups (s : State) : Nat :=
  maskOf ((List.range 8).filter fun g => s.rd (F.safeGroupStatusState g) == 2 || s.rd (F.safeGroupStatusState g) == 3)

/-- time.status (R80). -/
def State.timeStatusWord (s : State) : Nat :=
  s.word [F.timeStatusSource, F.timeStatusLocked, F.timeStatusConverging, F.timeStatusHoldover, F.timeStatusCrosscheckFail,
    F.timeStatusAcquired]

/-- ctl.status (R256). -/
def State.ctlStatusWord (s : State) : Nat :=
  s.word [F.ctlStatusEstPredicted, F.ctlStatusSetpointMoving, F.ctlStatusBusLimited, F.ctlStatusPowerScaled,
    F.ctlStatusActReduced, F.ctlStatusJoystickTimeout, F.ctlStatusAzHeld, F.ctlStatusPdLaw, F.ctlStatusWindAbsent]

/-- coll.vote_state (R185). -/
def State.voteStateWord (s : State) : Nat := s.word [F.collVoteStatePos, F.collVoteStateHdg, F.collVoteStateDriftLimiting]

/-- The frame-level values of the status area, offsets 15 to 45 (R290). -/
def State.frameValues (s : State) : List Byte :=
  le 1 s.budget ++ le 4 (s.rd F.timeFrameNumber) ++ le 2 (s.rd F.timeFrameEpoch) ++ le 1 (s.rd F.ctlMode) ++ le 1 0 ++
    le 2 (s.rd F.ctlSolveStatus) ++ le 2 s.ctlStatusWord ++ le 2 s.timeStatusWord ++ le 2 s.voteStateWord ++
    le 4 (s.rd F.ctlActAvailable) ++ le 4 (s.rd F.loopActFaulted) ++ le 4 0 ++ le 2 (s.rd F.ctlThrustLoad)

/-- The frame-level values kept at a frame instant (R290). -/
def State.keepFrameValues (s : State) : State := { s with logic := { s.logic with frameArea := s.frameValues } }

/-- The status area latched at C (R290): frame-level values are those of the last frame instant, the roles and the lock-outs those of C;
node bits and Mark stamps follow at C + W. -/
def State.statusArea (s : State) (at_ : Nat) : List Byte :=
  let f := padTo 31 s.logic.frameArea
  le 4 (s.rd F.logicCycleCount) ++ stBytes at_ ++
    le 1 (s.logic.first + 8 * bit (!s.logic.forces.isEmpty) + 16 * bit s.logic.divZero) ++ f.take 8 ++ le 1 (s.rd F.laneRoles) ++
    (f.drop 9).take 16 ++ le 4 s.lockedGroups ++ f.drop 29 ++ le 2 0 ++
    le 8 0 ++ le 8 0 ++ padTo 128 s.coll.estimate ++ le 64 0

/-- The Cycle Marks queued at C (R320, R321). -/
def State.queueMarks (s : State) (at_ : Nat) : State :=
  let n := s.rd F.logicCycleCount % 2 ^ 32
  let running := s.logicState == 2
  let noOut := !running || s.logic.committed != some (s.rd F.logicCycleCount - 1)
  let body := le 4 n ++ le 4 ((n + 2 ^ 32 - 1) % 2 ^ 32) ++ le 1 (bit noOut) ++ le 1 s.logic.period ++ le 2 0
  let from_ := s.onClock at_
  s.nodeChannels.foldl (fun (s : State) c =>
    s.queueTx c ⟨.mark, s.txFrame c false (s.cfg (F.canMarkId c)) body, from_, from_ + s.cfg F.logicReplyWindow * 1000⟩) s

/-- The instant of the next tick to run. -/
def State.dueInstant (s : State) : Nat := s.tickInstant s.time.tickDue

/-- The cycle instant that has come and whose cycle has not started (R35, R52, R287): that of the tick that is due, or one that fell
inside a Rapid Check, whose work is done after the verdict (R21, R359). -/
def State.cycleInstant (s : State) : Option Nat :=
  if s.logic.phase ≠ 0 ∨ 160 ≤ s.time.tickDue then none
  else (((List.range 160).filter fun n => s.atCore n).map fun n => s.tickInstant n).find? fun t =>
    t % periodNs s.logic.period == 0 && decide (s.logic.cycleAt ≠ t)

/-- A change of period takes effect at a common boundary (R52). -/
def State.newPeriod (s : State) (at_ : Nat) : State :=
  match s.logic.nextPeriod with
  | some p => if at_ % periodNs p = 0 then { s with logic := { s.logic with period := p, nextPeriod := none } } else s
  | none => s


/-- What waits for a cycle instant: a restart, a swap, then forces (R296, R298, R301). -/
def State.cycleChanges (s : State) : State :=
  let s := match s.logic.restart with
    | some cold => ({ s with logic := { s.logic with restart := none } } : State).restartLogic cold
    | none => s
  let s := s.swapDue
  let start : State := { s with logic := { s.logic with forceOps := [] } }
  s.logic.forceOps.foldl (fun (s : State) op => s.forceOp op) start

/-- A change of the retain area is to be mirrored (R297). -/
def State.noteRetain (s : State) (old : Mem) : State :=
  { s with logic := { s.logic with mirrorDue := s.logic.mirrorDue || s.logic.retain != old } }

/-- The input image begun at C (R290, R293). -/
def State.latchInput (s : State) (at_ : Nat) : State :=
  let input := (Store.empty : Mem).writeBytes 0 (s.statusArea at_)
  { s with logic := { s.logic with
    input := input, phase := 1, work := none, cycleAt := at_, first := 0, lateNow := s.logic.lateNext, lateNext := 0,
    marks := (Store.empty : Nats) } }

/-- LOGIC_CYCLE_START (R287, R290, R294, R296, R298, R301, R320). -/
def execLogicCycleStart (s : State) : Host.Outcome State Fault Refusal :=
  act (fun s =>
    match s.cycleInstant with
    | none => s
    | some at_ =>
      let s : State := { s with logic := { s.logic with moveNs := 0 } }
      let old := s.logic.retain
      let s := ((s.newPeriod at_).cycleChanges).noteRetain old
      let s := if s.logicState = 2 then s.wr F.logicCycleCount (s.rd F.logicCycleCount + 1) else s
      let s := s.latchInput at_
      s.queueMarks at_) s

/-- The nodes that have not replied by C + W (R293, R307). -/
def State.countMissing (s : State) : State :=
  let valid := unle (s.logic.input.readBytes 48 8)
  (List.range 64).foldl (fun (s : State) m =>
    if s.nodeOn m && !testBit valid m then s.inc (F.logicNodeMissing m) else s) s

/-- The node bits and Mark stamps of the input image (R290); execution starts while the engine is RUNNING. -/
def State.completeInput (s : State) : State :=
  let stamps := (List.range 8).flatMap fun c => le 8 (s.logic.marks.get c)
  let input := (s.logic.input.writeBytes 56 (le 8 s.logic.lateNow)).writeBytes 192 stamps
  { s with logic := { s.logic with input := input, lateNow := 0, phase := if s.logicState = 2 then 2 else 0 } }

/-- REPLY_WINDOW_END: at C + W the input image is complete and execution starts (R287, R293, R298). Replies whose end of frame
lay before this instant are taken first. -/
def execReplyWindowEnd (s : State) : Host.Outcome State Fault Refusal :=
  act (fun s =>
    if s.ready = false ∨ s.logic.phase ≠ 1 ∨ s.now + nsTick ≤ s.logic.cycleAt + s.cfg F.logicReplyWindow * 1000 then s else
    let s := s.deliverWhere fun x => x.target == .remote &&
      decide (x.eof < s.logic.cycleAt + s.cfg F.logicReplyWindow * 1000)
    let s := (s.countMissing).completeInput
    if s.logic.phase = 2 then s.forceInputs else s) s

/-- The latest instant at which execution may end: C + P − L (R289). -/
def State.execLimit (s : State) : Nat := s.logic.cycleAt + periodNs s.logic.period - s.cfg F.logicOutputLead * 1000

/-- The engine stopped with a cause: 1 OVERRUN, 2 INDEX, 3 STACK; the working copy is discarded (R289, R295). -/
def State.faultLogic (s : State) (cause : Nat) : State :=
  ({ s with logic := { s.logic with phase := 0, work := none } } : State).setLogicState 3 cause (some (cause - 1))

/-- LOGIC_OVERRUN (R289, R295). -/
def execLogicOverrun (c : LogicStop) (s : State) : Host.Outcome State Fault Refusal :=
  act (fun s =>
    if s.ready = false ∨ s.logic.phase ≠ 2 then s else
    match c with
    | .overrun => if s.now + nsTick ≤ s.execLimit then s else (s.inc F.logicOverrunCount).faultLogic 1
    | .index => s.faultLogic 2
    | .stack => s.faultLogic 3) s

/-- The output frames of a cycle, in ascending node index (R294, R319, R322). -/
def State.queueOutputs (s : State) (at_ : Nat) : State :=
  let ends := s.onClock (s.logic.cycleAt + periodNs s.logic.period)
  let tag := s.rd F.logicCycleCount % 256
  (List.finRange 64).foldl (fun (s : State) m =>
    let len := s.cfg (F.logicNodeOutLength m.val)
    if s.nodeOn m.val && len != 0 then
      let c := s.cfg (F.logicNodeCfgChannel m.val)
      let ident := s.cfg (F.canRioId c) * 2 ^ 18 + 2 * 2 ^ 16 + tag * 256 + s.cfg (F.logicNodeCfgNumber m.val)
      s.queueTx c ⟨.output m, s.txFrame c true ident (s.logic.output.readBytes (s.cfg (F.logicNodeOutOffset m.val)) len),
        s.onClock at_, ends⟩
    else s) s

/-- The class a program declares. -/
def userClass (c : Fin 3) : EvClass := if c.val = 0 then .record else if c.val = 1 then .notify else .alarm

/-- The commit of a cycle (R287, R288, R298): what the program wrote into its images and its working copy, under the forces; writes outside
an image have no effect. -/
def State.commitImages (s : State) (o : LogicOut) : State :=
  let inside (n : Nat) (xs : List (Nat × Byte)) := xs.filter fun x => decide (x.1 < n)
  let w := s.logic.work.getD ⟨s.logic.data, s.logic.retain⟩
  let w := s.forceVars ⟨w.data.setAll (inside (2 ^ 20) o.data), w.retain.setAll (inside (2 ^ 16) o.retain)⟩
  let s : State := { s with logic := { s.logic with
    written := s.logic.written.setAll (inside 0x4000 o.image), data := w.data, retain := w.retain, work := none, phase := 0,
    divZero := o.divZero, committed := some (s.rd F.logicCycleCount) } }
  { s with logic := { s.logic with output := s.forcedOutput } }

/-- The execution time shown, and its maximum (R294). -/
def State.showExec (s : State) (us : Nat) : State :=
  (s.wr F.logicExecTime us).wr F.logicExecTimeMax (max us (s.rd F.logicExecTimeMax))

/-- The first 16 user events of a cycle queued (R297). -/
def State.userEvents (s : State) (o : LogicOut) : State :=
  (o.events.take 16).foldl (fun (s : State) e =>
    s.queueEvent 0x200 (userClass e.2.2) 0 (le 2 e.1.toNat ++ padTo 8 e.2.1)) s

/-- How long after C execution begins, in ns: at C + W, or when a swap has moved the data, which may take longer (R287, R301). -/
def State.execStart (s : State) : Nat := max (s.cfg F.logicReplyWindow * 1000) s.logic.moveNs

/-- The instant at which the output image of the cycle is complete (R287, R288). -/
def State.completion (s : State) (o : LogicOut) : Nat := s.logic.cycleAt + s.execStart + o.execUs * 1000

/-- The time from C + W to the commit in µs (R307). -/
def State.execTime (s : State) (o : LogicOut) : Nat := (s.execStart - s.cfg F.logicReplyWindow * 1000) / 1000 + o.execUs

/-- LOGIC_COMMIT, at the instant at which the image is complete: one complete at a frame instant or later reaches the controller at
the next (R51, R287, R288, R294, R297, R298, R308). -/
def execLogicCommit (o : LogicOut) (s : State) : Host.Outcome State Fault Refusal :=
  act (fun s =>
    if s.ready = false ∨ s.lane.rapid ∨ s.logic.phase ≠ 2 ∨
        s.execLimit < s.completion o ∨ s.withinTick (s.completion o) = false then s else
    let old := s.logic.retain
    ((((s.commitImages o).noteRetain old).showExec (s.execTime o)).userEvents o).queueOutputs (s.completion o)) s

/-- The cells of a memory in a page of 1 KiB. -/
def pageOf (m : Mem) (p : Nat) : List (Nat × Byte) := m.cells.filter fun c => c.1 / 1024 == p

/-- A memory with a page taken from another. -/
def copyPage (from_ to_ : Mem) (p : Nat) : Mem :=
  ⟨(to_.cells.filter fun c => decide (c.1 / 1024 < p)) ++ pageOf from_ p ++ to_.cells.filter fun c => decide (p < c.1 / 1024)⟩

/-- The pages of the retain area that the older mirror copy does not hold (R297). -/
def State.changedPages (s : State) : List Nat :=
  (List.range 64).filter fun p => pageOf s.logic.retain p != pageOf (s.logic.mirror.get (1 - s.logic.newest)).bytes p

/-- A page of the older mirror copy written: until the last one is, the copy's check code is wrong (R297). -/
def State.writePage (s : State) (p : Nat) : State :=
  let k := 1 - s.logic.newest
  let old := s.logic.mirror.get k
  { s with logic := { s.logic with
      mirror := s.logic.mirror.set k { old with bytes := copyPage s.logic.retain old.bytes p, valid := false }, mirrorPage := none } }

/-- The older mirror copy is complete: with the cycle, the program and the check code it is the newer one (R297). -/
def State.closeMirror (s : State) : State :=
  let k := 1 - s.logic.newest
  let copy : RetainCopy :=
    { s.logic.mirror.get k with cycle := s.logic.committed.getD 0, progId := s.logic.retainProg.getD 0, valid := s.logic.retainProg.isSome }
  { s with logic := { s.logic with mirror := s.logic.mirror.set k copy, newest := k, mirrorDue := false } }

/-- Mirror writes go on (R297): in the idle phase, while the Write Guard has not tripped. -/
def State.mirrorFree (s : State) : Bool := s.logic.phase == 0 && s.logic.mirrorDue && !s.writeGuard

/-- What a page written is followed by: the next one begins, or the copy is complete. -/
def State.nextPage (s : State) : State :=
  if s.mirrorFree = false then s else
  match s.changedPages with
  | p :: _ => { s with logic := { s.logic with mirrorPage := some p } }
  | [] => s.closeMirror

/-- RETAIN_MIRROR_WRITE: a changed page into the older mirror copy, in the idle phase (R297). A page in progress completes when the Write
Guard trips. -/
def execRetainMirrorWrite (s : State) : Host.Outcome State Fault Refusal :=
  act (fun s =>
    if s.ready = false then s else
    match s.logic.mirrorPage with
    | some p => (s.writePage p).nextPage
    | none =>
      if s.mirrorFree = false then s else
      match s.changedPages with
      | p :: _ => (s.writePage p).nextPage
      | [] => s.closeMirror) s

/-! ### The frame instant and the Folio turn -/

/-- The controller request record as snapshotted at a frame instant (R51, R296). -/
def State.logicSnapshot (s : State) : State :=
  let rec_ := s.logic.output.readBytes 0 472
  let flags := unle ((rec_.drop 2).take 2)
  let rec_ :=
    if s.logicState = 0 then List.replicate 472 0
    else if s.logicState = 2 then rec_
    else rec_.take 2 ++ le 2 (putBit (putBit flags 1 false) 2 false) ++ rec_.drop 4
  { s with ctl := { s.ctl with record := rec_ } }

/-- A Folio turn that changes the cycle period (R52). -/
def State.logicTurn (s : State) : State :=
  let p := s.cfg F.logicCyclePeriod
  { s with logic := { s.logic with nextPeriod := if p = s.logic.period then none else some p } }

/-- RECOVERY: the engine becomes STOPPED as under CMD_LOGIC_STOP (R494). -/
def State.stopLogic (s : State) : State :=
  let s : State := { s with logic := { s.logic with restart := none, phase := 0, work := none } }
  if s.logicState = 2 then s.setLogicState 1 0 (some whyCommand) else s

/-! ### Commands -/

/-- CMD_LOGIC_LOAD (R300, R302, R308). -/
def execCmdLogicLoad (h : Hdr) (off : W32) (data : List Byte) (s : State) : Host.Outcome State Fault Refusal :=
  act (fun s => s.command h 0x7001 (le 4 off.toNat ++ data) fun s =>
    if s.logic.change.isSome then s.reply Res.wrongState
    else if data.isEmpty ∨ 3968 < data.length then s.reply Res.badLength
    else if 4608 * 1024 < off.toNat + data.length then s.reply Res.outOfRange
    else if s.writeGuard then s.reply Res.writeGuard
    else
      let k := 1 - s.activeSlot
      let old := if off.toNat = 0 then noProgram 0 else s.logic.slots.get k
      let slot : LogicSlot := ⟨old.bytes.writeBytes off.toNat data, max old.size (off.toNat + data.length), none⟩
      (({ s with logic := { s.logic with slots := s.logic.slots.set k slot } } : State).showProgram).reply Res.ok) s

/-- CMD_LOGIC_CHANGE (R300). -/
def execCmdLogicChange (h : Hdr) (replace : Byte) (s : State) : Host.Outcome State Fault Refusal :=
  act (fun s => s.command h 0x7002 [replace] fun s =>
    if 1 < replace.toNat then s.reply Res.outOfRange
    else if s.logic.change.isSome ∨ (replace.toNat = 0 ∧ s.logicState ≠ 2) then s.reply Res.wrongState
    else if s.writeGuard then s.reply Res.writeGuard
    else
      let s : State := { s with logic := { s.logic with change := some ⟨h, replace.toNat == 1, none, 0⟩ } }
      (s.wr F.logicStatePending 1, none)) s

/-- Whether a program can be accepted (R285, R286): its result. -/
def programResult (i : ProgInfo) : Nat :=
  if i.checkOk = false ∨ i.member ≠ 0x4832 ∨ i.engineOk = false ∨ i.imagesOk = false then Res.programInvalid
  else if 4 * 2 ^ 20 < i.code ∨ 2 ^ 20 < i.data ∨ 2 ^ 16 < i.retain ∨ 2 ^ 19 < i.symbols then Res.capacity
  else Res.ok

/-- The pending change ended without a swap. -/
def State.dropChange (s : State) : State :=
  ({ s with logic := { s.logic with change := none } } : State).wr F.logicStatePending 0

/-- A program found valid, to be swapped in at the next cycle start (R286, R300). -/
def State.takeProgram (s : State) (c : LogicChange) (i : ProgInfo) : State :=
  let k := 1 - s.activeSlot
  let slot := s.logic.slots.get k
  let s : State := { s with logic := { s.logic with
    change := some { c with info := some i, at_ := s.clock }, slots := s.logic.slots.set k { slot with info := some i } } }
  let swapAt := (s.now / periodNs s.logic.period + 1) * periodNs s.logic.period
  s.showProgram.respond c.hdr 0x7002 Res.ok (stBytes swapAt)

/-- LOGIC_VALIDATION_DONE (R286, R300, R302). -/
def execLogicValidationDone (i : ProgInfo) (s : State) : Host.Outcome State Fault Refusal :=
  act (fun s =>
    match s.logic.change with
    | none => s
    | some c =>
      if s.ready = false ∨ c.info.isSome then s else
      let res := if s.writeGuard then Res.writeGuard else programResult i
      if res ≠ Res.ok then s.dropChange.respond c.hdr 0x7002 res [] else s.takeProgram c i) s

/-- A pending change abandoned by a start; its command is answered if it still waits (R296, R300). -/
def State.abandonChange (s : State) : State :=
  match s.logic.change with
  | some c =>
    let newId := match c.info with
      | some p => p.progId.toNat
      | none => 0
    let s := s.dropChange.emit 0x71 (le 4 (s.rd F.logicProgramId) ++ le 4 newId ++ le 1 0)
    if c.info.isNone then s.respond c.hdr 0x7002 Res.wrongState [] else s
  | none => s

/-- CMD_LOGIC_START (R296, R305). -/
def execCmdLogicStart (h : Hdr) (cold : Byte) (s : State) : Host.Outcome State Fault Refusal :=
  act (fun s => s.command h 0x7003 [cold] fun s =>
    if 1 < cold.toNat then s.reply Res.outOfRange
    else if s.logicState = 0 then s.reply Res.wrongState
    else
      let s := s.abandonChange
      ({ s with logic := { s.logic with restart := some (cold.toNat == 1), atBoot := false } } : State).reply Res.ok) s

/-- CMD_LOGIC_STOP (R306). -/
def execCmdLogicStop (h : Hdr) (s : State) : Host.Outcome State Fault Refusal :=
  act (fun s => s.command h 0x7004 [] fun s =>
    if s.cfg F.ctlModeSource = 1 ∧ s.mode ≠ 0 ∧ s.mode ≠ 5 then s.reply Res.wrongState else s.stopLogic.reply Res.ok) s

/-- The forces that exist or wait to be set (R298). -/
def State.forceTargets (s : State) : List ForceTarget :=
  s.logic.forceOps.foldl (fun ts op => match op with
    | .set f => if ts.contains f.target then ts else ts ++ [f.target]
    | .remove (some t) => ts.filter fun u => u != t
    | .remove none => []) (s.logic.forces.map (·.target))

/-- A force of `n` bytes lies within its image, or its path within 128 characters (R298). -/
def forceInside (t : ForceTarget) (n : Nat) : Bool :=
  match t with
  | .input off => decide (off + n ≤ 0x4000)
  | .output off => decide (off + n ≤ 0x4000)
  | .var path => decide (path.length ≤ 128)

/-- The target of a force exists (R298). -/
def State.knowsTarget (s : State) (t : ForceTarget) : Bool :=
  match t with
  | .var path => (s.symbol path).isSome
  | _ => true

/-- CMD_LOGIC_FORCE (R298, R308). -/
def execCmdLogicForce (h : Hdr) (t : ForceTarget) (typ : Byte) (val : List Byte) (s : State) : Host.Outcome State Fault Refusal :=
  act (fun s => s.command h 0x7005 (targetBytes t ++ [typ] ++ val) fun s =>
    if s.logicState = 0 then s.reply Res.wrongState
    else if forceInside t val.length = false ∨ val.isEmpty ∨ 80 < val.length then s.reply Res.outOfRange
    else if s.knowsTarget t = false then s.reply Res.notFound
    else if s.forceTargets.contains t = false ∧ 256 ≤ s.forceTargets.length then s.reply Res.full
    else
      ({ s with logic := { s.logic with forceOps := s.logic.forceOps ++ [.set ⟨t, typ.toNat, val⟩] } } : State).reply Res.ok) s

/-- CMD_LOGIC_UNFORCE (R298, R308). -/
def execCmdLogicUnforce (h : Hdr) (t : Option ForceTarget) (s : State) : Host.Outcome State Fault Refusal :=
  act (fun s => s.command h 0x7006 (match t with
      | some t => targetBytes t
      | none => le 1 0xFF) fun s =>
    let found := match t with
      | some t => s.forceTargets.contains t
      | none => true
    if found = false then s.reply Res.notFound
    else ({ s with logic := { s.logic with forceOps := s.logic.forceOps ++ [.remove t] } } : State).reply Res.ok) s

/-- CMD_LOGIC_REPORT (R308): the change report of the last swap from a line on, one item per line, up to a payload of 4,064
bytes. -/
def execCmdLogicReport (h : Hdr) (first : W32) (s : State) : Host.Outcome State Fault Refusal :=
  act (fun s => s.command h 0x7007 (le 4 first.toNat) fun s =>
    s.reply Res.ok (((s.logic.report.drop first.toNat).foldl (fun acc (line : List Byte) =>
      if acc.2 ∨ 4064 < acc.1.length + line.length + 1 then (acc.1, true) else (acc.1 ++ line ++ [10], false))
      (([] : List Byte), false)).1)) s

/-- CMD_LOGIC_VAR_READ (R308). -/
def execCmdLogicVarRead (h : Hdr) (path : List Byte) (s : State) : Host.Outcome State Fault Refusal :=
  act (fun s => s.command h 0x7008 path fun s =>
    if s.logicState = 0 then s.reply Res.wrongState else
    match s.symbol path with
    | none => s.reply Res.notFound
    | some y => s.reply Res.ok (s.readSym y ++ [y.typ])) s

end Sys2Proof.Machine
end

