-- ==== Sys2Proof/Machine/Loops.lean ====
section
/-! DEFINITION. The Loop Engine: the loop law, selectors, references, outputs, command frames and tests (R258 to R284). All
arithmetic is binary32 in the order that R262 gives. -/

namespace Sys2Proof.Machine

open Sys2Proof.Float

/-! ### The loop table -/

/-- An FP32 word of a loop. -/
def State.loopF (s : State) (l w : Nat) : F32 := BitVec.ofNat 32 (s.loopWord l w)
/-- ANGLE_WRAP. -/
def State.loopWrap (s : State) (l : Nat) : Bool := testBit (s.loopWord l 0) 7
/-- The loop's state: 0 OFF, 1 RUN, 2 FB_HELD, 3 FAULTED. -/
def State.loopState (s : State) (l : Nat) : Nat := s.rd (F.loopStatusState l)
/-- What a loop keeps. -/
def State.loopRt (s : State) (l : Nat) : LoopRt := s.loop.rt.get l
/-- What a loop keeps, replaced. -/
def State.setLoop (s : State) (l : Nat) (r : LoopRt) : State := { s with loop := { s.loop with rt := s.loop.rt.set l r } }

/-- The servo tick Ts, 125 µs. -/
def loopTs : F32 := fratio 1 8000

/-! ### Feedback -/

/-- A field of a CAN payload as a number: 0 FP32, 1 INT16, 2 INT32, 3 UINT16 (R259). -/
def canField (data : List Byte) (off format : Nat) : F32 :=
  let at_ (n : Nat) : Nat := unle (((padTo 64 data ++ le 4 0).drop off).take n)
  match format with
  | 0 => BitVec.ofNat 32 (at_ 4)
  | 1 => fint (signed 16 (at_ 2))
  | 2 => fint (signed 32 (at_ 4))
  | _ => fint (at_ 2)

/-- A source value latched at T+0, where its source has one that is fresh (R265): a CAN buffer, an analog channel, an encoder's speed in
rpm or its position in degrees. -/
def State.sourceValue (s : State) (w age : Nat) : Option F32 :=
  let i := w / 16 % 4096
  match w % 16 with
  | 0 => some 0
  | 1 =>
    match (s.can.bufs.get i).rec_ with
    | some r =>
      if i ≤ 1087 ∧ (age = 0 ∨ stampOf s.now ≤ r.stamp + age * 10000) then
        some (canField r.frame.data (w / 2 ^ 16 % 64) (w / 2 ^ 22 % 4))
      else none
    | none => none
  | 2 =>
    let st := s.rd (F.inpAinStatus i)
    match s.inp.latest.get i with
    | some (v, at_) =>
      if i < 16 ∧ 1 ≤ st ∧ st ≤ 3 ∧ (age = 0 ∨ s.since at_ ≤ age * nsTick) then some (fint v) else none
    | none => none
  | 3 => if i < 8 ∧ s.flag (F.safeEncPosEncoderFault i) = false ∧ s.cfg (F.safeEncCfgKind i) ≠ 0 ∧
      s.flag F.safeStatusSafetyFault = false then some (fratio (s.rdInt (F.safeEncSpeed i)) 100) else none
  | 4 => if i < 8 ∧ s.flag (F.safeEncPosEncoderFault i) = false ∧ s.cfg (F.safeEncCfgKind i) ≠ 0 ∧
      s.flag F.safeStatusSafetyFault = false ∧ s.flag (F.safeEncPosReferenced i) then some (fratio (s.rd (F.safeEncPosValue i)) 100)
      else none
  | _ => none

/-- A value that a loop reads: what fails, 0 the source, 2 that it is not finite after conversion, or the value (R265). -/
abbrev LoopInput := Except Nat F32

/-- The feedback of a loop: scale × raw + offset; one whose transfer has failed twice is invalid (R15, R265). -/
def State.feedback (s : State) (l : Nat) : LoopInput :=
  match s.sourceValue (s.loopWord l 1) (s.loopWord l 3 % 65536) with
  | some raw =>
    let y := fadd (fmul (s.loopF l 20) raw) (s.loopF l 21)
    if (List.finRange 128).any fun k => k.val == l && s.isAbsent (.feedback k) then .error 0
    else if ffin y then .ok y else .error 2
  | none => .error 0

/-- The DC-bus voltage of a loop that names a source: 1 where the source fails. -/
def State.dcBus (s : State) (l : Nat) : LoopInput :=
  match (if s.loopWord l 2 % 16 = 0 then none else s.sourceValue (s.loopWord l 2) (s.loopWord l 3 % 65536)) with
  | some v => if ffin v then .ok v else .error 2
  | none => .error 1

/-- The transfer of a loop's feedback failed for this tick (R15). -/
def State.feedbackHeld (s : State) (l : Nat) : Bool := (List.finRange 128).any fun k => k.val == l && s.isWithheld (.feedback k)

/-- The feedback that a tick finds: where it is withheld, the lanes have what the tick before had (R15). -/
def State.feedbackNow (s : State) (l : Nat) : LoopInput :=
  let old := s.loopRt l
  if s.feedbackHeld l then (if old.bad = 0 then .ok old.yLast else .error old.cause) else s.feedback l

/-- A loop has valid feedback in a tick. -/
def State.feedbackOk (s : State) (l : Nat) : Bool :=
  match s.feedbackNow l with
  | .ok _ => true
  | .error _ => false

/-- The counts of a loop as a tick finds its inputs (R266): its last valid feedback, its invalid and valid ticks, and what failed. -/
def State.countInputs (s : State) (l : Nat) : LoopRt :=
  let old := s.loopRt l
  let fb := s.feedbackNow l
  let dc : LoopInput := if s.loopWord l 2 % 16 = 0 then .ok 0 else s.dcBus l
  let y := match fb with
    | .ok y => y
    | .error _ => old.yLast
  match fb, dc with
  | .ok _, .ok _ => { old with yLast := y, bad := 0, good := old.good + 1 }
  | .error c, _ => { old with yLast := y, bad := old.bad + 1, good := 0, cause := c }
  | .ok _, .error c => { old with yLast := y, bad := old.bad + 1, good := 0, cause := c }

/-- A loop is FAULTED in this tick: it was, or its invalid ticks reach loop.fault_ticks (R266). -/
def State.faultedNow (s : State) (l : Nat) : Bool :=
  s.loopState l == 3 || decide (s.cfg F.loopFaultTicks ≤ (s.countInputs l).bad)

/-! ### References -/

/-- The entry in force of an actuator; zeros before the first record. -/
def State.entryInForce (s : State) (i : Nat) : SpOut :=
  match s.loop.record with
  | some r => r.entries.getD i SpOut.zero
  | none => SpOut.zero

/-- The reference and its rate (R268, R269); `us` holds the outputs of the loops already computed in this tick. -/
def State.reference (s : State) (l : Nat) (us : List (Nat × F32)) : F32 × F32 :=
  let x := s.entryInForce (l / 4)
  match s.loopWord l 0 / 16 % 8 with
  | 0 =>
    let (v, rate) := match s.loopWord l 0 / 2 % 4 with
      | 0 => (x.speed, x.speedRate)
      | 1 => (x.pitch, x.pitchRate)
      | _ => (x.angle, x.angleRate)
    let n := s.loop.frozen.getD s.loop.n
    let r := fadd v (fmul (fmul rate (fint n)) loopTs)
    (if s.loopWord l 0 / 2 % 4 = 2 then reduce false r else r, if s.loop.frozen.isSome then 0 else rate)
  | 1 => (x.limit, 0)
  | 3 => ((lookupCell (s.loopWord l 0 / 2 ^ 8 % 128) us).getD 0, 0)
  | _ => (s.loopF l 19, 0)

/-! ### The loop law -/

/-- The terms of a tick up to v (R262): filtered feedback, error, derivative input, P and feed-forward, and the DC-bus factor
with whether it was ignored. -/
structure LoopTerms where
  yf : F32
  e : F32
  q : F32
  p : F32
  ff : F32
  k : F32
  ignored : Bool

/-- The DC-bus factor (R262, R263). -/
def State.dcFactor (s : State) (l : Nat) : F32 × Bool :=
  if s.loopWord l 2 % 16 = 0 then (fint 1, false) else
  match s.dcBus l with
  | .ok v =>
    if flt (fmul (fratio 1 2) (s.loopF l 17)) v then (fmin (fint 2) (fmax (fratio 1 2) (fdiv (s.loopF l 17) v)), false)
    else (fint 1, true)
  | .error _ => (fint 1, true)

/-- The terms of a loop for a feedback and a reference (R262). -/
def State.loopTerms (s : State) (l : Nat) (rt : LoopRt) (y r rdot : F32) : LoopTerms :=
  let w (n : Nat) : F32 := s.loopF l n
  let yf := fsub (fsub (fadd (fadd (fmul (w 22) y) (fmul (w 23) rt.y1)) (fmul (w 24) rt.y2)) (fmul (w 25) rt.yf1)) (fmul (w 26) rt.yf2)
  let wrap := s.loopWrap l
  let e0 := if wrap then reduce true (fsub r yf) else fsub r yf
  let band := w 18
  let e := if fle (fabs e0) band then 0 else if flt e0 0 then fadd e0 band else fsub e0 band
  let p0 := if wrap then e else fsub (fmul (w 7) r) yf
  let q := if wrap then e else fsub (fmul (w 8) r) yf
  let (k, ign) := s.dcFactor l
  ⟨yf, e, q, fmul (w 4) p0, fadd (fmul (w 15) r) (fmul (w 16) rdot), k, ign⟩

/-- The derivative term (R262). -/
def State.loopDeriv (s : State) (l : Nat) (rt : LoopRt) (q : F32) : F32 :=
  let tf := s.loopF l 9
  fdiv (fadd (fmul tf rt.d) (fmul (s.loopF l 6) (fsub q rt.q1))) (fadd tf loopTs)

/-- v before the output test signal: P + I + D + feed-forward, times the DC-bus factor (R262). -/
def State.loopV (s : State) (l : Nat) (t : LoopTerms) (r rdot integ d : F32) : F32 :=
  let v := fadd (fadd (fadd (fadd t.p integ) d) (fmul (s.loopF l 15) r)) (fmul (s.loopF l 16) rdot)
  if s.loopWord l 2 % 16 = 0 then v else fmul v t.k

/-- The integrator for which v takes a value (R266, R270). -/
def integFor (t : LoopTerms) (d target : F32) : F32 := fsub (fdiv target t.k) (fadd (fadd t.p d) t.ff)

/-- A loop re-initialised (R266): filters loaded with y, D at 0, and I so that v equals the channel's last u_sel. -/
def State.reinitLoop (s : State) (l : Nat) (rt : LoopRt) (y r rdot : F32) : LoopRt :=
  let sel : F32 := BitVec.ofNat 32 (s.rd (F.loopChanOut (s.loopChan l)))
  let target := if s.loopLimit l then fabs sel else sel
  let rt := { rt with y1 := y, y2 := y, yf1 := y, yf2 := y, d := 0 }
  let t := s.loopTerms l rt y r rdot
  { rt with integ := integFor t 0 target, q1 := t.q, v1 := target, start := 0 }

/-- The history that a tick starts from: cold, re-initialised, or with v held through a change of coefficients (R270, R281). -/
def State.startLoop (s : State) (l : Nat) (rt : LoopRt) (y : F32) (valid : Bool) (r rdot : F32) : LoopRt :=
  match rt.start with
  | 1 =>
    let rt := { rt with y1 := y, y2 := y, yf1 := y, yf2 := y, d := 0, integ := 0 }
    { rt with q1 := (s.loopTerms l rt y r rdot).q, start := if valid then 0 else 1 }
  | 2 => s.reinitLoop l rt y r rdot
  | 3 =>
    let t := s.loopTerms l rt y r rdot
    { rt with integ := integFor t (s.loopDeriv l rt t.q) rt.v1, start := 0 }
  | _ => rt

/-- What a loop came to in a tick: its output, error, reference, filtered feedback, what it keeps before the integrator is
updated, and its marks. -/
structure LoopTick where
  l : Nat
  u : F32
  e : F32
  r : F32
  rdot : F32
  yf : F32
  y : F32
  rt : LoopRt
  valid : Bool
  faulted : Bool
  broken : Bool
  ignored : Bool

/-- The acceptance conditions of a test on a loop (R278). -/
def State.testAllowed (s : State) (l : Nat) : Bool :=
  s.loopOn l && s.loopState l != 3 && (s.mode == 0 || s.mode == 5 || !testBit (s.recordField 4 4) (l / 4))

/-- Why a test ends (R279): 0 DURATION, 1 STOP, 2 CONDITION, 3 FAULT, 4 FOLIO; `faulted` is that its loop is FAULTED. -/
def State.testEnd (s : State) (t : LoopTest) (faulted : Bool) : Option Nat :=
  if t.why.isSome then t.why
  else if t.stop then some 1
  else if t.folio then some 4
  else if faulted then some 3
  else if t.running = false then none
  else if t.dur ≤ t.n then some 0
  else if s.time.tickDue = 0 ∧ s.testAllowed t.loop = false then some 2
  else none

/-- The reason for which a test ends kept from the tick at which it holds (R279). -/
def State.noteTestEnd (s : State) : State :=
  match s.loop.test with
  | some t => { s with loop := { s.loop with test := some { t with why := s.testEnd t (s.faultedNow t.loop) } } }
  | none => s

/-- The sine of the chirp of a test at its tick (R278), rounded once (log entry 44). -/
def chirpSine (t : LoopTest) : F32 :=
  let f0 := Fixed.of32 t.f0
  let turns := f0 * t.n / 8000 + (Fixed.of32 t.f1 - f0) * (t.n * t.n : Nat) / (16000 * t.dur : Nat)
  Fixed.to32 (Fixed.sinCos (360 * turns)).1

/-- A value with the test signal of the tick added, where a test runs on the loop at this point of injection (R278). -/
def State.inject (s : State) (l point : Nat) (x : F32) : F32 :=
  match s.loop.test with
  | some t =>
    if t.running = false ∨ t.loop ≠ l ∨ t.point ≠ point ∨ t.why.isSome then x
    else fadd x (match t.kind with
      | 0 => t.amp
      | 1 => if testBit t.reg 0 then t.amp else fneg t.amp
      | _ => fmul t.amp (chirpSine t))
  | none => x

/-- The output of a FAULTED loop (R266). -/
def State.faultOutput (s : State) (l : Nat) : F32 := if s.loopLimit l then fabs (s.loopF l 27) else flush (s.loopF l 27)

/-- One loop in one tick, up to its output (R262, R265 to R267). -/
def State.computeLoop (s : State) (l : Nat) (us : List (Nat × F32)) : LoopTick :=
  let counted := s.countInputs l
  let valid := counted.bad == 0
  let y := counted.yLast
  let (r0, rdot) := s.reference l us
  let r := s.inject l 0 r0
  if s.faultedNow l then
    let u := s.faultOutput l
    ⟨l, u, 0, r, rdot, counted.yf1, y, { counted with u1 := u }, valid, true, false, (s.dcFactor l).2⟩
  else
    let rt := s.startLoop l counted y (s.feedbackOk l) r rdot
    let t := s.loopTerms l rt y r rdot
    let d := s.loopDeriv l rt t.q
    let v := s.inject l 1 (s.loopV l t r rdot rt.integ d)
    if (ffin v && ffin rt.integ) = false then
      let u := s.faultOutput l
      ⟨l, u, t.e, r, rdot, t.yf, y, { counted with u1 := u }, valid, false, true, t.ignored⟩
    else
      let u := fmin (s.loopF l 13) (fmax (s.loopF l 12) v)
      let slew := fmul (s.loopF l 14) loopTs
      let u := if flt 0 (s.loopF l 14) then fadd rt.u1 (fmin slew (fmax (fneg slew) (fsub u rt.u1))) else u
      let rt := { rt with y1 := y, y2 := rt.y1, yf1 := t.yf, yf2 := rt.yf1, d := d, q1 := t.q, u1 := u, v1 := v }
      ⟨l, u, t.e, r, rdot, t.yf, y, rt, valid, false, false, t.ignored⟩

/-- All enabled loops in ascending index (R262). -/
def State.computeLoops (s : State) : List LoopTick :=
  ((List.range 128).filter s.loopOn).foldl (fun ts l => ts ++ [s.computeLoop l (ts.map fun t => (t.l, t.u))]) []

/-- The selector of a channel (R264): u_sel and the winner, none without a PRIMARY loop. -/
def State.selectChan (s : State) (ts : List LoopTick) (h : Nat) : Option (F32 × Nat) :=
  match ts.find? fun t => s.loopChan t.l == h && !s.loopLimit t.l with
  | none => none
  | some p =>
    let lims := ts.filter fun t => s.loopChan t.l == h && s.loopLimit t.l
    let best := lims.foldl (fun (b : F32 × Nat) t => if flt t.u b.1 then (t.u, t.l) else b) (fabs p.u, p.l)
    if lims.isEmpty then some (p.u, p.l)
    else some (if flt p.u 0 then fneg best.1 else best.1, best.2)

/-- The integrator updated after selection (R264). -/
def State.integrate (s : State) (t : LoopTick) (sel : F32) : F32 :=
  let l := t.l
  let a := if s.loopLimit l then fabs sel else sel
  let lim := s.loopF l 11
  let step := fmul loopTs (fadd (fmul (s.loopF l 5) t.e) (fmul (s.loopF l 10) (fsub a t.u)))
  fmin lim (fmax (fneg lim) (fadd t.rt.integ step))

/-- A loop's state and status committed at the end of its tick (R264, R266, R267, R283). -/
def State.commitLoop (s : State) (sels : List (Nat × F32 × Nat)) (t : LoopTick) : State :=
  let l := t.l
  let chan := lookupCell (s.loopChan l) sels
  let sel : F32 := match chan with
    | some c => c.1
    | none => 0
  let win := match chan with
    | some c => c.2 == l
    | none => false
  let integ := s.integrate t sel
  let broken := t.broken || (!t.faulted && !ffin integ)
  let rt := if t.faulted then t.rt
    else if broken then s.reinitLoop l t.rt t.y t.r t.rdot
    else { t.rt with integ := integ }
  let s := s.setLoop l rt
  let s := if broken then
    (({ s with loop := { s.loop with nonfinite := s.loop.nonfinite.set l true } } : State).inc F.loopCountNonfinite).wrFlag
      (F.loopStatusNonfinite l) true else s
  let s := s.wr (F.loopStatusState l) (if t.faulted then 3 else if t.valid then 1 else 2)
  (s.wrFlag (F.loopStatusWinner l) win).wrFlag (F.loopStatusVdcIgnored l) t.ignored

/-- A sample written into a buffer that is not full (R280). -/
def LoopCapture.write (c : LoopCapture) (bytes : List Byte) : LoopCapture :=
  if 65536 ≤ c.count then c else { c with bytes := c.bytes.writeBytes (16 * c.count) bytes, count := c.count + 1 }

/-- The lanes whose copies run live (R344, R368). -/
def State.liveLanes (s : State) : List Nat :=
  (List.range 3).filter fun n =>
    s.rd (F.laneState n) == laneDuty || s.rd (F.laneState n) == lanePartner ||
      (s.flag F.laneStatusOverlap && s.rd (F.laneState n) == laneJoining)

/-- The samples of a running test, in every lane's buffer (R280). -/
def State.captureSample (s : State) (ts : List LoopTick) : State :=
  match s.loop.test with
  | none => s
  | some t =>
    if t.running = false ∨ t.why.isSome ∨ t.n % t.decim ≠ 0 then s else
    match ts.find? fun x => x.l == t.loop with
    | none => s
    | some x =>
      let sel := s.rd (F.loopChanOut (s.loopChan t.loop))
      let bytes := le 4 x.r.toNat ++ le 4 x.yf.toNat ++ le 4 x.u.toNat ++ le 4 sel
      let captures := s.liveLanes.foldl (fun (m : Store noCapture) n => m.set n ((m.get n).write bytes)) s.loop.captures
      let s : State := { s with loop := { s.loop with captures := captures } }
      match s.laneIn laneDuty with
      | some n => s.wr F.loopCaptureCount (s.loop.captures.get n).count
      | none => s

/-- The test generator moved on by a tick (R278). -/
def State.advanceTest (s : State) : State :=
  match s.loop.test with
  | none => s
  | some t =>
    if t.running = false then s else
    let n := t.n + 1
    let reg := if t.kind = 1 ∧ n % t.hold = 0 then
      t.reg / 2 + bit (testBit t.reg 0 != testBit t.reg 1) * 2 ^ 14 else t.reg
    { s with loop := { s.loop with test := some { t with n := n, reg := reg } } }

/-- The Loop Engine's state at the end of tick 0, as a Quire holds it (R281). -/
def State.keepLoops (s : State) : State :=
  if s.time.tickDue ≠ 0 then s else
  let states := (List.range 128).foldl (fun (m : Nats) l => m.set l (s.loopState l)) (Store.empty : Nats)
  { s with loop := { s.loop with image := ⟨s.loop.rt, states, s.loop.record, s.loop.n, s.loop.test, s.loop.counters⟩ } }

/-- Feedback that was absent is so for one tick. -/
def State.endAbsent (s : State) : State :=
  { s with fault := { s.fault with absent := s.fault.absent.filter fun x => match x with
      | .feedback _ => false
      | _ => true } }

/-- The loops, selectors and integrators of a tick (R271): T+0 to T+28. -/
def State.tickLoops (s : State) : State :=
  let s := s.noteTestEnd
  let ts := s.computeLoops
  let sels := (List.range 128).filterMap fun h =>
    match s.selectChan ts h with
    | some x => some (h, x.1, x.2)
    | none => none
  let s := sels.foldl (fun (s : State) x =>
    (s.wr (F.loopChanOut x.1) x.2.1.toNat).wr (F.loopChanWinner x.1) x.2.2) s
  let s := ts.foldl (fun (s : State) t => s.commitLoop sels t) s
  let s := if ts.any fun t => !t.valid && s.loopState t.l == 2 then s.inc F.loopCountFbHeld else s
  let s := (s.captureSample ts).advanceTest
  (({ s with loop := { s.loop with n := s.loop.n + 1 } } : State).keepLoops).endAbsent

/-! ### Outputs -/

/-- The value at the pin of an analog output, clipped to its range, and whether it was clipped (R272). -/
def State.aoutValue (s : State) (n : Nat) : F32 × Bool :=
  let i := s.cfg (F.loopAoutSrcIndex n)
  let x : F32 := if s.cfg (F.loopAoutSrcKind n) = 1 then (s.loopRt i).u1 else BitVec.ofNat 32 (s.rd (F.loopChanOut i))
  let f (w : Nat) : F32 := BitVec.ofNat 32 w
  let v := fadd (fmul (f (s.cfg (F.loopAoutScale n))) x) (f (s.cfg (F.loopAoutOffset n)))
  let (lo, hi) := if s.cfg (F.loopAoutMode n) = 1 then (fint (-10), fint 10) else (fint 4, fint 20)
  let c := fmin hi (fmax lo v)
  (c, flt v lo || flt hi v)

/-- The channel that an analog output shows. -/
def State.aoutChan (s : State) (n : Nat) : Nat :=
  let i := s.cfg (F.loopAoutSrcIndex n)
  if s.cfg (F.loopAoutSrcKind n) = 1 then s.loopChan i else i

/-- The analog outputs at T+40 (R271 to R273): hold-off before the first record and in mode 0; the last agreed value while the
selector holds. -/
def State.driveAnalog (s : State) (hold : Bool) (n : Nat) : State :=
  if s.cfg (F.loopAoutMode n) = 0 ∨ s.loop.applied = false then s.put (.holdOff n (s.cfgInt (F.loopAoutHoldoff n)))
  else if hold then
    (match s.loop.aout.get n with
    | some v => s.put (.analog n (some (BitVec.ofNat 32 v)))
    | none => s.put (.holdOff n (s.cfgInt (F.loopAoutHoldoff n))))
  else
    let (v, clipped) := s.aoutValue n
    let s := match s.primaryOf (s.aoutChan n) with
      | some l => s.wrFlag (F.loopStatusOutClipped l) (clipped || s.flag (F.loopStatusOutClipped l))
      | none => s
    let s : State := { s with loop := { s.loop with aout := s.loop.aout.set n (some v.toNat) } }
    s.put (.analog n (some v))

/-- The last 14 bytes of a command payload (R275): flags without HELD, actuator and the channels. -/
def State.commandBody (s : State) (i : Nat) : List Byte :=
  let chan (c : Nat) : Nat := if (s.primaryOf (4 * i + c)).isSome then s.rd (F.loopChanOut (4 * i + c)) else 0
  let fault := (List.range 4).any fun k => s.loopState (4 * i + k) == 3
  let flags := 2 * bit (s.entryInForce i).available + 4 * bit (s.flag F.loopOutStatusTestActive) + 8 * bit fault
  le 1 flags ++ le 1 i ++ le 4 (chan 0) ++ le 4 (chan 1) ++ le 4 (chan 2)

/-- The actuators with a command frame on a channel. -/
def State.cmdActs (s : State) (c : Nat) : List Nat :=
  (List.range 32).filter fun i => s.cfgFlag (F.loopCanCmdEnabled i) && s.cfg (F.loopCanCmdChannel i) == c

/-- The slot tick of an actuator's command frame (R34, R274). -/
def State.slotTick (s : State) (i tick : Nat) : Bool :=
  let fast := decide ((s.cmdActs (s.cfg (F.loopCanCmdChannel i))).length ≤ 4)
  tick % (if fast then 8 else 16) == 2 * s.cfg (F.loopCanCmdSlot i)

/-- The command frame of an actuator formed and, in its slot tick, queued at T+40 (R271, R273 to R275, R321). -/
def State.driveCommand (s : State) (hold : Bool) (tick : Nat) (i : Fin 32) : State :=
  let a := i.val
  if s.cfgFlag (F.loopCanCmdEnabled a) = false ∨ s.loop.applied = false then s else
  let body := if hold then s.loop.payload.get a else s.commandBody a
  let s : State := { s with loop := { s.loop with payload := s.loop.payload.set a body } }
  if s.slotTick a tick = false ∨ body.isEmpty then s else
  let c := s.cfg (F.loopCanCmdChannel a)
  let period := if (s.cmdActs c).length ≤ 4 then nsMs else 2 * nsMs
  let sent := match body with
    | f :: rest => (if hold then f ||| 1 else f) :: rest
    | [] => []
  let data := le 2 (s.loop.counters.get a % 65536) ++ sent
  s.queueTx c ⟨.command i, s.txFrame c (s.cfgFlag (F.loopCanCmdIdIde a)) (s.cfg (F.loopCanCmdIdIdent a)) data,
    s.clock + 40000, s.clock + 40000 + period⟩

/-- The digest of a tick passed to the Referee at T+30 and folded (R271, R349): a function of every analog value and every CAN payload of
the tick, which the manual does not state (log entry 61). -/
def State.foldDigest (s : State) : State :=
  let analogs := (List.range 16).map fun n =>
    if s.cfg (F.loopAoutMode n) = 0 ∨ s.loop.applied = false then none else some (s.aoutValue n).1
  let payloads := (List.range 32).map fun i =>
    if s.cfgFlag (F.loopCanCmdEnabled i) = false ∨ s.loop.applied = false then [] else s.commandBody i
  let f := Crypto.crc64 (le 8 s.lane.fold.toNat ++ le 8 (Config.tickDigest analogs payloads).toNat)
  { s with lane := { s.lane with fold := f } }

/-- The outputs of a tick (R271): analog outputs updated, command frames queued. -/
def State.driveOutputs (s : State) (tick : Nat) : State :=
  let hold := s.flag F.laneStatusHolding
  let s := (List.range 128).foldl (fun (s : State) l =>
    if s.flag (F.loopStatusOutClipped l) && !hold then s.wr (F.loopStatusOutClipped l) 0 else s) s
  let s := (List.range 16).foldl (fun (s : State) n => s.driveAnalog hold n) s
  let s := (List.finRange 32).foldl (fun (s : State) i => s.driveCommand hold tick i) s
  let s := s.wrFlag F.loopOutStatusHeld hold
  if hold then s.inc F.loopCountHeld else s

/-! ### Faults of loops -/

/-- EV_LOOP_FAULT (R284): loop, set or clear, and the cause 0 FEEDBACK, 1 DC_BUS, 2 NONFINITE (log entry 45). -/
def State.loopEvent (s : State) (l clear : Nat) : State := s.emit 0x60 (le 1 l ++ le 1 clear ++ le 1 (s.loopRt l).cause)

/-- LOOP_FAULT_COUNT: after loop.fault_ticks consecutive invalid ticks the loop is FAULTED, and the event is sent (R266). -/
def execLoopFaultCount (l : Fin 128) (s : State) : Host.Outcome State Fault Refusal :=
  act (fun s =>
    let rt := s.loopRt l.val
    if s.ready ∧ s.loopOn l.val ∧ rt.told = false ∧ (s.loopState l.val = 3 ∨ s.cfg F.loopFaultTicks ≤ rt.bad) then
      ((s.setLoop l.val { rt with told := true }).wr (F.loopStatusState l.val) 3).loopEvent l.val 0
    else s) s

/-- LOOP_RECOVERY: after loop.fault_clear_ticks consecutive valid ticks the loop is re-initialised and runs from the next tick
(R266). -/
def execLoopRecovery (l : Fin 128) (s : State) : Host.Outcome State Fault Refusal :=
  act (fun s =>
    if s.ready ∧ s.loopState l.val = 3 ∧ s.cfg F.loopFaultClearTicks ≤ (s.loopRt l.val).good then
      let rt := s.loopRt l.val
      let ref_ := s.reference l.val ((List.range 128).map fun k => (k, (s.loopRt k).u1))
      let s := s.setLoop l.val { s.reinitLoop l.val rt rt.yLast ref_.1 ref_.2 with told := false }
      (s.wr (F.loopStatusState l.val) 1).loopEvent l.val 1
    else s) s

/-! ### The setpoint record -/

/-- A record passes the check of the copies (R268): its CRC-32C, and the frame in progress by number and epoch. `intact` is that it has
come to them as it was published. -/
def State.recordGood (s : State) (r : SpRecord) (intact : Bool) : Bool :=
  intact && s.ctl.spPublished && r.frame == s.rd F.timeFrameNumber && r.epoch == s.rd F.timeFrameEpoch

/-- APPLY_TICK: at tick D + 8 the record of the frame comes into force if it passes its check (R268, R269). -/
def execApplyTick (intact : Bool) (s : State) : Host.Outcome State Fault Refusal :=
  act (fun s =>
    if s.atTick (s.deadline + 8) = false then s else
    match s.ctl.published, s.ctl.published.any fun r => s.recordGood r intact with
    | some r, true =>
      let s : State := { s with loop := { s.loop with
        record := some r, n := 0, frozen := none, missRun := false, applied := true } }
      s.wr F.loopOutStatusSpMissing 0
    | _, _ =>
      let first := !s.loop.missRun
      let s := ({ s with loop := { s.loop with missRun := true } } : State).wr F.loopOutStatusSpMissing 1
      if first then s.emit 0x61 (le 4 (s.rd F.timeFrameNumber)) else s) s

/-- SP_HOLD_EXPIRY: when n reaches 160 × loop.sp_hold_frames, rates are 0 and the references freeze (R269). -/
def execSpHoldExpiry (s : State) : Host.Outcome State Fault Refusal :=
  act (fun s =>
    if s.ready ∧ s.loop.record.isSome ∧ s.loop.frozen = none ∧ 160 * s.cfg F.loopSpHoldFrames ≤ s.loop.n then
      { s with loop := { s.loop with frozen := some (160 * s.cfg F.loopSpHoldFrames) } }
    else s) s

/-! ### Tests -/

/-- The arguments of a loop test lie in their ranges (R278). -/
def loopTestArgs (loop point kind : Byte) (amp : F32) (hold : Byte) (f0 f1 : F32) (dur : W32) (decim : Byte) : Bool :=
  let inRange (f : F32) : Bool := fle (fratio 1 100) f && fle f (fint 2000)
  decide (loop.toNat ≤ 127) && decide (point.toNat ≤ 1) && decide (kind.toNat ≤ 2) && ffin amp && decide (hold.toNat ≠ 0) &&
    inRange f0 && inRange f1 && decide (dur.toNat ≠ 0) && decide (dur.toNat ≤ 480000) && decide (decim.toNat ≤ 6)

/-- CMD_LOOP_TEST (R278, R284). -/
def execCmdLoopTest (h : Hdr) (loop point kind : Byte) (amp : F32) (hold : Byte) (f0 f1 : F32) (dur : W32) (decim : Byte)
    (s : State) : Host.Outcome State Fault Refusal :=
  act (fun s =>
    s.command h 0x6001 ([loop, point, kind] ++ le 4 amp.toNat ++ [hold] ++ le 4 f0.toNat ++ le 4 f1.toNat ++ le 4 dur.toNat ++
      [decim]) fun s =>
    if loopTestArgs loop point kind amp hold f0 f1 dur decim = false then s.reply Res.outOfRange
    else if s.loop.test.isSome then s.reply Res.busy
    else if s.testAllowed loop.toNat = false then s.reply Res.wrongState
    else
      let t : LoopTest := ⟨loop.toNat, point.toNat, kind.toNat, amp, hold.toNat, f0, f1, dur.toNat, 2 ^ decim.toNat, false, 0, 1,
        false, false, s.clock, none⟩
      ({ s with loop := { s.loop with test := some t } } : State).reply Res.ok) s

/-- A test begins: its loop is under test and the capture is empty (R278, R280). -/
def State.beginTest (s : State) (t : LoopTest) : State :=
  let s : State := { s with loop := { s.loop with test := some { t with running := true }, captures := (Store.empty : Store noCapture) } }
  let s := ((s.wr F.loopCaptureCount 0).wr F.loopOutStatusTestActive 1).wr F.loopOutStatusCaptureIncomplete 0
  (s.wr (F.loopStatusUnderTest t.loop) 1).emit 0x62 (le 1 t.loop ++ le 1 0)

/-- LOOP_TEST_START: at tick 0 of the first frame after receipt (R278, R280). -/
def execLoopTestStart (s : State) : Host.Outcome State Fault Refusal :=
  act (fun s =>
    match s.loop.test with
    | none => s
    | some t => if s.atTick 0 = false ∨ t.running ∨ s.frameClock ≤ t.at_ then s else s.beginTest t) s

/-- A test ends for a reason (R279). -/
def State.finishTest (s : State) (t : LoopTest) (why : Nat) : State :=
  let s : State := { s with loop := { s.loop with test := none } }
  let s := (s.wr F.loopOutStatusTestActive 0).wr (F.loopStatusUnderTest t.loop) 0
  s.emit 0x62 (le 1 t.loop ++ le 1 1 ++ le 1 why)

/-- LOOP_TEST_END (R279). -/
def execLoopTestEnd (s : State) : Host.Outcome State Fault Refusal :=
  act (fun s =>
    match s.loop.test with
    | none => s
    | some t =>
      match (if s.ready then s.testEnd t (s.loopState t.loop == 3) else none) with
      | none => s
      | some why => s.finishTest t why) s

/-- CMD_LOOP_TEST_STOP (R279, R284). -/
def execCmdLoopTestStop (h : Hdr) (s : State) : Host.Outcome State Fault Refusal :=
  act (fun s => s.command h 0x6002 [] fun s =>
    match s.loop.test with
    | none => s.reply Res.wrongState
    | some t => ({ s with loop := { s.loop with test := some { t with stop := true } } } : State).reply Res.ok) s

/-- CMD_LOOP_CAPTURE_READ (R280, R284). -/
def execCmdLoopCaptureRead (h : Hdr) (first : W32) (count : W32) (s : State) : Host.Outcome State Fault Refusal :=
  act (fun s => s.command h 0x6003 (le 2 first.toNat ++ le 4 count.toNat) fun s =>
    let a := first.toNat
    let n := count.toNat
    if n = 0 ∨ 240 < n ∨ 65535 < a ∨ s.rd F.loopCaptureCount < a + n then s.reply Res.outOfRange
    else s.reply Res.ok ((s.loop.captures.get ((s.laneIn laneDuty).getD 0)).bytes.readBytes (16 * a) (16 * n))) s

/-! ### The frame instant and the Folio turn -/

/-- The Loop Engine's reports at a frame instant (R266, R283). -/
def State.loopFrame (s : State) : State :=
  let s := (List.range 128).foldl (fun (s : State) l => s.wrFlag (F.loopStatusNonfinite l) (s.loop.nonfinite.get l)) s
  let faulted := (List.range 32).filter fun i => (List.range 4).any fun k => s.loopState (4 * i + k) == 3
  ({ s with loop := { s.loop with nonfinite := (Store.empty : Flags) } } : State).wr F.loopActFaulted (maskOf faulted)

/-- A Folio turn on one loop (R270). -/
def State.loopTurnOne (s : State) (old : Folio) (l : Nat) : State :=
  let ch (w : Nat) : Bool := old.val (F.loopCoef (32 * l + w)) != s.loopWord l w
  let rt := s.loopRt l
  if ch 0 || ch 1 || ch 2 then
    if s.loopOn l then
      let fresh := !testBit (old.val (F.loopCoef (32 * l))) 0
      (s.setLoop l { (if fresh then coldLoop 0 else rt) with start := 2, bad := 0, good := 0, told := false }).wr (F.loopStatusState l) 1
    else
      let s := s.setLoop l (coldLoop 0)
      [F.loopStatusState l, F.loopStatusWinner l, F.loopStatusOutClipped l, F.loopStatusVdcIgnored l].foldl
        (fun (s : State) f => s.wr f 0) s
  else if (List.range 28).any fun w => ch (w + 4) then s.setLoop l { rt with start := if rt.start = 0 then 3 else rt.start }
  else s

/-- A Folio turn (R270, R279): coefficients at tick 0, channels without a PRIMARY loop, and the end of a test. -/
def State.loopTurn (s : State) (old : Folio) : State :=
  let changed := (List.range 4096).any fun e => old.val (F.loopCoef e) != s.cfg (F.loopCoef e)
  if changed = false then s else
  let s := (List.range 128).foldl (fun (s : State) l => s.loopTurnOne old l) s
  let s := (List.range 128).foldl (fun (s : State) h =>
    if (s.primaryOf h).isSome then s else (s.wr (F.loopChanOut h) 0).wr (F.loopChanWinner h) 0xFF) s
  match s.loop.test with
  | some t => { s with loop := { s.loop with test := some { t with folio := true } } }
  | none => s

end Sys2Proof.Machine
end

