-- ==== Sys2Proof/Machine/Spine.lean ====
section
/-! DEFINITION. The Spine switch and host transport: forwarding, redundancy, keys, heartbeats and partners (R328 to R343). -/

namespace Sys2Proof.Machine

/-! ### Heartbeats -/

/-- The body of the module's heartbeat (R340), without its trailer. -/
def State.heartbeatBody (s : State) : List Byte :=
  let pos := s.rd F.collVoteStatePos
  let flags := bit s.degraded + 2 * bit (s.lockedGroups != 0) + 4 * bit (s.logicState == 2) +
    8 * bit (decide (5 ≤ pos) && decide (pos ≤ 7)) + 16 * bit (testBit (s.rd F.collStatus) 1)
  le 2 0x4B8E ++ le 1 1 ++ le 1 64 ++ le 8 (s.rd F.devSerial) ++ le 4 (s.rd F.timeFrameNumber) ++ le 2 (s.rd F.timeFrameEpoch) ++
    le 2 s.timeStatusWord ++ le 4 (s.rd F.timeErrorBound) ++ le 1 s.budget ++ le 1 s.mode ++ le 1 (s.rd F.laneRoles) ++
    le 1 flags ++ le 2 (s.rd F.ctlSolveStatus) ++ le 2 (s.rd F.collStatus) ++ le 4 (s.rd F.ctlActAvailable)

/-- HEARTBEAT_TX: at F+0.5 of every frame while spine.hb_group is set; during a hold it waits for the selector (R340). -/
def execHeartbeatTx (s : State) : Host.Outcome State Fault Refusal :=
  act (fun s =>
    let slot := s.cfg F.spineHbKey
    if s.atTick 4 = false ∨ s.spine.hbSent ∨ s.cfg F.spineHbGroup = 0 ∨ s.keyLoaded slot = false then s else
    let s : State := { s with spine := { s.spine with hbSent := true } }
    if s.flag F.laneStatusHolding then
      { s with host := { s.host with withheld := s.host.withheld ++ [.heartbeat s.heartbeatBody] } }
    else s.sendHeartbeat s.heartbeatBody) s

/-- The partner that a serial names (R341). -/
def State.partnerOf (s : State) (serial : Nat) : Option Nat :=
  if serial = 0 then none else (List.range 3).find? fun p => s.cfg (F.spinePartnerSerial p) == serial

/-- A partner heard on a Spine port in this frame. -/
def State.heardOn (s : State) (p port : Nat) : State :=
  let x := s.spine.partners.get p
  let f := some s.totalFrames
  let x' : Partner := if port = 0 then { x with path0 := f } else { x with path1 := f }
  { s with spine := { s.spine with partners := s.spine.partners.set p x' } }

/-- A valid heartbeat of a partner (R341): its age, the run of consecutive ones, and whether it names the local frame. -/
def State.heardPartner (s : State) (p frame epoch atUs : Nat) : State :=
  let x := s.spine.partners.get p
  let n := epoch * 2 ^ 32 + frame
  let next := x.last.isSome && n == x.lastFrame + 1
  let same := frame == s.rd F.timeFrameNumber && epoch == s.rd F.timeFrameEpoch
  let x' := { x with last := some (s.frameClock + atUs * 1000), lastFrame := n, run := if next then x.run + 1 else 1,
                     since := if x.run = 0 then s.totalFrames else x.since, mismatch := if same then 0 else x.mismatch + 1 }
  { s with spine := { s.spine with partners := s.spine.partners.set p x' } }

/-- A little-endian field of a heartbeat's payload. -/
def hbField (hb : Heartbeat) (o n : Nat) : Nat := unle ((hb.payload.drop o).take n)

/-- The payload of a heartbeat is well formed (R340). -/
def hbFormed (hb : Heartbeat) : Bool :=
  hb.payload.length == 64 && hbField hb 0 2 == 0x4B8E && hbField hb 2 1 == 1 && hbField hb 3 1 == 64

/-- A heartbeat ends with a trailer of the key slot of heartbeats and the tag of that key (R336, R337). -/
def State.authentic (s : State) (hb : Heartbeat) : Bool :=
  let n := hb.payload.length
  let slot := hbField hb (n - 28) 1
  decide (28 ≤ n) && slot == s.cfg F.spineHbKey && s.keyLoaded slot &&
    (Crypto.hmac (s.spine.keys.get slot) (hb.payload.take (n - 16))).take 16 == hb.payload.drop (n - 16)

/-- An authentic heartbeat of partner `p`: a fresh one is taken, the copy by the other path shows that path, and any other is a
replay (R337, R341). -/
def State.takeHeartbeat (s : State) (hb : Heartbeat) (p : Nat) : State :=
  let c := hbField hb (hb.payload.length - 24) 8
  let x := s.spine.senders.get (4 + p)
  if x.fresh c then
    let s : State := { s with spine := { s.spine with senders := s.spine.senders.set (4 + p) (x.accept c s.writeGuard) } }
    (s.heardPartner p (hbField hb 12 4) (hbField hb 16 2) hb.atUs).heardOn p hb.port.val
  else if s.cfg F.spineRedundancy ≠ 0 ∧ x.last = some c then s.heardOn p hb.port.val
  else s.authReject hb.addr.toNat 1

/-- HEARTBEAT_RX: a datagram to the heartbeat port authenticated (R335 to R337), then by its layout and its serial taken for its partner
(R340, R341). -/
def execHeartbeatRx (hb : Heartbeat) (s : State) : Host.Outcome State Fault Refusal :=
  act (fun s =>
    if s.ready = false ∨ s.cfg F.spineIpAddr = 0 ∨ hb.dst.toNat ≠ s.cfg F.spineHbPort ∨
        s.withinTick (s.time.frameAt + hb.atUs * 1000) = false then s
    else if s.authentic hb = false then s.authReject hb.addr.toNat 0
    else if hbFormed hb = false then s.inc F.devMsgErrors
    else
      match s.partnerOf (hbField hb 4 8) with
      | none => s
      | some p => s.takeHeartbeat hb p) s

/-- A change of a partner's state or flags (R341): EV_SPINE_PARTNER. -/
def State.setPartner (s : State) (p state single grid : Nat) : State :=
  let old := s.rd (F.spinePartnerStatusState p)
  let same := old == state && s.rd (F.spinePartnerStatusSinglePath p) == single &&
    s.rd (F.spinePartnerStatusGridMismatch p) == grid
  if same then s else
  let s := ((s.wr (F.spinePartnerStatusState p) state).wr (F.spinePartnerStatusSinglePath p) single).wr
    (F.spinePartnerStatusGridMismatch p) grid
  s.emit 0x92 (le 1 p ++ le 1 old ++ le 1 state ++ le 1 (single + 2 * grid))

/-- PARTNER_LOST: at a frame instant, no valid heartbeat for longer than spine.hb_timeout (R341). -/
def execPartnerLost (p : Fin 3) (s : State) : Host.Outcome State Fault Refusal :=
  act (fun s =>
    match (s.spine.partners.get p.val).last with
    | some t =>
      if s.atTick 0 ∧ s.rd (F.spinePartnerStatusState p.val) ≠ 1 ∧ t + s.cfg F.spineHbTimeout * nsMs < s.frameClock then
        let x := s.spine.partners.get p.val
        let s : State := { s with spine := { s.spine with partners := s.spine.partners.set p.val { x with run := 0 } } }
        s.setPartner p.val 1 (s.rd (F.spinePartnerStatusSinglePath p.val)) (s.rd (F.spinePartnerStatusGridMismatch p.val))
      else s
    | none => s) s

/-- A partner judged at a frame instant (R341). -/
def State.judgePartner (s : State) (p : Nat) : State :=
  let x := s.spine.partners.get p
  let now := s.totalFrames
  let near (f : Option Nat) : Bool := match f with
    | some n => decide (now < n + 50)
    | none => false
  let st := s.rd (F.spinePartnerStatusState p)
  let recent : Bool := match x.last with
    | some t => decide (s.frameClock ≤ t + s.cfg F.spineHbTimeout * nsMs)
    | none => false
  let state := if 3 ≤ x.run ∧ recent then 2 else st
  let single := bit (s.cfg F.spineRedundancy != 0 && x.last.isSome && decide (x.since + 50 ≤ now) && near x.path0 != near x.path1)
  s.setPartner p state single (bit (decide (50 ≤ x.mismatch)))

/-- The Spine at a frame instant: partners, and at each second the storm limit begins afresh (R334, R341). -/
def State.spineFrame (s : State) : State :=
  let s : State := { s with spine := { s.spine with
    hbSent := false, storm := if s.rd F.timeFrameIndex = 0 then (Store.empty : Nats) else s.spine.storm } }
  (List.range 3).foldl (fun (s : State) p => s.judgePartner p) s

/-! ### Links, supervision and tables -/

/-- The partners are no longer heard on a Spine port (R341). -/
def State.dropPath (s : State) (q : Nat) : State :=
  (List.range 3).foldl (fun (s : State) p =>
    let x := s.spine.partners.get p
    let x' : Partner := if q = 0 then { x with path0 := none } else { x with path1 := none }
    { s with spine := { s.spine with partners := s.spine.partners.set p x' } }) s

/-- The link of a port at a speed, 1 for 100 Mbit/s and 2 for 1 Gbit/s: none while it is disabled. A Spine port knows only 1 Gbit/s, a
sensor port only the speed of inp.eth_mode, and none where that is off (R123, R328). -/
def State.linkSpeed (s : State) (q speed : Nat) : Nat :=
  if s.cfgFlag (F.spinePortCfgEnabled q) = false ∨ (q < 2 ∧ speed = 1) ∨ (2 ≤ q ∧ speed ≠ s.cfg (F.inpEthModeSpeed (q - 2))) then 0
  else speed

/-- A link at a new speed (R331, R341): the state is reported, and at a link that comes up the module's groups (R120, R334). -/
def State.setLink (s : State) (q new : Nat) : State :=
  let old := s.rd (F.spinePortStatus q)
  let s := s.wr (F.spinePortStatus q) new
  let s := if new = 0 ∧ q < 2 then s.dropPath q else s
  let s := if new = 0 then s else s.joinGroups [q]
  s.emit 0x90 (le 1 q ++ le 1 old ++ le 1 new)

/-- SPINE_LINK_CHANGE (R328, R331, R341): at a link that comes up the module reports its groups there (R120, R334). -/
def execSpineLinkChange (port : Fin 8) (speed : Fin 3) (s : State) : Host.Outcome State Fault Refusal :=
  act (fun s =>
    let q := port.val
    if s.ready = false ∨ s.rd (F.spinePortStatus q) = s.linkSpeed q speed.val then s
    else s.setLink q (s.linkSpeed q speed.val)) s

/-- A host becomes another one, of whom nothing is known (R337, R447). -/
def State.forgetHost (s : State) (h : Nat) : State :=
  { s with spine := { s.spine with senders := s.spine.senders.set h (newSender h) },
           host := { s.host with kept := ⟨s.host.kept.cells.filter fun c => c.1 != h⟩,
                                 outstanding := s.host.outstanding.set h [] } }

/-- A Folio turn on the Spine: a port whose link the new configuration does not carry goes down, and a partner or a host whose serial or
address changes is another one, of whom nothing is known (R328, R337, R341, R447). -/
def State.spineTurn (s : State) (old : Folio) : State :=
  let s := (List.range 8).foldl (fun (s : State) q =>
    if s.rd (F.spinePortStatus q) ≠ 0 ∧ s.linkSpeed q (s.rd (F.spinePortStatus q)) = 0 then s.setLink q 0 else s) s
  let s := (List.range 4).foldl (fun (s : State) h =>
    if old.val (F.spineHostIp h) = s.cfg (F.spineHostIp h) then s else s.forgetHost h) s
  (List.range 3).foldl (fun (s : State) p =>
    if old.val (F.spinePartnerSerial p) = s.cfg (F.spinePartnerSerial p) then s
    else
      let s : State := { s with spine := { s.spine with
        senders := s.spine.senders.set (4 + p) (newSender (4 + p)), partners := s.spine.partners.set p (newPartner p) } }
      s.setPartner p 0 0 0) s

/-- SUPERVISION_TX: a supervision frame every 2 s under PRP or HSR (R331). -/
def execSupervisionTx (s : State) : Host.Outcome State Fault Refusal :=
  act (fun s =>
    if s.ready ∧ s.cfg F.spineRedundancy ≠ 0 ∧ 2 * nsSecond ≤ s.since s.spine.supervisedAt then
      ({ s with spine := { s.spine with supervisedAt := s.clock } } : State).put .supervision
    else s) s

/-- SUPERVISION_RX: a received supervision frame updates the node table of 512 entries (R331). -/
def execSupervisionRx (src : BitVec 48) (port : Fin 2) (s : State) : Host.Outcome State Fault Refusal :=
  act (fun s =>
    if s.ready = false ∨ s.cfg F.spineRedundancy = 0 ∨ s.rd (F.spinePortStatus port.val) = 0 then s else
    let rest := s.spine.nodes.filter fun n => n.1 != src
    if 512 ≤ rest.length then s
    else { s with spine := { s.spine with nodes := rest ++ [(src, s.clock)] } }) s

/-- MAC_AGE_EXPIRY: a learned address ages out after spine.mac_age (R329). -/
def execMacAgeExpiry (mac : BitVec 48) (s : State) : Host.Outcome State Fault Refusal :=
  act (fun s => { s with spine := { s.spine with macs := s.spine.macs.filter fun m =>
    !(m.mac == mac && decide (s.cfg F.spineMacAge * nsSecond ≤ s.since m.at_)) } }) s

/-- PRP_ENTRY_FORGET: a duplicate entry is forgotten after 400 ms (R331). -/
def execPrpEntryForget (src : BitVec 48) (seq : W16) (s : State) : Host.Outcome State Fault Refusal :=
  act (fun s => { s with spine := { s.spine with dups := s.spine.dups.filter fun d =>
    !(d.src == src && d.seq == seq.toNat && decide (400 * nsMs ≤ s.since d.at_)) } }) s

/-- REASSEMBLY_TIMEOUT: a reassembly ends after 100 ms (R335). -/
def execReassemblyTimeout (ident : W16) (s : State) : Host.Outcome State Fault Refusal :=
  act (fun s => { s with spine := { s.spine with reassembly := s.spine.reassembly.filter fun x =>
    !(x.1 == ident.toNat && decide (100 * nsMs ≤ s.since x.2)) } }) s

/-! ### Forwarding -/

/-- The counters of a port (R342): 0 received, 1 sent, 2 FCS errors, 3 receive drops, 4 transmit drops, 5 duplicates, 6 wrong
LAN, 7 unsupported PTP messages. -/
def State.countPort (s : State) (q c : Nat) : State := s.inc (F.spinePortCount q c)

/-- The VLAN entry of a frame received on a port (R332). -/
def State.vlanEntry (s : State) (q : Nat) (f : EthFrame) : Option Nat :=
  if f.tags = 0 then some (s.cfg (F.spinePortCfgVlan q))
  else (List.range 16).find? fun v => s.cfg (F.spineVlanTable v) != 0 && s.cfg (F.spineVlanTable v) == f.vid

/-- A broadcast or multicast address. -/
def groupMac (m : BitVec 48) : Bool := testBit m.toNat 40

/-- The port where a unicast address was learned. -/
def State.macPort (s : State) (m : BitVec 48) : Option Nat :=
  match s.spine.macs.find? fun e => e.mac == m with
  | some e => some e.port
  | none => none

/-- A source address learned on its port (R329): 4,096 entries. -/
def State.learn (s : State) (q : Nat) (m : BitVec 48) : State :=
  let rest := s.spine.macs.filter fun e => e.mac != m
  if 4096 ≤ rest.length then s else { s with spine := { s.spine with macs := rest ++ [⟨m, q, s.clock⟩] } }

/-- Two ports between which no frame is forwarded: the Spine ports under PRP (R331). -/
def State.apart (s : State) (a b : Nat) : Bool := s.cfg F.spineRedundancy == 1 && decide (a < 2) && decide (b < 2)

/-- The ports that a frame is for (R329, R331, R332): the learned one, whether its link is up or not, or every member with its link up. Under
PRP or HSR a frame for the Spine goes by both Spine ports, a PTP message by the learned one only (R73, R331). -/
def State.egress (s : State) (q v : Nat) (f : EthFrame) : List Nat :=
  let may (p : Nat) : Bool := p != q && s.portMember p v && !s.apart q p
  let open_ (p : Nat) : Bool := may p && s.portUp p
  if f.dst == Config.moduleMac then (if open_ 8 then [8] else [])
  else
    let known := if groupMac f.dst then none else s.macPort f.dst
    match known with
    | some p =>
      if p < 2 ∧ s.cfg F.spineRedundancy ≠ 0 ∧ f.ptp = none then
        let both := [0, 1].filter open_
        if both.isEmpty then [p].filter may else both
      else [p].filter may
    | none => (List.range 9).filter fun p => open_ p && (p != 8 || groupMac f.dst)

/-- A port carries a redundancy trailer or tag (R328, R331). -/
def State.redundant (s : State) (q : Nat) : Bool := s.cfg F.spineRedundancy != 0 && decide (q < 2)

/-- The length of a frame without its VLAN tags and its redundancy trailer or tag, of 6 bytes (R329). -/
def bareLen (f : EthFrame) : Nat := f.len - 4 * f.tags - 6 * bit f.seq.isSome

/-- The frame as it leaves a port: untagged in the port's default VLAN, else tagged (R332); with its redundancy trailer or tag on a Spine
port under PRP or HSR and without it elsewhere, a PTP message never with one (R329, R331). -/
def State.leaving (s : State) (p v : Nat) (f : EthFrame) : EthFrame :=
  let seq := if s.redundant p ∧ f.ptp = none then f.seq else none
  let tagged := p ≠ 8 ∧ s.cfg (F.spinePortCfgVlan p) ≠ v
  { f with
    tags := if tagged then 1 else 0
    vid := if tagged then s.cfg (F.spineVlanTable v) else 0
    seq := seq, lanOk := true
    len := bareLen f + (if tagged then 4 else 0) + 6 * bit seq.isSome }

/-- A frame that is to leave by a Spine port under PRP or HSR without a trailer or tag gets one, the same on both ports: the module is the
DANP, DANH or RedBox of its sender (R331). The number in it is free (log entry 109). -/
def State.proxy (s : State) (ps : List Nat) (f : EthFrame) : State × EthFrame :=
  if f.seq = none ∧ f.ptp = none ∧ ps.any s.redundant = true then
    ({ s with spine := { s.spine with proxied := s.spine.proxied + 1 } },
      { f with seq := some (Config.redundancySeq s.spine.proxied), len := f.len + 6 })
  else (s, f)

/-- A datagram for the module (R335): fragments are taken for the Plezen port only, in at most four reassemblies. -/
def State.internalFrame (s : State) (f : EthFrame) : State :=
  match f.udpPort, f.frag with
  | some port, some (ident, done) =>
    if port.toNat ≠ s.cfg F.spinePlezenPort ∨ s.cfg F.spineIpAddr = 0 then s else
    let rest := s.spine.reassembly.filter fun x => x.1 != ident.toNat
    let known := s.spine.reassembly.find? fun x => x.1 == ident.toNat
    if done then { s with spine := { s.spine with reassembly := rest } }
    else match known with
      | some _ => s
      | none => if 4 ≤ rest.length then s
        else { s with spine := { s.spine with reassembly := rest ++ [(ident.toNat, s.clock)] } }
  | _, _ => s

/-- The internal port answers ARP requests and ICMP echoes for its own address, on the port they came by, at the default priority of the
internal port (R333, R335). -/
def State.answerAsk (s : State) (q : Nat) (f : EthFrame) : State :=
  let ip := s.cfg F.spineIpAddr
  match f.ask with
  | some (.arp a) => if ip ≠ 0 ∧ a.toNat = ip then s.put (.answer q (s.cfg (F.spinePortCfgPriority 8)) (.arp a)) else s
  | some (.echo a) => if ip ≠ 0 ∧ a.toNat = ip then s.put (.answer q (s.cfg (F.spinePortCfgPriority 8)) (.echo a)) else s
  | none => s

/-- A frame already seen by another path (R331), or one that the module itself sent round the ring. -/
def State.isDuplicate (s : State) (q : Nat) (f : EthFrame) : Bool :=
  s.cfg F.spineRedundancy != 0 && decide (q < 2) && f.ptp.isNone &&
  (match f.seq with
  | some n => s.spine.dups.any fun d => d.src == f.src && d.seq == n.toNat
  | none => false)

/-- A frame noted in the duplicate table. -/
def State.noteFrame (s : State) (q : Nat) (f : EthFrame) : State :=
  match f.seq with
  | some n =>
    if s.cfg F.spineRedundancy ≠ 0 ∧ q < 2 ∧ f.ptp = none then
      { s with spine := { s.spine with dups := s.spine.dups ++ [⟨f.src, n.toNat, s.clock⟩] } }
    else s
  | none => s

/-- The longest frame (R329): 1,522 bytes, and 6 more for a redundancy trailer or tag. -/
def maxLen (f : EthFrame) : Nat := 1522 + 6 * bit f.seq.isSome

/-- A frame as a port reads it: only a Spine port under PRP or HSR knows a redundancy trailer or tag; elsewhere its bytes are payload. -/
def State.readFrame (s : State) (q : Nat) (f : EthFrame) : EthFrame := if s.redundant q then f else { f with seq := none }

/-- A PTP message that the subset of R70 leaves out: by its kind and transport under the active profile. -/
def State.ptpUnsupported (s : State) (f : EthFrame) : Bool :=
  match f.ptp with
  | none => false
  | some m =>
    let common := m.kind == .sync || m.kind == .followUp || m.kind == .announce || m.kind == .getDefault
    if s.cfg F.timePtpProfile = 0 then !(common || m.kind == .delayReq || m.kind == .delayResp)
    else m.udp || !(common || m.kind == .pdelayReq || m.kind == .pdelayResp || m.kind == .pdelayFollowUp)

/-- The priority of a frame (R333): its priority code point, or untagged the default priority of the port that it came by. -/
def State.framePriority (s : State) (q : Nat) (f : EthFrame) : Fin 8 :=
  if f.tags = 0 then ⟨s.cfg (F.spinePortCfgPriority q) % 8, Nat.mod_lt _ (by decide)⟩ else f.pcp

/-- Whether the storm limit counts a frame (R334). -/
def State.stormFrame (s : State) (f : EthFrame) : Bool :=
  groupMac f.dst || (f.dst != Config.moduleMac && (s.macPort f.dst).isNone)

/-- The transparent clock (R71): the residence time is added to the correction of each Sync, Delay_Req and, under 802.1AS, peer-delay
message. A Follow_Up passes unchanged. -/
def State.correct (s : State) (f : EthFrame) : EthFrame :=
  match f.ptp with
  | none => f
  | some m =>
    let event := m.kind == .sync || m.kind == .delayReq ||
      (s.cfg F.timePtpProfile == 1 && (m.kind == .pdelayReq || m.kind == .pdelayResp))
    if event then { f with ptp := some { m with correction := m.correction + f.residence * 65536 } } else f

/-- The default data set, in answer to a GET of a followed domain (R70): ports, priorities, clock quality, identity, domain. The manual
lays it out no further: its fields and their order are the model's (log entry 105). -/
def State.defaultDataSet (s : State) (domain : Nat) : List Byte :=
  le 2 9 ++ le 1 (s.cfg F.timeGmPriority1) ++ le 1 (s.cfg F.timeGmPriority2) ++
    le 1 (match s.time.masterKind with
      | 2 => 6
      | 3 => 7
      | 4 => 248
      | _ => match s.time.masterParent with
        | some a => a.clockClass.toNat
        | none => 248) ++ le 1 (clockAccuracy (s.rd F.timeErrorBound)) ++ le 2 Config.clockVariance.toNat ++
    le 8 Config.clockIdentity.toNat ++ le 1 domain

/-- GET of the default data set of a followed domain is answered on the port that it came by (R70). -/
def State.answerGet (s : State) (q : Nat) (f : EthFrame) : State :=
  match f.ptp with
  | some m => if m.kind = .getDefault ∧ (m.domain.toNat = s.ptpDomain false ∨ m.domain.toNat = s.ptpDomain true) then
      s.put (.ptp q 5 (s.defaultDataSet m.domain.toNat))
    else s
  | none => s

/-- A frame sent by a port, or dropped there: its link is down, or the frame is too long with the tag, trailer or tag it leaves with
(R329, R332, R342, log entry 109). -/
def State.sendFrame (s : State) (q v : Nat) (f : EthFrame) (p : Nat) : State :=
  let g := s.leaving p v f
  if s.portUp p = false ∨ maxLen g < g.len then s.countPort p 4
  else
    let s := s.countPort p 1
    if p = 8 then (s.internalFrame f).answerAsk q f else s.put (.frame p g)

/-- A frame that passed the ingress checks, forwarded (R329, R331 to R333, R335, R71). -/
def State.forward (s : State) (q v : Nat) (f : EthFrame) : State :=
  let f := s.correct { f with pcp := s.framePriority q f }
  let s := ((s.noteFrame q f).learn q f.src).answerGet q f
  let ps := s.egress q v f
  let r := s.proxy ps f
  ps.foldl (fun (s : State) p => s.sendFrame q v r.2 p) r.1

/-- A frame of a VLAN that its port is a member of: the broadcast and multicast limit, then forwarding (R331, R334). -/
def State.forwardLimited (s : State) (q v : Nat) (f : EthFrame) : State :=
  if q < 8 ∧ s.stormFrame f then
    let n := s.spine.storm.get q + 1
    let s : State := { s with spine := { s.spine with storm := s.spine.storm.set q n } }
    if s.cfg F.spineStormLimit < n then s.countPort q 3 else s.forward q v f
  else s.forward q v f

/-- A counted frame with no fault of its own: its VLAN (R332). -/
def State.forwardVlan (s : State) (q : Nat) (f : EthFrame) : State :=
  match s.vlanEntry q f with
  | none => s.countPort q 3
  | some v => if s.portMember q v = false then s.countPort q 3 else s.forwardLimited q v f

/-- A source whose frames the module sends on the ring: itself, or a node at one of its sensor ports (R331). -/
def State.ownSource (s : State) (m : BitVec 48) : Bool :=
  m == Config.moduleMac || (match s.macPort m with
    | some p => decide (2 ≤ p)
    | none => false)

/-- The ingress checks of a counted frame (R328, R330, R335, R70). -/
def State.ingress (s : State) (q : Nat) (f : EthFrame) : State :=
  let f := s.readFrame q f
  if f.fcsOk = false then s.countPort q 2
  else if maxLen f < f.len ∨ 2 ≤ f.tags then s.countPort q 3
  else if s.cfg F.spineRedundancy = 1 ∧ q < 2 ∧ f.lanOk = false then s.countPort q 6
  else if s.cfg F.spineRedundancy = 2 ∧ q < 2 ∧ s.ownSource f.src then s
  else if s.isDuplicate q f then s.countPort q 5
  else if s.ptpUnsupported f then s.countPort q 7
  else s.forwardVlan q f

/-- SPINE_FRAME_FORWARD (R328 to R335, R70, R71). -/
def execSpineFrameForward (port : Fin 9) (f : EthFrame) (s : State) : Host.Outcome State Fault Refusal :=
  act (fun s => if s.ready = false ∨ s.portUp port.val = false then s else (s.countPort port.val 0).ingress port.val f) s

/-! ### Keys -/

/-- A key slot emptied, or loaded with a key and its check value (R338). -/
def State.setKey (s : State) (k : Nat) (key : List Byte) : State :=
  let s : State := { s with spine := { s.spine with keys := s.spine.keys.set k key } }
  let check := if key.isEmpty then 0 else keyCheck key
  (s.wr F.spineKeyStatus (putBit (s.rd F.spineKeyStatus) k !key.isEmpty)).wr (F.spineKeyCheck k) check

/-- CMD_SPINE_KEY (R338, R343): slot only erases. -/
def execCmdSpineKey (h : Hdr) (slot : Byte) (key : Option (List Byte)) (s : State) : Host.Outcome State Fault Refusal :=
  act (fun s => s.command h 0x9001 (slot :: key.getD []) fun s =>
    let k := slot.toNat
    if fromHere h = false then s.reply Res.wrongTransport
    else if 3 < k then s.reply Res.outOfRange
    else if s.writeGuard then s.reply Res.writeGuard
    else match key with
      | none => (s.setKey k []).reply Res.ok
      | some [] => (s.setKey k []).reply Res.ok
      | some b => if b.length ≠ 32 then s.reply Res.badLength else (s.setKey k b).reply Res.ok) s

/-! ### Rejected messages -/

/-- A message of a datagram is a command of Plezen version 1 with the right length and check code (R443, R444). -/
def plezenFormed (m : List Byte) : Bool :=
  decide (32 ≤ m.length) && decide (m.length ≤ 4096) && m.take 4 == le 2 0xB65E ++ le 1 1 ++ le 1 0 &&
    unle ((m.drop 6).take 2) == m.length - 32 &&
    unle ((m.drop 28).take 4) == (Crypto.crc32c (m.take 28 ++ m.drop 32)).toNat

/-- What an accepted datagram that is no proper command comes to (R444, R448, R453); a proper one is left to the row of its command. -/
def State.rejectMessage (s t : State) (k : Fin 4) (slot : Byte) (c : W64) (tag m : List Byte) (ports : UdpPorts) : State :=
  if plezenFormed m = false then t.inc F.devMsgErrors else
  let code := unle ((m.drop 4).take 2)
  let h : Hdr := ⟨.spine k slot c tag ports, BitVec.ofNat 32 (unle ((m.drop 8).take 4)), BitVec.ofNat 32 (unle ((m.drop 28).take 4))⟩
  match argLength code with
  | none => t.spineCommand k.val h code fun s => s.reply Res.unknownCommand
  | some x =>
    match argFit x (m.length - 32) with
    | .tooLong => t.inc F.devMsgErrors
    | .wrong => t.spineCommand k.val h code fun s => s.reply Res.badLength
    | .fits => s

/-- PLEZEN_MESSAGE_REJECT: a datagram to spine.plezen_port that fails authentication is counted and answered with nothing, a malformed message is
counted, and an unknown command code is refused (R337, R444, R448, R453). -/
def execPlezenMessageReject (addr : UdpFrom) (bytes : List Byte) (s : State) : Host.Outcome State Fault Refusal :=
  act (fun s =>
    if s.ready = false ∨ s.cfg F.spineIpAddr = 0 ∨ addr.ports.dst.toNat ≠ s.cfg F.spinePlezenPort then s else
    match (List.finRange 4).find? fun k => s.cfgFlag (F.spineHostCfgEnabled k.val) && s.cfg (F.spineHostIp k.val) == addr.ip.toNat with
    | none => s.authReject addr.ip.toNat 2
    | some k =>
      let m := bytes.take (bytes.length - 28)
      let tr := bytes.drop (bytes.length - 28)
      let slot := tr.headD 0
      let c := BitVec.ofNat 64 (unle ((tr.drop 4).take 8))
      if bytes.length < 28 then s.authReject addr.ip.toNat 0 else
      match s.authFault k.val slot c (tr.drop 12) (bytes.take (bytes.length - 16)) with
      | some r => s.authReject addr.ip.toNat r
      | none => s.rejectMessage (s.acceptFrom k.val c) k slot c (tr.drop 12) m addr.ports) s

end Sys2Proof.Machine
end

