-- ==== Sys2Proof/Machine/Reset.lean ====
section
/-! DEFINITION. What a reset clears and what it keeps (R487, R490, R499, R56). -/

namespace Sys2Proof.Machine

/-- The kinds of reset (R487). -/
inductive ResetKind where
  | powerOn | external | device
deriving DecidableEq, Repr

/-- The TAI second of a UTC second, from the leap-second table: the last entry that has come in UTC (R56, R474). -/
def taiOfUtc (table : List Leap) (utc : Int) : Int :=
  match (table.filter fun l => decide ((l.from_ : Int) - l.offset ≤ utc)).getLast? with
  | some l => utc + l.offset
  | none => utc

/-- TB3 at reset in ns (R56): the time of the RTC taken to TAI, or 0 when the RTC is not valid. -/
def State.rtcTime (s : State) (clock : Nat) : Nat :=
  if s.life.rtcValid then
    let utc := s.life.rtcUtc + clock
    (taiOfUtc s.life.leaps (utc / (nsSecond : Int)) * (nsSecond : Int) + utc % (nsSecond : Int)).toNat
  else 0

/-- The registers that a reset keeps: what stands in MRAM, NAND and the supply monitor, and at a device reset the Safety Monitor
and the fault collector (R405, R411, R427, R461, R466, R498). -/
def keptId (kind : ResetKind) (id lo : Nat) : Bool :=
  (id == 0x0010 && decide (lo < 3)) || (id == 0x0018 && decide (lo < 2)) || id == 0x0019 || (id == 0x7010 && lo == 6) ||
  (decide (0x9060 ≤ id) && decide (id ≤ 0x9070)) || id == 0xB103 || id == 0xB104 || (id == 0xB100 && lo == 2) || id == 0xD001 ||
  id == 0xD008 || id == 0xD00A || id == 0xE021 || id == 0xE022 || id == 0xE031 || id == 0xE044 ||
  (kind == .external && id == 0x0032) ||
  (kind == .device && (id == 0x0032 || (decide (0xB100 ≤ id) && decide (id < 0xC000)) ||
    (decide (0xC001 ≤ id) && decide (id < 0xC300))))

/-- The registers after a reset. -/
def State.keptRegs (s : State) (kind : ResetKind) : Regs :=
  let base : Regs := if kind = .device then noRoles ⟨[]⟩ else State.reset.regs
  base.setAll (s.regs.cells.filter fun c => keptId kind (c.1 / 64) (c.1 % 64))

/-- A sender after a reset: only counters of a greater epoch than the recorded one are accepted (R337). -/
def Sender.afterReset (x : Sender) : Sender := ⟨x.epoch, x.epoch, none, []⟩

/-- The Spine after a reset: keys and the recorded epochs stand in MRAM. -/
def State.keptSpine (s : State) : SpineState :=
  let senders := (List.range 7).foldl (fun (m : Store newSender) n => m.set n (s.spine.senders.get n).afterReset) ⟨[]⟩
  { SpineState.reset with keys := s.spine.keys, senders := senders, supervisedAt := s.clock, proxied := s.spine.proxied }

/-- The receivers after a reset: what they hold in MRAM (R95). -/
def State.keptGnss (s : State) : GnssState :=
  { GnssState.reset with ephs := s.gnss.ephs, almanac := s.gnss.almanac, lastFix := s.gnss.lastFix }

/-- The logic after a reset: the program slots and the retain mirror stand in MRAM. -/
def State.keptLogic (s : State) : LogicState :=
  { LogicState.reset with slots := s.logic.slots, mirror := s.logic.mirror, newest := s.logic.newest }

/-- The lifetime data that MRAM and NAND hold, and the RTC. -/
def State.keptLife (s : State) : LifeState :=
  { LifeState.reset with
    committed := s.life.committed, copySeq := s.life.copySeq, older := s.life.older, olderSeq := s.life.olderSeq, saturated := s.life.saturated, leaps := s.life.leaps,
    pages := s.life.pages, nextPage := s.life.nextPage, block := s.life.block, used := s.life.used, retired := s.life.retired,
    erases := s.life.erases, wearErases := s.life.wearErases, wearRetired := s.life.wearRetired,
    rtcValid := s.life.rtcValid, rtcUtc := s.life.rtcUtc, resetMark := true, markDue := true }

/-- The lanes after a reset: the roles of the last rotation stand in MRAM, and the checkpoint SRAM while AO stays powered. -/
def State.keptLane (s : State) (kind : ResetKind) : LaneState :=
  { LaneState.reset with
    quires := if kind = .powerOn then ⟨[]⟩ else s.lane.quires, latest := if kind = .powerOn then none else s.lane.latest,
    lastDuty := s.lane.lastDuty, lastPartner := s.lane.lastPartner }

/-- The Safety Monitor after a reset: running on at a device reset (R400), else started anew with its protected MRAM (R390, R391,
R398). -/
def State.keptSafe (s : State) (kind : ResetKind) : SafeState :=
  if kind = .device then s.safe
  else { SafeState.reset with key := s.safe.key, conf0 := s.safe.conf0, conf1 := s.safe.conf1 }

/-- The fault collector after a reset: it runs on at a device reset, which voids every arming in its scope (R405, R417). -/
def State.keptFault (s : State) (kind : ResetKind) : FaultState :=
  if kind = .device then
    { s.fault with injected := s.fault.injected.filter fun i => decide (4 ≤ i.checker) && decide (i.checker ≤ 6) }
  else FaultState.reset

/-- The supply after a reset: the feeds, the Endpapers, and an Endpaper write in progress at a device reset (R504). -/
def State.keptPower (s : State) (kind : ResetKind) : PowerState :=
  { PowerState.reset with feeds := s.power.feeds, load := s.power.load, slots := s.power.slots, tripAt := s.power.tripAt, sagAt := s.power.sagAt,
                          writing := if kind = .device then s.power.writing else none }

/-- Station Time at a reset (R56): TB3 from the RTC, TB0 equal to it, the grid provisional from the next frame instant. -/
def State.keptTime (s : State) : TimeState :=
  let t := s.rtcTime s.clock
  { TimeState.reset with tb0 := t, mono := s.clock, frameAt := t, ocxo := s.time.ocxo, resetAt := s.clock,
                         withinSince := s.clock }

/-- The pins at the start of a reset (R490). -/
def State.resetPins (s : State) (kind : ResetKind) : List Output :=
  let analog := (List.range 16).map fun n =>
    if kind = .device then Output.holdOff n (s.cfgInt (F.loopAoutHoldoff n)) else Output.analog n none
  let safe := if kind = .device then [] else (List.range 8).map fun o => Output.safeOut o false
  let trig := (List.range 8).map fun t => Output.trig t false s.now
  safe ++ analog ++ trig ++ [.pps false s.now, .restPins true]

/-- The device resets with cause DEVICE_FATAL within one hour of operating time, counted over a reset (R498). -/
def State.fatalsAfter (s : State) (kind : ResetKind) (cause : Nat) : List Nat :=
  let recent := s.recentFatals
  if kind = .powerOn then [] else if cause = 3 then recent ++ [s.clock] else recent

/-- The lifetime data after a reset, with the device reset counted. -/
def State.lifeAfter (s : State) (kind : ResetKind) : LifeState :=
  if kind = .device then { s.keptLife with accrued := (⟨[]⟩ : Nats).set 0xE002 1 } else s.keptLife

/-- The domains after a reset (R487): those in its scope at their reset values. -/
def State.afterReset (s : State) (kind : ResetKind) (cause : Nat) : State :=
  { State.reset with
    pending := s.pending, free := s.free, outputs := s.outputs ++ s.resetPins kind, regs := s.keptRegs kind,
    folioA := s.folioA, folioB := s.folioB, turn := { TurnState.reset with commits := s.turn.commits },
    fw := { FwState.reset with slots := s.fw.slots, trialSlot := s.fw.trialSlot, attempts := s.fw.attempts },
    boot := { BootState.reset with
      fatalTimes := s.fatalsAfter kind cause, heldReset := kind == .device && s.boot.heldReset,
      unitsFaulted := if kind = .powerOn then [] else (List.range 4).filter fun u => s.rd (F.ctlUnitStatusState u) == 3 },
    fault := s.keptFault kind, life := s.lifeAfter kind, time := s.keptTime, gnss := s.keptGnss, logic := s.keptLogic, spine := s.keptSpine,
    lane := s.keptLane kind, safe := s.keptSafe kind, power := s.keptPower kind }

/-- A reset (R487): every domain in its scope at its reset values, the start of BOOT, and the registers that tell it (R498). -/
def State.doReset (s : State) (kind : ResetKind) (cause : Nat) : State :=
  let r := s.afterReset kind cause
  let r := ((r.wr F.devResetCause cause).wr F.devFatalResets (min 3 (s.fatalsAfter kind cause).length)).wr F.spineTxEpoch
    (s.rd F.spineTxEpoch + 1)
  let r := (r.wrFlag F.faultStatusDeviceFatal (cause == 3)).wrFlag F.faultStatusInjectArmed (!r.fault.injected.isEmpty)
  r.wrFlag F.lifeCalStatusRtcValid r.life.rtcValid

/-- A device reset (R411, R487). -/
def State.deviceReset (s : State) (cause : Nat) : State := s.doReset .device cause

/-- The reset after a Fatal, device error (R365, R409, R411): its record also goes to the journal unless the Write Guard or
Survival stops NAND writes. -/
def State.fatalReset (s : State) : State :=
  let s := match s.fault.ring.getLast? with
    | some r => if s.writeGuard ∨ s.budget = 3 then s else s.addPage s.now false false r.bytes
    | none => s
  s.deviceReset 3

end Sys2Proof.Machine
end

