-- ==== Sys2Proof/Machine/Lanes.lean ====
section
/-! DEFINITION. The lanes, the Referee, the Quire and rotation (R344 to R374). -/

namespace Sys2Proof.Machine

/-- Whole microseconds as an FP32 field of an event (R445). -/
def usF32 (us : Nat) : List Byte := le 4 (Float.fratio us 1).toNat

/-! ### Lane states and roles -/

/-- A lane by name. -/
def laneNo : Lane → Nat
  | .lna => 0
  | .lnb => 1
  | .lnc => 2

/-- The state of a lane (R344). -/
def State.laneSt (s : State) (n : Nat) : Nat := s.rd (F.laneState n)

/-- Power of a lane's domain by its state (R344, R441): 0 off, 1 on, 2 retention. A lane that retires stays on until the Quire of
its last frame is committed (R366). -/
def lanePower (st : Nat) : Nat := if st = laneOff ∨ st = laneFailed then 0 else if st = laneStandby then 2 else 1

/-- The capture buffer of a lane whose private SRAM starts anew (R280): of one that joins during a test, the test's from its join. -/
def State.freshCapture (s : State) (n : Nat) (joined : Bool) : State :=
  { s with loop := { s.loop with captures := s.loop.captures.set n ⟨⟨[]⟩, 0, joined⟩ } }

/-- The capture buffer of a lane that owns the outputs shown (R280). -/
def State.showCapture (s : State) (n : Nat) : State :=
  let c := s.loop.captures.get n
  (s.wr F.loopCaptureCount c.count).wrFlag F.loopOutStatusCaptureIncomplete c.joined

/-- A lane put into a state; a wake is counted (R344, R470), and the owner's capture is shown (R280). -/
def State.setLane (s : State) (n st : Nat) : State :=
  let s := (s.wr (F.laneState n) st).wr (F.powerDomainState (2 + n)) (lanePower st)
  let s := if st = laneDuty then s.showCapture n else if st = laneWaking then s.freshCapture n false else s
  if st = laneWaking then s.accrue (0xE018 + n) 1 else s

/-- The roles as R290 codes them. -/
def State.roleCode (s : State) : Nat :=
  (s.laneIn laneDuty).getD 3 + 4 * (s.laneIn lanePartner).getD 3 + 16 * (s.laneIn laneStandby).getD 3

/-- SINGLE_LANE (R346): one lane is DUTY with no PARTNER, and no lane wakes or joins to become one. -/
def State.single (s : State) : Bool :=
  (s.laneIn laneDuty).isSome && (s.laneIn lanePartner).isNone && (s.laneIn laneWaking).isNone && (s.laneIn laneJoining).isNone

/-- The roles and SINGLE_LANE shown; a change of the roles sends EV_LANE_ROLE (R374). Causes: 0 FAULT, 1 JOIN, 2 ROTATION,
3 RESET. -/
def State.showRoles (s : State) (cause : Nat) : State :=
  let old := s.rd F.laneRoles
  let new := s.roleCode
  let s := s.wrFlag F.laneStatusSingleLane s.single
  if old = new then s else (s.wr F.laneRoles new).emit 0xA0 (le 1 old ++ le 1 new ++ le 1 cause)

/-- The lane that overlaps as a third active lane (R366). -/
def State.overlapLane (s : State) : Option Nat := if s.flag F.laneStatusOverlap then s.laneIn laneJoining else none

/-- The lane that wakes or joins. -/
def State.comingLane (s : State) : Option Nat :=
  match s.laneIn laneWaking with
  | some n => some n
  | none => s.laneIn laneJoining

/-- The standby starts to wake (R362), for a fault or for rotation, unless a lane already wakes or joins. -/
def State.wakeStandby (s : State) (rotation : Bool) : State :=
  match s.laneIn laneStandby, s.comingLane with
  | some n, none =>
    let s : State := { s with lane := { s.lane with byRotation := rotation, live := false, waitQuire := false, tries := 0,
                                                    joinAt := s.clock } }
    s.setLane n laneWaking
  | _, _ => s

/-- A rotation in progress ends without its handover (R367, R368): outcome 1 postponed, 2 cancelled; reasons 0 BUDGET,
1 SELF_TEST, 2 HOLD, 3 FAULT. -/
def State.endRotation (s : State) (outcome reason : Nat) : State :=
  match s.lane.rotation with
  | some _ =>
    let lanes := match s.comingLane with
      | some n => 2 ^ n
      | none => 0
    let s : State := { s with lane := { s.lane with rotation := none, byRotation := false } }
    (s.wrFlag F.laneStatusOverlap false).emit 0xA3 (le 1 lanes ++ le 1 outcome ++ le 1 reason)
  | none => s

/-- The result of an injection sent (R417): 0 ARMED, 1 FIRED, 2 EXPIRED. -/
def State.injectEvent (s : State) (i : Inject) (result : Nat) : State :=
  s.emit 0xC2 (le 1 i.checker ++ le 1 i.place ++ le 1 (bit i.double) ++ le 1 result)

/-- The armings of a checker that a condition voids or that expire leave the list with EXPIRED (R417, R419). -/
def State.voidInjects (s : State) (p : Inject → Bool) : State :=
  let gone := s.fault.injected.filter p
  let rest := s.fault.injected.filter fun i => !p i
  let s : State := { s with fault := { s.fault with injected := rest } }
  gone.foldl (fun (s : State) i => s.injectEvent i 2) (s.wrFlag F.faultStatusInjectArmed (!rest.isEmpty))

/-- A lane silenced (R345, R346, R374), with the failing test: causes 0 SELF_DETECTED, 1 RAPID_CHECK, 2 BY_RULE, 3 MAJORITY, 4 SELF_TEST,
5 CHAIN. -/
def State.silenceFor (s : State) (n cause : Nat) (test : List Byte) (gapUs : Nat) : State :=
  let s : State := { s with lane := { s.lane with silences := s.lane.silences.set n (s.lane.silences.get n ++ [s.clock]),
                                                  causes := s.lane.causes.set n cause } }
  let s := ((s.setLane n laneSilenced).inc (F.laneHealth n 7)).voidInjects fun i => i.checker == 0 && i.place == n
  s.emit 0xA1 (le 1 n ++ le 1 cause ++ test ++ usF32 gapUs)

/-- A lane silenced where no test of a list has failed. -/
def State.silence (s : State) (n cause gapUs : Nat) : State := s.silenceFor n cause (s.noValue 0xA1) gapUs

/-- A lane becomes FAILED, with EV_LANE_FAULT (R346, R374). -/
def State.failLane (s : State) (n cause : Nat) : State :=
  (s.setLane n laneFailed).emit 0xA1 (le 1 n ++ le 1 cause ++ s.noValue 0xA1 ++ usF32 0)

/-- The place of a silenced partner is filled (R355, R368, R372): at once by the lane in overlap, otherwise the standby wakes. A lane
that already wakes for rotation becomes the replacement. -/
def State.fillPartner (s : State) : State :=
  match s.overlapLane with
  | some j => (s.endRotation 2 3).setLane j lanePartner
  | none => (s.endRotation 2 3).wakeStandby false

/-- The silencing of the duty lane wakes the standby at once (R355, R362), unless a lane in overlap takes the partner's place. -/
def State.wakeReplacement (s : State) : State :=
  if s.overlapLane.isSome then s else (s.endRotation 2 3).wakeStandby false

/-- A fault-driven change of owner has taken place (R27). -/
def State.ownerChanged (s : State) : State := { s with lane := { s.lane with ownerAt := some s.clock } }

/-- The partner, or else the lane in overlap, becomes DUTY (R355, R372); the place of the partner is filled. -/
def State.promote (s : State) : State :=
  let s : State := { s with lane := { s.lane with promote := false } }
  match s.laneIn lanePartner, s.overlapLane with
  | some p, _ => (((s.setLane p laneDuty).ownerChanged).fillPartner).showRoles 0
  | none, some j => ((((s.ownerChanged).endRotation 2 3).setLane j laneDuty).wakeStandby false).showRoles 0
  | none, none => s

/-! ### Holding the outputs -/

/-- The tick in progress is held (R355, R357). -/
def State.holdTick (s : State) : State :=
  let s := if s.flag F.laneStatusHolding then s else (s.wrFlag F.laneStatusHolding true).inc F.laneHoldCount
  { s with lane := { s.lane with held := s.lane.held + 1, tickHold := false } }

/-- The selector resumes: the gap runs from T+40 of the last agreed tick to T+40 of this one (R356, R360). -/
def State.endHold (s : State) : State :=
  let gap := 125 * (s.lane.held + 1)
  let s : State := { s with lane := { s.lane with held := 0, resume := false } }
  ((s.wrFlag F.laneStatusHolding false).wr F.laneHoldMax (min 1023 (max gap (s.rd F.laneHoldMax)))).flushWaiting

/-- A mismatch that no lane explains (R357): the tick is held and Rapid Check is ordered. -/
def State.orderRapid (s : State) : State :=
  ({ s with lane := { s.lane with rapid := true, rapidAt := s.clock, rapidFailed := Store.empty, rapidFrom := s.time.tickDue + 1, rapidTo := 0 } } : State).holdTick

/-- The comparison of three lanes (R368). -/
def State.compareThree (s : State) (d : Differs) (j : Nat) : State :=
  match d.duty, d.partner, d.joined with
  | false, false, false => s
  | false, false, true => ((s.silence j 3 0).endRotation 2 3).showRoles 0
  | false, true, false =>
    match s.laneIn lanePartner with
    | some p => ((s.silence p 3 0).fillPartner).showRoles 0
    | none => s
  | true, false, false =>
    match s.laneIn laneDuty with
    | some n => ((({ s with lane := { s.lane with promote := true } } : State).silence n 3 250).showRoles 0).holdTick
    | none => s
  | _, _, _ => (((s.silence j 3 0).endRotation 2 3).showRoles 0).orderRapid

/-- The comparison of the tick digests at T+34 (R348), with a difference of Catchwords found before (R350). -/
def State.compareTick (s : State) (d : Differs) : State :=
  let d := s.lane.differ.getD d
  let s : State := { s with lane := { s.lane with differ := none } }
  if s.twoLanes = false then s else
  match s.overlapLane with
  | some j => s.compareThree d j
  | none => if d.duty ∨ d.partner then s.orderRapid else s

/-- The output selector in a tick (R348, R355, R357). -/
def State.selector (s : State) (d : Differs) : State :=
  let s := s.foldDigest
  if s.lane.rapid ∨ s.lane.tickHold then s.holdTick
  else (if s.flag F.laneStatusHolding then s.endHold else s).compareTick d

/-! ### Faults of lanes -/

/-- The tick in progress is held at the outputs for a duty lane that is silenced (R355): the partner takes over after it. -/
def State.dutyFault (s : State) (n : Nat) (after : Bool) : State :=
  if after then (s.silence n 0 0).promote
  else
    let s := (s.silence n 0 250).wakeReplacement
    ({ s with lane := { s.lane with promote := true, tickHold := true } } : State).showRoles 0

/-- EV_LANE_JOIN of a join that ends before the lane has joined, with its reason (R364, R374). -/
def State.abandonFor (s : State) (n : Nat) (reason : List Byte) : State :=
  s.emit 0xA2 (le 1 n ++ le 1 1 ++ reason ++ usF32 (s.since s.lane.joinAt / 1000))

/-- The join of a lane that is silenced, or returned to STANDBY, on the way ends (R374); no rule gives it a reason (log entry 60). A lane in
overlap has joined. -/
def State.cutJoin (s : State) (n : Nat) : State :=
  if s.laneSt n = laneJoining ∧ s.flag F.laneStatusOverlap = false then s.abandonFor n (s.noValue 0xA2) else s

/-- A self-detected fault of a lane (R355, R365, R372). -/
def State.laneFault (s : State) (n : Nat) (after : Bool) : State :=
  let st := s.laneSt n
  if st = laneDuty then
    if s.lane.rapid then { s with lane := { s.lane with rapidFailed := s.lane.rapidFailed.set n true } }
    else if (s.laneIn lanePartner).isNone ∧ s.overlapLane = none then s.fatalReset
    else s.dutyFault n after
  else if st = lanePartner then
    if s.lane.rapid then { s with lane := { s.lane with rapidFailed := s.lane.rapidFailed.set n true } }
    else if s.lane.promote then
      if s.overlapLane = none then s.fatalReset else (s.silence n 0 250).showRoles 0
    else ((s.silence n 0 0).fillPartner).showRoles 0
  else if st = laneWaking ∨ st = laneJoining then (((s.cutJoin n).endRotation 2 3).silence n 0 0).showRoles 0
  else s

/-- A Rapid Check ends; one that both lanes passed or failed is decided by rule (R358). -/
def State.endRapid (s : State) (byRule : Bool) : State :=
  let s : State := { s with lane := { s.lane with rapid := false, resume := true, rapidTo := s.time.tickDue } }
  let s := s.wrFlag F.laneStatusByRule byRule
  if byRule then s.inc F.laneArbByRule else s

/-- The test that a report names as failed (R374); of one that names none the byte is free. -/
def State.failedTest (s : State) (r : RapidReport) : List Byte :=
  match r with
  | .failed t => le 1 t.val
  | _ => s.noValue 0xA1

/-- The Referee's verdict on the reports of a Rapid Check (R357 to R359): a lane that detected a fault of its own during it fails (R372). -/
def State.verdict (s : State) (duty partner : RapidReport) : State :=
  match s.lane.rapid, s.laneIn laneDuty, s.laneIn lanePartner with
  | true, some d, some p =>
    let dOk := duty == .passed && !s.lane.rapidFailed.get d
    let pOk := partner == .passed && !s.lane.rapidFailed.get p
    let gap := 125 * (s.lane.held + 1)
    let s := s.endRapid (dOk == pOk)
    if dOk = false ∧ pOk = true then
      ((s.silenceFor d 1 (s.failedTest duty) gap).setLane p laneDuty |>.ownerChanged.fillPartner).showRoles 0
    else ((s.silenceFor p (if dOk == pOk then 2 else 1) (s.failedTest partner) gap).fillPartner).showRoles 0
  | _, _, _ => s

/-- RAPID_CHECK_VERDICT (R357 to R359). -/
def execRapidCheckVerdict (duty partner : RapidReport) (s : State) : Host.Outcome State Fault Refusal :=
  act (fun s => s.verdict duty partner) s

/-- Reports that have not come 600 µs after the order at T+36 fail, and the verdict follows within 4 µs (R357). -/
def State.lateVerdict (s : State) : State :=
  if s.lane.rapid ∧ 640000 ≤ s.since s.lane.rapidAt then s.verdict .absent .absent else s

/-! ### The Quire -/

/-- What a Quire holds (R351); the stored states of R149 are not part of it (R164). -/
def State.snapshot (s : State) : Checkpoint :=
  { frame := s.totalFrames, catchword := 0, regs := s.regs, coll := { s.coll with ledger := [], stored := [], unrevised := [], live := [] }, vote := s.vote,
    ctl := (s.lane.ctlMark.map (·.1)).getD s.ctl, ctlRegs := (s.lane.ctlMark.map (·.2)).getD s.regs, loop := s.loop.image,
    retain := ⟨s.logic.committed.getD 0, s.logic.retainProg.getD 0, s.logic.retain, s.logic.retainProg.isSome⟩,
    logic := ⟨s.logic.data, s.logic.output, s.logic.forces, s.logic.change.isSome⟩,
    lifeBase := s.life.copySeq, life := s.life.accrued, unacked := s.host.queue.length }

/-- QUIRE_WRITE: at tick D + 16 the active lanes write into the slot that does not hold the latest Quire (R352). A Quire never
exceeds 7.5 MiB (R351). -/
def execQuireWrite (s : State) : Host.Outcome State Fault Refusal :=
  act (fun s =>
    if s.atCore (s.deadline + 16) = false ∨ s.lane.writing.isSome ∨ s.lane.committed ∨
        s.laneIn laneDuty = none then s
    else { s with free := s.free + 1, lane := { s.lane with
      writing := some (min (Config.quireBytes s.free) 7864320, s.snapshot), writeAt := s.clock } }) s

/-- The active lanes can have written a Quire of some bytes within the tick in progress, each at 4 bytes per ns (R352, R353): both halves
at once, or both by one lane. -/
def State.quireWritten (s : State) (bytes : Nat) : Bool :=
  decide (bytes < (s.since s.lane.writeAt + nsTick) * if s.twoLanes then 8 else 4)

/-- The Catchword of a frame (R349): the first 8 bytes of SHA-256 over 54 bytes. -/
def State.catchword (s : State) (digest : List Byte) : W64 :=
  BitVec.ofNat 64 (unle ((Crypto.sha256 (le 8 (s.rd F.laneCatchword) ++ le 2 (s.rd F.timeFrameEpoch) ++
    le 4 (s.rd F.timeFrameNumber) ++ digest ++ le 8 s.lane.fold.toNat)).take 8))

/-- The commit record of a Quire written (R352): the slot holds the latest Quire. -/
def State.commitQuire (s : State) (bytes : Nat) (x : Checkpoint) (word : W64) : State :=
  let slot := match s.lane.latest with
    | some n => 1 - n
    | none => 0
  let s : State := { s with lane := { s.lane with
    quires := s.lane.quires.set slot ⟨some { x with catchword := word }, s.clock⟩, latest := some slot, writing := none,
    committed := true, fold := 0, waitQuire := false, retiring := none } }
  (((s.wr F.laneCatchword word.toNat).wr F.laneQuireFrame (s.rd F.timeFrameNumber)).wr F.laneQuireEpoch
    (s.rd F.timeFrameEpoch)).wr F.laneQuireSize bytes

/-- A lane that retires enters retention (R366). -/
def State.retireLane (s : State) : State :=
  match s.lane.retiring with
  | some n => s.wr (F.powerDomainState (2 + n)) 2
  | none => s

/-- QUIRE_COMMIT: both halves are written and the Catchwords compared (R350, R352); a lane that retires enters retention (R366). -/
def execQuireCommit (d : Differs) (s : State) : Host.Outcome State Fault Refusal :=
  act (fun s =>
    match s.lane.writing with
    | some (bytes, x) =>
      if s.quireWritten bytes = false ∨ s.lane.rapid then s
      else if s.twoLanes ∧ (d.duty ∨ d.partner ∨ (s.overlapLane.isSome ∧ d.joined)) then
        { s with lane := { s.lane with writing := none, differ := some d, fold := 0 } }
      else
        let digest := (List.range 32).map (Config.quireDigest s.free)
        (({ s with free := s.free + 1 } : State).retireLane).commitQuire bytes x (s.catchword digest)
    | none => s) s

/-- At a frame instant a Quire that was due and is not committed is abandoned (R353). -/
def State.abandonQuire (s : State) : State :=
  let skipped := s.lane.quireDue && !s.lane.committed
  let frame := s.rd F.timeFrameNumber
  let s : State := { s with lane := { s.lane with writing := none, committed := false, quireDue := false } }
  let s := s.wrFlag F.laneStatusQuireSkipped skipped
  if skipped then (s.inc F.laneQuireSkipped).emit 0xA4 (le 4 frame ++ le 1 0) else s

/-! ### Waking and joining -/

/-- A restore from the latest committed Quire, or from the other slot (R354); with neither valid, the lane waits for the next
committed Quire (log entry 62). -/
def State.restoreLane (s : State) (q0 q1 : Bool) : State :=
  let ok (n : Nat) : Option Checkpoint := if (if n = 0 then q0 else q1) then (s.lane.quires.get n).image else none
  let wait : State := { s with lane := { s.lane with waitQuire := true } }
  match s.lane.latest with
  | some n =>
    match ok n, ok (1 - n) with
    | some _, _ => s
    | none, some x => s.emit 0xA4 (le 4 x.frame ++ le 1 1)
    | none, none => wait
  | none => wait

/-- A lane that a failed chain silenced joins from the first Quire committed after its release (R364). -/
def State.restoreFresh (s : State) (q0 q1 : Bool) : State :=
  let newest := match s.lane.latest with
    | some n => (s.lane.quires.get n).at_
    | none => 0
  match s.lane.release with
  | some t =>
    let s : State := { s with lane := { s.lane with release := none } }
    if t < newest then s.restoreLane q0 q1 else { s with lane := { s.lane with waitQuire := true } }
  | none => s.restoreLane q0 q1

/-- STANDBY_WAKE_COMPLETE: the quick self-test, for rotation also the full one, has ended, 240 µs after the wake at the earliest (R362);
the restore starts (R363). -/
def execStandbyWakeComplete (quickOk fullOk : Bool) (q0 q1 : Bool) (s : State) : Host.Outcome State Fault Refusal :=
  act (fun s =>
    match s.laneIn laneWaking with
    | none => s
    | some n =>
      if s.since s.lane.joinAt + nsTick ≤ 240000 then s else
      let rot := s.lane.byRotation
      let s := if rot ∧ quickOk then s.inc (F.laneHealth n (if fullOk then 8 else 9)) else s
      if quickOk ∧ (rot = false ∨ fullOk) then (s.setLane n laneJoining).restoreFresh q0 q1
      else ((s.endRotation 2 1).failLane n 4).showRoles 0) s

/-- EV_LANE_JOIN of a join that is abandoned (R364): reasons 0 CHAIN, 1 STEP. -/
def State.abandonJoin (s : State) (n reason : Nat) : State := s.abandonFor n (le 1 reason)

/-- LANE_REPLAY_LIVE: the replay has reached the live state, or a Catchword differs: the first time the lane tries once more, the
second it is silenced (R363, R364). -/
def execLaneReplayLive (chainOk : Bool) (s : State) : Host.Outcome State Fault Refusal :=
  act (fun s =>
    match s.laneIn laneJoining with
    | none => s
    | some n =>
      if s.lane.live ∨ s.lane.waitQuire then s
      else if chainOk then { s with lane := { s.lane with live := true } }
      else if s.lane.tries = 0 then { s with lane := { s.lane with tries := 1 } }
      else ((((s.endRotation 2 3).silence n 5 0).abandonJoin n 0)).showRoles 0) s

/-- A step of Station Time restarts a join from the first Quire committed after it (R364). -/
def State.restartJoin (s : State) : State :=
  match s.laneIn laneJoining with
  | some n =>
    if s.flag F.laneStatusOverlap then s
    else ({ s with lane := { s.lane with live := false, waitQuire := true } } : State).abandonJoin n 1
  | none => s

/-- At a frame instant a lane that has reached the live state joins (R26, R363): as PARTNER, or as a third active lane. -/
def State.joinLane (s : State) : State :=
  match s.laneIn laneJoining with
  | some n =>
    if s.lane.live = false ∨ s.flag F.laneStatusOverlap then s else
    let us := s.since s.lane.joinAt / 1000
    let s := s.freshCapture n (match s.loop.test with
      | some t => t.running
      | none => false)
    let s := s.wr (F.laneHealth n 10) (min us 0xFFFFFFFF)
    let s := if (s.laneIn lanePartner).isNone then (s.endRotation 2 3).setLane n lanePartner
      else s.wrFlag F.laneStatusOverlap true
    let s := s.emit 0xA2 (le 1 n ++ le 1 0 ++ s.noValue 0xA2 ++ usF32 us)
    s.showRoles 1
  | none => s

/-- The silences of a lane within lane.fail_window (R346). -/
def State.recentSilences (s : State) (n : Nat) : Nat :=
  ((s.lane.silences.get n).filter fun t => decide (s.since t < s.cfg F.laneFailWindow * 3600 * nsSecond)).length

/-- LANE_SELF_TEST_COMPLETE: a silenced lane, released once the standby has started to wake, has ended its full self-test (R346,
R364, R410). -/
def execLaneSelfTestComplete (l : Lane) (ok : Bool) (s : State) : Host.Outcome State Fault Refusal :=
  act (fun s =>
    let n := laneNo l
    if s.laneSt n ≠ laneSilenced ∨ s.lane.rapid ∨ s.lane.promote then s else
    let s := (s.wr (F.faultLaneFatal n) 0).inc (F.laneHealth n (if ok then 8 else 9))
    if ok = false then (s.failLane n 4).showRoles 0
    else if s.cfg F.laneFailLimit ≤ s.recentSilences n then
      (s.failLane n (s.lane.causes.get n)).showRoles 0
    else
      let chain := s.lane.causes.get n == 5
      let s := s.setLane n laneStandby
      let s := if (s.laneIn lanePartner).isNone then s.wakeStandby false else s
      let s : State := { s with lane := { s.lane with release := if chain then some s.clock else s.lane.release } }
      s.showRoles 0) s

/-! ### Rotation -/

/-- No lane is FAILED, and the device state lets a rotation start (R346, R367, R494). -/
def State.rotationPossible (s : State) : Bool :=
  ((List.range 3).all fun n => s.laneSt n != laneFailed) && s.devState != 0 && s.devState != 1 && s.devState != 3

/-- What keeps a rotation from starting (R367): 0 BUDGET, 2 HOLD, 3 FAULT. -/
def State.rotationBlocked (s : State) : Option Nat :=
  if s.budget ≠ 0 then some 0
  else if s.flag F.laneStatusHolding ∨ s.lane.rapid then some 2
  else if s.comingLane.isSome ∨ s.twoLanes = false ∨ s.laneIn laneStandby = none then some 3
  else none

/-- A whole second is a rotation instant of the schedule (R366). -/
def State.isRotation (s : State) (sec : Nat) : Bool :=
  let p := s.cfg F.laneRotatePeriod * 3600
  p != 0 && decide (toMultiple p (sec + p * 86400 - s.cfg F.laneRotateOffset) = 0)

/-- lane.next_rotation (R366): the next instant of the schedule after a second. -/
def State.nextRotation (s : State) (sec : Nat) : Nat :=
  let p := s.cfg F.laneRotatePeriod * 3600
  if p = 0 then 0 else sec + 1 + toMultiple p (sec + 1 + p * 86400 - s.cfg F.laneRotateOffset)

/-- ROTATION_WAKE: 300 ms before a rotation instant, a commanded one or the second after a postponement, the standby wakes, or the
rotation is postponed (R366, R367). -/
def execRotationWake (s : State) : Host.Outcome State Fault Refusal :=
  act (fun s =>
    let r := s.second + 1
    let due := s.isRotation r || s.flag F.laneStatusRotationPending || s.lane.commanded == some r
    if s.atTick 0 = false ∨ s.rd F.timeFrameIndex ≠ 35 ∨ due = false ∨ s.rotationPossible = false ∨ s.lane.rotation.isSome then s
    else
      let s : State := if s.lane.commanded = some r then { s with lane := { s.lane with commanded := none } } else s
      match s.rotationBlocked with
      | some why =>
        if s.flag F.laneStatusRotationPending then s
        else (s.wrFlag F.laneStatusRotationPending true).emit 0xA3 (le 1 0 ++ le 1 1 ++ le 1 why)
      | none =>
        let s := (s.wrFlag F.laneStatusRotationPending false).wakeStandby true
        { s with lane := { s.lane with rotation := some r } }) s

/-- The roles of a completed rotation recorded in MRAM (R347). -/
def State.recordRoles (s : State) (d p : Nat) : State :=
  if s.writeGuard then s else { s with lane := { s.lane with lastDuty := d, lastPartner := p } }

/-- The roles rotate: the partner is duty, the joined lane partner, and the duty lane retires (R366, R367). -/
def State.handOver (s : State) (d p j : Nat) : State :=
  let s : State := { s with lane := { s.lane with rotation := none, byRotation := false, retiring := some d } }
  let s := (((s.setLane p laneDuty).setLane j lanePartner).setLane d laneStandby).wr (F.powerDomainState (2 + d)) 1
  let s := ((s.wrFlag F.laneStatusOverlap false).recordRoles p j).showRoles 2
  s.emit 0xA3 (le 1 7 ++ le 1 0 ++ s.noValue 0xA3)

/-- A rotation postponed (R367): the lane that wakes or has joined for it returns to STANDBY. Reasons 0 BUDGET, 2 HOLD. -/
def State.postponeRotation (s : State) (n reason : Nat) : State :=
  ((((s.cutJoin n).endRotation 1 reason).setLane n laneStandby).wrFlag F.laneStatusRotationPending true).showRoles 2

/-- ROTATION_HANDOVER: at the rotation instant, or the first frame instant after the join, the roles rotate (R366); an instant that falls
during a hold postpones the rotation (R367). -/
def execRotationHandover (s : State) : Host.Outcome State Fault Refusal :=
  act (fun s =>
    match s.lane.rotation, s.laneIn laneDuty, s.laneIn lanePartner, s.overlapLane with
    | some r, some d, some p, some j =>
      if s.atTick 0 = false ∨ s.second < r then s
      else if s.flag F.laneStatusHolding ∨ s.lane.rapid then
        if s.second = r ∧ s.rd F.timeFrameIndex = 0 then s.postponeRotation j 2 else s
      else s.handOver d p j
    | _, _, _, _ => s) s

/-- A budget change away from Full while a lane wakes or joins for rotation: it returns to STANDBY, and the rotation is postponed
(R367, R372). -/
def State.budgetRotation (s : State) : State :=
  match s.lane.rotation, s.comingLane with
  | some _, some n => s.postponeRotation n 0
  | _, _ => s

/-- CMD_LANE_ROTATE: judged at the frame instant that processes it (R367, R374). -/
def execCmdLaneRotate (h : Hdr) (s : State) : Host.Outcome State Fault Refusal :=
  act (fun s => s.command h 0xA001 [] fun s =>
    ({ s with lane := { s.lane with requests := s.lane.requests ++ [h] } }, none)) s

/-- The waiting CMD_LANE_ROTATE answered at a frame instant: the handover falls on the first whole second at least 300 ms later. -/
def State.rotateRequests (s : State) : State :=
  let reqs := s.lane.requests
  let start : State := { s with lane := { s.lane with requests := [] } }
  reqs.foldl (fun (s : State) h =>
    if s.rotationPossible = false ∨ s.rotationBlocked.isSome then s.respond h 0xA001 Res.wrongState []
    else
      let r := (s.now + 300 * nsMs + nsSecond - 1) / nsSecond
      ({ s with lane := { s.lane with commanded := some r } } : State).respond h 0xA001 Res.ok (stBytes (r * nsSecond))) start

/-- The lanes at a frame instant: commands, the schedule, die temperatures and scrubbing (R366, R370, R371). -/
def State.laneFrame (s : State) (temps : List Int) : State :=
  let s := s.rotateRequests
  let s := s.wr F.laneNextRotation (s.nextRotation s.second)
  let first := !s.lane.sampled
  let s : State := { s with lane := { s.lane with sampled := true } }
  (List.range 3).foldl (fun (s : State) n =>
    let t := temps.getD n 0
    let top := if first then t else max t (s.rdInt (F.laneHealth n 6))
    let s := (s.wrInt (F.laneHealth n 5) t).wrInt (F.laneHealth n 6) top
    let st := s.laneSt n
    if st = laneDuty ∨ st = lanePartner ∨ s.overlapLane = some n then
      let k := s.lane.scrub.get n + 1
      let full := decide (s.cfg F.laneScrubPeriod * 50 ≤ k)
      let s : State := { s with lane := { s.lane with scrub := s.lane.scrub.set n (if full then 0 else k) } }
      if full then s.inc (F.laneHealth n 4) else s
    else s) s

end Sys2Proof.Machine
end

