-- ==== Sys2Proof/Machine/Faults.lean ====
section
/-! DEFINITION. The fault collector: hardware errors and their classes, injection, the corrected-error rate, escalation and the
fault log (R405 to R421). -/

namespace Sys2Proof.Machine

/-! ### Hardware errors -/

/-- The class of a hardware error (R406, R407): 0 Corrected, 1 Contained, 2 Fatal lane, 3 Fatal device. -/
def errorClass (k : Nat) (corrected : Bool) : Nat :=
  if corrected then 0 else if k = 0 ∨ k = 1 then 2 else if k = 13 ∨ k = 14 then 3 else 1

/-- A checker corrects single-bit errors (R407). -/
def corrects (k : Nat) : Bool := !(List.contains [1, 7, 10, 13, 14] k) && decide (k < 15)

/-- A checker is injectable (R407, R416). -/
def injectable (k : Nat) : Bool := !(List.contains [1, 13, 14] k) && decide (k < 15)

/-- A parity checker, which cannot detect a double error (R416). -/
def parityChecker (k : Nat) : Bool := k == 7 || k == 10

/-- The checker has one copy per lane or per solver unit (R416). -/
def placed (k : Nat) : Bool := k == 0 || k == 9

/-- An armed injection that an access by its checker fires (R416, R417). -/
def Inject.fires (i : Inject) (e : HwError) : Bool :=
  i.checker == e.checker.val && (!placed i.checker || i.place == e.place.toNat) &&
  e.corrected == (!i.double && !parityChecker i.checker)

/-- The class of EV_FAULT_HW (R409). -/
def errorEvent (cls : Nat) : EvClass := if cls = 0 then .record else if cls = 1 then .notify else .alarm

/-- A hardware error counted, logged and reported (R409, R417, R418). Where the record does not enter the ring, no rule gives the
sequence that the event's copy carries (log entry 60). -/
def State.reportHw (s : State) (e : HwError) (cls : Nat) (injected : Bool) : State :=
  let k := e.checker.val
  let s := s.inc (if cls = 0 then F.faultHwCorrected k else F.faultHwUncorrected k)
  let s := if injected then s else s.accrue (0xE008 + cls) 1
  let logged := cls != 0 || s.cfgFlag F.faultLogCorrected
  let s := if logged then s.logFault 0 k cls e.place.toNat (bit injected) e.location e.syndrome else s
  let rec_ := match s.fault.ring.getLast?, logged with
    | some r, true => r.bytes
    | _, _ =>
      let seq := unle (s.noValue 0x100 ++ s.noValue 0x101 ++ s.noValue 0x102 ++ s.noValue 0x103)
      FaultRec.bytes ⟨seq, s.now, 0, k, cls, e.place.toNat, bit injected, e.location, e.syndrome⟩
  s.queueEvent 0x100 (errorEvent cls) (if injected then 64 else 0) rec_

/-- The journal of inputs failed a joining lane (R407, checker 3): the join restarts from the next committed Quire. -/
def State.journalLost (s : State) : State :=
  match s.laneIn laneJoining with
  | some n =>
    if s.flag F.laneStatusOverlap then s else
    let s : State := { s with lane := { s.lane with live := false, waitQuire := true } }
    s.emit 0xA2 (le 1 n ++ le 1 1 ++ s.noValue 0xA2 ++ usF32 (s.since s.lane.joinAt / 1000))
  | none => s

/-- The checkpoint SRAM failed while a lane restores (R407 checker 4, R354, R419): the other slot is used. -/
def State.quireLost (s : State) : State :=
  match s.laneIn laneJoining, s.lane.latest with
  | some _, some n =>
    if s.lane.live ∨ s.lane.waitQuire then s else
    match (s.lane.quires.get (1 - n)).image with
    | some x => s.emit 0xA4 (le 4 x.frame ++ le 1 1)
    | none => { s with lane := { s.lane with waitQuire := true } }
  | _, _ => s

/-- A Ledger entry marked DISCARDED (R407, checker 7). -/
def State.discardEntry (s : State) (i : Nat) : State :=
  { s with coll := { s.coll with ledger := s.coll.ledger.zipIdx.map fun p =>
    if p.2 = i then { p.1 with discarded := true } else p.1 } }

/-- The matrix unit's scratch failed (R407 checker 8, R143): the frame's updates are discarded. -/
def State.discardUpdates (s : State) : State :=
  if s.coll.closed = false ∨ s.coll.published ∨ s.coll.updatesLost then s else
  ({ s with coll := { s.coll with updatesLost := true } } : State).emit 0x44 (le 4 (s.rd F.timeFrameNumber))

/-- The holds of the output path within the second that ends now, oldest first (R407, checker 12). -/
def State.recentHolds (s : State) : List Nat := s.fault.holds.filter fun t => decide (s.since t < nsSecond)

/-- The output path failed (R407, checker 12): the tick is held, without a Rapid Check. -/
def State.pathHeld (s : State) : State :=
  { s with fault := { s.fault with holds := s.recentHolds ++ [s.clock] }, lane := { s.lane with tickHold := true } }

/-- The class of an error at this moment (R406, R407): a third hold of the output path within one second is Fatal, device. -/
def State.classNow (s : State) (e : HwError) : Nat :=
  let cls := errorClass e.checker.val (e.corrected && corrects e.checker.val)
  if e.checker.val = 12 ∧ cls = 1 ∧ 2 ≤ s.recentHolds.length then 3 else cls

/-- The frame whose filter entry failed is discarded and counted (R407, checker 10): the last frame that its channel has received. -/
def State.discardFrame (s : State) (ch : Fin 8) : State :=
  let own (r : CanRx) : Bool := r.rec_.chan == ch.val
  let rx := (s.can.rx.reverse.eraseP own).reverse
  ({ s with can := { s.can with rx := rx } } : State).inc (F.canRxUnmatched ch.val)

/-- A transfer that has failed twice is absent (R15, R16, R407): a command never reaches the lanes and its mailbox is IDLE (log entry
96), the frames of a channel are lost, the solve or the re-run goes on without the result of a job, and the vote or the estimate of the
frame is missing. -/
def State.transferAbsent (s : State) (x : Transfer) : State :=
  match x with
  | .mailbox n =>
    let b := s.host.mbx.get n.val
    if b.st = .busy then s.setMailbox n.val ⟨.idle, b.buf⟩ else s
  | .can ch => { s with can := { s.can with rx := s.can.rx.filter fun r => r.1.chan != ch.val } }
  | .result u =>
    let s : State := { s with solv := { s.solv with held := s.solv.held.filter fun r => r.unit != u } }
    if s.coll.offload = .waiting then s.endOffload .lost else s.lostJob false s.solveUs
  | _ => { s with fault := { s.fault with absent := s.fault.absent ++ [x] } }

/-- A transfer failed on the internal bus (R407, checker 11): withheld from both lanes and repeated at the next tick boundary; a second
failure of the same transfer makes it absent. -/
def State.transferFailed (s : State) (x : Transfer) : State :=
  if s.fault.bus.any fun w => w.what == x then
    ({ s with fault := { s.fault with bus := s.fault.bus.filter fun w => w.what != x } } : State).transferAbsent x
  else { s with fault := { s.fault with bus := s.fault.bus ++ [⟨x, false⟩] } }

/-- What a contained error does to its consumer (R407). The other copy of an MRAM record (checker 5) shows in nothing that the model
holds. -/
def State.contain (s : State) (e : HwError) : State :=
  match e.checker.val with
  | 2 => match s.life.ring with
    | r :: rest => ({ s with life := { s.life with ring := rest } } : State).wr F.lifeRecBacklog (s.rd F.lifeRecBacklog - r.size)
    | [] => s
  | 3 => s.journalLost
  | 4 => s.quireLost
  | 6 => s.losePage e.location.toNat
  | 7 => s.discardEntry e.location.toNat
  | 8 => s.discardUpdates
  | 9 => s.unitFault (e.place.toNat % 4) 0 s.solveUs
  | 10 => match e.transfer with
    | some (.can ch) => s.discardFrame ch
    | _ => s
  | 11 => match e.transfer with
    | some x => s.transferFailed x
    | none => s
  | 12 => s.pathHeld
  | _ => s

/-- What a corrected error adds to its consumer's counters (R407). -/
def State.corrected (s : State) (e : HwError) : State :=
  match e.checker.val with
  | 0 => s.inc (F.laneHealth (e.place.toNat % 3) 2)
  | 9 => if s.posing then s.inc (F.ctlUnitEccCorrected (e.place.toNat % 4)) else s
  | _ => s

/-- A Fatal, lane error (R355, R409, R410). -/
def State.fatalLane (s : State) (k n : Nat) (after : Bool) : State :=
  let s := if k = 0 then s.inc (F.laneHealth n 3) else s
  (s.wr (F.faultLaneFatal n) (k + 1)).laneFault n after

/-- The reaction to a hardware error (R409), in the tick in which its checker reports it; in BOOT an error is
counted and logged, and only a Fatal, device error has a reaction (log entry 104). -/
def State.hwError (s : State) (e : HwError) : State :=
  let k := e.checker.val
  let cls := s.classNow e
  let fired := s.fault.injected.find? fun i => i.fires e && decide (s.since i.at_ < nsSecond)
  let s := s.reportHw e cls fired.isSome
  let s : State := { s with fault := { s.fault with
    minute := if cls = 0 then s.fault.minute.set k (s.fault.minute.get k + 1) else s.fault.minute } }
  let s := match fired with
    | some i =>
      let rest := s.fault.injected.erase i
      let s : State := { s with fault := { s.fault with injected := rest } }
      (s.wrFlag F.faultStatusInjectArmed (!rest.isEmpty)).injectEvent i 1
    | none => s
  match s.ready, cls with
  | _, 3 => s.fatalReset
  | true, 0 => s.corrected e
  | true, 1 => s.contain e
  | true, _ => s.fatalLane k (e.place.toNat % 3) (decide (34 < e.us.val))
  | false, _ => s

/-- HW_ERROR_REPORT. -/
def execHwErrorReport (e : HwError) (s : State) : Host.Outcome State Fault Refusal :=
  act (fun s => s.hwError e) s

/-- A self-detected fault that no checker of R407 reports: a failed slice or a watchdog (R355). The collector records a lane-fatal
fault, whose checker no rule names (log entry 60). -/
def State.selfFault (s : State) (n : Nat) (after : Bool) : State :=
  let x := s.freeNat
  let s := (x.2.logFault 0 (x.1 % 16) 2 n 0 0 0).accrue 0xE00A 1
  (s.wr (F.faultLaneFatal n) (1 + x.1 % 15)).laneFault n after

/-- SELF_DETECTED_FAULT: an uncorrectable error of the private SRAM (0), a lockstep difference (1), or a failed slice or a watchdog
(R355), `us` microseconds after the start of its tick. -/
def execSelfDetectedFault (l : Lane) (k : Option (Fin 2)) (us : Fin 125) (s : State) : Host.Outcome State Fault Refusal :=
  act (fun s =>
    let n := laneNo l
    let st := s.laneSt n
    let after := decide (34 < us.val)
    if s.ready = false ∨ st = laneOff ∨ st = laneStandby ∨ st = laneSilenced ∨ st = laneFailed then s
    else match k with
      | some c =>
        let e : HwError := ⟨⟨c.val, by omega⟩, false, BitVec.ofNat 8 n, 0, 0, none, us⟩
        (s.reportHw e 2 false).fatalLane c.val n after
      | none => s.selfFault n after) s

/-- SELF_TEST_SLICE: in the idle time after the Quire write an active lane runs a slice (R370, R371). -/
def execSelfTestSlice (l : Lane) (ok : SliceResult) (eccCorrected : Bool) (s : State) : Host.Outcome State Fault Refusal :=
  act (fun s =>
    let n := laneNo l
    let st := s.laneSt n
    if s.ready = false ∨ (st ≠ laneDuty ∧ st ≠ lanePartner ∧ s.overlapLane ≠ some n) ∨ s.time.tickDue < s.deadline + 16 then s else
    let s := s.inc (F.laneHealth n 0)
    let s := if eccCorrected then s.hwError ⟨0, true, BitVec.ofNat 8 n, 0, 0, none, 0⟩ else s
    match ok with
    | .passed => s
    | .failed us => (s.inc (F.laneHealth n 1)).selfFault n (decide (34 < us.val))) s

/-! ### Rates and escalation -/

/-- The hourly total of a checker at a minute end (R408). -/
def State.minuteEnd (s : State) (k : Nat) : State :=
  let hist := (s.fault.minute.get k :: s.fault.hour.get k).take 60
  let total := hist.foldl (· + ·) 0
  let many := decide (s.cfg F.faultCorrLimit < total)
  let next : Option Nat := match s.fault.disarmed.get k with
    | none => if many then some 0 else none
    | some n => if many then some 0 else if n + 1 = 60 then none else some (n + 1)
  let send := many && (s.fault.disarmed.get k).isNone
  let s : State := { s with fault := { s.fault with
    minute := s.fault.minute.set k 0, hour := s.fault.hour.set k (hist.take 59), disarmed := s.fault.disarmed.set k next } }
  if send then s.emit 0xC1 (le 1 k ++ le 4 total) else s

/-- CORRECTED_RATE_MINUTE: at the end of each whole minute of Station Time (R408). -/
def execCorrectedRateMinute (s : State) : Host.Outcome State Fault Refusal :=
  act (fun s =>
    let minute := s.second / 60
    if s.atTick 0 ∧ s.second % 60 = 0 ∧ s.rd F.timeFrameIndex = 0 ∧ s.fault.minuteAt ≠ some minute then
      (List.range 15).foldl (fun (s : State) k => s.minuteEnd k)
        { s with fault := { s.fault with minuteAt := some minute } }
    else s) s

/-- ESCALATE_WINDOW_END: a source returns to its set severity after a whole window without an occurrence (R414). -/
def execEscalateWindowEnd (src : Fin 256) (s : State) : Host.Outcome State Fault Refusal :=
  act (fun s =>
    match (s.fault.times.get src.val).getLast? with
    | some t =>
      if s.cfg F.faultEscalateWindow * nsSecond ≤ s.since t then
        { s with fault := { s.fault with escalated := s.fault.escalated.set src.val false,
                                         times := s.fault.times.set src.val [] } }
      else s
    | none => s) s

/-- A Folio turn that changes a severity clears the source's occurrence count and its escalated condition (R414). -/
def State.severityTurn (s : State) (old : Folio) : State :=
  (List.range 256).foldl (fun (s : State) n =>
    if old.val (F.faultSeverity n) = s.cfg (F.faultSeverity n) then s
    else { s with fault := { s.fault with escalated := s.fault.escalated.set n false, times := s.fault.times.set n [] } }) s

/-! ### Injection -/

/-- CMD_FAULT_INJECT (R416, R417, R421). -/
def execCmdFaultInject (h : Hdr) (checker place double : Byte) (s : State) : Host.Outcome State Fault Refusal :=
  act (fun s => s.command h 0xC001 [checker, place, double] fun s =>
    let k := checker.toNat
    let i : Inject := ⟨k, if placed k then place.toNat else 0xFF, double == 1, s.clock⟩
    if injectable k = false ∨ 1 < double.toNat ∨ (k = 0 ∧ 2 < place.toNat) ∨ (k = 9 ∧ 3 < place.toNat) ∨
        (parityChecker k ∧ i.double) then s.reply Res.outOfRange
    else if i.double ∧ s.devState ≠ 3 then s.reply Res.wrongState
    else if s.fault.injected.any fun j => j.checker == k then s.reply Res.busy
    else
      let s : State := { s with fault := { s.fault with injected := s.fault.injected ++ [i] } }
      ((s.wrFlag F.faultStatusInjectArmed true).injectEvent i 0).reply Res.ok) s

/-- INJECT_EXPIRY: an arming that meets no access within 1 s expires (R417). -/
def execInjectExpiry (k : Fin 15) (s : State) : Host.Outcome State Fault Refusal :=
  act (fun s => s.voidInjects fun i => i.checker == k.val && decide (nsSecond ≤ s.since i.at_)) s

/-! ### The log -/

/-- CMD_FAULT_LOG_READ (R421). -/
def execCmdFaultLogRead (h : Hdr) (first count : W32) (s : State) : Host.Outcome State Fault Refusal :=
  act (fun s => s.command h 0xC002 (le 4 first.toNat ++ le 4 count.toNat) fun s =>
    let from_ := s.fault.ring.dropWhile fun r => r.seq ≠ first.toNat
    if count = 0 ∨ 64 < count.toNat ∨ from_.isEmpty then s.reply Res.outOfRange
    else
      let xs := from_.take count.toNat
      s.reply Res.ok (le 4 xs.length ++ xs.flatMap FaultRec.bytes)) s

end Sys2Proof.Machine
end

