-- ==== Sys2Proof/Machine/Access.lean ====
section
/-! DEFINITION. Parameters as wholes: the row of an ID, the value of a parameter composed of its fields (R454), and the safety
section with its Colophon (R397). -/

namespace Sys2Proof.Machine

/-- An offset from the first ID lies on the strides and counts of a row: the longest stride first. -/
def onGrid : List (Nat × Nat) → Nat → Bool
  | [], off => off == 0
  | (stride, count) :: rest, off => decide (off / stride < count) && onGrid rest (off % stride)

/-- The row of an ID (R454). -/
def findParam (id : Nat) : Option ParamSpec :=
  paramTable.find? fun p => decide (p.base ≤ id) && onGrid p.dims (id - p.base)

/-- The key of a field of an element (R454). -/
def paramKey (id elem : Nat) (f : FieldSpec) : Nat := (id + 65536 * elem) * 64 + f.lo

/-- The fields of a parameter composed into its value, each from a store of its own. -/
def composeParam (get : FieldSpec → Nat) (fields : List FieldSpec) : Nat :=
  fields.foldl (fun v f => v + get f * 2 ^ f.lo) 0

/-- The IDs of the safety section that the module has (R397). -/
def safetyIds : List Nat := ((List.range 256).map (0xB000 + ·)).filter fun id => (findParam id).isSome

/-- A parameter of a safety section. -/
def sectionWord (r : Regs) (id : Nat) : Nat :=
  match findParam id with
  | some p => composeParam (fun f => (r.get (paramKey id 0 f)).toNat) p.fields
  | none => 0

/-- The Colophon of a safety section (R397): CRC-32C over its parameters, in ascending ID order, 4 bytes each. -/
def colophon (r : Regs) : W32 := Crypto.crc32c (safetyIds.flatMap fun id => le 4 (sectionWord r id))

/-- The safety section of a Folio. -/
def Folio.safety (x : Folio) : Regs :=
  ⟨x.params.cells.filter fun c => decide (0xB000 ≤ c.1 / 64) && decide (c.1 / 64 < 0xB100)⟩

/-- The lowest ID at which two safety sections differ (R463). -/
def sectionDiff (a b : Regs) : Option Nat := safetyIds.find? fun id => sectionWord a id != sectionWord b id

end Sys2Proof.Machine
end

