-- ==== Sys2Proof/Machine/SafetyMonitor.lean ====
section
/-! DEFINITION. The Safety Monitor: inputs, encoders, the monitoring functions, lock-out and deliberate reset, safe outputs and the
Colophon (R375 to R404, R523). -/

namespace Sys2Proof.Machine

/-- A parameter of the safety section that the Safety Monitor runs. -/
def State.sec (s : State) (f : Fld) : Nat := (s.safe.sec.get f.key).toNat

/-- The Safety Monitor evaluates: its section is read, its self-test has ended and SAFETY_FAULT is clear. -/
def State.monitors (s : State) : Bool := s.safe.read && s.safe.tested && !s.flag F.safeStatusSafetyFault

/-! ### Groups -/

/-- The used safe outputs of a group (R378). -/
def State.groupOutputs (s : State) (g : Nat) : List Nat :=
  (List.range 8).filter fun o => s.sec (F.safeOutGroupUsed o) == 1 && s.sec (F.safeOutGroupGroup o) == g

/-- The encoders that a group uses (R378). -/
def State.groupEncoders (s : State) (g : Nat) : List Nat :=
  (if s.sec (F.safeGroupEncSpeedUsed g) = 1 then [s.sec (F.safeGroupEncSpeed g)] else []) ++
  (if s.sec (F.safeGroupEncPosUsed g) = 1 then [s.sec (F.safeGroupEncPos g)] else [])

/-- A group is configured (R378). -/
def State.configured (s : State) (g : Nat) : Bool :=
  s.sec (F.safeGroupAct g) != 0 || !(s.groupOutputs g).isEmpty || !(s.groupEncoders g).isEmpty

/-- The state of a group: 0 UNUSED, 1 ENABLED, 2 LOCKED_OUT, 3 RESET_ARMED. -/
def State.groupSt (s : State) (g : Nat) : Nat := s.rd (F.safeGroupStatusState g)

/-- A change of a group's state reported (R404). -/
def State.putGroup (s : State) (g st cause : Nat) : State :=
  let old := s.groupSt g
  let s := (s.wr (F.safeGroupStatusState g) st).wr (F.safeGroupStatusCause g) cause
  if old = st then s
  else s.emit 0xB0 (le 1 g ++ le 1 old ++ le 1 st ++ le 1 cause ++ le 1 (s.rd (F.safeGroupStatusConditionPresent g)))

/-- A safe output switched (R392). -/
def State.switchOutput (s : State) (o : Nat) (on : Bool) : State :=
  if s.flag (F.safeOutStatusOn o) = on then s else
  let x := s.safe.outs.get o
  let s : State := { s with safe := { s.safe with outs := s.safe.outs.set o { x with since := s.clock } } }
  (s.wrFlag (F.safeOutStatusOn o) on).put (.safeOut o on)

/-- The outputs of a group switched. -/
def State.switchGroup (s : State) (g : Nat) (on : Bool) : State :=
  (s.groupOutputs g).foldl (fun (s : State) o => s.switchOutput o on) s

/-- What is kept of a group written. -/
def State.keepGroup (s : State) (g : Nat) (x : SafeGroup) : State :=
  { s with safe := { s.safe with groups := s.safe.groups.set g x } }

/-- The current challenge made void (R388, R389). -/
def State.voidChallenge (s : State) : State :=
  ({ s with safe := { s.safe with current := false } } : State).wr F.safeAckChallenge 0

/-- A group tripped (R386): its outputs off, LOCKED_OUT with a cause, counted. -/
def State.tripGroup (s : State) (g cause : Nat) : State :=
  let s := if s.groupSt g = 3 then s.voidChallenge else s
  let s := (s.switchGroup g false).keepGroup g { s.safe.groups.get g with wasArmed := false }
  ((s.inc (F.safeGroupTrips g)).accrue 0xE004 1).putGroup g 2 cause

/-- The groups once the section is read (R378, R391): configured ones LOCKED_OUT with cause START, the others UNUSED. -/
def State.startGroup (s : State) (g : Nat) : State :=
  if s.configured g then s.putGroup g 2 1 else s.putGroup g 0 0

/-- The Safety Monitor reads its section from a Folio (R391). Every pair is LOW until its channels have held a level. -/
def State.readSection (s : State) (x : Folio) : State :=
  if s.safe.read then s else
  let s : State := { s with safe := { s.safe with read := true, sec := x.safety } }
  let s := (List.range 8).foldl (fun (s : State) p => s.wr (F.safePairStatus p) 1) s
  (List.range 8).foldl (fun (s : State) g => s.startGroup g) s

/-- The Folio of the newest commit record whose Folio matches its CRC (R461, R465). -/
def State.committedFolio (s : State) : Folio :=
  match s.turn.commits.reverse.find? s.commitHolds with
  | some c => s.folio c.folio
  | none => resetFolio

/-- SAFETY_SELFTEST_END: the start-up self-test ends; the section has been read by then (R391, log entry 63). -/
def execSafetySelftestEnd (s : State) : Host.Outcome State Fault Refusal :=
  act (fun s =>
    if s.safe.tested ∨ s.flag F.safeStatusSafetyFault then s else
    let s := s.readSection s.committedFolio
    { s with safe := { s.safe with tested := true } }) s

/-! ### Safe inputs -/

/-- The level of a pair's channel that means HIGH (R379). -/
def State.chanHigh (s : State) (p : Nat) (second : Bool) : Bool :=
  let x := s.safe.pairs.get p
  if second then x.b != (s.sec (F.safePairCfgAntivalent p) == 1) else x.a

/-- SAFE_INPUT_EDGE: a channel changes its level. -/
def execSafeInputEdge (inp : Fin 16) (high : Bool) (s : State) : Host.Outcome State Fault Refusal :=
  act (fun s =>
    let p := inp.val / 2
    let x := s.safe.pairs.get p
    let x' : SafePair :=
      if inp.val % 2 = 0 then (if x.a = high then x else { x with a := high, aSince := s.clock })
      else (if x.b = high then x else { x with b := high, bSince := s.clock })
    { s with safe := { s.safe with pairs := s.safe.pairs.set p x' } }) s

/-- The groups that a reset pulse arms (R388): LOCKED_OUT or RESET_ARMED, with no condition. -/
def State.qualifying (s : State) (mask : Nat) : List Nat :=
  (List.range 8).filter fun g => testBit mask g && (s.groupSt g == 2 || s.groupSt g == 3) &&
    !s.flag (F.safeGroupStatusConditionPresent g)

/-- A reset pulse (R388): the qualifying groups armed under one new challenge; a group armed under the earlier one alone returns to
LOCKED_OUT. -/
def State.resetPulse (s : State) (mask : Nat) : State :=
  let arm := s.qualifying mask
  if arm.isEmpty then s else
  let old := (List.range 8).filter fun g => s.groupSt g == 3 && !arm.contains g
  let s := old.foldl (fun (s : State) g => s.putGroup g 2 (s.rd (F.safeGroupStatusCause g))) s
  let word := Config.challenge s.free
  let s : State := { s with free := s.free + 1, safe := { s.safe with
    window := s.clock + s.sec F.safeAckWindow * nsSecond, armed := maskOf arm, current := true } }
  let s := s.wr F.safeAckChallenge word.toNat
  arm.foldl (fun (s : State) g =>
    (s.keepGroup g { s.safe.groups.get g with wasArmed := true }).putGroup g 3 (s.rd (F.safeGroupStatusCause g))) s

/-- COMMISSIONING follows the pair of that function (R381). -/
def State.showCommissioning (s : State) : State :=
  s.wrFlag F.safeStatusCommissioning
    ((List.range 8).any fun p => s.sec (F.safePairCfgFunction p) == 3 && s.rd (F.safePairStatus p) == 2)

/-- A change of a pair's state: 1 LOW, 2 HIGH, 3 DISCREPANCY (R380, R381, R404). -/
def State.setPair (s : State) (p st : Nat) : State :=
  let old := s.rd (F.safePairStatus p)
  if old = st then s else
  let x := s.safe.pairs.get p
  let s := (s.wr (F.safePairStatus p) st).emit 0xB1 (le 1 p ++ le 1 old ++ le 1 st)
  let s := s.showCommissioning
  if st = 2 then { s with safe := { s.safe with pairs := s.safe.pairs.set p { x with highAt := s.clock } } }
  else if old = 2 ∧ s.sec (F.safePairCfgFunction p) = 2 then
    let held := s.since x.highAt
    if st = 1 ∧ 100 * nsMs ≤ held ∧ held ≤ 5000 * nsMs then s.resetPulse (s.sec (F.safePairCfgGroups p))
    else s.inc F.safeResetRejects
  else s

/-- A channel of a pair has held its level for the filter time (R379). -/
def State.chanHeld (s : State) (p : Nat) (second : Bool) : Bool :=
  let x := s.safe.pairs.get p
  decide (s.sec (F.safePairFilter p) * nsMs ≤ s.since (if second then x.bSince else x.aSince))

/-- A channel has held LOW for the filter time. -/
def State.lowHeld (s : State) (p : Nat) (second : Bool) : Bool := !s.chanHigh p second && s.chanHeld p second

/-- A channel has held HIGH for the filter time. -/
def State.highHeld (s : State) (p : Nat) (second : Bool) : Bool := s.chanHigh p second && s.chanHeld p second

/-- SAFE_PAIR_FILTER_EXPIRY: channels that have held a level for the filter time (R379, R380). -/
def execSafePairFilterExpiry (p : Fin 8) (s : State) : Host.Outcome State Fault Refusal :=
  act (fun s =>
    let n := p.val
    let low := s.lowHeld n
    if s.monitors = false then s
    else if s.rd (F.safePairStatus n) = 3 then (if low false ∧ low true then s.setPair n 1 else s)
    else if low false ∨ low true then s.setPair n 1
    else if s.highHeld n false ∧ s.highHeld n true then s.setPair n 2
    else s) s

/-- SAFE_PAIR_DISCREPANCY: the channels have disagreed for longer than the discrepancy time (R380). -/
def execSafePairDiscrepancy (p : Fin 8) (s : State) : Host.Outcome State Fault Refusal :=
  act (fun s =>
    let n := p.val
    let x := s.safe.pairs.get n
    if s.monitors ∧ s.chanHigh n false ≠ s.chanHigh n true ∧
        s.sec (F.safePairDiscrepancy n) * nsMs < s.since (max x.aSince x.bSince) then s.setPair n 3
    else s) s

/-! ### Encoders -/

/-- Counts per revolution (R382). -/
def State.encCounts (s : State) (e : Nat) : Nat :=
  s.sec (F.safeEncLines e) * (if s.sec (F.safeEncCfgKind e) = 1 then 1024 else 4)

/-- EV_SAFE_ENCODER (R404): flags [0] REFERENCED, [1] ENCODER_FAULT, in the order of safe.enc_pos. -/
def State.encEvent (s : State) (e : Nat) : State :=
  s.emit 0xB2 (le 1 e ++ le 1 (s.rd (F.safeEncPosReferenced e) + 2 * s.rd (F.safeEncPosEncoderFault e)))

/-- The position from the counts since the mark (R383), rounded down (log entry 64). -/
def State.encPosition (s : State) (e : Nat) (count : Int) : State :=
  if s.flag (F.safeEncPosReferenced e) then
    let x := s.safe.encs.get e
    let turn := (count - x.mark) * 36000 / (max 1 (s.encCounts e) : Nat)
    s.wr (F.safeEncPosValue e) (((s.sec (F.safeEncIndexAngle e) : Int) + turn) % 36000).toNat
  else s

/-- What a latch shows of an encoder is a fault (R384): a sin/cos amplitude outside 0.35 to 0.70 V, incremental lines that are not complementary,
A and B changing together, or a frequency above the limits of R382. -/
def latchFault (l : EncLatch) (kind : Nat) : Bool :=
  if kind = 1 then decide (l.amplitude < 35) || decide (70 < l.amplitude) || decide (200000 < l.hertz)
  else !l.complementary || l.bothChanged || decide (1000000 < l.hertz)

/-- One encoder latched (R382 to R384): speed over the last 8 ms, rounded towards zero (log entry 64), position, and a fault that two
consecutive latches show. -/
def State.latchEncoder (s : State) (e : Nat) (l : EncLatch) : State :=
  if s.sec (F.safeEncCfgKind e) = 0 then s else
  let x := s.safe.encs.get e
  let count := if s.sec (F.safeEncCfgInverted e) = 1 then -l.count else l.count
  let counts := (count :: x.counts).take 17
  let bad := latchFault l (s.sec (F.safeEncCfgKind e))
  let x' : SafeEnc := { x with counts := counts, bad := bad, badAt := if bad then s.clock else x.badAt }
  let s : State := { s with safe := { s.safe with encs := s.safe.encs.set e x' } }
  let s := match counts[16]? with
    | some first =>
      if s.encCounts e = 0 then s else s.wrInt (F.safeEncSpeed e) (((count - first) * 750000).tdiv (s.encCounts e : Int))
    | none => s
  let s := s.encPosition e count
  if bad ∧ x.bad ∧ s.flag (F.safeEncPosEncoderFault e) = false then
    ((s.wrFlag (F.safeEncPosEncoderFault e) true).wrFlag (F.safeEncPosReferenced e) false).encEvent e
  else s

/-- ENCODER_LATCH: every 0.5 ms. -/
def execEncoderLatch (xs : List EncLatch) (s : State) : Host.Outcome State Fault Refusal :=
  act (fun s =>
    if s.safe.read = false ∨ s.flag F.safeStatusSafetyFault then s
    else (xs.take 8).zipIdx.foldl (fun (s : State) p => s.latchEncoder p.2 p.1) s) s

/-- ENCODER_INDEX: the first index mark after a start or a recovery (R383). -/
def execEncoderIndex (e : Fin 8) (s : State) : Host.Outcome State Fault Refusal :=
  act (fun s =>
    let n := e.val
    let x := s.safe.encs.get n
    match x.counts.head? with
    | some count =>
      if s.flag F.safeStatusSafetyFault ∨ s.sec (F.safeEncCfgIndex n) = 0 ∨ s.sec (F.safeEncCfgKind n) = 0 ∨
          s.flag (F.safeEncPosReferenced n) ∨ s.flag (F.safeEncPosEncoderFault n) then s
      else
        let s : State := { s with safe := { s.safe with encs := s.safe.encs.set n { x with mark := count } } }
        ((s.wrFlag (F.safeEncPosReferenced n) true).encPosition n count).encEvent n
    | none => s) s

/-- ENCODER_RECOVERY: 1 s with no fault (R384). -/
def execEncoderRecovery (e : Fin 8) (s : State) : Host.Outcome State Fault Refusal :=
  act (fun s =>
    let n := e.val
    let x := s.safe.encs.get n
    if s.flag (F.safeEncPosEncoderFault n) ∧ s.flag F.safeStatusSafetyFault = false ∧ x.bad = false ∧ nsSecond ≤ s.since x.badAt then
      (s.wrFlag (F.safeEncPosEncoderFault n) false).encEvent n
    else s) s

/-! ### Monitoring -/

/-- The sectors of a group are monitored (R381): unless every SECTOR_RELEASE pair of the group, at least one, is HIGH. -/
def State.sectorsMonitored (s : State) (g : Nat) : Bool :=
  let pairs := (List.range 8).filter fun p => s.sec (F.safePairCfgFunction p) == 4 && testBit (s.sec (F.safePairCfgGroups p)) g
  pairs.isEmpty || pairs.any fun p => s.rd (F.safePairStatus p) != 2

/-- The sectors of a group with a width other than 0. -/
def State.sectors (s : State) (g : Nat) : List Nat := [0, 1].filter fun j => s.sec (F.safeSlpWidth g j) != 0

/-- The conditions of R385 that hold now: bits 0 SLS, 1 SDI, 2 SLP, 3 POS_UNREFERENCED. -/
def State.conditions (s : State) (g : Nat) : Nat :=
  let speed := s.rdInt (F.safeEncSpeed (s.sec (F.safeGroupEncSpeed g)))
  let hasSpeed := s.sec (F.safeGroupEncSpeedUsed g) == 1
  let limit := s.sec (F.safeSlsLimit g)
  let tol : Int := (s.sec (F.safeSdiTol g) * 100 : Nat)
  let e := s.sec (F.safeGroupEncPos g)
  let hasPos := s.sec (F.safeGroupEncPosUsed g) == 1 && s.sectorsMonitored g && !(s.sectors g).isEmpty
  let pos := s.rd (F.safeEncPosValue e)
  let inside (j : Nat) : Bool := decide ((pos + 36000 - s.sec (F.safeSlpStart g j)) % 36000 ≤ s.sec (F.safeSlpWidth g j))
  let sls := hasSpeed && limit != 0 && decide (limit * 100 < speed.natAbs)
  let sdi := hasSpeed && ((s.sec (F.safeSdi g) == 1 && decide (tol < -speed)) || (s.sec (F.safeSdi g) == 2 && decide (tol < speed)))
  let slp := hasPos && s.flag (F.safeEncPosReferenced e) && (s.sectors g).any inside
  let unref := hasPos && !s.flag (F.safeEncPosReferenced e)
  bit sls + 2 * bit sdi + 4 * bit slp + 8 * bit unref

/-- The causes that hold for a group (R386): the functions violated in two consecutive cycles, a STOP pair that is not HIGH, an
encoder fault, an output fault. Codes of safe.group_status. -/
def State.causes (s : State) (g viol : Nat) : List Nat :=
  let stop := (List.range 8).any fun p => s.sec (F.safePairCfgFunction p) == 1 && testBit (s.sec (F.safePairCfgGroups p)) g &&
    s.rd (F.safePairStatus p) != 2
  let enc := (s.groupEncoders g).any fun e => s.flag (F.safeEncPosEncoderFault e)
  let out := (s.groupOutputs g).any fun o => s.flag (F.safeOutStatusOutputFault o)
  (if stop then [2] else []) ++ ([0, 1, 2, 3].filter (testBit viol)).map (· + 3) ++ (if enc then [7] else []) ++
    (if out then [8] else [])

/-- One group in a safety cycle (R385, R386, R402). -/
def State.cycleGroup (s : State) (g : Nat) : State :=
  if s.groupSt g = 0 then s else
  let now := s.conditions g
  let viol := now &&& (s.safe.groups.get g).viol
  let why := s.causes g viol
  let s := s.keepGroup g { s.safe.groups.get g with viol := now }
  let s := s.wrFlag (F.safeGroupStatusConditionPresent g) (!why.isEmpty)
  match why with
  | [] => s
  | cause :: _ => if s.groupSt g = 1 ∨ s.groupSt g = 3 then s.tripGroup g cause else s

/-- The time since the last start of an output's pulse (R393): 125 ms × o into each second of the REF oscillator (log entry 65). -/
def sincePulse (o t : Nat) : Nat := (t + nsSecond - 125 * nsMs * (o % 8)) % nsSecond

/-- How long a pulse is judged (R393): its width, and 1 ms after it. -/
def State.pulseSpan (s : State) : Nat := s.sec F.safeOffpulseWidth * 1000 + nsMs

/-- A readback of a safe output judged (R392), some time before now: whether it deviates. During an off-pulse and 1 ms after it is not
judged here. -/
def State.wrongReadback (s : State) (o supply v age : Nat) : Bool :=
  let x := s.safe.outs.get o
  if s.flag (F.safeOutStatusOn o) then
    decide (5 * nsMs + age ≤ s.since x.since) && decide (s.pulseSpan < sincePulse o (s.clock - age)) && !decide (supply < v + 200)
  else decide (3 * nsMs + age ≤ s.since x.since) && !decide (v < 500)

/-- An output fault noted (R392, R393): a new one sends EV_SAFE_OUTPUT. -/
def State.outputFault (s : State) (o : Nat) (switch : List Byte) : State :=
  let x := s.safe.outs.get o
  let s : State := { s with safe := { s.safe with outs := s.safe.outs.set o { x with wrongAt := s.clock } } }
  if s.flag (F.safeOutStatusOutputFault o) then s
  else (s.wrFlag (F.safeOutStatusOutputFault o) true).emit 0xB3 (le 1 o ++ switch ++ le 1 0)

/-- The readbacks of a cycle, one every 0.5 ms (R392). -/
def State.judgeOutputs (s : State) (x : SafetyIn) : State :=
  (List.range 8).foldl (fun (s : State) o =>
    if x.readback.zipIdx.any fun r => match r.1[o]? with
      | some v => s.wrongReadback o x.supply v ((x.readback.length - 1 - r.2) * 500000)
      | none => false
    then s.outputFault o (s.noValue 0xB3) else s) s

/-- The result of a CMD_SAFE_ACK in the cycle that evaluates it (R389, R402, R523). -/
def State.judgeAck (s : State) (a : AckReq) : Nat :=
  let gs := (List.range 8).filter (testBit a.mask)
  let text := le 8 (s.rd F.devSerial) ++ le 4 a.challenge ++ le 1 a.mask ++ [0x41, 0x43, 0x4B]
  if s.safe.key.isEmpty then Res.noKey
  else if gs.any fun g => s.flag (F.safeGroupStatusConditionPresent g) then Res.condition
  else if gs.any fun g => s.groupSt g == 0 || s.groupSt g == 1 || !(s.safe.groups.get g).wasArmed then Res.notArmed
  else if s.safe.current = false ∨ s.safe.window < a.at_ ∨ a.challenge ≠ s.rd F.safeAckChallenge ∨
      gs.any (fun g => s.groupSt g != 3) then Res.expired
  else if (Crypto.hmac s.safe.key text).take 8 ≠ a.tag then Res.badTag
  else Res.ok

/-- An accepted command enables its groups (R388); after any command the challenge is void (R389). -/
def State.answerAck (s : State) (a : AckReq) : State :=
  let res := s.judgeAck a
  let s := s.voidChallenge
  let s := if res = Res.ok then
      ((List.range 8).filter (testBit a.mask)).foldl (fun (s : State) g => (s.switchGroup g true).putGroup g 1 0) s
    else s
  s.respond a.hdr 0xB001 res []

/-- SAFETY_FAULT (R400): every output off, every configured group LOCKED_OUT. -/
def State.safetyFault (s : State) (test : Nat) : State :=
  let s := s.wrFlag F.safeStatusSafetyFault true
  let s := if (List.range 8).any fun g => s.groupSt g == 3 then s.voidChallenge else s
  let s := (List.range 8).foldl (fun (s : State) o => s.switchOutput o false) s
  let s := (List.range 8).foldl (fun (s : State) g =>
    if s.groupSt g = 0 then s else (s.wrFlag (F.safeGroupStatusConditionPresent g) true).putGroup g 2 10) s
  s.emit 0xB4 (le 1 test)

/-- The evaluation of a cycle: outputs, groups, and the acknowledgements that wait (R385, R386, R389, R392). -/
def State.evaluate (s : State) (x : SafetyIn) : State :=
  let s := s.judgeOutputs x
  let s := (List.range 8).foldl (fun (s : State) g => s.cycleGroup g) s
  let start : State := { s with safe := { s.safe with ack := [] } }
  s.safe.ack.foldl (fun (s : State) a => s.answerAck a) start

/-- SAFETY_CYCLE: every 2 ms (R385, R386, R392, R400). -/
def execSafetyCycle (x : SafetyIn) (s : State) : Host.Outcome State Fault Refusal :=
  act (fun s =>
    if s.flag F.safeStatusSafetyFault then s
    else if x.coreMismatch then s.safetyFault 0
    else if x.testFailed then s.safetyFault 1
    else if x.watchdog then s.safetyFault 2
    else if s.monitors = false then s
    else s.evaluate x) s

/-! ### Outputs -/

/-- OUTPUT_FAULT_CLEAR: the readback has been correct for 1 s (R392). -/
def execOutputFaultClear (o : Fin 8) (s : State) : Host.Outcome State Fault Refusal :=
  act (fun s =>
    let n := o.val
    if s.monitors ∧ s.flag (F.safeOutStatusOutputFault n) ∧ nsSecond ≤ s.since (s.safe.outs.get n).wrongAt then
      ((s.wrFlag (F.safeOutStatusOutputFault n) false).wr (F.safeOutStatusSwitch n) 0).emit 0xB3
        (le 1 n ++ s.noValue 0xB3 ++ le 1 1)
    else s) s

/-- An off-pulse made on the other switch than the last (R393). -/
def State.pulse (s : State) (n : Nat) : State :=
  let x := s.safe.outs.get n
  { s with safe := { s.safe with outs := s.safe.outs.set n { x with second := !x.second, pulsed := some s.clock } } }

/-- The pulse of an output in this second of the REF oscillator ends in this tick, with the 1 ms in which its readback is judged, and the output
was on throughout: a switch-off in between discards it (R393, R396). -/
def State.pulseDue (s : State) (n : Nat) : Bool :=
  let t := s.clock + nsTick - 1
  let x := s.safe.outs.get n
  s.flag (F.safeOutStatusOn n) && decide (s.pulseSpan ≤ sincePulse n t) && decide (sincePulse n t < s.pulseSpan + nsTick) &&
    decide (s.pulseSpan ≤ s.since x.since) &&
    (match x.pulsed with
    | some p => decide (nsSecond / 2 ≤ s.since p)
    | none => true)

/-- OFF_PULSE: an output that is on has opened one switch for safe.offpulse_width, alternating; its readback must have fallen below 5 V by
the end of the pulse and be high again 1 ms after it (R393). -/
def execOffPulse (o : Fin 8) (low high supply : Nat) (s : State) : Host.Outcome State Fault Refusal :=
  act (fun s =>
    let n := o.val
    if s.monitors = false ∨ s.pulseDue n = false then s else
    let sw := bit (s.safe.outs.get n).second
    let s := s.pulse n
    if low < 500 ∧ supply < high + 200 then s
    else (s.wr (F.safeOutStatusSwitch n) (putBit (s.rd (F.safeOutStatusSwitch n)) sw true)).outputFault n (le 1 sw)) s

/-! ### Lock-out and commands -/

/-- ACK_WINDOW_EXPIRY: the groups armed under the challenge return to LOCKED_OUT, and it is void (R388). -/
def execAckWindowExpiry (s : State) : Host.Outcome State Fault Refusal :=
  act (fun s =>
    if s.safe.armed = 0 ∨ s.clock < s.safe.window ∨ s.flag F.safeStatusSafetyFault then s else
    let gs := (List.range 8).filter fun g => testBit s.safe.armed g && s.groupSt g == 3
    let s := gs.foldl (fun (s : State) g => s.putGroup g 2 (s.rd (F.safeGroupStatusCause g))) s
    ({ s with safe := { s.safe with armed := 0 } } : State).voidChallenge) s

/-- CMD_SAFE_ACK: the safety cycle in progress evaluates it (R388, R389, R402, R523). A Safety Monitor that has stopped evaluating
(R400) answers at once (log entry 103). -/
def execCmdSafeAck (h : Hdr) (mask : Byte) (challenge : W32) (tag : List Byte) (s : State) : Host.Outcome State Fault Refusal :=
  act (fun s => s.command h 0xB001 ([mask] ++ le 4 challenge.toNat ++ tag) fun s =>
    let a : AckReq := ⟨h, mask.toNat, challenge.toNat, tag, s.clock⟩
    if tag.length ≠ 8 then s.reply Res.badLength
    else if s.monitors = false then s.reply (if s.safe.key.isEmpty then Res.noKey else Res.condition)
    else ({ s with safe := { s.safe with ack := s.safe.ack ++ [a] } }, none)) s

/-- The shadow Folio's Colophon (R397). -/
def State.shadowColophon (s : State) : W32 := colophon s.shadow.safety

/-- The copy of the confirmed Colophon with the higher sequence (R398). -/
def State.confirmed (s : State) : Nat × W32 := if s.safe.conf0.1 < s.safe.conf1.1 then s.safe.conf1 else s.safe.conf0

/-- A Colophon confirmed: written into the older copy, with the next number (R398). -/
def State.confirm (s : State) (c : W32) : State :=
  let new := ((s.confirmed).1 + 1, c)
  let s : State := { s with safe := (if s.safe.conf0.1 < s.safe.conf1.1 then { s.safe with conf0 := new }
    else { s.safe with conf1 := new }) }
  s.wr F.safeColophonConfirmed c.toNat

/-- CMD_SAFE_CONFIRM (R398, R404): written into the older copy. -/
def execCmdSafeConfirm (h : Hdr) (colophon_ : W32) (s : State) : Host.Outcome State Fault Refusal :=
  act (fun s => s.command h 0xB002 (le 4 colophon_.toNat) fun s =>
    if s.monitors = false ∨ s.flag F.safeStatusCommissioning = false then s.reply Res.wrongState
    else if colophon_ ≠ s.shadowColophon then s.reply Res.mismatch
    else if s.writeGuard then s.reply Res.writeGuard
    else (s.confirm colophon_).reply Res.ok) s

/-- The safety key taken, with its check value (R390). -/
def State.setSafeKey (s : State) (key : List Byte) : State :=
  let s : State := { s with safe := { s.safe with key := key } }
  (s.wrFlag F.safeStatusKeyLoaded true).wr F.safeKeyCheck (keyCheck key)

/-- CMD_SAFE_KEY (R390, R404). -/
def execCmdSafeKey (h : Hdr) (key : List Byte) (s : State) : Host.Outcome State Fault Refusal :=
  act (fun s => s.command h 0xB003 key fun s =>
    if key.length ≠ 32 then s.reply Res.badLength
    else if fromHere h = false then s.reply Res.wrongTransport
    else if s.monitors = false ∨ s.flag F.safeStatusCommissioning = false then s.reply Res.wrongState
    else if s.writeGuard then s.reply Res.writeGuard
    else (s.setSafeKey key).reply Res.ok) s

/-! ### Folio turns -/

/-- The Safety Monitor's consent to a turn (R399, R462, R463): the refusal and the ID that it names, or none. -/
def State.safetyConsent (s : State) : Option (Nat × Nat) :=
  match sectionDiff s.shadow.safety s.safe.sec with
  | none => none
  | some id =>
    if s.shadowColophon ≠ (s.confirmed).2 then some (46, id)
    else if s.flag F.safeStatusCommissioning = false then some (47, id)
    else none

/-- A group at a turn that changes the safety section (R399, R402): tripped with cause CONFIG, unless it is LOCKED_OUT already. -/
def State.configGroup (s : State) (g : Nat) : State :=
  let s := s.keepGroup g { s.safe.groups.get g with viol := 0 }
  if s.flag F.safeStatusSafetyFault then s
  else if s.configured g then (if s.groupSt g = 2 then s else s.tripGroup g 9)
  else (s.switchGroup g false).putGroup g 0 0

/-- A turn that takes effect (R399): a changed section is run from now on. -/
def State.safetyTurn (s : State) : State :=
  match sectionDiff s.active.safety s.safe.sec with
  | none => s
  | some _ =>
    if s.safe.read = false then s else
    let off := (List.range 8).foldl (fun (s : State) o => s.switchOutput o false) s
    let s : State := { off with safe := { off.safe with sec := s.active.safety } }
    let s := (List.range 8).foldl (fun (s : State) g => s.configGroup g) s
    s.showCommissioning

end Sys2Proof.Machine
end

