-- ==== Sys2Proof/Machine/Validation.lean ====
section
/-! DEFINITION. The validation of a staged Folio (R463): the checks of each block, in ascending ID, each naming the lowest ID that
conflicts (log entry 66). A condition that only selects what is checked, such as a mode or an enable, is not involved. -/

namespace Sys2Proof.Machine

/-- A failed check: result code, parameter ID and element. -/
abbrev Fail := Nat × Nat × Nat

/-- A section is complete and its check code right (R455). -/
def sectionGood (n : Nat) (x : Section) : Bool := Config.sectionGood n x.len x.bytes.cells

/-- The three schedules are present and well formed, and their signatures are those of the staged control configuration (R201, R202). -/
def Folio.schedulesFit (x : Folio) : Bool :=
  let all := Config.schedules x.sec2.bytes.cells
  all.length == 3 && all.all scheduleOk && (all.zipIdx.all fun a => a.1.signature == Config.signature a.2 (x.blockCells 5))

/-- What validation finds in the two sections (R156, R201, R202, R455): each is complete with a right check code, the envelope check agrees
with the staged envelope, and the schedules fit the staged problem. -/
def sectionFail (x : Folio) : Nat → Option Fail
  | 1 => if x.sec1.len = 0 then none else if !sectionGood 1 x.sec1 then some (49, 0xF000, 1)
    else if Crypto.crc32c x.envelopeBytes != Config.envelopeCheck x.sec1.bytes.cells then some (35, 0xF000, 1) else none
  | _ => if x.sec2.len = 0 then some (37, 0xF000, 2) else if !sectionGood 2 x.sec2 then some (49, 0xF000, 2)
    else if !x.schedulesFit then some (37, 0xF000, 2) else none

/-! ### Blocks 0x1 to 0x4 -/

/-- The cable-delay parameters (R78). -/
def cableDelays : List Fld :=
  [F.timePpsCableDelay, F.timeSpn0Asymmetry, F.timeSpn1Asymmetry, F.gnssAntDelay 0, F.gnssAntDelay 1, F.gnssAntDelay 2]

/-- A change of a cable delay is locked outside START, TEST and RECOVERY (R78). -/
def State.cableFail (s : State) (ids : List Fld) : Option Fail :=
  if s.devState = 1 ∨ s.devState = 3 ∨ s.devState = 4 then none
  else (ids.find? fun f => s.shadow.val f != s.cfg f).map fun f => (32, f.id, 0)

/-- The redundant domain differs from the primary one (R80, R463). -/
def Folio.domainFail (x : Folio) : Option Fail :=
  if x.val F.timePtpDomain = x.val F.timePtpDomainRedundant then some (Res.outOfRange, 0x1011, 0) else none

/-- Inputs (R106) and the Ledger load (R130). -/
def Folio.inputFail (x : Folio) : Option Fail :=
  match x.inputFault with
  | some id => some (33, id, 0)
  | none => if 1360 < x.ledgerLoad + 288 then some (34, 0x35F0, 0) else none

/-- Envelope edges increase strictly (R159). -/
def Folio.envelopeFail (x : Folio) : Option Fail :=
  ((List.range 4).flatMap fun a => (List.range (axisBins a)).map fun k => (a, k)).findSome? fun p =>
    if x.val (F.collEnvEdge p.1 p.2) < x.val (F.collEnvEdge p.1 (p.2 + 1)) then none
    else some (36, 0x4200 + 16 * p.1 + p.2, 0)

/-! ### Block 0x5 -/

/-- Actuator variables of a stage (R233). -/
def Folio.actVariables (x : Folio) : Nat :=
  (List.range 32).foldl (fun n i =>
    let t := x.val (F.ctlActType i)
    n + if t = 0 then 0 else if t = 1 ∨ t = 4 then 2 else 1) 0

/-- Vertex of a polygon (R236). -/
def Folio.vertex (x : Folio) (i v : Nat) : Int × Int :=
  let c (j : Nat) := signed 32 (x.val (F.ctlActPolygon i (v % 16) j))
  (c 0, c 1)

/-- The turn from an edge to a point: positive on the side of increasing angle. -/
def turnOf (a b c : Int × Int) : Int := (b.1 - a.1) * (c.2 - a.2) - (b.2 - a.2) * (c.1 - a.1)

/-- Every vertex lies on the inner side of every edge, with vertices in increasing angle (R236). -/
def Folio.convex (x : Folio) (i : Nat) : Bool :=
  (List.range 16).all fun v => (List.range 16).all fun w =>
    decide (0 ≤ turnOf (x.vertex i v) (x.vertex i (v + 1)) (x.vertex i w))

/-- Twice the area that a polygon encloses. -/
def area2 (vs : List (Int × Int)) : Int :=
  ((vs.zip (vs.drop 1 ++ vs.take 1)).map fun e => e.1.1 * e.2.2 - e.1.2 * e.2.1).foldl (· + ·) 0

/-- A polygon goes round a point once: one edge crosses the ray from it forward. -/
def roundOnce (c : Int × Int) (vs : List (Int × Int)) : Bool :=
  ((vs.zip (vs.drop 1 ++ vs.take 1)).filter fun e => decide (e.1.2 < c.2) && decide (c.2 ≤ e.2.2)).length == 1

/-- The vertices sixteen times as large, and their centre in that scale. -/
def scaled16 (vs : List (Int × Int)) : List (Int × Int) := vs.map fun v => (16 * v.1, 16 * v.2)
/-- The centre of sixteen vertices, sixteen times as large. -/
def centre16 (vs : List (Int × Int)) : Int × Int := ((vs.map (·.1)).foldl (· + ·) 0, (vs.map (·.2)).foldl (· + ·) 0)

/-- The thrust region meets its type's condition (R236): a convex polygon encloses an area and goes round it once. -/
def Folio.regionOk (x : Folio) (i : Nat) : Bool :=
  let vs := (List.range 16).map (x.vertex i)
  match x.val (F.ctlActType i) with
  | 1 => x.convex i && roundOnce (0, 0) vs && (List.range 16).all fun v => decide (0 < turnOf (x.vertex i v) (x.vertex i (v + 1)) (0, 0))
  | 4 => x.convex i && decide (0 < area2 vs) && roundOnce (centre16 vs) (scaled16 vs) && (vs.all fun p => decide (0 ≤ p.1)) && vs.contains (0, 0)
  | 0 => true
  | _ => decide ((x.vertex i 0).1 ≤ 0) && decide (0 ≤ (x.vertex i 1).1)

/-- The sectors of one thruster overlap (R237). -/
def Folio.sectorsOverlap (x : Folio) (i : Nat) : Bool :=
  let s j := x.val (F.ctlActSectorStart i j)
  let w j := x.val (F.ctlActSectorWidth i j)
  w 0 != 0 && w 1 != 0 &&
    (decide ((s 1 + 36000 - s 0) % 36000 < w 0) || decide ((s 0 + 36000 - s 1) % 36000 < w 1))

/-- Vessel control and the solver (R219, R232, R233, R236, R237). -/
def Folio.controlFail (x : Folio) : Option Fail :=
  if x.val F.ctlMass = 0 then some (38, 0x5040, 0)
  else if x.val F.ctlInertiaYaw = 0 then some (38, 0x5044, 0)
  else if x.val F.ctlUnitMask = 0 then some (Res.outOfRange, 0x5107, 0)
  else if 60 < x.actVariables then some (39, 0x5300, 0)
  else match (List.range 32).find? x.sectorsOverlap with
    | some i => some (41, 0x5500 + 2 * i, 0)
    | none => ((List.range 32).find? fun i => !x.regionOk i).map fun i => (40, 0x5800 + 32 * i, 0)

/-! ### Block 0x6 -/

/-- A word of a loop (R259). -/
def Folio.loopWord (x : Folio) (l w : Nat) : Nat := x.val (F.loopCoef (32 * l + w))
/-- A coefficient of a loop. -/
def Folio.loopF (x : Folio) (l w : Nat) : F32 := BitVec.ofNat 32 (x.loopWord l w)
/-- A loop is enabled and on a channel, as PRIMARY (false) or LIMIT (true). -/
def Folio.loopOn (x : Folio) (l h : Nat) (limit : Bool) : Bool :=
  let w := x.loopWord l 0
  testBit w 0 && l / 4 * 4 + w / 2 % 4 == h && testBit w 3 == limit

/-- The loops on a channel in a role. -/
def Folio.loopsOn (x : Folio) (h : Nat) (limit : Bool) : List Nat :=
  ((List.range 4).map fun k => h / 4 * 4 + k).filter fun l => x.loopOn l h limit

/-- The words of a loop that fail by themselves (R259, R260). -/
def Folio.loopWords (x : Folio) (l : Nat) : List Nat :=
  let w0 := x.loopWord l 0
  let f := x.loopF l
  let on := testBit w0 0
  let limit := testBit w0 3
  let h := l / 4 * 4 + w0 / 2 % 4
  let zero : F32 := 0
  let one : F32 := Float.fint 1
  let word0 := on && ((limit && (w0 / 2 % 4 == 2 || Float.flt (f 12) zero)) ||
      (w0 / 16 % 8 == 3 && decide (l ≤ w0 / 256 % 128)) || (testBit w0 7 && w0 / 2 % 4 != 2) ||
      (limit && (x.loopsOn h false).isEmpty) || (!limit && decide (2 ≤ (x.loopsOn h false).length)))
  let stable := Float.flt (Float.fabs (f 26)) one && Float.flt (Float.fabs (f 25)) (Float.fadd one (f 26))
  (if word0 then [0] else []) ++
  ((List.range 24).map (· + 4)).filter (fun w => !Float.ffin (f w) ||
    (on && ((w == 9 && Float.flt (f 9) zero) || (w == 10 && Float.flt (f 10) zero) || (w == 11 && !Float.flt zero (f 11)) ||
      (w == 12 && Float.flt (f 13) (f 12)) || (w == 18 && Float.flt (f 18) zero) || (w == 25 && !stable)))) ++
  ((List.range 4).map (· + 28)).filter fun w => x.loopWord l w != 0

/-- The actuators with a command frame on a channel. -/
def Folio.cmdActs (x : Folio) (c : Nat) : List Nat :=
  (List.range 32).filter fun i => x.val (F.loopCanCmdEnabled i) == 1 && x.val (F.loopCanCmdChannel i) == c

/-- The command frame of an actuator conflicts (R260, R274). -/
def Folio.cmdConflict (x : Folio) (i : Nat) : Bool :=
  let acts := x.cmdActs (x.val (F.loopCanCmdChannel i))
  let slot := x.val (F.loopCanCmdSlot i)
  x.val (F.loopCanCmdEnabled i) == 1 &&
    ((x.loopsOn (4 * i) false).isEmpty || decide (8 < acts.length) || decide ((if acts.length ≤ 4 then 4 else 8) ≤ slot) ||
      (acts.any fun j => j != i && x.val (F.loopCanCmdSlot j) == slot))

/-- The hold-off of an analog output lies outside the range of its mode (R260). -/
def Folio.holdoffBad (x : Folio) (n : Nat) : Bool :=
  let v := signed 16 (x.val (F.loopAoutHoldoff n))
  if x.val (F.loopAoutMode n) = 2 then decide (v < 0) || decide (21000 < v) else decide (v < -10000) || decide (10000 < v)

/-- An analog output uses a channel without a PRIMARY loop (R260). -/
def Folio.sourceBad (x : Folio) (n : Nat) : Bool :=
  let i := x.val (F.loopAoutSrcIndex n)
  let h := if x.val (F.loopAoutSrcKind n) = 1 then i / 4 * 4 + x.loopWord i 0 / 2 % 4 else i
  x.val (F.loopAoutMode n) != 0 && (x.loopsOn h false).isEmpty

/-- Loops, analog outputs and command frames (R259, R260, R274). -/
def Folio.loopFail (x : Folio) : Option Fail :=
  match (List.range 32).find? x.cmdConflict with
  | some i => some (42, 0x6000 + i, 0)
  | none =>
    match (List.range 16).find? x.holdoffBad with
    | some n => some (42, 0x6090 + n, 0)
    | none =>
      match (List.range 16).find? x.sourceBad with
      | some n => some (42, 0x60A0 + n, 0)
      | none => (List.range 128).findSome? fun l => (x.loopWords l).head?.map fun w => (42, 0x6200, 32 * l + w)

/-! ### Blocks 0x7 and 0x8 -/

/-- The nodes that are enabled. -/
def Folio.nodes (x : Folio) : List Nat := (List.range 64).filter x.nodeOn

/-- Two regions overlap: an offset and a length each, none of length 0 (R292). -/
def overlaps (a b : Nat × Nat) : Bool :=
  a.2 != 0 && b.2 != 0 && decide (a.1 < b.1 + b.2) && decide (b.1 < a.1 + a.2)

/-- A region lies outside its area or overlaps another node's (R292). -/
def Folio.regionFail (x : Folio) (low : Nat) (region : Nat → Nat × Nat) (m : Nat) : Bool :=
  let r := region m
  r.2 != 0 && (decide (r.1 < low) || decide (0x4000 < r.1 + r.2) ||
    x.nodes.any fun k => k != m && overlaps (region k) r)

/-- A cycle too short for its window, lead and margin (R287). -/
def Folio.cycleShort (x : Folio) : Bool :=
  decide (([5, 10, 20, 40, 100, 200].getD (x.val F.logicCyclePeriod) 20) * 1000 <
    x.val F.logicReplyWindow + x.val F.logicOutputLead + 1000)

/-- Logic (R287, R292). -/
def Folio.logicFail (x : Folio) : Option Fail :=
  let place m := (x.val (F.logicNodeCfgChannel m), x.val (F.logicNodeCfgNumber m))
  if x.cycleShort then some (43, 0x7000, 0)
  else match x.nodes.find? fun m => x.val (F.logicNodeCfgNumber m) == 0 || x.nodes.any fun k => k != m && place k == place m with
    | some m => some (43, 0x7100 + m, 0)
    | none =>
      match x.nodes.find? (x.regionFail 0x100 fun m => (x.val (F.logicNodeInOffset m), x.val (F.logicNodeInLength m))) with
      | some m => some (43, 0x7140 + m, 0)
      | none =>
        (x.nodes.find? (x.regionFail 0x200 fun m => (x.val (F.logicNodeOutOffset m), x.val (F.logicNodeOutLength m)))).map
          fun m => (43, 0x7180 + m, 0)

/-- Controller clocks of a nominal and of a data bit (R312). -/
def Folio.bitClocks (x : Folio) (c : Nat) : Nat × Nat :=
  (x.val (F.canNbtBrp c) * (1 + x.val (F.canNbtTseg1 c) + x.val (F.canNbtTseg2 c)),
   x.val (F.canDbtBrp c) * (1 + x.val (F.canDbtTseg1 c) + x.val (F.canDbtTseg2 c)))

/-- The nominal timing of a channel fails (R312). -/
def Folio.nominalBad (x : Folio) (c : Nat) : Bool :=
  let (n, d) := x.bitClocks c
  x.val (F.canModeMode c) != 0 && (decide (n < 80) || decide (n < d) || decide (x.val (F.canNbtTseg2 c) < x.val (F.canNbtSjw c)))

/-- The data timing of a channel fails (R312). -/
def Folio.dataBad (x : Folio) (c : Nat) : Bool :=
  let d := (x.bitClocks c).2
  x.val (F.canModeMode c) != 0 && (decide (d < 10) || decide (x.val (F.canDbtTseg2 c) < x.val (F.canDbtSjw c)) ||
    (x.val (F.canDbtTdc c) == 0 && decide (d < 80)))

/-- The Mark does not win against a command frame (R323). -/
def Folio.markBad (x : Folio) (i : Nat) : Bool :=
  let ident := x.val (F.loopCanCmdIdIdent i)
  let top := if x.val (F.loopCanCmdIdIde i) = 1 then ident / 2 ^ 18 else ident
  x.val (F.loopCanCmdEnabled i) == 1 && decide (top ≤ x.val (F.canMarkId (x.val (F.loopCanCmdChannel i))))

/-- CAN channels (R312, R316, R323). -/
def Folio.canFail (x : Folio) : Option Fail :=
  let off c := x.val (F.canModeMode c) != 1
  match (List.range 32).find? fun i => x.val (F.loopCanCmdEnabled i) == 1 && off (x.val (F.loopCanCmdChannel i)) with
  | some i => some (44, 0x6000 + i, 0)
  | none =>
    match (List.range 32).find? x.markBad with
    | some i => some (44, 0x6020 + i, 0)
    | none =>
      match x.nodes.find? fun m => off (x.val (F.logicNodeCfgChannel m)) with
      | some m => some (44, 0x7100 + m, 0)
      | none =>
        match (List.range 8).find? x.nominalBad with
        | some c => some (44, 0x8008 + c, 0)
        | none =>
          match (List.range 8).find? x.dataBad with
          | some c => some (44, 0x8010 + c, 0)
          | none => ((List.range 8).find? fun e => x.val (F.canFilterEnabled e) == 1).map fun e => (44, 0x8100, 3 * e)

/-! ### Blocks 0xB and 0xD -/

/-- The encoder places that a group uses (R378): encoder and whether it is the speed place. -/
def Folio.usesEncoder (x : Folio) (g e : Nat) : Bool :=
  (x.val (F.safeGroupEncSpeedUsed g) == 1 && x.val (F.safeGroupEncSpeed g) == e) ||
  (x.val (F.safeGroupEncPosUsed g) == 1 && x.val (F.safeGroupEncPos g) == e)

/-- The pairs with the function COMMISSIONING_ENABLE (R381). -/
def Folio.commissioning (x : Folio) : List Nat := (List.range 8).filter fun p => x.val (F.safePairCfgFunction p) == 3

/-- The safety section (R378): two COMMISSIONING_ENABLE pairs, for which no chapter gives a status (R381, R463), a used encoder that is off or has no lines, or an actuator in two groups. A safe output names one
group by its layout. -/
def Folio.safetyFail (x : Folio) : Option Fail :=
  let used e := (List.range 8).any fun g => x.usesEncoder g e
  if 1 < x.commissioning.length then (x.commissioning.head?).map fun p => (Res.outOfRange, 0xB000 + p, 0) else
  match (List.range 8).find? fun e => used e && x.val (F.safeEncCfgKind e) == 0 with
  | some e => some (45, 0xB028 + e, 0)
  | none =>
    match (List.range 8).find? fun e => used e && x.val (F.safeEncLines e) == 0 with
    | some e => some (45, 0xB030 + e, 0)
    | none => ((List.range 8).find? fun g => (List.range 8).any fun k =>
        k != g && (x.val (F.safeGroupAct g) &&& x.val (F.safeGroupAct k)) != 0).map fun g => (45, 0xB040 + g, 0)

/-- The thermal thresholds increase (R441). -/
def Folio.powerFail (x : Folio) : Option Fail :=
  match (List.range 2).find? fun t => decide (x.val (F.powerBpLimit (t + 1)) ≤ x.val (F.powerBpLimit t)) with
  | some t => some (48, 0xD018 + t, 0)
  | none => ((List.range 2).find? fun t => decide (x.val (F.powerDieLimit (t + 1)) ≤ x.val (F.powerDieLimit t))).map
      fun t => (48, 0xD01C + t, 0)

/-! ### The whole -/

/-- The first of several checks that fails. -/
def firstFail : List (Unit → Option Fail) → Option Fail
  | [] => none
  | f :: rest =>
    match f () with
    | some x => some x
    | none => firstFail rest

/-- The first failure of the staged Folio, blocks in ascending order, section 1 after block 0x4 and section 2 after block 0x5
(R463). -/
def State.validate (s : State) : Option Fail :=
  let x := s.shadow
  firstFail [fun _ => x.domainFail, fun _ => s.cableFail (cableDelays.take 3), fun _ => s.cableFail (cableDelays.drop 3),
    fun _ => x.inputFail, fun _ => x.envelopeFail, fun _ => sectionFail x 1, fun _ => x.controlFail, fun _ => sectionFail x 2,
    fun _ => x.loopFail, fun _ => x.logicFail, fun _ => x.canFail, fun _ => x.safetyFail, fun _ => x.powerFail]

end Sys2Proof.Machine
end

