-- ==== Sys2Proof/Machine/Folios.lean ====
section
/-! DEFINITION. Parameter access and the Folio turn: reading, staging, validation, sealing, commit, effect and syncing (R8 to R11,
R453 to R455, R461 to R465). -/

namespace Sys2Proof.Machine

/-! ### The fields of a parameter -/

/-- The fields of the words of can.filter and can.express (R326), whose layout depends on the element. -/
def canWordFields (id elem : Nat) : List FieldSpec :=
  match elem % 3 with
  | 0 => [⟨0, 29, .rs, false, []⟩, ⟨29, 1, .rs, false, []⟩, ⟨31, 1, .rs, false, []⟩]
  | 1 => [⟨0, 29, .rs, false, []⟩]
  | _ => if id = 0x8100 then [⟨0, 8, .rs, false, []⟩, ⟨8, 1, .rs, false, []⟩, ⟨9, 10, .rs, false, []⟩]
    else [⟨0, 8, .rs, false, []⟩]

/-- The width of word `w` of a loop (R10, R259): the bits above are reserved. -/
def loopWordWidth (w : Nat) : Nat := if w = 0 then 15 else if w ≤ 2 then 24 else if w = 3 then 16 else 32

/-- The fields of an element of a parameter, none where ID and element name none (R454). -/
def fieldsOf (id elem : Nat) : Option (List FieldSpec) :=
  match findParam id with
  | some p =>
    if elem < p.elems then some (if id = 0x8100 ∨ id = 0x8101 then canWordFields id elem
      else if id = 0x6200 then [⟨0, loopWordWidth (elem % 32), .rs, false, []⟩] else p.fields) else none
  | none => none

/-- The loop section as its words, least significant byte first (R259, R283). -/
def Folio.loopBytes (x : Folio) : List Byte := (List.range 4096).flatMap fun e => le 4 (x.val (F.loopCoef e))

/-- A word of the CAN tables as they are in force (R319, R326). -/
def Folio.canWord (x : Folio) (id elem : Nat) : Nat :=
  if id = 0x8100 ∧ elem < 24 then x.rioWord elem else
  composeParam (fun f => (x.params.get (paramKey id elem f)).toNat) (canWordFields id elem)

/-- The acceptance filter table and the express entries as their words (R326). -/
def Folio.filterBytes (x : Folio) : List Byte :=
  ((List.range 12288).flatMap fun e => le 4 (x.canWord 0x8100 e)) ++ (List.range 192).flatMap fun e => le 4 (x.canWord 0x8101 e)

/-- The parameters whose value the module forms when it is read: Station Time, the queue, check codes, sizes, instants and the
lifetime counters. While no Folio is active the check codes read their reset value (R7). -/
def State.derived (s : State) (id : Nat) : Option Nat :=
  if s.flag F.devFolioNone ∧ (id = 0x6201 ∨ id = 0x8102 ∨ id = 0xB101) then some 0 else
  if id = 0x1000 then some s.second
  else if id = 0x1001 then some (s.now % nsSecond)
  else if id = 0x1002 then some (s.now / nsFrame % 2 ^ 32)
  else if id = 0x1003 then some (s.now / nsFrame / 2 ^ 32)
  else if id = 0x1004 then some (s.now / nsFrame % 50)
  else if id = 0x0032 then some (min 3 s.recentFatals.length)
  else if id = 0x0021 then some (s.host.queue.length + alarmCount s.host.queue * 2 ^ 16)
  else if id = 0x35F0 then some s.active.ledgerLoad
  else if id = 0x401C then some (if s.active.sec1.len = 0 then 0 else (Config.envelopeCheck s.active.sec1.bytes.cells).toNat)
  else if id = 0x5001 then some (s.deadline + 8)
  else if id = 0x5002 then some (s.deadline + 16)
  else if id = 0x5085 then some (12 + s.active.actVariables)
  else if id = 0x5109 then
    some (if s.active.sec2.len = 0 then 0 else (Crypto.crc32c (s.active.sec2.bytes.readBytes 0 s.active.sec2.len)).toNat)
  else if id = 0x6201 then some (Crypto.crc32c s.active.loopBytes).toNat
  else if id = 0x8102 then some (Crypto.crc32c s.active.filterBytes).toNat
  else if id = 0xB101 then some (colophon s.active.safety).toNat
  else if id = 0xB102 then some s.shadowColophon.toNat
  else if id = 0xD045 then some (bit ((List.range 4).any fun u => s.solv.powered.get u))
  else if id = 0xD047 then some (bit ((List.range 3).any fun n => s.gnss.on.get n))
  else if (0xE000 ≤ id ∧ id ≤ 0xE020) ∨ (0xE048 ≤ id ∧ id < 0xE088) then some (s.lifeValue id)
  else none

/-! ### Reading -/

/-- The value of a parameter (R8, R454): RS fields from the active Folio, or from the shadow where the read asks for it. -/
def State.readParam (s : State) (id elem : Nat) (shadow : Bool) (fields : List FieldSpec) : Nat :=
  match s.derived id with
  | some v => v
  | none =>
    let x := if shadow then s.shadow else s.active
    if id = 0x8100 ∧ elem < 24 ∧ shadow = false then s.active.rioWord elem else
    composeParam (fun f => (if f.acc = .rs then x.params.get (paramKey id elem f) else s.regs.get (paramKey id elem f)).toNat) fields

/-- One item of CMD_PARAM_READ: its result, and its value; an item that failed has none, so its bytes are free (log entry 60). -/
def State.readItem (s : State) (id elem : Nat) : Nat × List Byte :=
  match fieldsOf id (elem % 2 ^ 14) with
  | some fields => (Res.ok, le 8 (s.readParam id (elem % 2 ^ 14) (testBit elem 15) fields))
  | none => (Res.unknownParam, (List.range 8).map fun k => Config.freeByte (65536 + id) (8 * s.free + k))

/-- The message of a list of items begins with its count (R454). -/
def countOk (count n : Nat) : Bool := decide (1 ≤ count) && decide (count ≤ 255) && count == n

/-- CMD_PARAM_READ (R454). -/
def execCmdParamRead (h : Hdr) (count : W16) (items : List (W16 × W16)) (s : State) : Host.Outcome State Fault Refusal :=
  act (fun s => s.command h 1 (le 2 count.toNat ++ items.flatMap fun x => le 2 x.1.toNat ++ le 2 x.2.toNat) fun s =>
    if countOk count.toNat items.length = false then s.reply Res.badLength else
    let rs := items.map fun x => s.readItem x.1.toNat x.2.toNat
    let res := ((rs.map (·.1)).find? fun r => r ≠ Res.ok).getD Res.ok
    let s : State := { s with free := s.free + 1 }
    s.reply res (le 4 (s.rd F.timeFrameNumber) ++ le 2 (s.rd F.timeFrameEpoch) ++ le 2 rs.length ++
      rs.flatMap fun r => le 2 r.1 ++ r.2)) s

/-! ### Writing -/

/-- A field's part of a value. -/
def FieldSpec.part (f : FieldSpec) (v : Nat) : Nat := v / 2 ^ f.lo % 2 ^ f.w

/-- A field's part of a value lies in its range (R11). -/
def FieldSpec.inRange (f : FieldSpec) (v : Nat) : Bool :=
  let x : Int := if f.signed then Sys2Proof.signed f.w (f.part v) else (f.part v : Int)
  f.ranges.isEmpty || f.ranges.any fun r => decide (r.1 ≤ x) && decide (x ≤ r.2)

/-- A source word names a kind, an index and an offset that there are (R11, R259). -/
def sourceWordOk (v : Nat) : Bool :=
  let idx := v / 2 ^ 4 % 2 ^ 12
  match v % 16 with
  | 0 => true
  | 1 => decide (idx < 1088) && v / 2 ^ 16 % 2 == 0
  | 2 => decide (idx < 16)
  | 3 => decide (idx < 8)
  | 4 => decide (idx < 8)
  | _ => false

/-- Word `w` of a loop holds no reserved code (R11, R259). -/
def loopWordOk (w v : Nat) : Bool :=
  if w = 0 then v / 2 % 4 != 3 && decide (v / 2 ^ 4 % 8 ≤ 3) else if w ≤ 2 then sourceWordOk v else true

/-- An identifier lies in the range of the IDE bit written with it (R11, R283, R326). -/
def identOk (v : Nat) : Bool := testBit v 29 || decide (v % 2 ^ 29 < 2 ^ 11)

/-- The sources whose severity cannot be set below Alarm (R415, R460). -/
def alarmSources : List Nat := [0x00, 0x01, 0x49, 0x53, 0xA1, 0xB0, 0xB4]

/-- A severity that R415 permits. -/
def severityOk (src sev : Nat) : Bool :=
  !(alarmSources.contains src && decide (sev < 2)) && !(decide (0xA0 ≤ src) && decide (src < 0xD0) && sev == 3)

/-- A source of a stream (R11, R120): four IMU ports, serial ports and groups; the selector is a code of R121 for kinds 3 and 4,
any stream ID for kind 5, otherwise 0. -/
def streamSourceOk (v : Nat) : Bool :=
  let idx := v % 2 ^ 4
  let kind := v / 2 ^ 4 % 2 ^ 4
  let sel := v / 2 ^ 8 % 2 ^ 8
  (kind < 2 || kind == 5 || decide (idx ≤ 3)) &&
  (if kind = 3 ∨ kind = 4 then decide (1 ≤ sel ∧ sel ≤ 9) else kind == 5 || sel == 0)

/-- A source of an analog output (R11, R258): with the kind bit a loop, else an output channel, of which code 4i + 3 is reserved. -/
def aoutSourceOk (v : Nat) : Bool := testBit v 7 || v % 4 != 3

/-- The rules on a value beyond its fields' own ranges (R11, R326, R415). -/
def valueOk (id elem v : Nat) : Bool :=
  if 0x3400 ≤ id ∧ id < 0x342D then streamSourceOk v
  else if id = 0x9002 then (List.range 33).any fun k => v == 2 ^ 32 - 2 ^ k
  else if (0x3320 ≤ id ∧ id < 0x3324) ∨ id = 0x9005 then v == 0 || v / 2 ^ 28 % 16 == 14
  else if 0x3500 ≤ id ∧ id < 0x352D then (List.range 6).all fun k => v / 2 ^ (8 * k) % 256 < 128
  else if 0x60A0 ≤ id ∧ id < 0x60B0 then aoutSourceOk v
  else if id = 0x6200 then loopWordOk (elem % 32) v
  else if 0x6020 ≤ id ∧ id < 0x6040 then identOk v
  else if (id = 0x8100 ∨ id = 0x8101) ∧ elem % 3 = 0 then identOk v
  else if 0xC040 ≤ id ∧ id < 0xC140 then severityOk (id - 0xC040) (v % 4)
  else true

/-- Staging is open (R462): the shadow is CLEAN or STAGED, the turn IDLE and none pending. -/
def State.stagingOpen (s : State) : Bool :=
  s.rd F.devFolioShadow != 2 && s.rd F.devFolioTurn == 0 && !s.turn.pending

/-- The check of one item of CMD_PARAM_WRITE (R8, R11, R454, R462): its result. -/
def State.checkItem (s : State) (id elem v : Nat) : Nat :=
  match fieldsOf id elem with
  | none => Res.unknownParam
  | some fields =>
    let writable := fields.filter fun f => f.acc ≠ .ro
    if writable.isEmpty then Res.readOnly
    else if (writable.all fun f => f.inRange v) = false ∨ valueOk id elem v = false then Res.outOfRange
    else if writable.all fun f => f.acc = .w1c then Res.ok
    else if s.stagingOpen = false then Res.busy
    else if s.writeGuard then Res.writeGuard
    else Res.ok

/-- One item written: RS fields staged, the shadow becoming STAGED; W1C fields cleared at once where 1 is written (R8, R9). -/
def State.writeItem (s : State) (id elem v : Nat) : State :=
  ((fieldsOf id elem).getD []).foldl (fun (s : State) f =>
    match f.acc with
    | .ro => s
    | .w1c => if f.part v = 0 then s else { s with regs := s.regs.set (paramKey id elem f) 0 }
    | .rs =>
      let n := 1 - s.rd F.devFolioActive
      let x := s.folio n
      (s.setFolio n { x with params := x.params.set (paramKey id elem f) (BitVec.ofNat 64 (f.part v)) }).wr F.devFolioShadow 1) s

/-- The first item that is refused: its index and result. -/
def State.firstRefused (s : State) : Nat → List (W16 × W16 × W64) → Option (Nat × Nat)
  | _, [] => none
  | k, x :: rest =>
    let r := s.checkItem x.1.toNat (x.2.1.toNat % 2 ^ 14) x.2.2.toNat
    if r = Res.ok then s.firstRefused (k + 1) rest else some (k, r)

/-- CMD_PARAM_WRITE (R454): all the items or none. -/
def execCmdParamWrite (h : Hdr) (count : W16) (items : List (W16 × W16 × W64)) (s : State) : Host.Outcome State Fault Refusal :=
  act (fun s =>
    s.command h 2 (le 2 count.toNat ++ items.flatMap fun x => le 2 x.1.toNat ++ le 2 x.2.1.toNat ++ le 8 x.2.2.toNat) fun s =>
    if countOk count.toNat items.length = false then s.reply Res.badLength else
    match s.firstRefused 0 items with
    | some (k, r) => s.reply r (le 2 k)
    | none => (items.foldl (fun (s : State) x => s.writeItem x.1.toNat (x.2.1.toNat % 2 ^ 14) x.2.2.toNat) s).reply Res.ok) s

/-- The limit of a section (R455). -/
def sectionLimit (sec : Nat) : Nat := if sec = 1 then 524288 else if sec = 2 then 262144 else 0

/-- A section with data written; at offset 0 it is cleared first (R455). -/
def Section.load (x : Section) (off : Nat) (data : List Byte) : Section :=
  let x : Section := if off = 0 then ⟨0, ⟨[]⟩⟩ else x
  ⟨max x.len (off + data.length), x.bytes.writeBytes off data⟩

/-- CMD_FOLIO_SECTION (R455). -/
def execCmdFolioSection (h : Hdr) (sec : Byte) (off : W32) (data : List Byte) (s : State) : Host.Outcome State Fault Refusal :=
  act (fun s => s.command h 5 ([sec] ++ le 4 off.toNat ++ data) fun s =>
    if data.isEmpty ∨ 3968 < data.length ∨ sectionLimit sec.toNat < off.toNat + data.length then s.reply Res.outOfRange
    else if s.stagingOpen = false then s.reply Res.busy
    else if s.writeGuard then s.reply Res.writeGuard
    else
      let n := 1 - s.rd F.devFolioActive
      let x := s.folio n
      let x : Folio := if sec = 1 then { x with sec1 := x.sec1.load off.toNat data } else { x with sec2 := x.sec2.load off.toNat data }
      ((s.setFolio n x).wr F.devFolioShadow 1).reply Res.ok) s

/-! ### The turn -/

/-- CMD_FOLIO_TURN (R462): accepted, the turn is pending until the next frame instant. -/
def execCmdFolioTurn (h : Hdr) (s : State) : Host.Outcome State Fault Refusal :=
  act (fun s => s.command h 3 [] fun s =>
    if s.stagingOpen = false then s.reply Res.busy
    else if s.rd F.devFolioShadow ≠ 1 then s.reply Res.nothingStaged
    else if s.writeGuard then s.reply Res.writeGuard
    else ({ s with turn := { s.turn with pending := true, hdr := some h } }, none)) s

/-- CMD_FOLIO_DISCARD (R462): the shadow is SYNCING, then CLEAN. -/
def execCmdFolioDiscard (h : Hdr) (s : State) : Host.Outcome State Fault Refusal :=
  act (fun s => s.command h 4 [] fun s =>
    if s.rd F.devFolioTurn ≠ 0 ∨ s.turn.pending then s.reply Res.busy
    else (s.wr F.devFolioShadow 2).reply Res.ok) s

/-- The bit FOLIO of HOST_IRQ_STATUS (R451). -/
def State.folioIrq (s : State) : State := { s with host := { s.host with irq := putBit s.host.irq 11 true } }

/-- A turn refused (R462, R463): the shadow stays STAGED. Where no parameter fails, the event's field is free (log entry 60). -/
def State.refuseTurn (s : State) (res : Nat) (fail : Option (Nat × Nat)) : State :=
  let hdr := s.turn.hdr
  let s : State := { s with turn := { s.turn with pending := false, hdr := none, prepared := none, sealFrame := none } }
  let s := (s.wr F.devFolioTurn 0).folioIrq
  let s := match fail with
    | some (id, elem) => ((s.wr F.devFolioFailId id).wr F.devFolioFailElem elem).emit 0x02 (le 2 res ++ le 2 id)
    | none => s.emit 0x02 (le 2 res ++ s.noValue 0x102 ++ s.noValue 0x202)
  match hdr, fail with
  | some h, some (id, elem) => s.respond h 3 res (le 2 id ++ le 2 elem)
  | some h, none => s.respond h 3 res []
  | none, _ => s

/-- FOLIO_VALIDATED (R462, R463): validation has ended. The turn fails, or the Safety Monitor consents, the prepare record is
written and the turn is SEALED; by F+18.5 it commits in this frame. -/
def execFolioValidated (s : State) : Host.Outcome State Fault Refusal :=
  act (fun s =>
    if s.ready = false ∨ s.rd F.devFolioTurn ≠ 1 then s else
    match s.validate with
    | some (res, id, elem) => s.refuseTurn res (some (id, elem))
    | none =>
      match s.safetyConsent with
      | some (res, id) => s.refuseTurn res (some (id, 0))
      | none =>
        let n := 1 - s.rd F.devFolioActive
        let late := decide (148 < s.time.tickDue)
        ({ s with turn := { s.turn with prepared := some (n, (s.folio n).crc),
                                        sealFrame := some (s.totalFrames + bit late) } } : State).wr F.devFolioTurn 2) s

/-- The commit record written over the older of its two copies: the Folio, its CRC and the effective frame (R461). -/
def State.writeCommit (s : State) (n : Nat) (crc : W32) : State :=
  let commits := s.turn.commits ++ [⟨n, crc, s.totalFrames + 1⟩]
  { s with turn := { s.turn with commits := commits.drop (commits.length - 2), hdr := none, sealFrame := none } }

/-- FOLIO_COMMIT: at F+19.0 the commit record is written, and the response OK is sent with the effective frame (R461, R462). -/
def execFolioCommit (s : State) : Host.Outcome State Fault Refusal :=
  act (fun s =>
    match s.turn.sealFrame, s.turn.prepared with
    | some f, some (n, crc) =>
      if s.atTick 152 = false ∨ s.rd F.devFolioTurn ≠ 2 ∨ s.totalFrames < f then s else
      let frame := s.totalFrames + 1
      let done := (s.writeCommit n crc).wr F.devFolioTurn 3
      match s.turn.hdr with
      | some h => done.respond h 3 Res.ok (le 4 (frame % 2 ^ 32) ++ le 2 (frame / 2 ^ 32) ++ stBytes (frame * nsFrame))
      | none => done
    | _, _ => s) s

/-- EV_FOLIO_TURN of a turn that takes effect or whose syncing ends (R460). -/
def State.turnEvent (s : State) : State :=
  s.emit 0x02 (le 1 (s.rd F.devFolioActive) ++ le 4 (s.rd F.devFolioCrc) ++ le 4 (s.rd F.timeFrameNumber))

/-- A committed turn at its frame instant (R26, R462): the staged Folio is active, and the new shadow is SYNCING. -/
def State.swapFolios (s : State) (n : Nat) (crc : W32) : State :=
  let s : State := { s with turn := { s.turn with prepared := none } }
  let s := (((s.wr F.devFolioActive n).wr F.devFolioNone 0).wr F.devFolioShadow 2).wr F.devFolioTurn 0
  let s := ((s.wr F.devFolioCrc crc.toNat).inc F.devFolioTurns).wr F.devFolioTurnFrame (s.rd F.timeFrameNumber)
  s.folioIrq.turnEvent

/-- SHADOW_SYNC_COMPLETE: the shadow equals the active Folio and is CLEAN; a Write Guard trip pauses syncing (R462, R464). -/
def execShadowSyncComplete (s : State) : Host.Outcome State Fault Refusal :=
  act (fun s =>
    if s.ready = false ∨ s.rd F.devFolioShadow ≠ 2 ∨ s.writeGuard then s else
    ((s.setFolio (1 - s.rd F.devFolioActive) s.active).wr F.devFolioShadow 0).turnEvent) s

end Sys2Proof.Machine
end

