-- ==== Sys2Proof/Machine/Power.lean ====
section
/-! DEFINITION. Supply, the Write Guard and the Endpaper, and the Budget Governor (R422 to R442), with power-on and external reset
(R487, R488). -/

namespace Sys2Proof.Machine

/-! ### Power-on, external reset, loss of power -/

/-- The power rows act on what stays outside the converters. -/
def always (f : State → State) (s : State) : Host.Outcome State Fault Refusal := .next (f { s with outputs := [] })

/-- A count that the AO controller writes straight to both copies in MRAM (R471). -/
def State.countMram (s : State) (id : Nat) : State :=
  let up (m : Nats) : Nats := m.set id (min (2 ^ 48 - 1) (m.get id + 1))
  let s : State := { s with life := { s.life with committed := up s.life.committed, older := up s.life.older } }
  s.checkSaturated id

/-- POWER_ON: the converters restart after a supply loss, which lasted `offNs`; every domain is reset (R487). -/
def execPowerOn (offNs : Nat) (s : State) : Host.Outcome State Fault Refusal :=
  always (fun s =>
    if s.powered then s else
    let s : State := { s with powered := true, time := { s.time with mono := s.time.mono + offNs } }
    (s.countMram 0xE000).doReset .powerOn 0) s

/-- RST_N: held low for 10 µs or more an external reset, which an Endpaper write in progress delays to its end (R487, R488). -/
def execRstN (lowNs : Nat) (s : State) : Host.Outcome State Fault Refusal :=
  act (fun s =>
    if lowNs < 10000 then s
    else if s.power.writing.isSome then { s with boot := { s.boot with heldReset := true } }
    else s.doReset .external 1) s

/-- The pins of an unpowered module (R490). -/
def unpoweredPins : List Output :=
  (List.range 8).map (fun o => Output.safeOut o false) ++ (List.range 16).map (fun n => Output.analog n none) ++
  [.restPins false]

/-- CONVERTERS_STOP: at a bank voltage of 30 V the converters stop (R426). An Endpaper write not ended by then is lost. -/
def execConvertersStop (s : State) : Host.Outcome State Fault Refusal :=
  act (fun s => { s with powered := false, power := { s.power with writing := none }, outputs := unpoweredPins }) s

/-- VBAT_LOSS: while the module is unpowered the RTC loses valid time (R56, R477). -/
def execVbatLoss (s : State) : Host.Outcome State Fault Refusal :=
  always (fun s => if s.powered then s else { s with life := { s.life with rtcValid := false } }) s

/-! ### Feeds -/

/-- The code of a feed's class in power.feed_status (R422, R441). -/
def feedCode (f : Feed) (cls : Nat) : Nat :=
  if cls = 0 then 0 else match f with
  | .aux => 1
  | _ => if cls ≤ 5 then 1 else min (cls - 4) 4

/-- A feed by number. -/
def feedNo : Feed → Nat
  | .spn0 => 0
  | .spn1 => 1
  | .aux => 2

/-- The code of what carries the load (R424, R441): the feed whose ideal diode carries the largest current, of equals the lowest;
the bank (3) where none carries any. -/
def loadOf (shares : List Nat) : Nat :=
  let most := shares.foldl max 0
  if most = 0 then 3 else shares.findIdx fun x => x == most

/-- FEED_CHANGE: a feed appears, disappears or changes its class (R422). The load that moves is measured at the frame instants
(R424); power.feed_status and its event follow the next latch (log entry 67). -/
def execFeedChange (f : Feed) (cls : Nat) (s : State) : Host.Outcome State Fault Refusal :=
  always (fun s => { s with power := { s.power with feeds := s.power.feeds.set (feedNo f) (feedCode f cls) } }) s

/-- The capacities counted of the feeds present, in 0.1 W (R422, R435). -/
def State.capacities (s : State) (feeds : List Nat) : List Nat :=
  let spn (c : Nat) : Nat := if c = 4 then 713 else if 2 ≤ c then 510 else 0
  [spn (feeds.getD 0 0), spn (feeds.getD 1 0), if feeds.getD 2 0 = 0 then 0 else 10 * s.cfg F.powerAuxCapacity].filter (· ≠ 0)

/-- The usable capacity in 0.1 W (R435). -/
def State.capacityOf (s : State) (feeds : List Nat) : Nat :=
  match s.capacities feeds with
  | [] => 0
  | c :: rest => if s.cfg F.powerFeedPolicy = 1 then rest.foldl max c else rest.foldl min c

/-! ### The Write Guard and the Endpaper -/

/-- Milliseconds as an FP32 field of an event (R445). -/
def msF32 (ns : Nat) : List Byte := le 4 (Float.fratio ns nsMs).toNat

/-- EV_POWER_WRITE_GUARD (R442): 0 trip, 1 release; cause 0 input, 1 bank. -/
def State.guardEvent (s : State) (release seq ns : Nat) : State :=
  s.emit 0xD2 (le 1 release ++ le 1 (s.rd F.powerWriteGuardCause / 2) ++ le 4 seq ++ msF32 ns)

/-- The cause of a trip in power.write_guard: bit 0 input, bit 1 bank (R441). -/
def guardCode : GuardCause → Nat
  | .input => 1
  | .bank => 2

/-- The Endpaper that a trip writes (R429, R430). -/
def State.endpaper (s : State) (c : GuardCause) : Endpaper :=
  { valid := true, seq := (s.rd F.powerEndpaperSeq + 1) % 2 ^ 32, cause := guardCode c, at_ := s.now, clock := s.clock,
    frame := s.totalFrames, status := s.timeStatusWord, bound := s.rd F.timeErrorBound, tb3off := s.time.tb3off,
    ocxo := s.time.ocxo,
    image := s.lane.latest.bind fun n => (s.lane.quires.get n).image, ring := s.fault.ring }

/-- The sequence of the Endpaper of the trip in force: the one being written, else the newest written (R442). -/
def State.lastEndpaperSeq (s : State) : Nat :=
  match s.power.writing with
  | some e => e.seq
  | none => s.rd F.powerEndpaperSeq

/-- The trip shown and counted (R427, R441). -/
def State.showTrip (s : State) (c : GuardCause) : State :=
  let s := ({ s with power := { s.power with sagAt := s.clock } } : State).wr F.powerWriteGuardTripped 1
  let s := s.wr F.powerWriteGuardCause (guardCode c)
  (s.inc F.powerWriteGuardCount).countMram 0xE001

/-- A trip of the released guard: the Endpaper is written, and a turn that is pending, VALIDATING or SEALED is refused (R429,
R464). -/
def State.tripGuard (s : State) (c : GuardCause) (e : Endpaper) : State :=
  let s := ({ s with power := { s.power with writing := some e, tripAt := s.clock } } : State).showTrip c
  let s := if s.turn.pending ∨ s.rd F.devFolioTurn = 1 ∨ s.rd F.devFolioTurn = 2 then s.refuseTurn Res.writeGuard none else s
  s.guardEvent 0 e.seq 0

/-- WRITE_GUARD_TRIP (R427 to R429, R464): no new write starts but the Endpaper; a turn that is pending, VALIDATING or SEALED is
refused. A second trip before the release is a trip like the first, and writes no further Endpaper (R429, log entry 72). -/
def execWriteGuardTrip (c : GuardCause) (s : State) : Host.Outcome State Fault Refusal :=
  act (fun s => if s.writeGuard then (s.showTrip c).guardEvent 0 s.lastEndpaperSeq 0 else s.tripGuard c (s.endpaper c)) s

/-- The Endpaper stands in the older slot, or in one that holds none (R429). -/
def State.storeEndpaper (s : State) (e : Endpaper) : State :=
  let a := s.power.slots.get 0
  let b := s.power.slots.get 1
  let slot := if a.valid = false then 0 else if b.valid = false then 1 else if a.clock ≤ b.clock then 0 else 1
  let s : State := { s with power := { s.power with slots := s.power.slots.set slot e, writing := none } }
  s.wr F.powerEndpaperSeq e.seq

/-- ENDPAPER_COMPLETE: the Endpaper stands in the older slot (R429); an external reset held back takes effect (R488). -/
def execEndpaperComplete (s : State) : Host.Outcome State Fault Refusal :=
  act (fun s =>
    match s.power.writing with
    | some e =>
      let s := s.storeEndpaper e
      if s.boot.heldReset then s.doReset .external 1 else s
    | none => s) s

/-- WRITE_GUARD_RELEASE: after 10 ms without interruption, so no earlier than 10 ms after the last trip (R427). -/
def execWriteGuardRelease (s : State) : Host.Outcome State Fault Refusal :=
  act (fun s =>
    if s.writeGuard = false ∨ s.since s.power.sagAt < 10 * nsMs then s
    else (s.wr F.powerWriteGuardTripped 0).guardEvent 1 (s.rd F.powerEndpaperSeq) (s.since s.power.tripAt)) s

/-! ### The Budget Governor -/

/-- The worst-case input draw of a budget state in 0.1 W (R432). -/
def ceiling (st : Nat) : Nat := [520, 440, 410, 380].getD st 380

/-- cap_feed (R435). -/
def State.capFeed (s : State) (feeds : List Nat) : Nat :=
  ((List.range 4).find? fun st => decide (ceiling st + s.cfg F.powerFeedMargin ≤ s.capacityOf feeds)).getD 3

/-- The cap of a sensor after a latch (R436): threshold `t` holds from its limit on, until the temperature falls below it minus the
hysteresis. -/
def thermalCap (limit : Nat → Nat) (hyst : Nat) (cap : Nat) (temp : Int) : Nat :=
  ((List.range 3).filter fun t =>
    decide ((limit t : Int) ≤ temp) || (decide (t < cap) && decide ((limit t : Int) - hyst ≤ temp))).length

/-- The average input power of the last 50 frames in 0.01 W, rounded down (R437). -/
def State.averagePower (s : State) : Nat := s.power.history.foldl (· + ·) 0 / max 1 s.power.history.length

/-- The sum of the last 50 frames exceeds 95 % of the usable capacity (R437). -/
def State.overdrawn (s : State) (feeds : List Nat) : Bool :=
  decide (95 * 10 * s.capacityOf feeds * max 1 s.power.history.length < 100 * s.power.history.foldl (· + ·) 0)

/-- The caps of a latch: feed, thermal, draw and the caps set by parameter and command (R434 to R437), with the two thermal caps. -/
structure Caps where
  feed : Nat
  bp : Nat
  die : Nat
  draw : Nat
  cap : Nat
deriving DecidableEq, Repr

/-- The caps under the parameters in force. -/
def State.caps (s : State) (l : Latch) : Caps :=
  { feed := s.capFeed l.feeds,
    bp := thermalCap (fun t => s.cfg (F.powerBpLimit t)) (s.cfg F.powerBpHyst) s.power.bpCap l.base,
    die := thermalCap (fun t => s.cfg (F.powerDieLimit t)) (s.cfg F.powerDieHyst) s.power.dieCap l.die,
    draw := if s.overdrawn l.feeds then min 3 (s.budget + 1) else 0,
    cap := max (s.cfg F.powerStateCap) (l.cap.getD 0) }

/-- The target of a latch (R434). -/
def Caps.target (c : Caps) : Nat := max (max c.feed (max c.bp c.die)) (max c.draw c.cap)

/-- The limiting causes (R441): each cap above Full. -/
def Caps.causes (c : Caps) : Nat :=
  bit (c.feed != 0) + 2 * bit (max c.bp c.die != 0) + 4 * bit (c.draw != 0) + 8 * bit (c.cap != 0)

/-- The upward hold has elapsed at a latch: it started at `from_`, or starts at this latch. -/
def State.holdElapsed (s : State) (from_ : Option Nat) (at_ : Nat) : Bool :=
  decide (s.cfg F.powerUpstepHold * nsSecond ≤ at_ - from_.getD at_)

/-- What the governor latches: the feeds, the temperatures and the draw of the last 50 frames (R434 to R437). -/
def State.latchPower (s : State) (base die : Int) (power : Nat) : State :=
  let hist := s.power.history ++ [power]
  { s with power := { s.power with
      history := hist.drop (hist.length - 50), latch := some ⟨s.clock, s.power.feeds, base, die, s.power.cmdCap, false, true⟩ } }

/-- The highest temperature of the die sensors: the three lanes, SOLV, COLL and SPIN (R436). -/
def hottest (dies : List Int) : Int :=
  match dies with
  | [] => 0
  | d :: rest => rest.foldl max d

/-- The latch of this frame is taken. -/
def State.latchedNow (s : State) : Bool :=
  match s.power.latch with
  | some l => l.at_ == s.clock
  | none => false

/-- GOVERNOR_LATCH: at F+19.5 the governor latches the feeds, the temperatures and the draw (R434 to R437). What the latch decides is
formed of it at the frame instant, under the parameters then in force. -/
def execGovernorLatch (base : Int) (dies : List Int) (power : Nat) (s : State) : Host.Outcome State Fault Refusal :=
  act (fun s => if s.atTick 156 = false ∨ s.latchedNow then s else s.latchPower base (hottest dies) power) s

/-- UPSTEP_HOLD_EXPIRY: at a latch the upward hold has lasted power.upstep_hold, and the state steps one toward more work (R434). -/
def execUpstepHoldExpiry (s : State) : Host.Outcome State Fault Refusal :=
  act (fun s =>
    match s.power.latch with
    | some l =>
      if s.power.started ∧ (s.caps l).target < s.budget ∧ s.holdElapsed s.power.holdFrom l.at_ then
        { s with power := { s.power with latch := some { l with step := true } } }
      else s
    | none => s) s

/-- CMD_BUDGET_CAP: acts from the next latch (R442). -/
def execCmdBudgetCap (h : Hdr) (code : Byte) (s : State) : Host.Outcome State Fault Refusal :=
  act (fun s => s.command h 0xD001 [code] fun s =>
    if code = 0xFF then ({ s with power := { s.power with cmdCap := none } } : State).reply Res.ok
    else if 3 < code.toNat then s.reply Res.outOfRange
    else ({ s with power := { s.power with cmdCap := some code.toNat } } : State).reply Res.ok) s

/-- A field of power.feed_status shown; a change sends EV_POWER_FEED (R442): feed 0 SPN0, 1 SPN1, 2 AUX, 3 the load. -/
def State.showFeed (s : State) (f : Fld) (feed new capacity : Nat) : State :=
  let old := s.rd f
  if old = new then s
  else (s.wr f new).emit 0xD1 (le 1 feed ++ le 1 old ++ le 1 new ++ le 4 (Float.fratio capacity 10).toNat)

/-- The feeds of the latch and the load shown (R424, R435, R442). -/
def State.showFeeds (s : State) (feeds : List Nat) : State :=
  let cap := s.capacityOf feeds
  let s := s.wr F.powerCapacity cap
  let s := (s.showFeed F.powerFeedStatusSpn0 0 (feeds.getD 0 0) cap).showFeed F.powerFeedStatusSpn1 1 (feeds.getD 1 0) cap
  (s.showFeed F.powerFeedStatusAux 2 (feeds.getD 2 0) cap).showFeed F.powerFeedStatusLoad 3 s.power.load cap

/-- The thresholds that a sensor's cap crosses (R436): EV_POWER_THERMAL with sensor, threshold, 0 up or 1 down, and °C. -/
def State.thermalEvents (s : State) (sensor old new : Nat) (temp : Int) : State :=
  (List.range 3).foldl (fun (s : State) t =>
    if (t < old) = (t < new) then s
    else s.emit 0xD3 (le 1 sensor ++ le 1 t ++ le 1 (if t < new then 0 else 1) ++ le 4 (Float.fratio temp 100).toNat)) s

/-- The next state and the start of the hold (R434, R438); `turned` re-evaluates the hold under a new power.upstep_hold. -/
def State.decide_ (s : State) (l : Latch) (target : Nat) (turned : Bool) : Nat × Option Nat :=
  if s.power.started = false then (target, none)
  else if s.budget < target then (target, none)
  else if target < s.budget then
    let step := if turned then s.holdElapsed s.power.holdFrom l.at_ else l.step
    if step then (s.budget - 1, some l.at_) else (s.budget, some (s.power.holdFrom.getD l.at_))
  else (s.budget, none)

/-- The budget state at a frame instant (R26, R434, R436, R442). A change whose commit record is not complete waits for the next (R27). -/
def State.applyBudget (s : State) (turned : Bool) : State :=
  match s.power.latch with
  | none => s.showFeeds [s.rd F.powerFeedStatusSpn0, s.rd F.powerFeedStatusSpn1, s.rd F.powerFeedStatusAux]
  | some l =>
    if l.recorded = false then { s with power := { s.power with latch := some { l with recorded := true } } } else
    let s := s.showFeeds l.feeds
    let c := s.caps l
    let s := (s.thermalEvents 0 s.power.bpCap c.bp l.base).thermalEvents 1 s.power.dieCap c.die l.die
    let (next, hold) := s.decide_ l c.target turned
    let old := s.budget
    let s : State := { s with power := { s.power with
      bpCap := c.bp, dieCap := c.die, holdFrom := hold, latch := none, started := true } }
    let s := ((s.wr F.powerStateCode next).wr F.powerStateCauses c.causes).wrInt F.powerBaseplateTemp l.base
    let s := (s.wrInt F.powerDieTempMax l.die).wr F.powerInputPower (min 16383 s.averagePower)
    if next = old then s
    else (s.emit 0xD0 (le 1 old ++ le 1 next ++ le 1 c.causes ++ le 4 (s.rd F.timeFrameNumber))).powerRx

/-- The time in each state, and what the converters measured (R441). -/
def State.powerFrame (s : State) (i : FrameIn) : State :=
  let st := s.budget
  let n := s.power.frames.get st + 1
  let s : State := { s with power := { s.power with frames := s.power.frames.set st n } }
  let s := ((s.wr (F.powerStateTime st) (min (n / 50) (2 ^ 32 - 1))).wr F.powerInputVoltage (min i.volts 8191)).wr F.powerBankVoltage
    (min i.bankVolts 8191)
  (List.range 12).foldl (fun (s : State) d => s.wr (F.powerDomainPower d) (min (i.domains.getD d 0) 4095)) s

end Sys2Proof.Machine
end

