-- ==== Sys2Proof/Machine/Host.lean ====
section
/-! DEFINITION. The local host port, the event commands, device state, firmware images (R443 to R459, R466 to R468, R497). -/

namespace Sys2Proof.Machine

/-! ### The direct registers -/

/-- HOST_IRQ_STATUS (R451). -/
def State.irqStatus (s : State) : Nat :=
  putBit (putBit s.host.irq 8 (!s.host.queue.isEmpty)) 9 (decide (0 < alarmCount s.host.queue))

/-- HOST_IRQ_N is driven low (R449). -/
def State.irqLow (s : State) : Bool := (List.range 14).any fun b => testBit s.irqStatus b && testBit s.host.irqEnable b

/-- The code of a mailbox state (R451). -/
def MbxState.code : MbxState → Nat
  | .idle => 0
  | .busy => 1
  | .taken => 1
  | .done => 2
  | .rejected => 3

/-- FOLIO_BUSY (R451): a turn pending or in progress, or the shadow SYNCING. -/
def State.folioBusy (s : State) : Bool := s.turn.pending || s.rd F.devFolioTurn != 0 || s.rd F.devFolioShadow == 2

/-- FW_BUSY (R451): an image transfer or a trial in progress. -/
def State.fwBusy (s : State) : Bool := s.flag F.devFwSlotOpen || s.flag F.devFwSlotTrial

/-- A status parameter composed of its RO fields. -/
def State.roWord (s : State) (id : Nat) : Nat :=
  composeParam (fun f => (s.regs.get (paramKey id 0 f)).toNat) ((fieldsOf id 0).getD [])

/-- A direct register as a read shows it (R451); reserved registers and WO registers read 0. -/
def State.direct (s : State) (off : Nat) : Nat :=
  let m := s.host.mirrors
  match off with
  | 0x00 => 0x00014832
  | 0x04 => bit s.ready + 2 * s.devState + 16 * s.budget + 64 * bit s.writeGuard + 128 * bit (s.flag F.faultStatusDeviceFatal) +
      256 * bit s.folioBusy + 512 * bit s.fwBusy + 65536 * (m.frameNumber % 65536)
  | 0x08 => s.irqStatus
  | 0x0C => s.host.irqEnable
  | 0x14 => (List.range 8).foldl (fun v n => v + (s.host.mbx.get n).st.code * 4 ^ n) 0
  | 0x18 => s.host.queue.length + 65536 * alarmCount s.host.queue
  | 0x1C => match s.host.queue with
      | e :: _ => e.seq
      | [] => s.host.nextSeq
  | 0x24 => s.rd F.devEventLost
  | 0x28 => s.second % 2 ^ 32
  | 0x2C => s.host.stSecHi
  | 0x30 => s.host.stNs
  | 0x34 => m.frameNumber
  | 0x38 => m.frameEpoch
  | 0x3C => m.timeStatus
  | 0x40 => m.ctlMode + 65536 * m.ctlStatus
  | 0x44 => m.solveStatus + 65536 * m.collStatus
  | 0x48 => m.actAvailable
  | 0x4C => s.rd F.laneRoles + 65536 * (s.roWord 0xA009 % 64)
  | 0x50 => (List.range 8).foldl (fun v g => v + 2 ^ g * bit (decide (2 ≤ s.rd (F.safeGroupStatusState g)))) 0 +
      256 * (s.roWord 0xB100 % 8)
  | 0x54 => m.voteState
  | 0x58 => m.powerState
  | 0x5C => s.roWord 0x0010
  | 0x60 => s.roWord 0x0018
  | 0x64 => s.host.linkErrors
  | 0x68 => s.host.scratch.toNat
  | _ => 0

/-- The mirrors latch at a frame instant (R451). -/
def State.latchMirrors (s : State) : State :=
  { s with host := { s.host with mirrors :=
      { frameNumber := s.rd F.timeFrameNumber, frameEpoch := s.rd F.timeFrameEpoch, timeStatus := s.roWord 0x1030,
        ctlMode := s.rd F.ctlMode, ctlStatus := s.roWord 0x5012, solveStatus := s.rd F.ctlSolveStatus,
        collStatus := s.rd F.collStatus, actAvailable := s.rd F.ctlActAvailable,
        voteState := s.roWord 0x4C70, powerState := s.roWord 0xD000 } } }

/-! ### SPI transactions -/

/-- One more in LINK_ERRORS. -/
def State.countLink (s : State) : State :=
  { s with host := { s.host with linkErrors := min (s.host.linkErrors + 1) (2 ^ 32 - 1) } }

/-- A transaction discarded whole (R450). One whose opcode is none of the five has no row of its own, and is as one cut short
(log entry 109). -/
def State.linkError (s : State) : State :=
  ({ s with host := { s.host with irq := putBit s.host.irq 13 true } } : State).countLink.put .spiUndefined

/-- The CRC of a transaction (R450): over the opcode, the address and the data. -/
def spiCrc (opcode addr : Nat) (data : List Byte) : W32 := Crypto.crc32c (le 1 opcode ++ le 2 addr ++ data)

/-- Data of a read and the module's CRC over the opcode, the address and the data (R450). -/
def State.spiRead (s : State) (opcode addr : Nat) (data : List Byte) : State :=
  s.put (.spiData (data ++ le 4 (spiCrc opcode addr data).toNat))

/-- MAILBOX_WRITE (R450, R452); a transaction cut short has no CRC. -/
def execMailboxWrite (n : Fin 8) (off : Nat) (data : List Byte) (crc : Option W32) (s : State) : Host.Outcome State Fault Refusal :=
  act (fun s =>
    let mb := s.host.mbx.get n.val
    if crc ≠ some (spiCrc 3 (4096 * n.val + off) data) ∨ data.isEmpty ∨ 4096 < off + data.length ∨ mb.st ≠ .idle then s.linkError
    else s.setMailbox n.val ⟨.idle, mb.buf.writeBytes off data⟩) s

/-- MAILBOX_READ (R450). -/
def execMailboxRead (n : Fin 8) (off : Nat) (len : Option Nat) (s : State) : Host.Outcome State Fault Refusal :=
  act (fun s =>
    match len with
    | none => s.linkError
    | some len =>
      if len = 0 ∨ 4096 < off + len then s.linkError
      else s.spiRead 4 (4096 * n.val + off) ((s.host.mbx.get n.val).buf.readBytes off len)) s

/-- EVENT_READ: the entry, or zeros where the queue holds none (R450). -/
def execEventRead (k : Option Nat) (s : State) : Host.Outcome State Fault Refusal :=
  act (fun s =>
    match k with
    | none => s.linkError
    | some k => s.spiRead 5 k (padTo 128 (match s.host.queue[k]? with
      | some e => e.message false
      | none => []))) s

/-- A mailbox in DONE or REJECTED becomes IDLE (R452). -/
def State.freeMailbox (s : State) (n : Nat) : State :=
  let mb := s.host.mbx.get n
  if mb.st = .done ∨ mb.st = .rejected then s.setMailbox n ⟨.idle, mb.buf⟩ else s

/-- Bits of HOST_IRQ_STATUS cleared; a DONE or REJECTED mailbox returns to IDLE (R451, R452). -/
def State.clearIrq (s : State) (bits : Nat) : State :=
  let w1c := [0, 1, 2, 3, 4, 5, 6, 7, 10, 11, 12, 13].filter (testBit bits)
  let s : State := { s with host := { s.host with irq := w1c.foldl (fun v b => putBit v b false) s.host.irq } }
  ((List.range 8).filter (testBit bits)).foldl (fun (s : State) n => s.freeMailbox n) s

/-- HOST_IRQ_STATUS_CLEAR. -/
def execHostIrqStatusClear (bits : W32) (s : State) : Host.Outcome State Fault Refusal :=
  act (fun s => s.clearIrq bits.toNat) s

/-- The doorbell (R452): an IDLE mailbox becomes BUSY; on any other the doorbell is ignored and counted. -/
def State.ring (s : State) (bits : Nat) : State :=
  ((List.range 8).filter (testBit bits)).foldl (fun (s : State) n =>
    let mb := s.host.mbx.get n
    if mb.st = .idle then s.setMailbox n ⟨.busy, mb.buf⟩ else s.countLink) s

/-- MBX_DOORBELL. -/
def execMbxDoorbell (bits : Byte) (s : State) : Host.Outcome State Fault Refusal := act (fun s => s.ring bits.toNat) s

/-- A sequence number is acknowledged by another (R458): it lies within the 2³¹ numbers up to and including it. -/
def acknowledged (ack seq : Nat) : Bool := decide ((ack + 2 ^ 32 - seq % 2 ^ 32) % 2 ^ 32 < 2 ^ 31)

/-- Entries acknowledged (R458). -/
def State.ackEvents (s : State) (seq : Nat) : State :=
  { s with host := { s.host with queue := s.host.queue.filter fun e => !acknowledged seq e.seq } }

/-- EVQ_ACK. -/
def execEvqAck (seq : W32) (s : State) : Host.Outcome State Fault Refusal := act (fun s => s.ackEvents seq.toNat) s

/-- The device reset that a command may request: in IDLE or MANUAL (R453), at the next frame instant. -/
def State.canReset (s : State) : Bool := s.ready && (s.mode == 0 || s.mode == 5)

/-- A device reset pending until the frame instant. -/
def State.pendReset (s : State) : State := { s with boot := { s.boot with resetAt := some s.clock } }

/-- RESET_REQUEST (R451): the value 0xB007B007 is CMD_DEV_RESET with argument 0. -/
def State.requestReset (s : State) (v : Nat) : State := if v = 0xB007B007 ∧ s.canReset then s.pendReset else s

/-- RESET_REQUEST. -/
def execResetRequest (v : W32) (s : State) : Host.Outcome State Fault Refusal := act (fun s => s.requestReset v.toNat) s

/-- One direct register written (R451): RO and reserved registers ignore it. -/
def State.writeDirect (s : State) (off : Nat) (v : W32) : State :=
  match off with
  | 0x08 => s.clearIrq v.toNat
  | 0x0C => { s with host := { s.host with irqEnable := v.toNat % 2 ^ 14 } }
  | 0x10 => s.ring (v.toNat % 256)
  | 0x20 => s.ackEvents v.toNat
  | 0x68 => { s with host := { s.host with scratch := v } }
  | 0x6C => s.requestReset v.toNat
  | _ => s

/-- Consecutive direct registers written. -/
def State.writeDirects (s : State) (off : Nat) (vals : List W32) : State :=
  match vals with
  | [] => s
  | v :: rest => (s.writeDirect off v).writeDirects (off + 4) rest

/-- The CRC of a register write (R450). -/
def registerCrc (off : Nat) (vals : List W32) : W32 := spiCrc 2 off (vals.flatMap fun v => le 4 v.toNat)

/-- REGISTER_WRITE (R450). -/
def execRegisterWrite (off : Nat) (vals : List W32) (crc : Option W32) (s : State) : Host.Outcome State Fault Refusal :=
  act (fun s =>
    if crc ≠ some (registerCrc off vals) ∨ off % 4 ≠ 0 ∨ vals.isEmpty ∨ 0x100 < off + 4 * vals.length then s.linkError
    else s.writeDirects off vals) s

/-- The latch of ST_SEC_HI and ST_NS by a read of ST_SEC_LO (R451). -/
def State.latchTime (s : State) (t : Nat) : State :=
  { s with host := { s.host with stSecHi := t / nsSecond / 2 ^ 32 % 65536, stNs := t % nsSecond } }

/-- ST_SEC_LO_READ: a read of consecutive direct registers; where it takes in ST_SEC_LO, 0x2C and 0x30 latch with it (R450, R451), `subNs`
into the tick in progress. -/
def execStSecLoRead (off : Nat) (count : Option Nat) (subNs : Nat) (s : State) : Host.Outcome State Fault Refusal :=
  act (fun s =>
    match count with
    | none => s.linkError
    | some count =>
    if off % 4 ≠ 0 ∨ count = 0 ∨ 0x100 < off + 4 * count then s.linkError else
    let t := s.now + min subNs (nsTick - 1)
    let s := if off ≤ 0x28 ∧ 0x28 < off + 4 * count then s.latchTime t else s
    s.spiRead 1 off ((List.range count).flatMap fun k =>
      le 4 (if off + 4 * k = 0x28 then t / nsSecond else s.direct (off + 4 * k)))) s

/-! ### Mailboxes at a tick boundary -/

/-- The length that the command in a mailbox gives (R443). -/
def Mailbox.len (b : Mailbox) : Nat := unle (b.buf.readBytes 6 2)

/-- The code of the command in a mailbox (R443). -/
def Mailbox.code (b : Mailbox) : Nat := unle (b.buf.readBytes 4 2)

/-- The check code of the command in a mailbox: over its header up to the check code, and its payload (R443). -/
def Mailbox.check (b : Mailbox) : Nat := (Crypto.crc32c (b.buf.readBytes 0 28 ++ b.buf.readBytes 32 b.len)).toNat

/-- A mailbox holds a command of Plezen version 1 whose check code is right (R443, R444). -/
def Mailbox.isCommand (b : Mailbox) : Bool :=
  unle (b.buf.readBytes 0 2) == 0xB65E && b.buf.get 2 == 1 && b.buf.get 3 == 0 && decide (b.len ≤ 4064) &&
    unle (b.buf.readBytes 28 4) == b.check

/-- The header of the command in a mailbox. -/
def Mailbox.hdr (b : Mailbox) (n : Nat) : Hdr :=
  ⟨.mailbox (Fin.ofNat 8 n), BitVec.ofNat 32 (unle (b.buf.readBytes 8 4)), BitVec.ofNat 32 b.check⟩

/-- A malformed message: its mailbox is REJECTED (R444, R452). -/
def State.rejectMailbox (s : State) (n : Nat) : State :=
  let s := s.setMailbox n ⟨.rejected, (s.host.mbx.get n).buf⟩
  { s with host := { s.host with irq := putBit s.host.irq n true } }

/-- A command taken from its mailbox by length (R444): too long for its code is malformed, too short BAD_LENGTH. -/
def State.takeCommand (s : State) (n : Nat) : State :=
  let b := s.host.mbx.get n
  match argLength b.code with
  | none => (s.setMailbox n ⟨.taken, b.buf⟩).respond (b.hdr n) b.code Res.unknownCommand []
  | some x =>
    match argFit x b.len with
    | .tooLong => s.rejectMailbox n
    | .wrong => (s.setMailbox n ⟨.taken, b.buf⟩).respond (b.hdr n) b.code Res.badLength []
    | .fits => s.setMailbox n ⟨.taken, b.buf⟩

/-- What a BUSY mailbox comes to when it is taken (R444, R452). A command whose transfer failed is withheld until the next tick
boundary (R15). -/
def State.takeMailbox (s : State) (n : Nat) : State :=
  let b := s.host.mbx.get n
  if b.st ≠ .busy ∨ s.isWithheld (.mailbox (Fin.ofNat 8 n)) then s else if b.isCommand = false then s.rejectMailbox n else s.takeCommand n

/-- The BUSY mailboxes taken at a tick boundary, in ascending index (R446, R452). -/
def State.takeMailboxes (s : State) : State := (List.range 8).foldl (fun (s : State) n => s.takeMailbox n) s

/-! ### Event commands and resending -/

/-- CMD_EVENT_ACK (R453, R458). -/
def execCmdEventAck (h : Hdr) (seq : W32) (s : State) : Host.Outcome State Fault Refusal :=
  act (fun s => s.command h 6 (le 4 seq.toNat) fun s => (s.ackEvents seq.toNat).reply Res.ok) s

/-- The entries of a resend round still to send: a round under way, or the whole queue when a round is due (R458). -/
def State.resendRound (s : State) : List Nat :=
  let start := s.host.resending.isEmpty && decide (s.host.nextResend ≤ s.clock)
  let round := if start then s.host.queue.map (·.seq) else s.host.resending
  round.filter fun q => s.host.queue.any fun e => e.seq == q

/-- A resend round noted: 32 entries are sent now, the others in the next frames (R458). -/
def State.noteResend (s : State) : State :=
  let start := s.host.resending.isEmpty && decide (s.host.nextResend ≤ s.clock)
  { s with host := { s.host with
      resending := s.resendRound.drop 32,
      nextResend := if start then s.clock + s.cfg F.devEventResend * nsMs else s.host.nextResend,
      resentFrame := if s.resendRound.isEmpty then s.host.resentFrame else some s.totalFrames } }

/-- An entry sent to every Spine host that takes events (R455, R458). -/
def State.sendToHosts (s : State) (m : List Byte) : State :=
  s.eventHosts.foldl (fun (s : State) h => s.sendEvent h m) s

/-- EVENT_RESEND: every dev.event_resend the unacknowledged entries are sent again with RESENT, oldest first, at most 32 to each
host in a frame (R458). -/
def execEventResend (s : State) : Host.Outcome State Fault Refusal :=
  act (fun s =>
    if s.ready = false ∨ s.flag F.laneStatusHolding ∨ s.host.resentFrame = some s.totalFrames then s else
    (s.host.queue.filter fun e => (s.resendRound.take 32).contains e.seq).foldl (fun (s : State) e =>
      s.sendToHosts (e.message true)) s.noteResend) s

/-! ### CMD_NOP, CMD_DEV_RESET, CMD_DEV_STATE -/

/-- CMD_NOP returns its bytes (R453). -/
def execCmdNop (h : Hdr) (data : List Byte) (s : State) : Host.Outcome State Fault Refusal :=
  act (fun s => s.command h 0x0D data fun s => s.reply Res.ok data) s

/-- CMD_DEV_RESET (R453). -/
def execCmdDevReset (h : Hdr) (arg : Byte) (s : State) : Host.Outcome State Fault Refusal :=
  act (fun s => s.command h 0x0B [arg] fun s =>
    if arg = 0 ∧ s.canReset = true then s.pendReset.reply Res.ok
    else s.reply Res.wrongState) s

/-- The mode resumed at the entry into NORMAL (R501), requested with the restored setpoint. -/
def State.resumeMode (s : State) : State :=
  let mode := s.boot.resume
  let s : State := { s with boot := { s.boot with resume := none } }
  match mode with
  | some m =>
    if (m = 1 ∨ m = 2 ∨ m = 3) ∧ s.cfg F.devResumeMode = 1 ∧ s.cfg F.ctlModeSource = 0 then
      (s.requestMode m (some (BitVec.ofNat 64 (s.rd F.ctlSpLat), BitVec.ofNat 64 (s.rd F.ctlSpLon), s.ctl.heading))).1
    else s
  | none => s

/-- A device state entered, with EV_DEV_STATE (R494, R506): causes 0 AUTOMATIC, 1 COMMAND, 2 FATAL_LIMIT. A step that
is pending when START is left is cancelled (R46). In RECOVERY the logic engine is STOPPED, and
NORMAL resumes the mode that R501 names. -/
def State.enterState (s : State) (new cause : Nat) : State :=
  let old := s.devState
  if old = new then s else
  let s := (s.wr F.devState new).emit 4 (le 1 old ++ le 1 new ++ le 1 cause)
  let s := if old = 1 then s.cancelStep else s
  if new = 4 then s.stopLogic else if new = 2 then s.resumeMode else s

/-- The conditions of R495 for NORMAL. -/
def State.normalReady (s : State) : Bool :=
  !s.flag F.devFolioNone && s.flag F.timeStatusAcquired && s.flag F.timeStatusLocked && (s.laneIn laneDuty).isSome &&
  decide (s.cfg F.devStartSettle ≤ s.boot.settle)

/-- The transitions of R497 that CMD_DEV_STATE may make. -/
def State.mayMove (s : State) (target : Nat) : Bool :=
  let quiet := s.mode == 0 || s.mode == 5
  match s.devState, target with
  | 1, 3 => quiet || s.mode == 4
  | 2, 3 => quiet
  | 2, 1 => quiet
  | 3, 2 => s.normalReady
  | 3, 1 => true
  | 1, 4 => quiet
  | 2, 4 => quiet
  | 3, 4 => quiet
  | 4, 1 => true
  | _, _ => false

/-- CMD_DEV_STATE (R497, R506). -/
def execCmdDevState (h : Hdr) (target : Byte) (s : State) : Host.Outcome State Fault Refusal :=
  act (fun s => s.command h 0x0C [target] fun s =>
    if s.mayMove target.toNat then (s.enterState target.toNat 1).reply Res.ok
    else s.reply Res.wrongState) s

/-! ### Firmware images -/

/-- EV_FW_UPDATE (R460): step 0 erase, 1 transfer, 2 verify, 3 reset, 4 trial (log entry 68). -/
def State.fwEvent (s : State) (step slot version : Nat) (tail : List Byte) : State :=
  s.emit 3 (le 1 step ++ le 1 slot ++ le 4 version ++ tail)

/-- The slot that is not running (R466). -/
def State.otherSlot (s : State) : Nat := 1 - s.rd F.devFwSlotRunning

/-- CMD_FW_BEGIN (R467): the erase of the other slot starts. -/
def execCmdFwBegin (h : Hdr) (size : W32) (digest : List Byte) (s : State) : Host.Outcome State Fault Refusal :=
  act (fun s => s.command h 7 (le 4 size.toNat ++ digest) fun s =>
    if s.flag F.devFwSlotTrial ∨ s.budget = 3 ∨ s.flag F.devFwSlotOpen then s.reply Res.wrongState
    else if digest.length ≠ 32 then s.reply Res.badLength
    else if size = 0 ∨ 2 ^ 25 < size.toNat then s.reply Res.outOfRange
    else if s.fw.beginHdr.isSome then s.reply Res.busy
    else if s.writeGuard then s.reply Res.writeGuard
    else
      ({ s with fw := { s.fw with size := size.toNat, digest := digest, beginHdr := some h } }, none)) s

/-- FW_SLOT_ERASED: the slot's blocks are erased (R470) and the transfer opens (R467). An image that was committed there is gone, and with it its trial. -/
def execFwSlotErased (s : State) : Host.Outcome State Fault Refusal :=
  act (fun s =>
    match s.fw.beginHdr with
    | none => s
    | some h =>
      if s.ready = false then s else
      let slot := s.otherSlot
      let s : State := { s with fw := { s.fw with
        beginHdr := none, slots := s.fw.slots.set slot (noImage slot), trialSlot := none, attempts := 0 } }
      if s.writeGuard then s.respond h 7 Res.writeGuard []
      else if s.budget = 3 then s.respond h 7 Res.wrongState []
      else
        let s := ((s.wr F.devFwSlotOpen 1).wr F.devFwSlotCommitted 0).wr F.devFwNextOffset 0
        ((s.wr F.devFwVersionOther 0).fwEvent 0 slot 0 (le 2 Res.ok)).respond h 7 Res.ok [] |>.accrue 0xE020 Config.slotBlocks) s

/-- CMD_FW_BLOCK (R453, R467): at the next offset expected, at most four in a frame. -/
def execCmdFwBlock (h : Hdr) (off : W32) (data : List Byte) (s : State) : Host.Outcome State Fault Refusal :=
  act (fun s => s.command h 8 (le 4 off.toNat ++ data) fun s =>
    let next := s.rd F.devFwNextOffset
    if s.flag F.devFwSlotOpen = false ∨ s.budget = 3 ∨ s.fw.commitHdr.isSome then s.reply Res.wrongState
    else if s.writeGuard then s.reply Res.writeGuard
    else if 4 ≤ s.fw.blocksThisFrame then s.reply Res.busy
    else if data.isEmpty ∨ 3968 < data.length ∨ off.toNat ≠ next ∨ s.fw.size < next + data.length then s.reply Res.outOfRange
    else
      let slot := s.otherSlot
      let img := s.fw.slots.get slot
      let s : State := { s with fw := { s.fw with
        blocksThisFrame := s.fw.blocksThisFrame + 1,
        slots := s.fw.slots.set slot { img with bytes := img.bytes.writeBytes next data, size := next + data.length } } }
      let s := s.wr F.devFwNextOffset (next + data.length)
      let s := if next + data.length = s.fw.size then s.fwEvent 1 slot 0 (le 2 Res.ok) else s
      s.reply Res.ok (le 4 (next + data.length))) s

/-- CMD_FW_COMMIT (R467): with the transfer complete, verification starts. -/
def execCmdFwCommit (h : Hdr) (s : State) : Host.Outcome State Fault Refusal :=
  act (fun s => s.command h 9 [] fun s =>
    if s.flag F.devFwSlotOpen = false ∨ s.rd F.devFwNextOffset ≠ s.fw.size ∨ s.fw.commitHdr.isSome then s.reply Res.wrongState
    else if s.writeGuard then s.reply Res.writeGuard
    else ({ s with fw := { s.fw with commitHdr := some h } }, none)) s

/-- FW_IMAGE_VERIFIED: the digest is compared and the signature checked (R467). The boot record then names the trial slot; an image
that fails ends the transfer (log entry 68). -/
def execFwImageVerified (s : State) : Host.Outcome State Fault Refusal :=
  act (fun s =>
    match s.fw.commitHdr with
    | none => s
    | some h =>
      if s.ready = false then s else
      let slot := s.otherSlot
      let img := s.fw.slots.get slot
      let version := Config.imageVersion img.bytes.cells
      let ok := Config.imageSigned img.bytes.cells && Crypto.sha256 (img.bytes.readBytes 0 img.size) == s.fw.digest
      let s : State := { s with fw := { s.fw with commitHdr := none } }
      if s.writeGuard then s.respond h 9 Res.writeGuard []
      else
        let s := s.wr F.devFwSlotOpen 0
        if ok then
          let s : State := { s with fw := { s.fw with
            trialSlot := some slot, attempts := 0,
            slots := s.fw.slots.set slot { img with present := true, version := version.toNat } } }
          let s := ((s.wr F.devFwSlotCommitted 1).wr F.devFwVersionOther version.toNat)
          (s.fwEvent 2 slot version.toNat (le 2 Res.ok)).respond h 9 Res.ok []
        else (s.fwEvent 2 slot 0 (le 2 Res.imageInvalid)).respond h 9 Res.imageInvalid []) s

/-- CMD_FW_ABORT (R453): the transfer ends, or the committed image is not started. A verification in progress ends with
WRONG_STATE. -/
def execCmdFwAbort (h : Hdr) (s : State) : Host.Outcome State Fault Refusal :=
  act (fun s => s.command h 0x0A [] fun s =>
    if s.flag F.devFwSlotOpen = false ∧ s.flag F.devFwSlotCommitted = false then s.reply Res.wrongState
    else
      let waiting := s.fw.commitHdr
      let s : State := { s with fw := { s.fw with trialSlot := none, attempts := 0, commitHdr := none } }
      let s := (s.wr F.devFwSlotOpen 0).wr F.devFwSlotCommitted 0
      let s := match waiting with
        | some c => s.respond c 9 Res.wrongState []
        | none => s
      s.reply Res.ok) s

/-- FW_TRIAL_END: the trial image has run in NORMAL for dev.fw_trial_time, and the boot record names it good (R467). -/
def execFwTrialEnd (s : State) : Host.Outcome State Fault Refusal :=
  act (fun s =>
    if s.flag F.devFwSlotTrial = false ∨ s.devState ≠ 2 ∨ s.writeGuard ∨ s.fw.trialFrames < s.cfg F.devFwTrialTime * 50 then s else
    let slot := s.rd F.devFwSlotRunning
    let s : State := { s with fw := { s.fw with trialSlot := none, attempts := 0, trialFrames := 0 } }
    ((s.wr F.devFwSlotGood slot).wr F.devFwSlotTrial 0).fwEvent 4 slot (s.rd F.devFwVersion) (le 2 Res.ok)) s

end Sys2Proof.Machine
end

