-- ==== Sys2Proof/Machine/Life.lean ====
section
/-! DEFINITION. Lifetime counters, the calendar and leap seconds, the Voyage Recorder and its journal, and Announce messages
(R58, R470 to R486). -/

namespace Sys2Proof.Machine

/-! ### Lifetime counters -/

/-- LIFETIME_COMMIT: every life.commit_interval the increments are added to the older copy in MRAM (R471). -/
def execLifetimeCommit (s : State) : Host.Outcome State Fault Refusal :=
  act (fun s =>
    if s.ready = false ∨ s.writeGuard ∨ s.life.sinceCommit < s.cfg F.lifeCommitInterval then s else
    let sum := s.life.accrued.cells.foldl (fun (m : Nats) c => m.set c.1 (min (2 ^ 48 - 1) (m.get c.1 + c.2))) s.life.committed
    { s with life := { s.life with committed := sum, copySeq := s.life.copySeq + 1, older := s.life.committed,
                                   olderSeq := s.life.copySeq, accrued := ⟨[]⟩, sinceCommit := 0 } }) s

/-- The counters of a second (R470): operating time, and the time of each lane in its state. -/
def State.lifeSecond (s : State) : State :=
  let s : State := { s with life := { s.life with sinceCommit := s.life.sinceCommit + 1 } }
  (List.range 3).foldl (fun (s : State) n =>
    let st := s.laneSt n
    if st = laneDuty ∨ st = lanePartner ∨ st = laneJoining then s.accrue (0xE010 + n) 1
    else if st = laneStandby then s.accrue (0xE014 + n) 1
    else s) (s.accrue 0xE003 1)

/-- An actuator runs in a frame (R470): it is available, and its effective thrust is at least ctl.act_hold_thrust. -/
def State.actRuns (s : State) (i : Nat) : Bool :=
  testBit (s.rd F.ctlActAvailable) i &&
  match s.ctl.published with
  | some r => !Float.flt (Float.fabs (r.entries.getD i SpOut.zero).thrust) (Float.fratio (s.cfg (F.ctlActHoldThrust i)) 10)
  | none => false

/-- Run time and starts of the actuators at a frame instant (R470). -/
def State.lifeActuators (s : State) : State :=
  let now := maskOf ((List.range 32).filter s.actRuns)
  let before := s.life.actRan
  let s : State := { s with life := { s.life with actRan := now } }
  ((List.range 32).filter (testBit now)).foldl (fun (s : State) i =>
    let s := if testBit before i then s else s.accrue (0xE068 + i) 1
    let k := s.life.actFrames.get i + 1
    let s : State := { s with life := { s.life with actFrames := s.life.actFrames.set i (if k = 50 then 0 else k) } }
    if k = 50 then s.accrue (0xE048 + i) 1 else s) s

/-! ### The calendar -/

/-- TAI − UTC in force now (R474). -/
def State.taiUtc (s : State) : Int := taiUtcAt s.life.leaps s.second

/-- The date of a day counted from 1970-01-01: year, month, day. -/
def dateOf (day : Nat) : Nat × Nat × Nat :=
  let z := day + 719468
  let era := z / 146097
  let doe := z % 146097
  let yoe := (doe + doe / 36524 - doe / 1460 - doe / 146096) / 365
  let doy := doe - (365 * yoe + yoe / 4 - yoe / 100)
  let mp := (5 * doy + 2) / 153
  let m := if mp < 10 then mp + 3 else mp - 9
  (yoe + era * 400 + bit (decide (m ≤ 2)), m, doy - (153 * mp + 2) / 5 + 1)

/-- life.utc of a UTC second counted from 1970 without leap seconds; `leap` shows the second as 60 of its minute (R476, R485). -/
def packUtc (utc : Nat) (leap : Bool) : Nat :=
  let (y, m, d) := dateOf (utc / 86400)
  let t := utc % 86400
  y * 2 ^ 34 + m * 2 ^ 30 + d * 2 ^ 25 + t / 3600 * 2 ^ 20 + t / 60 % 60 * 2 ^ 14 + (t % 60 + bit leap) * 2 ^ 8

/-- UTC at the frame instant (R476): in the second before a positive leap applies, the 60th of its minute. -/
def State.calendar (s : State) : State :=
  let sec := s.second
  let utc (t : Nat) (off : Int) : Nat := ((t : Int) - off).toNat
  let inLeap := s.life.leaps.any fun l => l.from_ == sec + 1 && decide (taiUtcAt s.life.leaps sec < l.offset)
  s.wr F.lifeUtc (if inLeap then packUtc (utc (sec - 1) s.taiUtc) true else packUtc (utc sec s.taiUtc) false)

/-- EV_LIFE_LEAP (R486): 0 APPLIED, 1 LEARNED, 2 CONFLICT; the source in the codes of time.status. -/
def State.leapEvent (s : State) (l : Leap) (src : List Byte) (kind : Nat) : State :=
  s.emit 0xE1 (stBytes (l.from_ * nsSecond) ++ leInt 2 l.offset ++ src ++ le 1 kind)

/-- LEAP_SECOND: a new value of TAI − UTC has come into force (R476). -/
def execLeapSecond (s : State) : Host.Outcome State Fault Refusal :=
  act (fun s =>
    match (s.life.leaps.filter fun l => decide (l.from_ ≤ s.second)).getLast? with
    | some l =>
      if s.ready = false ∨ s.rdInt F.lifeTaiUtc = l.offset then s
      else (s.wrInt F.lifeTaiUtc l.offset).leapEvent l (s.noValue 0xE1) 0
    | none => s) s

/-- RTC_WRITE: UTC is written to the RTC at each acquisition and at every whole UTC hour (R477). -/
def execRtcWrite (s : State) : Host.Outcome State Fault Refusal :=
  act (fun s =>
    let utc : Int := (s.now : Int) - s.taiUtc * (nsSecond : Int)
    let hour := s.flag F.timeStatusAcquired && s.time.tickDue == 0 && decide (utc % (3600 * nsSecond : Nat) = 0)
    if s.ready = false ∨ (s.life.rtcDue = false ∧ hour = false) then s
    else { s with life := { s.life with rtcDue := false, rtcValid := true, rtcUtc := utc - s.clock } }) s

/-! ### Leap seconds learned -/

/-- A source that says something of TAI − UTC is qualified (R475); codes of time.status. -/
def State.saidQualified (s : State) (x : LeapSaid) : Bool :=
  match srcOfCode x.src with
  | some c => (s.source c).qualified
  | none => false

/-- Two sources disagree (R475): on the current value, or on a leap that both announce. -/
def leapsDiffer (x y : LeapSaid) : Bool :=
  x.current != y.current || (x.leap.isSome && y.leap.isSome && x.leap != y.leap)

/-- An entry put into the leap-second table in order; of 32 entries the oldest gives way (R474). -/
def putLeap (table : List Leap) (l : Leap) : List Leap :=
  let t := (table.filter fun x => decide (x.from_ < l.from_)) ++ [l] ++ table.filter fun x => decide (l.from_ < x.from_)
  t.drop (t.length - 32)

/-- An entry learned, with its event (R475). -/
def State.learnEntry (s : State) (l : Leap) (src : Nat) : State :=
  ({ s with life := { s.life with leaps := putLeap s.life.leaps l } } : State).leapEvent l (le 1 src) 1

/-- An accepted statement (R475): it confirms the current value, or corrects it from now on, and adds an announced leap. -/
def State.acceptLeap (s : State) (x : LeapSaid) : State :=
  let s :=
    if x.current = s.taiUtc then s.wr F.lifeCalStatusUnconfirmed 0
    else if s.flag F.timeStatusAcquired then
      ((s.learnEntry ⟨s.second, x.current⟩ x.src).wrInt F.lifeTaiUtc x.current).wr F.lifeCalStatusUnconfirmed 0
    else s
  match x.leap with
  | some l =>
    if l.from_ ≤ s.second ∨ s.second + 200 * 86400 < l.from_ ∨ s.life.leaps.contains l then s else s.learnEntry l x.src
  | none => s

/-- What a source says of TAI − UTC judged against the others (R475). While the Write Guard stops MRAM writes nothing is learned. -/
def State.hearLeap (s : State) (x : LeapSaid) : State :=
  let s : State := { s with life := { s.life with said := s.life.said.filter (fun y => y.src ≠ x.src) ++ [x] } }
  let others := s.life.said.filter fun y => y.src ≠ x.src && s.saidQualified y
  if s.saidQualified x = false then s
  else if others.any (leapsDiffer x) then
    if s.flag F.lifeCalStatusConflict then s
    else (s.wr F.lifeCalStatusConflict 1).leapEvent (x.leap.getD ⟨s.second, x.current⟩) (le 1 x.src) 2
  else
    let s := s.wr F.lifeCalStatusConflict 0
    let agreed := others.any fun y => y.current == x.current && y.leap == x.leap
    if (x.src = s.rd F.timeStatusSource ∨ agreed) ∧ s.writeGuard = false then s.acceptLeap x else s

/-- The order of grandmasters of IEEE 1588 (log entry 70). -/
def announceRank (a : Announce) : List Nat :=
  [a.priority1.toNat, a.clockClass.toNat, a.accuracy.toNat, a.variance.toNat, a.priority2.toNat, a.gmIdentity.toNat,
    a.stepsRemoved.toNat]

/-- A list of numbers is the smaller in order. -/
def rankBelow : List Nat → List Nat → Bool
  | x :: xs, y :: ys => decide (x < y) || (x == y && rankBelow xs ys)
  | _, _ => false

/-- The leap that an Announce message announces: at the end of the UTC day (R474). -/
def State.announcedLeap (s : State) (a : Announce) : Option Leap :=
  if a.leap = 0 then none
  else
    let midnight := (((s.second : Int) - a.utcOffset) / 86400 + 1) * 86400
    some ⟨(midnight + a.utcOffset + a.leap).toNat, a.utcOffset + a.leap⟩

/-- An Announce is taken (R70): the first, one on the slave port, or one of a better grandmaster. -/
def Source.prefers (o : Source) (port : Nat) (a : Announce) : Bool :=
  match o.gm with
  | .none => true
  | .some g => o.slavePort == port || rankBelow (announceRank a) (announceRank g)

/-- The Announce is of the grandmaster and the port that are followed. -/
def Source.follows (o : Source) (port : Nat) (a : Announce) : Bool :=
  match o.gm with
  | .some g => g.gmIdentity == a.gmIdentity && o.slavePort == port
  | .none => false

/-- A source after an Announce that is taken. A new grandmaster or slave port is no loss (R58): the measurements go on, under the
jump test (R62). `d` is the difference of the asymmetries of the new port and the old one, which is no jump (R79). -/
def Source.takeAnnounce (o : Source) (port : Nat) (a : Announce) (clock : Nat) (d : Int) : Source :=
  { o.shifted d with gm := Option.some a, slavePort := port, lastAnnounce := Option.some clock,
                     awaitFollowUp := if o.follows port a then o.awaitFollowUp else Option.none }

/-- PTP_ANNOUNCE_RX: the grandmaster data of a followed domain, and leap information (R58, R70, R474, R475). An Announce of a better
grandmaster, or on the slave port, is taken. -/
def execPtpAnnounceRx (red : Bool) (port : Fin 9) (a : Announce) (s : State) : Host.Outcome State Fault Refusal :=
  act (fun s =>
    let x := ptpSrc red
    if (s.source x).prefers port.val a = false ∨ a.gmIdentity = Config.clockIdentity then s else
    let o := (s.source x).takeAnnounce port.val a s.clock
      (if (s.source x).measured then s.active.asymmetry port.val - s.active.asymmetry (s.source x).slavePort else 0)
    let s := s.setSource x (s.qualify o (s.ptpQualifies o))
    if a.utcOffsetValid ∧ s.ready then s.hearLeap ⟨srcCode x, a.utcOffset, s.announcedLeap a⟩ else s) s

/-- The leap-second data of the navigation messages at a frame instant (R91, R474). -/
def State.gnssLeap (s : State) (u : Option (Int × Option (Nat × Int))) : State :=
  match u with
  | some (cur, l) => s.hearLeap ⟨srcCode .tb2, cur, l.map fun p => ⟨p.1, p.2⟩⟩
  | none => s

/-! ### The Voyage Recorder -/

/-- The bytes of a record in the ring (R478); its length is that of the whole record. What no layout gives is free. -/
def Rec.bytes (r : Rec) : List Byte :=
  le 1 r.kind ++ le 1 r.flags ++ le 2 r.size ++ stBytes r.at_ ++ le 2 0 ++ r.body ++
    (List.range r.fill).map fun k => Config.freeByte (131072 + r.place) k

/-- The frame record (R478) of the frame that ends: the estimate, the setpoint record and the 608 bytes of status. -/
def State.frameRecord (s : State) : State :=
  let est := if s.coll.estPresent then s.coll.estimate else []
  let sp := match s.ctl.published with
    | some r => r.bytes
    | none => []
  let body := est ++ sp
  s.record 1 0 body (2032 - body.length)

/-- EV_LIFE_REC_LOST, at most once a second (R480). -/
def State.reportRecLost (s : State) : State :=
  if s.life.lostSince = 0 ∨ s.life.lostSecond = some s.second then s else
  let n := s.life.lostSince
  ({ s with life := { s.life with lostSince := 0, lostSecond := some s.second } } : State).emit 0xE2 (le 4 n)

/-! ### The journal -/

/-- Body bytes of a journal page (R481). -/
abbrev pageBody : Nat := 4064

/-- Records taken from the front of the ring until `n` bytes are at hand: the bytes, the instant of the first record taken, what
remains of the ring. -/
def takeRecords (n : Nat) : List Rec → List Byte → Option Nat → List Byte × Option Nat × List Rec
  | [], bytes, at_ => (bytes, at_, [])
  | r :: rest, bytes, at_ =>
    if n ≤ bytes.length then (bytes, at_, r :: rest)
    else takeRecords n rest (bytes ++ r.bytes) (some (at_.getD r.at_))

/-- More bytes for a page (R479): records as they are, or in Trim and Lean one 64 KiB block compressed, whose bytes are free. -/
def State.fillCarry (s : State) : State :=
  if pageBody ≤ s.life.carry.length then s
  else if s.budget = 0 then
    let (bytes, at_, rest) := takeRecords pageBody s.life.ring (s.life.carry ++ s.life.raw) none
    { s with life := { s.life with
        carry := bytes, raw := [], ring := rest, carryAt := at_.getD s.life.carryAt,
        carryPacked := s.life.carryPacked && !s.life.carry.isEmpty } }
  else
    let (bytes, at_, rest) := takeRecords 65536 s.life.ring s.life.raw none
    if bytes.length < 65536 then s else
    let n := min (Config.compressedLength s.free) 65809
    let packed := (List.range n).map fun k => Config.freeByte (196608 + s.free) k
    { s with free := s.free + 1,
             life := { s.life with
               carry := s.life.carry ++ packed, raw := bytes.drop 65536, ring := rest, carryAt := at_.getD s.life.carryAt,
               carryPacked := true } }

/-- Bytes of the ring that are not yet drained (R485). -/
def State.backlog (s : State) : Nat :=
  s.life.ring.foldl (fun n r => n + r.size) 0 + s.life.raw.length + s.life.carry.length

/-- The pages that the idle time of a frame takes (R479): 2.0 ms at tick 128, and 125 µs for each tick the deadline lies earlier. -/
def State.pageLimit (s : State) : Nat := (1600 + 125 * (128 - s.deadline)) / 600

/-- A page programmed (R481). One that fails is lost with its records, and its block is retired (R407); with every
block retired nothing is programmed. -/
def State.programPage (s : State) (ok : Bool) : State :=
  let s := s.openBlock
  if s.life.block = none then s else
  let s := s.addPage s.life.carryAt s.life.carryPacked s.life.resetMark (s.life.carry.take pageBody)
  let s := if ok then s else s.losePage (s.life.nextPage - 1)
  { s with life := { s.life with carry := s.life.carry.drop pageBody, pagesThisFrame := s.life.pagesThisFrame + 1,
                                 resetMark := false } }

/-- DRAIN_PAGE: between the Quire instant and the frame instant, one page from the ring (R41, R479). -/
def execDrainPage (programOk : Bool) (s : State) : Host.Outcome State Fault Refusal :=
  act (fun s =>
    if s.ready = false ∨ s.time.tickDue < s.deadline + 16 ∨ s.budget = 3 ∨ s.writeGuard ∨
        s.pageLimit ≤ s.life.pagesThisFrame then s else
    let s := s.fillCarry
    let s := if s.life.carry.length < pageBody then s else s.programPage programOk
    (s.wr F.lifeRecBacklog (min s.backlog (2 ^ 30 - 1))).checkWear) s

/-- The 4,096 bytes of a page (R481): the sequence, the instant, the flags and the body. The place of the check code and what it
covers are not laid out, so its bytes are free, and so is what a page holds beyond its records (log entry 69). -/
def Page.bytes (p : Page) : List Byte :=
  let free (k n : Nat) : List Byte := (List.range n).map fun i => Config.freeByte (262144 + p.seq) (k + i)
  le 8 p.seq ++ stBytes p.at_ ++ le 1 (bit p.compressed + 2 * bit p.resetMark) ++ le 9 0 ++ free 0 4 ++ p.body ++
    free 4 (pageBody - p.body.length)

/-- CMD_LIFE_JOURNAL_FIND (R481, R486): the first page whose first record is stamped at or after an instant. -/
def execCmdLifeJournalFind (h : Hdr) (sec : BitVec 48) (ns : W32) (s : State) : Host.Outcome State Fault Refusal :=
  act (fun s => s.command h 0xE001 (le 6 sec.toNat ++ le 4 ns.toNat) fun s =>
    match s.life.pages.find? fun p => decide (sec.toNat * nsSecond + ns.toNat ≤ p.at_) with
    | some p => s.reply Res.ok (le 8 p.seq)
    | none => s.reply Res.notFound) s

/-- CMD_LIFE_JOURNAL_READ (R481, R486): part of a page. -/
def execCmdLifeJournalRead (h : Hdr) (page : W64) (off : W16) (len : W32) (s : State) : Host.Outcome State Fault Refusal :=
  act (fun s => s.command h 0xE002 (le 8 page.toNat ++ le 2 off.toNat ++ le 4 len.toNat) fun s =>
    if len = 0 ∨ 3968 < len.toNat ∨ 4096 < off.toNat + len.toNat then s.reply Res.outOfRange
    else match s.life.pages.find? fun p => p.seq == page.toNat with
      | some p => s.reply Res.ok ((p.bytes.drop off.toNat).take len.toNat)
      | none => s.reply Res.notFound) s

/-- The lifetime counters, the calendar and the recorder at a frame instant. -/
def State.lifeFrame (s : State) (u : Option (Int × Option (Nat × Int))) : State :=
  let s : State := { s with life := { s.life with pagesThisFrame := 0 } }
  let s := if s.rd F.timeFrameIndex = 0 then s.lifeSecond else s
  ((s.lifeActuators.gnssLeap u).calendar).reportRecLost

end Sys2Proof.Machine
end

