-- ==== Sys2Proof/Machine/Boot.lean ====
section
/-! DEFINITION. Boot, restore and the entry into NORMAL (R347, R465 to R468, R487, R493 to R501). -/

namespace Sys2Proof.Machine

/-- DEVICE_RESET: the reset that a command requested, at the next frame instant after it (R411, R453, R487). The other causes of a
device reset bring it about themselves. -/
def execDeviceReset (s : State) : Host.Outcome State Fault Refusal :=
  act (fun s =>
    match s.boot.resetAt with
    | some t => if s.ready ∧ s.time.tickDue = 0 ∧ t < s.clock then s.deviceReset 2 else s
    | none => s) s

/-! ### Firmware and Folio -/

/-- The slot that boot starts (R466): the trial slot while its attempt count is 0, else the good slot, else the other; none when no
image passes its check. -/
def State.bootSlot (s : State) (b : BootIn) : Option Nat :=
  let ok (n : Nat) : Bool := if n = 0 then b.imageOk0 else b.imageOk1
  let good := s.rd F.devFwSlotGood
  let trial := match s.fw.trialSlot with
    | some t => if s.fw.attempts = 0 then [t] else []
    | none => []
  (trial ++ [good, 1 - good]).find? ok

/-- The start is a trial (R466, R467). -/
def State.bootTrial (s : State) (slot : Nat) : Bool := s.fw.trialSlot == some slot && s.fw.attempts == 0

/-- dev.fw_slot, and the versions, after an image has started; a trial image counts its attempt (R466, R469). -/
def State.startImage (s : State) (slot : Nat) : State :=
  let trial := s.bootTrial slot
  let tried := s.fw.trialSlot.isSome
  let s : State := { s with fw := { s.fw with
    attempts := if tried then 1 else 0, trialSlot := if trial then s.fw.trialSlot else none } }
  let s := (s.wr F.devFwSlotRunning slot).wrFlag F.devFwSlotTrial trial
  let img := s.fw.slots.get slot
  let other := s.fw.slots.get (1 - slot)
  let s := if img.present then s.wr F.devFwVersion img.version else s
  s.wr F.devFwVersionOther (if other.present then other.version else 0)

/-- What boot reports of the trial (R467, R468): its start, or that it failed, with reason FOLIO 0 where the image found the Folio
invalid. -/
def State.reportTrial (s : State) (failed : Option Nat) : State :=
  match failed with
  | some t => s.fwEvent 4 t (s.fw.slots.get t).version (if s.rd F.devResetCause = 4 then le 1 0 else s.noValue 3)
  | none =>
    if s.flag F.devFwSlotTrial then s.fwEvent 3 (s.rd F.devFwSlotRunning) (s.rd F.devFwVersion) (le 2 Res.ok) else s

/-- The commit record whose Folio boot makes active (R465), and whether it is not the newest. -/
def State.bootCommit (s : State) (b : BootIn) : Option (CommitRec × Bool) :=
  let ok (c : CommitRec) : Bool := (if c.folio = 0 then b.folioOkA else b.folioOkB) && s.commitHolds c
  match s.turn.commits.reverse with
  | [] => none
  | c :: rest => if ok c then some (c, false) else (rest.find? ok).map fun c => (c, true)

/-- The Folio loaded (R464, R465): a committed turn takes effect here, and its shadow starts syncing. -/
def State.loadFolio (s : State) (b : BootIn) : State :=
  match s.bootCommit b with
  | some (c, _) =>
    let s := if s.rd F.devFolioActive = c.folio then s else s.wr F.devFolioShadow 2
    ((s.wr F.devFolioActive c.folio).wr F.devFolioNone 0).wr F.devFolioCrc c.crc.toNat
  | none => s.wr F.devFolioNone 1

/-! ### Lanes -/

/-- The roles after a reset (R347): those of the last rotation where both lanes pass, else the passing lanes in order. -/
def State.bootRoles (s : State) (b : BootIn) : List Nat :=
  let ok (n : Nat) : Bool := b.laneOk.getD n false
  if ok s.lane.lastDuty && ok s.lane.lastPartner && s.lane.lastDuty != s.lane.lastPartner then
    [s.lane.lastDuty, s.lane.lastPartner] ++
      (List.range 3).filter fun n => ok n && n != s.lane.lastDuty && n != s.lane.lastPartner
  else (List.range 3).filter ok

/-- The lanes released in their roles; one that fails its self-test is FAILED (R346, R347). The third lane's is a full self-test (R347, R371). -/
def State.releaseLanes (s : State) (roles : List Nat) : State :=
  (List.range 3).foldl (fun (s : State) n =>
    let s := s.wr (F.faultLaneFatal n) 0
    if roles.getD 0 3 = n then s.setLane n laneDuty
    else if roles.getD 1 3 = n then s.setLane n lanePartner
    else if roles.getD 2 3 = n then (s.setLane n laneStandby).inc (F.laneHealth n 8)
    else if roles.take 2 = [s.lane.lastDuty, s.lane.lastPartner] then (s.setLane n laneFailed).inc (F.laneHealth n 9)
    else s.setLane n laneFailed) s

/-- The domains that a reset leaves on (R441). -/
def State.domainsOn (s : State) : State :=
  [0, 1, 6, 8, 9, 10, 11].foldl (fun (s : State) d => s.wr (F.powerDomainState d) 1) s

/-! ### Restore -/

/-- A source of a restore (R499): the checkpoint, whether it is the Endpaper, and its age in frames where known. -/
structure RestoreSrc where
  image : Checkpoint
  endpaper : Bool
  age : Option Nat
  clock : Nat

/-- The Quire that a restore reads, and whether the other slot had to be taken (R354, R499). -/
def State.bootQuire (s : State) (b : BootIn) : Option (RestoreSrc × Bool) :=
  let get (n : Nat) : Option RestoreSrc :=
    let q := s.lane.quires.get n
    if (if n = 0 then b.quireOk0 else b.quireOk1) then q.image.map fun x => ⟨x, false, some (s.since q.at_ / nsFrame), q.at_⟩
    else none
  match s.lane.latest with
  | some n =>
    match get n, get (1 - n) with
    | some x, _ => some (x, false)
    | none, some x => some (x, true)
    | none, none => none
  | none => none

/-- The newest valid Endpaper (R499). Across a power-off its age runs from the trip to TB3, and is known only with a valid RTC. -/
def State.bootEndpaper (s : State) (b : BootIn) : Option RestoreSrc :=
  let get (n : Nat) : Option RestoreSrc :=
    let e := s.power.slots.get n
    let age := if s.rd F.devResetCause ≠ 0 then some (s.since e.clock / nsFrame)
      else if s.life.rtcValid then some ((((s.now : Int) + s.time.tb3off).toNat - e.at_) / nsFrame) else none
    if e.valid && (if n = 0 then b.endpaperOk0 else b.endpaperOk1) then e.image.map fun x => ⟨x, true, age, e.clock⟩ else none
  match get 0, get 1 with
  | some x, some y => if x.clock < y.clock then some y else some x
  | some x, none => some x
  | none, y => y

/-- The newer of the two (R499). -/
def newerSrc (q e : Option RestoreSrc) : Option RestoreSrc :=
  match q, e with
  | some x, some y => if x.clock < y.clock then some y else some x
  | some x, none => some x
  | none, y => y

/-- An age within a limit; one that is unknown is older than every limit (R499). -/
def ageOk (age : Option Nat) (limit : Nat) : Bool :=
  match age with
  | some a => decide (a ≤ limit)
  | none => false

/-- Registers taken from a checkpoint. -/
def State.takeRegs (s : State) (from_ : Regs) (ids : Nat → Bool) : State :=
  { s with regs := s.regs.setAll (from_.cells.filter fun c => ids (c.1 / 64)) }

/-- The Collator's filter taken from a checkpoint (R164): the Ledger is empty, what its IMU samples then bring carries the filter across the
gap, and the first estimate carries COLLATOR_RESTORED. -/
def State.restoreFilter (s : State) (x : Checkpoint) : State :=
  let old := s.coll
  let s := s.takeRegs x.regs fun id => id == 0x401A || id == 0x401B || (decide (0x4300 ≤ id) && decide (id < 0x4320))
  let s : State := { s with coll := { x.coll with
    ledger := [], freed := Store.empty, seq := old.seq, droppedThisFrame := false, closedUpTo := 0, closed := false, work := none, offload := .none,
    updatesLost := false, discards := [], pos := [], hdg := [], heave := [], dnForce := [], filterFault := false,
    shed := false, tipped := false, held := false, restored := true, estimate := [], estPresent := false, published := false } }
  s.setBarrier .restore s.now

/-- The hidden state of the Drift Network and what belongs to it taken from a checkpoint (R164). -/
def State.restoreHidden (s : State) (x : Checkpoint) : State :=
  let c := x.coll
  let s := s.takeRegs x.regs fun id => id == 0x4017 || id == 0x4018 || id == 0x4019
  { s with coll := { s.coll with
      hidden := c.hidden, dnOut := c.dnOut, dnInputs := c.dnInputs, dnWarm := c.dnWarm, dnFault := c.dnFault, blocked := c.blocked, inside := c.inside, fadeFrom := c.fadeFrom,
      fadeStep := c.fadeStep, suspended := c.suspended, weight := c.weight, target := c.target, filtered := c.filtered,
      axes := c.axes } }

/-- Voting taken from a checkpoint (R181); the Endpaper holds no test windows (R430). -/
def State.restoreVoting (s : State) (x : RestoreSrc) : State :=
  let v := x.image.vote
  let refs := if x.endpaper then
      (List.range 12).foldl (fun (m : Store freshRef) i =>
        m.set i { m.get i with window := [], run0 := 0, run1 := 0, last := none }) v.refs
    else v.refs
  let s := s.takeRegs x.image.regs fun id =>
    (decide (0x4C50 ≤ id) && decide (id ≤ 0x4C72)) && id != 0x4C71
  { s with vote := { v with refs := refs, requests := [], voted := false } }

/-- The Collator and voting at a restart (R164, R181), with EV_COLL_RESTORED: source 0 Quire, 1 Endpaper; the ages in
frames; 0 cold, 1 restored (log entry 78). -/
def State.restoreColl (s : State) (src : Option RestoreSrc) : State :=
  match src with
  | none =>
    let s := s.collCold
    s.emit 0x46 (s.noValues 0x46 9 ++ le 1 0)
  | some x =>
    let filter := ageOk x.age (s.cfg F.collRestoreMaxAge)
    let hidden := ageOk x.age (s.cfg F.collDnResumeLimit)
    let s := if filter then (s.restoreFilter x.image).restoreVoting x else s.collCold
    let s := if hidden then s.restoreHidden x.image else s.dnReset
    let age := match x.age with
      | some a => le 4 (min a 0xFFFFFFFF)
      | none => s.noValues 0x46 4
    s.emit 0x46 (le 1 (bit x.endpaper) ++ age ++ age ++ le 1 (bit filter))

/-- Setpoint, reference trajectory, track and progress, whenever a source exists (R500); the warm plan exactly where the filter is used
(R194), of a Quire alone (R430). The mode that the source holds is kept for R501. -/
def State.restoreControl (s : State) (src : Option RestoreSrc) : State :=
  match src with
  | none => s
  | some x =>
    let warm := !x.endpaper && ageOk x.age (s.cfg F.collRestoreMaxAge)
    let s := s.takeRegs x.image.ctlRegs fun id => decide (0x5090 ≤ id) && decide (id ≤ 0x5092)
    let mode := (x.image.ctlRegs.get F.ctlMode.key).toNat
    { s with ctl := { s.ctl with heading := x.image.ctl.heading, track := x.image.ctl.track, legs := x.image.ctl.legs,
                                 moved := x.image.ctl.moved, plan := if warm then x.image.ctl.plan else none },
             boot := { s.boot with resume := if s.rd F.devResetCause = 3 then some mode else none } }

/-- The retained data for a warm restart (R297): of the latest Quire while the module stayed powered, else of the retain mirror. -/
def State.bootRetain (s : State) (q : Option RestoreSrc) (ok : Bool) : Option RetainCopy :=
  match q with
  | some x => if x.image.retain.valid then some x.image.retain else none
  | none =>
    let newest := s.logic.mirror.get s.logic.newest
    let other := s.logic.mirror.get (1 - s.logic.newest)
    if newest.valid && ok then some newest else if other.valid then some other else none

/-- The logic at a restart (R296, R297, R500): EMPTY without a program, else it starts as logic.start_mode says. -/
def State.bootLogic (s : State) (q : Option RestoreSrc) (retainOk : Bool) : State :=
  let mode := s.cfg F.logicStartMode
  let kept := s.bootRetain q retainOk
  let s : State := { s with logic := { s.logic with
    period := s.cfg F.logicCyclePeriod,
    retain := match kept with
      | some r => r.bytes
      | none => ⟨[]⟩,
    retainProg := kept.map (·.progId),
    atBoot := true, restart := if s.program.isNone ∨ mode = 2 ∨ s.devState = 4 then none else some (mode == 1) } }
  (s.setLogicState (if s.program.isNone then 0 else 1) 0 none).showProgram

/-- The logic restarts warm: its retained data belongs to a program that a slot holds (R296, R297). -/
def State.logicWarm (s : State) : Bool :=
  s.logic.restart == some false &&
  match s.logic.retainProg with
  | some id => (List.range 2).any fun n => match (s.logic.slots.get n).info with
    | some p => p.progId.toNat == id
    | none => false
  | none => false

/-- The newest valid copy of the lifetime counters (R471): the older one where the newest fails its check code. -/
def State.takeCopy (s : State) (ok : Bool) : State :=
  if ok then s
  else { s with life := { s.life with committed := s.life.older, copySeq := s.life.olderSeq } }

/-- The lifetime increments of the newest set, where they add to the copy in MRAM (R471). -/
def State.restoreLife (s : State) (ok : Bool) (src : Option RestoreSrc) : State :=
  let s := s.takeCopy ok
  match src with
  | some x =>
    if x.image.lifeBase = s.life.copySeq then
      x.image.life.cells.foldl (fun (s : State) c => s.accrue c.1 c.2) s
    else s
  | none => s

/-! ### BOOT_COMPLETE -/

/-- The state that boot ends in (R498). -/
def State.bootState (s : State) : Nat := if s.rd F.devResetCause = 3 ∧ 3 ≤ s.boot.fatalTimes.length then 4 else 1

/-- READY, and the first events (R460, R493, R506); the internal port of the switch is up at 1 Gbit/s from here on (R328, R343). -/
def State.openBoot (s : State) (fallback : Bool) (unacked : Nat) (failed : Option Nat) : State :=
  let st := s.bootState
  let s : State := { s with host := { s.host with nextResend := s.clock + s.cfg F.devEventResend * nsMs } }
  let s := s.wr F.devState st
  let s := s.emit 0 (le 1 (s.rd F.devResetCause) ++ le 1 (s.rd F.devFwSlotRunning) ++ le 4 unacked ++ le 1 (bit fallback))
  let s := s.emit 4 (le 1 0 ++ le 1 st ++ le 1 (if st = 4 then 2 else 0))
  let s := (s.wr (F.spinePortStatus 8) 2).emit 0x90 (le 1 8 ++ le 1 0 ++ le 1 2)
  s.reportTrial failed

/-- The units that a reset has brought from FAULTED to OFF reported (R209, R222). -/
def State.reportUnits (s : State) : State :=
  let us := s.boot.unitsFaulted
  us.foldl (fun (s : State) u => s.emit 0x54 (le 1 u ++ le 1 3 ++ le 1 0 ++ s.noValue 0x54))
    { s with boot := { s.boot with unitsFaulted := [] } }

/-- The roles shown, and the lanes that failed reported (R374). -/
def State.reportLanes (s : State) : State :=
  let s := s.showRoles 3
  ((List.range 3).filter fun n => s.laneSt n == laneFailed).foldl (fun (s : State) n =>
    s.emit 0xA1 (le 1 n ++ le 1 4 ++ s.noValue 0xA1 ++ usF32 0)) s

/-- The blocks restored from the newer of Quire and Endpaper (R499, R500). The restart is warm where anything was. -/
def State.restoreAll (s : State) (b : BootIn) : State :=
  let quire := s.bootQuire b
  let q := quire.map (·.1)
  let src := newerSrc q (s.bootEndpaper b)
  let s := match quire with
    | some (x, true) => s.emit 0xA4 (le 4 (x.image.frame % 2 ^ 32) ++ le 1 1)
    | _ => s
  let s := ((s.restoreColl src).restoreControl src).bootLogic q b.retainOk
  let s := s.wr F.laneCatchword (match q with
    | some x => x.image.catchword.toNat
    | none => 0)
  (s.restoreLife b.lifeOk src).wrFlag F.devResetCauseWarm (src.isSome || s.logicWarm)

/-- The hold-off registers are loaded with the Folio after power-on and external reset (R490, R491). -/
def State.loadHoldOff (s : State) : State :=
  if s.rd F.devResetCause ≤ 1 then
    (List.range 16).foldl (fun (s : State) n => s.put (.holdOff n (s.cfgInt (F.loopAoutHoldoff n)))) s
  else s

/-- What the Folio starts: the analog channels, the field channels and the loops, cold (R115, R281, R310). -/
def State.startBlocks (s : State) : State :=
  let s := (s.inputTurn resetFolio s.now).canTurn resetFolio
  ((List.range 128).filter s.loopOn).foldl (fun (s : State) l => s.wr (F.loopStatusState l) 1) s

/-- How many entries a Quire or Endpaper gives as not acknowledged; 0xFFFF where there is none (R460). -/
def unackedOf (src : Option RestoreSrc) : Nat :=
  match src with
  | some x => x.image.unacked
  | none => 0xFFFF

/-- The Folio that boot loads is not the newest committed (R465). -/
def State.bootFallback (s : State) (b : BootIn) : Bool :=
  match s.bootCommit b with
  | some (_, f) => f
  | none => false

/-- The trial image that did not come up before this start, if any (R467). -/
def State.failedTrial (s : State) : Option Nat := if s.fw.attempts = 0 then none else s.fw.trialSlot

/-- The operating time of the seconds that BOOT took: AO is powered in it (R470). -/
def State.bootTime (s : State) : State := s.accrue 0xE003 ((s.clock - s.time.resetAt) / nsSecond)

/-- The start with an image and lanes (R493): the image, the Folio, the lanes, the domains and the safety section, then READY with the
first events, the blocks, and what is restored. -/
def State.start (s : State) (slot : Nat) (roles : List Nat) (b : BootIn) : State :=
  let src := newerSrc ((s.bootQuire b).map (·.1)) (s.bootEndpaper b)
  let u := (((s.startImage slot).loadFolio b).releaseLanes roles).domainsOn
  let u := (((u.readSection u.active).openBoot (s.bootFallback b) (unackedOf src) s.failedTrial).reportUnits.reportLanes).startBlocks
  (((u.wrInt F.lifeTaiUtc u.taiUtc).restoreAll b).loadHoldOff).bootTime

/-- BOOT_COMPLETE (R493): without an image that passes, or a lane that passes, the module stays in BOOT. A trial image that finds the
Folio invalid resets at once (R467). -/
def execBootComplete (b : BootIn) (s : State) : Host.Outcome State Fault Refusal :=
  act (fun s =>
    match s.bootSlot b, s.bootRoles b with
    | some slot, duty :: rest =>
      if s.devState ≠ 0 then s
      else if s.bootTrial slot ∧ b.trialFolioOk = false ∧ (s.bootCommit b).isSome then
        ({ s with fw := { s.fw with attempts := 1 } } : State).deviceReset 4
      else s.start slot (duty :: rest) b
    | _, _ => s) s

/-! ### NORMAL -/

/-- NORMAL_ENTRY: at a frame instant in START with the conditions of R495. -/
def execNormalEntry (s : State) : Host.Outcome State Fault Refusal :=
  act (fun s =>
    if s.devState = 1 ∧ s.time.tickDue = 0 ∧ s.normalReady then s.enterState 2 0 else s) s

end Sys2Proof.Machine
end

