-- ==== Sys2Proof/Machine/Frame.lean ====
section
/-! DEFINITION. The servo tick, the frame instant and the step of the grid (R26, R27, R37, R38, R46, R47, R50, R54, R271). -/

namespace Sys2Proof.Machine

/-! ### The servo tick -/

/-- Time moved to the end of the tick. -/
def State.endTick (s : State) : State :=
  let stop := s.tickStop
  let s := s.moveTo stop
  { s with time := { s.time with tickDue := s.time.tickDue + 1 } }

/-- The promotion of the partner while the selector holds (R354, R360). -/
def State.tryPromote (s : State) : State := if s.lane.promote ∧ s.flag F.laneStatusHolding then s.promote else s

/-- A fault-driven change of owner fell in the tick of this frame boundary (R27). -/
def State.ownerJust (s : State) : Bool :=
  match s.lane.ownerAt with
  | some t => decide (s.since t ≤ nsTick)
  | none => false

/-- A fault-driven change of owner that falls in the tick of a frame boundary completes before the changes of that boundary (R27,
R50). Whether the commit record of the budget latch is complete by then no rule decides: it is free (R27, log entry 110). -/
def State.ownerFirst (s : State) : State :=
  let s := if s.lane.promote then s.promote else s
  if s.ownerJust then
    let x := s.freeNat
    { x.2 with power := { x.2.power with latch := x.2.power.latch.map fun l => { l with recorded := x.1 % 2 == 1 } } }
  else s

/-- The Quire of the frame falls due at tick D + 16 (R42, R361). -/
def State.dueQuire (s : State) : State :=
  if s.time.tickDue = s.deadline + 16 ∧ (s.laneIn laneDuty).isSome then { s with lane := { s.lane with quireDue := true } } else s

/-- The start of a tick: a Rapid Check that is over is closed, the waiting mailboxes and the transfers withheld from the lanes are taken, the
solver units that are up are ready, an offload ends with tick 47, and what a hold kept back is released (R15, R207, R215, R358, R446). -/
def State.tickBoundary (s : State) : State :=
  let s := (s.lateVerdict).takeMailboxes
  let s := if s.time.tickDue = 48 then s.abortOffload else s
  ((s.releaseHeld).busBoundary).readyUnits

/-- The vessel controller as at tick D + 4, for the Quire (R351). -/
def State.keepControl (s : State) : State :=
  if s.time.tickDue = s.deadline + 4 then { s with lane := { s.lane with ctlMark := some (s.ctl, s.regs) } } else s

/-- What runs in a tick (R15, R271, R348): mailboxes are taken, loops and selectors run, the Referee compares, and the outputs are driven
at T+40. A cut tick that does not reach T+40 commits no loop state and drives nothing (R47). -/
def State.runTick (s : State) (d : Differs) : State :=
  let s := s.tickBoundary
  if s.tickStop ≤ s.now + 40000 then s
  else (((s.tickLoops.selector d).driveOutputs s.time.tickDue).tryPromote.dueQuire).keepControl

/-- SERVO_TICK: the tick that is due runs, and the next falls due at its end. In BOOT only time passes. -/
def execServoTick (d : Differs) (s : State) : Host.Outcome State Fault Refusal :=
  act (fun s =>
    if s.time.tickEnd ≤ s.time.tickDue then s
    else if s.ready then (s.runTick d).endTick
    else s.endTick) s

/-! ### The step of the grid -/

/-- In START, a step falls due at the end of the frame; after the message of a pulse it waits for the edge (R46, R47, R54). -/
def State.stepDue (s : State) : Bool :=
  s.devState == 1 && s.time.step.isSome && s.time.tickDue == 160 && s.time.tickOrigin == 0 && s.time.ppsEdge.isNone

/-- The source that the step is made to, read at this instant (R47, R59, R61). -/
def State.stepSource (s : State) : Option TimeSrc :=
  if s.flag F.timeStatusAcquired then
    match srcOfCode (s.rd F.timeStatusSource) with
    | some x => if (s.source x).qualified then some x else none
    | none => none
  else s.acquireSource

/-- A source seen from TB0 after TB0 has moved by `d`. -/
def Source.moved (o : Source) (d : Int) : Source :=
  { o with offset := o.offset - d, offsets := o.offsets.map (· - d), steadyRef := o.steadyRef - d }

/-- An instant moved with Station Time. -/
def movedBy (d : Int) (t : Nat) : Nat := ((t : Int) + d).toNat

/-- What counts in frames or stamps beyond the step moves with it: rejections of units, partners, references, the filter, the cycle in
progress and a sealed turn (log entry 71). -/
def State.moveStamps (s : State) (d : Int) (frames : Int) : State :=
  let units := (List.range 4).foldl (fun (m : NatLists) u => m.set u ((m.get u).map (movedBy frames))) s.solv.rejects
  let partners := (List.range 3).foldl (fun (m : Store newPartner) p =>
    let x := m.get p
    m.set p { x with path0 := x.path0.map (movedBy frames), path1 := x.path1.map (movedBy frames),
                     since := movedBy frames x.since }) s.spine.partners
  let refs := (List.range 12).foldl (fun (m : Store freshRef) i =>
    let r := m.get i
    m.set i { r with last := r.last.map (movedBy d), window := r.window.map fun w => (movedBy d w.1, w.2) }) s.vote.refs
  { s with solv := { s.solv with rejects := units }, spine := { s.spine with partners := partners },
           vote := { s.vote with refs := refs }, logic := { s.logic with cycleAt := movedBy d s.logic.cycleAt },
           turn := { s.turn with sealFrame := s.turn.sealFrame.map (movedBy frames) },
           coll := { s.coll with filter := { s.coll.filter with at_ := movedBy d s.coll.filter.at_ },
                                 heave := s.coll.heave.map fun x => (movedBy d x.1, x.2) },
           can := { s.can with turned := s.can.turned.map fun u => { u with at_ := movedBy d u.at_ },
                               rx := s.can.rx.map fun x => { x with eof := movedBy d x.eof } },
           gnss := { s.gnss with ephs := s.gnss.ephs.map fun e => { e with at_ := movedBy d e.at_ } } }

/-- The Ledger at a step (R150): a barrier, and entries that a step back leaves in the future are discarded with reason STEP. -/
def State.stepLedger (s : State) (t : Nat) : State :=
  let ahead (e : LedgerEntry) : Bool := !e.applied && !e.discarded && decide (t < e.stamp)
  let n := (s.coll.ledger.filter ahead).length
  let ledger := s.coll.ledger.map fun e => { e with wrote := min e.wrote t, discarded := e.discarded || ahead e }
  let freed := (List.range 48).foldl (fun (m : Store noEntry) k =>
    if (m.get k).any (fun e => decide (t < e.stamp)) then m.set k none else m) s.coll.freed
  let s : State := { s with coll := { s.coll with ledger := ledger, freed := freed, closedUpTo := t } }
  (s.noteDiscards 1 n).setBarrier .step t

/-- The first frame instant of the new grid ends a step (R47): EV_FRAME_GRID_STEP, at a first acquisition EV_TIME_ACQUIRED (R59), and
PROVISIONAL and STEP_PENDING are cleared. A resynchronise asked for since stays pending. -/
def State.endStep (s : State) : State :=
  match s.time.stepped with
  | none => s
  | some g =>
    let s := ({ s with time := { s.time with stepped := none } } : State).newGrid
    let s := s.emit 0x16 (le 4 (g.oldFrame % 2 ^ 32) ++ le 4 (s.rd F.timeFrameNumber) ++ le 2 (s.rd F.timeFrameEpoch) ++
      s.nsBytes 0x16 g.size)
    let s := if g.first then s.emit 0x10 (le 1 (srcCode g.src) ++ s.nsBytes 0x10 g.size) else s
    (s.wr F.timeGridStatusProvisional 0).wrFlag F.timeGridStatusStepPending s.time.step.isSome

/-- Station Time and the grid after a step of `d` ns to `t` (R47, R59, R61). -/
def State.stepTime (s : State) (x : TimeSrc) (d : Int) (t : Nat) : State :=
  let ticks := (toMultiple nsFrame t + nsTick - 1) / nsTick
  let s : State := { s with
    time := { s.time with tb0 := t, tb3off := s.time.tb3off - d, frameAt := t, tickDue := 160, tickOrigin := 160,
                          tickEnd := 160 + ticks, ptp := s.time.ptp.moved d, tb1 := s.time.tb1.moved d,
                          tb2 := s.time.tb2.moved d, step := none,
                          stepped := some ⟨s.totalFrames, d, x, !s.flag F.timeStatusAcquired⟩ },
    boot := { s.boot with settle := 0 } }
  let s := ((s.wr F.timeStatusSource (srcCode x)).wrFlag F.timeStatusAcquired true).wrFlag F.timeStatusHoldover false
  ((s.clearConverging).setRemaining 0).wr F.timeErrorBound (min (s.source x).bound 0xFFFFFFFF)

/-- A step made to a source (R47, R109, R115, R150, R364). -/
def State.gridStep (s : State) (x : TimeSrc) : State :=
  let d := (s.source x).offset
  let first := !s.flag F.timeStatusAcquired
  let oldNow := s.now
  let oldFrame := s.totalFrames
  let t := movedBy d oldNow
  let start := nextMultiple nsFrame t
  let frames := ((start / nsFrame : Nat) : Int) - 1 - oldFrame
  let s := ((s.stepTime x d t).moveStamps d frames).stepLedger t
  let s : State := { s with
    inp := s.inp.stepEdges d
    life := { s.life with rtcDue := s.life.rtcDue || first } }
  ((s.restartChains (oldNow + (start - t)) start d).restartJoin).wrInt F.lifeTaiUtc s.taiUtc

/-- GRID_STEP: with no qualified source to step to, the step is cancelled (R47). -/
def execGridStep (s : State) : Host.Outcome State Fault Refusal :=
  act (fun s =>
    if s.stepDue = false then s else
    match s.stepSource with
    | some x => s.gridStep x
    | none => s.cancelStep) s

/-! ### The Folio turn at its frame instant -/

/-- A committed turn takes effect (R9, R26, R28, R462) in every block that keeps something of the old Folio. -/
def State.turnEffect (s : State) : State :=
  match s.turn.commits.getLast? with
  | none => s
  | some c =>
    let old := s.active
    let s := s.swapFolios c.folio c.crc
    let changed (b : Nat) : Bool := old.blockCells b != s.active.blockCells b
    let s := ((((s.voteTurn old).canTurn old).loopTurn old).logicTurn).inputTurn old s.now
    let s := if changed 3 || changed 4 then s.setBarrier .folio s.now else s
    let s := if old.sec1 = s.active.sec1 then s else s.dnReset
    let s := (s.ptpTurn old).spineTurn old
    (s.severityTurn old).safetyTurn

/-- The frame-boundary changes of R26: the Folio turn, the budget state, the join of a waking lane. A turn that is pending starts
its validation (R462). -/
def State.boundaryChanges (s : State) : State :=
  let old := s.active
  let budget := s.budget
  let s := if s.rd F.devFolioTurn = 3 then s.turnEffect else s
  let s := if s.turn.pending then
      ({ s with turn := { s.turn with pending := false } } : State).wr F.devFolioTurn 1
    else s
  let s := s.applyBudget (old.blockCells 0xD != s.active.blockCells 0xD)
  let s := if s.budget = budget ∨ s.budget = 0 then s else s.budgetRotation
  s.joinLane

/-! ### The frame instant -/

/-- The settled frames of R495: the estimate of the frame carried FUSED and not INITIALISING. -/
def State.countSettled (s : State) : State :=
  let st := s.rd F.collStatus
  let good := s.coll.published && testBit st 0 && !testBit st 12
  { s with boot := { s.boot with settle := if good then s.boot.settle + 1 else 0 } }

/-- The blocks of a firmware transfer and the frames of a trial in NORMAL (R467). -/
def State.fwFrame (s : State) : State :=
  { s with fw := { s.fw with
      blocksThisFrame := 0,
      trialFrames := if s.flag F.devFwSlotTrial && s.devState == 2 then s.fw.trialFrames + 1 else 0 } }

/-- Station Time at a frame instant (R60 to R72, R79). -/
def State.timeFrame (s : State) (i : FrameIn) : State :=
  let s : State := { s with time := { s.time with ocxo := i.ocxo } }
  let s := ((s.slew.gnssFrame i).chooseSource).trackRemaining
  (((s.judgeConverging).reportTime).crossCheck).tryAcquire

/-- What every block does once a frame, after the boundary changes (R50, R51). -/
def State.runFrame (s : State) (i : FrameIn) : State :=
  let s := ((s.endStep).frameRecord).countSettled
  let s : State := { s with power := { s.power with load := loadOf i.shares } }
  let s := (((s.ownerFirst).dnCount).boundaryChanges).logicSnapshot
  let s := (((s.ledgerFree s.time.frameAt).timeFrame i).collFrame).voteFrame
  let s := ((s.solverFrame).loopFrame).controlFrame
  let s := ((s.spineFrame).canFrame).powerFrame i
  let s := (((s.abandonQuire).laneFrame i.laneTemp).fwFrame).lifeFrame i.gnssUtc
  s.keepFrameValues.latchMirrors

/-- A frame opened: Station Time at its instant, the frame counts (R32) and 160 ticks. -/
def State.openFrame (s : State) : State :=
  let t := nextMultiple nsFrame s.now
  let s := s.moveTo t
  let s : State := { s with
    time := { s.time with frameAt := t, tickDue := 0, tickOrigin := 0, tickEnd := 160 },
    lane := { s.lane with rapidFrom := 0, rapidTo := 0 }
    fault := { s.fault with absent := [] } }
  s.setFrame t

/-- FRAME_INSTANT: the frame number follows Station Time (R32), and while the lanes run the frame begins. In BOOT only time
passes. -/
def execFrameInstant (i : FrameIn) (s : State) : Host.Outcome State Fault Refusal :=
  act (fun s =>
    if s.time.tickDue < s.time.tickEnd ∨ s.stepDue then s
    else if s.ready then s.openFrame.runFrame i else (s.openFrame).keepFrameValues) s

end Sys2Proof.Machine
end

