-- ==== Sys2Proof/Machine/Dispatch.lean ====
section
/-! DEFINITION. The meaning of each command: one arm per constructor of Instr, each a direct call. -/

namespace Sys2Proof.Machine

/-- The effect of a command on everything but the queue. -/
def exec (i : Instr) (s : State) : Host.Outcome State Fault Refusal :=
  match i with
  | .powerOn offNs => Sys2Proof.Machine.execPowerOn offNs s
  | .rstN lowNs => Sys2Proof.Machine.execRstN lowNs s
  | .deviceReset => Sys2Proof.Machine.execDeviceReset s
  | .bootComplete b => Sys2Proof.Machine.execBootComplete b s
  | .normalEntry => Sys2Proof.Machine.execNormalEntry s
  | .feedChange f cls => Sys2Proof.Machine.execFeedChange f cls s
  | .writeGuardTrip c => Sys2Proof.Machine.execWriteGuardTrip c s
  | .endpaperComplete => Sys2Proof.Machine.execEndpaperComplete s
  | .writeGuardRelease => Sys2Proof.Machine.execWriteGuardRelease s
  | .convertersStop => Sys2Proof.Machine.execConvertersStop s
  | .frameInstant inputs => Sys2Proof.Machine.execFrameInstant inputs s
  | .servoTick d => Sys2Proof.Machine.execServoTick d s
  | .loopFaultCount l => Sys2Proof.Machine.execLoopFaultCount l s
  | .loopRecovery l => Sys2Proof.Machine.execLoopRecovery l s
  | .applyTick intact => Sys2Proof.Machine.execApplyTick intact s
  | .spHoldExpiry => Sys2Proof.Machine.execSpHoldExpiry s
  | .gatheringClose => Sys2Proof.Machine.execGatheringClose s
  | .rxConsistencyCount rx => Sys2Proof.Machine.execRxConsistencyCount rx s
  | .dnWarmupEnd => Sys2Proof.Machine.execDnWarmupEnd s
  | .envReentry => Sys2Proof.Machine.execEnvReentry s
  | .referenceVote => Sys2Proof.Machine.execReferenceVote s
  | .weightsDeadline => Sys2Proof.Machine.execWeightsDeadline s
  | .splitConfirm g => Sys2Proof.Machine.execSplitConfirm g s
  | .splitTimeout g => Sys2Proof.Machine.execSplitTimeout g s
  | .probationEnd r => Sys2Proof.Machine.execProbationEnd r s
  | .estimatePublish corruptDuty corruptPartner => Sys2Proof.Machine.execEstimatePublish corruptDuty corruptPartner s
  | .solverJobComplete r => Sys2Proof.Machine.execSolverJobComplete r s
  | .solverJobTimeout u => Sys2Proof.Machine.execSolverJobTimeout u s
  | .solveDeadline inJob => Sys2Proof.Machine.execSolveDeadline inJob s
  | .controlDegradedCount => Sys2Proof.Machine.execControlDegradedCount s
  | .unitTestJob u sigOk => Sys2Proof.Machine.execUnitTestJob u sigOk s
  | .unitReady u => Sys2Proof.Machine.execUnitReady u s
  | .setpointPublish badDuty badPartner => Sys2Proof.Machine.execSetpointPublish badDuty badPartner s
  | .quireWrite => Sys2Proof.Machine.execQuireWrite s
  | .quireCommit d => Sys2Proof.Machine.execQuireCommit d s
  | .selfTestSlice l ok eccCorrected => Sys2Proof.Machine.execSelfTestSlice l ok eccCorrected s
  | .drainPage programOk => Sys2Proof.Machine.execDrainPage programOk s
  | .folioValidated => Sys2Proof.Machine.execFolioValidated s
  | .folioCommit => Sys2Proof.Machine.execFolioCommit s
  | .shadowSyncComplete => Sys2Proof.Machine.execShadowSyncComplete s
  | .governorLatch base dies power => Sys2Proof.Machine.execGovernorLatch base dies power s
  | .upstepHoldExpiry => Sys2Proof.Machine.execUpstepHoldExpiry s
  | .gridStep => Sys2Proof.Machine.execGridStep s
  | .acquireTimeout => Sys2Proof.Machine.execAcquireTimeout s
  | .revertHoldExpiry => Sys2Proof.Machine.execRevertHoldExpiry s
  | .jumpRequalify t => Sys2Proof.Machine.execJumpRequalify t s
  | .tb2Qualify => Sys2Proof.Machine.execTb2Qualify s
  | .crosscheckTimeout tb2 => Sys2Proof.Machine.execCrosscheckTimeout tb2 s
  | .ptpSyncRx red port domain twoStep offset bound => Sys2Proof.Machine.execPtpSyncRx red port domain twoStep offset bound s
  | .ptpAnnounceRx red port a => Sys2Proof.Machine.execPtpAnnounceRx red port a s
  | .announceTimeout red => Sys2Proof.Machine.execAnnounceTimeout red s
  | .syncLossTimeout red => Sys2Proof.Machine.execSyncLossTimeout red s
  | .ptpSyncTx port atNs => Sys2Proof.Machine.execPtpSyncTx port atNs s
  | .ptpAnnounceTx port => Sys2Proof.Machine.execPtpAnnounceTx port s
  | .ppsMessage => Sys2Proof.Machine.execPpsMessage s
  | .ppsEdge => Sys2Proof.Machine.execPpsEdge s
  | .triggerEdge t => Sys2Proof.Machine.execTriggerEdge t s
  | .imuSyncEdge p => Sys2Proof.Machine.execImuSyncEdge p s
  | .imuFrameRx p bytes delayNs => Sys2Proof.Machine.execImuFrameRx p bytes delayNs s
  | .serialSentenceRx k chars startNs => Sys2Proof.Machine.execSerialSentenceRx k chars startNs s
  | .l450DatagramRx d startNs => Sys2Proof.Machine.execL450DatagramRx d startNs s
  | .sensorDatagramRx d startNs => Sys2Proof.Machine.execSensorDatagramRx d startNs s
  | .analogSampleComplete ch raw => Sys2Proof.Machine.execAnalogSampleComplete ch raw s
  | .wireFaultDetect ch => Sys2Proof.Machine.execWireFaultDetect ch s
  | .streamTimeout st => Sys2Proof.Machine.execStreamTimeout st s
  | .gnssStartComplete rx => Sys2Proof.Machine.execGnssStartComplete rx s
  | .layupEnd => Sys2Proof.Machine.execLayupEnd s
  | .keepaliveWake => Sys2Proof.Machine.execKeepaliveWake s
  | .keepaliveEnd => Sys2Proof.Machine.execKeepaliveEnd s
  | .logicCycleStart => Sys2Proof.Machine.execLogicCycleStart s
  | .replyWindowEnd => Sys2Proof.Machine.execReplyWindowEnd s
  | .logicCommit o => Sys2Proof.Machine.execLogicCommit o s
  | .logicOverrun c => Sys2Proof.Machine.execLogicOverrun c s
  | .retainMirrorWrite => Sys2Proof.Machine.execRetainMirrorWrite s
  | .logicValidationDone info => Sys2Proof.Machine.execLogicValidationDone info s
  | .canFrameRx ch f sofNs eofNs => Sys2Proof.Machine.execCanFrameRx ch f sofNs eofNs s
  | .canRxDeliver ch => Sys2Proof.Machine.execCanRxDeliver ch s
  | .canFrameTxComplete ch sofNs eofNs done => Sys2Proof.Machine.execCanFrameTxComplete ch sofNs eofNs done s
  | .canLifetimeEnd ch k => Sys2Proof.Machine.execCanLifetimeEnd ch k s
  | .canBusError ch e busyNs => Sys2Proof.Machine.execCanBusError ch e busyNs s
  | .canBusoffRecovery ch => Sys2Proof.Machine.execCanBusoffRecovery ch s
  | .canTimingResync ch => Sys2Proof.Machine.execCanTimingResync ch s
  | .heartbeatTx => Sys2Proof.Machine.execHeartbeatTx s
  | .heartbeatRx hb => Sys2Proof.Machine.execHeartbeatRx hb s
  | .partnerLost p => Sys2Proof.Machine.execPartnerLost p s
  | .spineLinkChange port speed => Sys2Proof.Machine.execSpineLinkChange port speed s
  | .spineFrameForward port f => Sys2Proof.Machine.execSpineFrameForward port f s
  | .supervisionTx => Sys2Proof.Machine.execSupervisionTx s
  | .supervisionRx src port => Sys2Proof.Machine.execSupervisionRx src port s
  | .macAgeExpiry mac => Sys2Proof.Machine.execMacAgeExpiry mac s
  | .reassemblyTimeout ident => Sys2Proof.Machine.execReassemblyTimeout ident s
  | .selfDetectedFault l k us => Sys2Proof.Machine.execSelfDetectedFault l k us s
  | .rapidCheckVerdict duty partner => Sys2Proof.Machine.execRapidCheckVerdict duty partner s
  | .standbyWakeComplete quickOk fullOk q0 q1 => Sys2Proof.Machine.execStandbyWakeComplete quickOk fullOk q0 q1 s
  | .laneReplayLive chainOk => Sys2Proof.Machine.execLaneReplayLive chainOk s
  | .laneSelfTestComplete l ok => Sys2Proof.Machine.execLaneSelfTestComplete l ok s
  | .rotationWake => Sys2Proof.Machine.execRotationWake s
  | .rotationHandover => Sys2Proof.Machine.execRotationHandover s
  | .safetyCycle x => Sys2Proof.Machine.execSafetyCycle x s
  | .safeInputEdge inp high => Sys2Proof.Machine.execSafeInputEdge inp high s
  | .safePairFilterExpiry p => Sys2Proof.Machine.execSafePairFilterExpiry p s
  | .safePairDiscrepancy p => Sys2Proof.Machine.execSafePairDiscrepancy p s
  | .encoderIndex e => Sys2Proof.Machine.execEncoderIndex e s
  | .encoderRecovery e => Sys2Proof.Machine.execEncoderRecovery e s
  | .outputFaultClear o => Sys2Proof.Machine.execOutputFaultClear o s
  | .offPulse o low high supply => Sys2Proof.Machine.execOffPulse o low high supply s
  | .ackWindowExpiry => Sys2Proof.Machine.execAckWindowExpiry s
  | .safetySelftestEnd => Sys2Proof.Machine.execSafetySelftestEnd s
  | .hwErrorReport e => Sys2Proof.Machine.execHwErrorReport e s
  | .injectExpiry k => Sys2Proof.Machine.execInjectExpiry k s
  | .correctedRateMinute => Sys2Proof.Machine.execCorrectedRateMinute s
  | .escalateWindowEnd src => Sys2Proof.Machine.execEscalateWindowEnd src s
  | .eventResend => Sys2Proof.Machine.execEventResend s
  | .joystickTimeout => Sys2Proof.Machine.execJoystickTimeout s
  | .loopTestStart => Sys2Proof.Machine.execLoopTestStart s
  | .loopTestEnd => Sys2Proof.Machine.execLoopTestEnd s
  | .fwTrialEnd => Sys2Proof.Machine.execFwTrialEnd s
  | .lifetimeCommit => Sys2Proof.Machine.execLifetimeCommit s
  | .leapSecond => Sys2Proof.Machine.execLeapSecond s
  | .rtcWrite => Sys2Proof.Machine.execRtcWrite s
  | .mailboxWrite n off data crc => Sys2Proof.Machine.execMailboxWrite n off data crc s
  | .mailboxRead n off len => Sys2Proof.Machine.execMailboxRead n off len s
  | .eventRead k => Sys2Proof.Machine.execEventRead k s
  | .registerWrite off vals crc => Sys2Proof.Machine.execRegisterWrite off vals crc s
  | .mbxDoorbell bits => Sys2Proof.Machine.execMbxDoorbell bits s
  | .hostIrqStatusClear bits => Sys2Proof.Machine.execHostIrqStatusClear bits s
  | .evqAck seq => Sys2Proof.Machine.execEvqAck seq s
  | .resetRequest v => Sys2Proof.Machine.execResetRequest v s
  | .stSecLoRead off count subNs => Sys2Proof.Machine.execStSecLoRead off count subNs s
  | .cmdParamRead h count items => Sys2Proof.Machine.execCmdParamRead h count items s
  | .cmdParamWrite h count items => Sys2Proof.Machine.execCmdParamWrite h count items s
  | .cmdFolioTurn h => Sys2Proof.Machine.execCmdFolioTurn h s
  | .cmdFolioDiscard h => Sys2Proof.Machine.execCmdFolioDiscard h s
  | .cmdFolioSection h sec off data => Sys2Proof.Machine.execCmdFolioSection h sec off data s
  | .cmdEventAck h seq => Sys2Proof.Machine.execCmdEventAck h seq s
  | .cmdFwBegin h size digest => Sys2Proof.Machine.execCmdFwBegin h size digest s
  | .cmdFwBlock h off data => Sys2Proof.Machine.execCmdFwBlock h off data s
  | .cmdFwCommit h => Sys2Proof.Machine.execCmdFwCommit h s
  | .cmdFwAbort h => Sys2Proof.Machine.execCmdFwAbort h s
  | .cmdDevReset h arg => Sys2Proof.Machine.execCmdDevReset h arg s
  | .cmdDevState h target => Sys2Proof.Machine.execCmdDevState h target s
  | .cmdNop h data => Sys2Proof.Machine.execCmdNop h data s
  | .cmdTimeResync h => Sys2Proof.Machine.execCmdTimeResync h s
  | .cmdGnssLayup h hours => Sys2Proof.Machine.execCmdGnssLayup h hours s
  | .cmdGnssWake h => Sys2Proof.Machine.execCmdGnssWake h s
  | .cmdVoteSelect h group ref => Sys2Proof.Machine.execCmdVoteSelect h group ref s
  | .cmdVoteExclude h ref excl => Sys2Proof.Machine.execCmdVoteExclude h ref excl s
  | .cmdSolverStatsClear h => Sys2Proof.Machine.execCmdSolverStatsClear h s
  | .cmdCtlMode h mode => Sys2Proof.Machine.execCmdCtlMode h mode s
  | .cmdCtlSetpoint h lat lon heading => Sys2Proof.Machine.execCmdCtlSetpoint h lat lon heading s
  | .cmdCtlJoystick h surge sway yaw => Sys2Proof.Machine.execCmdCtlJoystick h surge sway yaw s
  | .cmdCtlManual h act speed pitch angle => Sys2Proof.Machine.execCmdCtlManual h act speed pitch angle s
  | .cmdCtlTrackLoad h count wps => Sys2Proof.Machine.execCmdCtlTrackLoad h count wps s
  | .cmdLoopTest h loop point kind amp hold f0 f1 dur decim => Sys2Proof.Machine.execCmdLoopTest h loop point kind amp hold f0 f1 dur decim s
  | .cmdLoopTestStop h => Sys2Proof.Machine.execCmdLoopTestStop h s
  | .cmdLoopCaptureRead h first count => Sys2Proof.Machine.execCmdLoopCaptureRead h first count s
  | .cmdLogicLoad h off data => Sys2Proof.Machine.execCmdLogicLoad h off data s
  | .cmdLogicChange h replace => Sys2Proof.Machine.execCmdLogicChange h replace s
  | .cmdLogicStart h cold => Sys2Proof.Machine.execCmdLogicStart h cold s
  | .cmdLogicStop h => Sys2Proof.Machine.execCmdLogicStop h s
  | .cmdLogicForce h t typ val => Sys2Proof.Machine.execCmdLogicForce h t typ val s
  | .cmdLogicUnforce h t => Sys2Proof.Machine.execCmdLogicUnforce h t s
  | .cmdLogicReport h first => Sys2Proof.Machine.execCmdLogicReport h first s
  | .cmdLogicVarRead h path => Sys2Proof.Machine.execCmdLogicVarRead h path s
  | .cmdCanBufRead h buf => Sys2Proof.Machine.execCmdCanBufRead h buf s
  | .cmdCanFifoRead h chan count => Sys2Proof.Machine.execCmdCanFifoRead h chan count s
  | .cmdSpineKey h slot key => Sys2Proof.Machine.execCmdSpineKey h slot key s
  | .cmdLaneRotate h => Sys2Proof.Machine.execCmdLaneRotate h s
  | .cmdSafeAck h mask challenge tag => Sys2Proof.Machine.execCmdSafeAck h mask challenge tag s
  | .cmdSafeConfirm h colophon => Sys2Proof.Machine.execCmdSafeConfirm h colophon s
  | .cmdSafeKey h key => Sys2Proof.Machine.execCmdSafeKey h key s
  | .cmdFaultInject h checker place double => Sys2Proof.Machine.execCmdFaultInject h checker place double s
  | .cmdFaultLogRead h first count => Sys2Proof.Machine.execCmdFaultLogRead h first count s
  | .cmdBudgetCap h code => Sys2Proof.Machine.execCmdBudgetCap h code s
  | .cmdLifeJournalFind h sec ns => Sys2Proof.Machine.execCmdLifeJournalFind h sec ns s
  | .cmdLifeJournalRead h page off len => Sys2Proof.Machine.execCmdLifeJournalRead h page off len s
  | .ptpFollowUpRx red port offset bound => Sys2Proof.Machine.execPtpFollowUpRx red port offset bound s
  | .ptpDelayReqTx red => Sys2Proof.Machine.execPtpDelayReqTx red s
  | .ptpDelayRespRx red port delay => Sys2Proof.Machine.execPtpDelayRespRx red port delay s
  | .ptpDelayReqRx port requester peer atNs => Sys2Proof.Machine.execPtpDelayReqRx port requester peer atNs s
  | .triggerPulseEnd t => Sys2Proof.Machine.execTriggerPulseEnd t s
  | .ppsPulseEnd => Sys2Proof.Machine.execPpsPulseEnd s
  | .encoderLatch xs => Sys2Proof.Machine.execEncoderLatch xs s
  | .fwSlotErased => Sys2Proof.Machine.execFwSlotErased s
  | .fwImageVerified => Sys2Proof.Machine.execFwImageVerified s
  | .plezenMessageReject addr bytes => Sys2Proof.Machine.execPlezenMessageReject addr bytes s
  | .prpEntryForget src seq => Sys2Proof.Machine.execPrpEntryForget src seq s
  | .vbatLoss => Sys2Proof.Machine.execVbatLoss s

end Sys2Proof.Machine
end

