-- ==== Sys2Proof/Safety.lean ====
section
/-! DEFINITION. What counts as a sound state of the block, in the terms that claims use: the canonical forms of its stores and the
sizes that the rules fix. The block has no fault and no refusal of its own: a run is safe when every state in it is sound. -/

namespace Sys2Proof.Machine

/-- An event queue as the rules allow it: at most 1,024 entries, at most 768 of them of class Record or Notify (R457), and every
code that of a process source, EV_FAULT_HW or EV_LOGIC_USER (R456). -/
def queueAllowed (q : List Event) : Prop := q.length ≤ 1024 ∧ q.length ≤ alarmCount q + 768 ∧ ∀ e ∈ q, e.code ≤ 0x200

/-- The occurrences of class Alarm that the entries of one code in a queue stand for: the sum of their repeat counts (R457). -/
def alarmReps (q : List Event) (code : Nat) : Nat := ((q.filter fun e => e.cls = .alarm ∧ e.code = code).map (·.rep)).sum

/-- The canonical forms and the sizes that the rules fix: the registers and the mailboxes' memory in canonical form, an event
queue as the rules allow it (R456, R457), 32 kept responses for each Spine host (R447), 64 records of the fault log (R418), 50 frames of input power
(R437) and two copies of the commit record (R461). -/
structure Sound (s : State) : Prop where
  regs : s.regs.wf = true
  mailboxes : s.host.mbx.wf = true ∧ ∀ n, Memory.wf (s.host.mbx.get n).buf = true
  queue : queueAllowed s.host.queue
  responses : ∀ k, (s.host.kept.get k).length ≤ 32
  faultLog : s.fault.ring.length ≤ 64
  inputPower : s.power.history.length ≤ 50
  commits : s.turn.commits.length ≤ 2

/-! ### When a command is carried out -/

/-- A command at the front of the queue of `s` acts while the converters run, and finds the state `x`: the outputs of the command
before it are gone. -/
def Runs (s x : State) : Prop := s.powered = true ∧ x = { s with outputs := [] }

/-- The Plezen command of `h` with this code and payload is accepted in `s` (R337, R443 to R447, R452), and finds the state `x`. In a
mailbox it was taken and stands there; from a Spine host its datagram passes the tests of R337, its check code and its length are right
(R444), it is no repetition, and fewer than eight commands of the host are outstanding. -/
def Accepted (s : State) (h : Hdr) (code : Nat) (payload : List Byte) (x : State) : Prop :=
  s.ready = true ∧
  match h.src with
  | .mailbox n => (s.host.mbx.get n.val).st = .taken ∧ (s.host.mbx.get n.val).holds h code payload = true ∧ x = s
  | .spine k slot c tag ports =>
    s.cfg F.spineIpAddr ≠ 0 ∧ ports.dst.toNat = s.cfg F.spinePlezenPort ∧ s.isWithheld (.spine k) = false ∧
    s.authFault k.val slot c tag (signedBytes (commandBytes h code payload) slot c) = none ∧
    (∃ a, argLength code = some a ∧ argFit a payload.length = .fits) ∧
    commandBytes h code payload = message 0 code h.seq.toNat 0 0 0 0 payload ∧
    ((s.host.kept.get k.val).find? fun r => r.seq = h.seq.toNat) = none ∧ (s.host.outstanding.get k.val).length < 8 ∧
    x = s.acceptFrom k.val c

/-- The Plezen command of `h` is processed when it comes to the front of the queue of `s`, and finds the state `x`. -/
def Processed (s : State) (h : Hdr) (code : Nat) (payload : List Byte) (x : State) : Prop :=
  ∃ u, Runs s u ∧ Accepted u h code payload x

end Sys2Proof.Machine
end

