-- ==== Sys2Proof/Certificates/Slice0/Obligations.lean ====
section
/-! DEFINITION. The statements about the block, for the provers. A command at the front of the queue finds the state `x` of `Runs`
or `Processed` (Sys2Proof/Safety.lean): the effects are said of that state. -/

open Sys2Proof Sys2Proof.Machine

/-- A mailbox write within an IDLE mailbox stores its bytes and nothing else. A mailbox read within a mailbox answers the bytes with
the CRC-32C over the opcode, the address and the data. A mailbox write with a wrong CRC, with no data, past the end of the mailbox
or to a mailbox that is not IDLE, and a mailbox read of no bytes or past the end, or any read cut short, are discarded: LINK_ERROR
is set, LINK_ERRORS counts, the data out is undefined, and nothing else changes. An event read answers the entry padded to 128
bytes, or 128 zero bytes where the queue holds no entry k. Each form of a register write that R450 discards is discarded in the
same way. -/
def Obligations.MailboxTransactionsCarryBytes : Prop :=
  (∀ (s x : State) (n : Fin 8) (off : Nat) (data : List Byte), Runs s x → (s.host.mbx.get n.val).st = .idle → data ≠ [] →
    off + data.length ≤ 4096 →
    exec (.mailboxWrite n off data (some (spiCrc 3 (4096 * n.val + off) data))) s = .next (x.setMailbox n.val ⟨.idle, (s.host.mbx.get n.val).buf.writeBytes off data⟩)) ∧
  (∀ (s x : State) (n : Fin 8) (off len : Nat), Runs s x → 0 < len → off + len ≤ 4096 →
    exec (.mailboxRead n off len) s = .next { x with outputs := [.spiData ((s.host.mbx.get n.val).buf.readBytes off len ++
      le 4 (Crypto.crc32c (le 1 4 ++ le 2 (4096 * n.val + off) ++ (s.host.mbx.get n.val).buf.readBytes off len)).toNat)] }) ∧
  (∀ (s x : State) (n : Fin 8) (off : Nat) (data : List Byte) (crc : Option W32), Runs s x →
    crc ≠ some (spiCrc 3 (4096 * n.val + off) data) ∨ data = [] ∨ 4096 < off + data.length ∨ (s.host.mbx.get n.val).st ≠ .idle →
    exec (.mailboxWrite n off data crc) s = .next { x with outputs := [.spiUndefined], host := { x.host with
      irq := putBit x.host.irq 13 true, linkErrors := min (x.host.linkErrors + 1) (2 ^ 32 - 1) } }) ∧
  (∀ (s x : State) (n : Fin 8) (off len : Nat), Runs s x → len = 0 ∨ 4096 < off + len →
    exec (.mailboxRead n off len) s = .next { x with outputs := [.spiUndefined], host := { x.host with
      irq := putBit x.host.irq 13 true, linkErrors := min (x.host.linkErrors + 1) (2 ^ 32 - 1) } }) ∧
  (∀ (s x : State) (off : Nat) (vals : List W32) (crc : Option W32), Runs s x →
    crc ≠ some (registerCrc off vals) ∨ off % 4 ≠ 0 ∨ vals = [] ∨ 0x100 < off + 4 * vals.length →
    exec (.registerWrite off vals crc) s = .next { x with outputs := [.spiUndefined], host := { x.host with
      irq := putBit x.host.irq 13 true, linkErrors := min (x.host.linkErrors + 1) (2 ^ 32 - 1) } }) ∧
  (∀ (s x : State) (k : Nat), Runs s x →
    exec (.eventRead k) s = .next { x with outputs := [.spiData (padTo 128 (((s.host.queue[k]?).map fun e => e.message false).getD []) ++
      le 4 (Crypto.crc32c (le 1 5 ++ le 2 k ++ padTo 128 (((s.host.queue[k]?).map fun e => e.message false).getD []))).toNat)] }) ∧
  (∀ (s x : State) (i : Instr), Runs s x → (∃ n off, i = .mailboxRead n off none) ∨ i = .eventRead none →
    exec i s = .next { x with outputs := [.spiUndefined], host := { x.host with
      irq := putBit x.host.irq 13 true, linkErrors := min (x.host.linkErrors + 1) (2 ^ 32 - 1) } })

/-- In a sound state, after a mailbox write to an IDLE mailbox a mailbox read of the same range answers the written bytes and their
CRC, and a read of any range that does not meet the written one, in this or another mailbox, answers the bytes it answered before. -/
def Obligations.MailboxReadReturnsWhatWasWritten : Prop :=
  (∀ (s : State) (n : Fin 8) (off : Nat) (data : List Byte), Sound s → s.powered = true → (s.host.mbx.get n.val).st = .idle →
    data ≠ [] → off + data.length ≤ 4096 →
    ∃ t u, exec (.mailboxWrite n off data (some (spiCrc 3 (4096 * n.val + off) data))) s = .next t ∧ exec (.mailboxRead n off data.length) t = .next u ∧
      u.outputs = [.spiData (data ++ le 4 (Crypto.crc32c (le 1 4 ++ le 2 (4096 * n.val + off) ++ data)).toNat)]) ∧
  (∀ (s : State) (n m : Fin 8) (off off' len : Nat) (data : List Byte), Sound s → s.powered = true →
    (s.host.mbx.get n.val).st = .idle → data ≠ [] → off + data.length ≤ 4096 → 0 < len → off' + len ≤ 4096 →
    m ≠ n ∨ off' + len ≤ off ∨ off + data.length ≤ off' →
    ∃ t u v, exec (.mailboxWrite n off data (some (spiCrc 3 (4096 * n.val + off) data))) s = .next t ∧ exec (.mailboxRead m off' len) t = .next u ∧
      exec (.mailboxRead m off' len) s = .next v ∧ u.outputs = v.outputs)

/-- A register write of one word with a right CRC does at HOST_IRQ_STATUS, MBX_DOORBELL, EVQ_ACK and RESET_REQUEST exactly what the
row of that register does, at HOST_IRQ_ENABLE it writes bits [13:0], at SCRATCH the word, and at any other aligned offset to 0xFC
it changes nothing. A write of more words that stays within the window is a write of the first word followed by a write of the
others at the next offset. -/
def Obligations.DirectRegisterWritesAct : Prop :=
  (∀ (s x : State) (v : W32), Runs s x →
    exec (.registerWrite 0x08 [v] (some (registerCrc 0x08 [v]))) s = exec (.hostIrqStatusClear v) s ∧
    exec (.registerWrite 0x10 [v] (some (registerCrc 0x10 [v]))) s = exec (.mbxDoorbell (BitVec.ofNat 8 v.toNat)) s ∧
    exec (.registerWrite 0x20 [v] (some (registerCrc 0x20 [v]))) s = exec (.evqAck v) s ∧
    exec (.registerWrite 0x6C [v] (some (registerCrc 0x6C [v]))) s = exec (.resetRequest v) s ∧
    exec (.registerWrite 0x0C [v] (some (registerCrc 0x0C [v]))) s = .next { x with host := { x.host with irqEnable := v.toNat % 2 ^ 14 } } ∧
    exec (.registerWrite 0x68 [v] (some (registerCrc 0x68 [v]))) s = .next { x with host := { x.host with scratch := v } }) ∧
  (∀ (s x : State) (off : Nat) (v : W32), Runs s x → off % 4 = 0 → off ≤ 0xFC →
    off ≠ 0x08 → off ≠ 0x0C → off ≠ 0x10 → off ≠ 0x20 → off ≠ 0x68 → off ≠ 0x6C →
    exec (.registerWrite off [v] (some (registerCrc off [v]))) s = .next x) ∧
  (∀ (s x : State) (off : Nat) (v : W32) (vals : List W32), Runs s x → off % 4 = 0 → vals ≠ [] → off + 4 * (vals.length + 1) ≤ 0x100 →
    ∃ t, exec (.registerWrite off [v] (some (registerCrc off [v]))) s = .next t ∧
      exec (.registerWrite off (v :: vals) (some (registerCrc off (v :: vals)))) s = exec (.registerWrite (off + 4) vals (some (registerCrc (off + 4) vals))) t)

/-- After MBX_DOORBELL every IDLE mailbox whose bit is written is BUSY with its bytes kept, every other mailbox is as before, and
LINK_ERRORS and the mailboxes are all that changes. After a write to HOST_IRQ_STATUS, in a sound state, every mailbox in DONE or
REJECTED whose bit is written is IDLE with its bytes kept, every other mailbox is as before, every bit of the status that may be
cleared is cleared where written, and nothing else changes. -/
def Obligations.DoorbellRingsIdleMailboxes : Prop :=
  (∀ (s x : State) (bits : Byte), Runs s x →
    ∃ t, exec (.mbxDoorbell bits) s = .next t ∧
      t = { x with host := { x.host with mbx := t.host.mbx, linkErrors := t.host.linkErrors } } ∧
      ∀ n : Fin 8, t.host.mbx.get n.val = if testBit bits.toNat n.val ∧ (s.host.mbx.get n.val).st = .idle then
        ⟨.busy, (s.host.mbx.get n.val).buf⟩ else s.host.mbx.get n.val) ∧
  (∀ (s x : State) (bits : W32), Sound s → Runs s x →
    ∃ t, exec (.hostIrqStatusClear bits) s = .next t ∧
      t = { x with host := { x.host with mbx := t.host.mbx, irq := t.host.irq } } ∧
      (∀ n : Fin 8, t.host.mbx.get n.val = if testBit bits.toNat n.val ∧
          ((s.host.mbx.get n.val).st = .done ∨ (s.host.mbx.get n.val).st = .rejected) then
        ⟨.idle, (s.host.mbx.get n.val).buf⟩ else s.host.mbx.get n.val) ∧
      ∀ b : Fin 14, testBit t.host.irq b.val =
        (testBit s.host.irq b.val && !(testBit bits.toNat b.val && (decide (b.val < 8) || decide (10 ≤ b.val)))))

/-- EVQ_ACK and a processed CMD_EVENT_ACK remove from the queue exactly the entries whose sequence lies within the 2^31 numbers up to
and including the number given, keep the order of the others, and change nothing else but the response OK. EVENT_RESEND, once in a
frame while the lanes are not holding, sends the first 32 entries of the round under way, or of the whole queue when a round is
due, each with RESENT to every Spine host that takes events, and notes what is left of the round. -/
def Obligations.EventsAreAcknowledgedAndResent : Prop :=
  (∀ (s x : State) (seq : W32), Runs s x →
    exec (.evqAck seq) s = .next { x with host := { x.host with queue := x.host.queue.filter fun e => !acknowledged seq.toNat e.seq } }) ∧
  (∀ (s x : State) (h : Hdr) (seq : W32), Processed s h 0x0006 (le 4 seq.toNat) x →
    exec (.cmdEventAck h seq) s = .next (State.respond
      { x with host := { x.host with queue := x.host.queue.filter fun e => !acknowledged seq.toNat e.seq } } h 0x0006 Res.ok [])) ∧
  (∀ (ack q : Nat), ack < 2 ^ 32 → q < 2 ^ 32 → (acknowledged ack q = true ↔ ∃ d, d < 2 ^ 31 ∧ ack = (q + d) % 2 ^ 32)) ∧
  (∀ (s x : State), Runs s x → x.ready = true → x.flag F.laneStatusHolding = false → x.host.resentFrame ≠ some x.totalFrames →
    exec .eventResend s = .next ((x.host.queue.filter fun e => (x.resendRound.take 32).contains e.seq).foldl
      (fun (s : State) e => s.sendToHosts (e.message true)) x.noteResend))

/-- A processed CMD_NOP answers OK with the bytes of the command. CMD_DEV_RESET with argument 0 in IDLE or MANUAL, and RESET_REQUEST
with 0xB007B007 there while READY, make a device reset pending; any other argument, mode or value leaves it as it is, with
WRONG_STATE to the command. CMD_DEV_STATE for a transition that it may make enters the new state with EV_DEV_STATE of the old
state, the new state and cause 1, cancelling a pending step of Station Time on leaving START, stopping logic on entry to RECOVERY
and resuming the mode of R501 on entry to NORMAL, and any other target is refused with WRONG_STATE. Reading ST_SEC_LO answers the
seconds and latches the higher seconds and the nanoseconds of the same instant; a register read of any aligned range of the window
answers its words in order, and one that is not aligned, empty, runs past the window or is cut short is discarded with LINK_ERROR.
The model's own reading (log entries of NOTES.md): an argument other than 0 of CMD_DEV_RESET is refused with WRONG_STATE. -/
def Obligations.DeviceCommandsAct : Prop :=
  (∀ (s x : State) (h : Hdr) (data : List Byte), Processed s h 0x000D data x →
    exec (.cmdNop h data) s = .next (x.respond h 0x000D Res.ok data)) ∧
  (∀ (s x : State) (h : Hdr) (arg : Byte), Processed s h 0x000B [arg] x →
    exec (.cmdDevReset h arg) s = .next (
      if arg = 0 ∧ (x.rd F.ctlMode = 0 ∨ x.rd F.ctlMode = 5) then
        State.respond { x with boot := { x.boot with resetAt := some x.clock } } h 0x000B Res.ok []
      else x.respond h 0x000B Res.wrongState [])) ∧
  (∀ (s x : State) (v : W32), Runs s x →
    exec (.resetRequest v) s = .next (
      if v = 0xB007B007#32 ∧ x.ready = true ∧ (x.rd F.ctlMode = 0 ∨ x.rd F.ctlMode = 5) then
        { x with boot := { x.boot with resetAt := some x.clock } }
      else x)) ∧
  (∀ (s x : State) (h : Hdr) (target : Byte), Processed s h 0x000C [target] x → x.mayMove target.toNat = true → x.devState ≠ target.toNat →
    exec (.cmdDevState h target) s = .next (
      let y := (x.wr F.devState target.toNat).emit 4 (le 1 x.devState ++ le 1 target.toNat ++ le 1 1)
      let z := if x.devState = 1 then y.cancelStep else y
      (if target = 4 then z.stopLogic else if target = 2 then z.resumeMode else z).respond h 0x000C Res.ok [])) ∧
  (∀ (s x : State) (h : Hdr) (target : Byte), Processed s h 0x000C [target] x → x.mayMove target.toNat = false →
    exec (.cmdDevState h target) s = .next (x.respond h 0x000C Res.wrongState [])) ∧
  (∀ (s x : State) (sub : Nat), Runs s x → sub < 125000 →
    exec (.stSecLoRead 0x28 (some 1) sub) s = .next { x with
      outputs := [.spiData (le 4 ((x.now + sub) / 1000000000) ++
        le 4 (Crypto.crc32c (le 1 1 ++ le 2 0x28 ++ le 4 ((x.now + sub) / 1000000000))).toNat)],
      host := { x.host with stSecHi := (x.now + sub) / 1000000000 / 2 ^ 32 % 65536, stNs := (x.now + sub) % 1000000000 } }) ∧
  (∀ (s x : State) (off count sub : Nat), Runs s x → off % 4 = 0 → 0 < count → off + 4 * count ≤ 0x100 →
    off + 4 * count ≤ 0x28 ∨ 0x28 < off →
    exec (.stSecLoRead off count sub) s = .next { x with
      outputs := [.spiData (((List.range count).flatMap fun k => le 4 (x.direct (off + 4 * k))) ++
        le 4 (Crypto.crc32c (le 1 1 ++ le 2 off ++ (List.range count).flatMap fun k => le 4 (x.direct (off + 4 * k)))).toNat)] }) ∧
  (∀ (s x : State) (off count sub : Nat), Runs s x → off % 4 ≠ 0 ∨ count = 0 ∨ 0x100 < off + 4 * count →
    exec (.stSecLoRead off count sub) s = .next { x with outputs := [.spiUndefined], host := { x.host with
      irq := putBit x.host.irq 13 true, linkErrors := min (x.host.linkErrors + 1) (2 ^ 32 - 1) } }) ∧
  (∀ (s x : State) (off sub : Nat), Runs s x →
    exec (.stSecLoRead off none sub) s = .next { x with outputs := [.spiUndefined], host := { x.host with
      irq := putBit x.host.irq 13 true, linkErrors := min (x.host.linkErrors + 1) (2 ^ 32 - 1) } })

/-- CMD_FW_BEGIN outside Survival, with no transfer, trial or erase in progress, the Write Guard released, a size of 1 byte to 32 MiB
and a 32-byte digest, keeps size and digest and waits for the erase. When the slot is erased the transfer is open at offset 0, the
other slot holds no image and no trial, EV_FW_UPDATE step 0 is sent, OK answered and the erased blocks counted. CMD_FW_BLOCK at
the next expected offset, the fifth in a frame excepted, stores its bytes there and answers the next offset, with EV_FW_UPDATE
step 1 at the end of the image. -/
def Obligations.FirmwareUpdateOpensAndReceives : Prop :=
  (∀ (s x : State) (h : Hdr) (size : W32) (digest : List Byte), Processed s h 0x0007 (le 4 size.toNat ++ digest) x →
    x.flag F.devFwSlotTrial = false → x.budget ≠ 3 → x.flag F.devFwSlotOpen = false → digest.length = 32 → 0 < size.toNat →
    size.toNat ≤ 2 ^ 25 → x.fw.beginHdr = none → x.writeGuard = false →
    exec (.cmdFwBegin h size digest) s = .next (State.awaitReply
      { x with fw := { x.fw with size := size.toNat, digest := digest, beginHdr := some h } } h)) ∧
  (∀ (s x : State) (h : Hdr), Runs s x → x.fw.beginHdr = some h → x.ready = true → x.writeGuard = false → x.budget ≠ 3 →
    exec .fwSlotErased s = .next (State.accrue (State.respond (State.emit (((({ x with fw := { x.fw with
        beginHdr := none, trialSlot := none, attempts := 0,
        slots := x.fw.slots.set (1 - x.rd F.devFwSlotRunning) (noImage (1 - x.rd F.devFwSlotRunning)) } } : State).wr
        F.devFwSlotOpen 1).wr F.devFwSlotCommitted 0).wr F.devFwNextOffset 0 |>.wr F.devFwVersionOther 0)
        3 (le 1 0 ++ le 1 (1 - x.rd F.devFwSlotRunning) ++ le 4 0 ++ le 2 Res.ok)) h 0x0007 Res.ok []) 0xE020 Config.slotBlocks)) ∧
  (∀ (s x : State) (h : Hdr) (off : W32) (data : List Byte), Processed s h 0x0008 (le 4 off.toNat ++ data) x →
    x.flag F.devFwSlotOpen = true → x.budget ≠ 3 → x.fw.commitHdr = none → x.writeGuard = false → x.fw.blocksThisFrame < 4 →
    data ≠ [] → data.length ≤ 3968 → off.toNat = x.rd F.devFwNextOffset → x.rd F.devFwNextOffset + data.length ≤ x.fw.size →
    exec (.cmdFwBlock h off data) s = .next (
      let n := x.rd F.devFwNextOffset + data.length
      let slot := 1 - x.rd F.devFwSlotRunning
      let y := State.wr { x with fw := { x.fw with
        blocksThisFrame := x.fw.blocksThisFrame + 1,
        slots := x.fw.slots.set slot { (x.fw.slots.get slot) with
          bytes := (x.fw.slots.get slot).bytes.writeBytes (x.rd F.devFwNextOffset) data, size := n } } } F.devFwNextOffset n
      (if n = x.fw.size then y.emit 3 (le 1 1 ++ le 1 slot ++ le 4 0 ++ le 2 Res.ok) else y).respond h 0x0008 Res.ok (le 4 n)))

/-- CMD_FW_COMMIT of a complete transfer waits for verification. A verified image with a right signature whose SHA-256 is the digest
of the transfer becomes the image of the trial slot, with EV_FW_UPDATE step 2 and OK; a wrong digest or signature ends the
transfer with IMAGE_INVALID (that it ends is the model's choice, log entry 68). CMD_FW_ABORT with a transfer open or an image
committed ends both. A trial that has run for dev.fw_trial_time in NORMAL, with the Write Guard released, makes the running slot
good, with step 4. -/
def Obligations.FirmwareUpdateVerifiesAndStarts : Prop :=
  (∀ (s x : State) (h : Hdr), Processed s h 0x0009 [] x → x.flag F.devFwSlotOpen = true → x.rd F.devFwNextOffset = x.fw.size →
    x.fw.commitHdr = none → x.writeGuard = false →
    exec (.cmdFwCommit h) s = .next (State.awaitReply { x with fw := { x.fw with commitHdr := some h } } h)) ∧
  (∀ (s x : State) (h : Hdr), Runs s x → x.fw.commitHdr = some h → x.ready = true → x.writeGuard = false →
    exec .fwImageVerified s = .next (
      let slot := 1 - x.rd F.devFwSlotRunning
      let img := x.fw.slots.get slot
      let version := Config.imageVersion img.bytes.cells
      let y := State.wr { x with fw := { x.fw with commitHdr := none } } F.devFwSlotOpen 0
      if Config.imageSigned img.bytes.cells = true ∧ Crypto.sha256 (img.bytes.readBytes 0 img.size) = x.fw.digest then
        ((((({ y with fw := { y.fw with
          trialSlot := some slot, attempts := 0, slots := y.fw.slots.set slot { img with present := true, version := version.toNat } } } : State).wr F.devFwSlotCommitted 1).wr
            F.devFwVersionOther version.toNat).emit 3 (le 1 2 ++ le 1 slot ++ le 4 version.toNat ++ le 2 Res.ok))).respond h 0x0009 Res.ok []
      else (y.emit 3 (le 1 2 ++ le 1 slot ++ le 4 0 ++ le 2 Res.imageInvalid)).respond h 0x0009 Res.imageInvalid [])) ∧
  (∀ (s x : State) (h : Hdr), Processed s h 0x000A [] x → x.flag F.devFwSlotOpen = true ∨ x.flag F.devFwSlotCommitted = true →
    x.fw.commitHdr = none →
    exec (.cmdFwAbort h) s = .next ((({ x with fw := { x.fw with trialSlot := none, attempts := 0, commitHdr := none } } : State).wr
      F.devFwSlotOpen 0).wr F.devFwSlotCommitted 0 |>.respond h 0x000A Res.ok [])) ∧
  (∀ (s x : State), Runs s x → x.flag F.devFwSlotTrial = true → x.devState = 2 → x.writeGuard = false →
    x.cfg F.devFwTrialTime * 50 ≤ x.fw.trialFrames →
    exec .fwTrialEnd s = .next (
      let y := (({ x with fw := { x.fw with trialSlot := none, attempts := 0, trialFrames := 0 } } : State).wr F.devFwSlotGood
        (x.rd F.devFwSlotRunning)).wr F.devFwSlotTrial 0
      y.emit 3 (le 1 4 ++ le 1 (x.rd F.devFwSlotRunning) ++ le 4 (x.rd F.devFwVersion) ++ le 2 Res.ok)))

/-- A processed CMD_PARAM_READ of 1 to 255 items whose count is right answers the frame number, the epoch, the number of items and
each item's result and value, under the result of the first item that failed or OK, and changes nothing but the model's counter of
free values. A processed CMD_PARAM_WRITE whose items before item k all pass their checks, while item k fails, answers k and the
result of item k and writes nothing; where all pass, every item is written in order and OK is answered. A wrong count answers
BAD_LENGTH, with no item read or written. -/
def Obligations.ParameterCommandsReadAndWrite : Prop :=
  (∀ (s x : State) (h : Hdr) (count : W16) (items : List (W16 × W16)),
    Processed s h 0x0001 (le 2 count.toNat ++ items.flatMap fun i => le 2 i.1.toNat ++ le 2 i.2.toNat) x →
    exec (.cmdParamRead h count items) s = .next (
      if 1 ≤ items.length ∧ items.length ≤ 255 ∧ count.toNat = items.length then
        let rs := items.map fun i => x.readItem i.1.toNat i.2.toNat
        State.respond { x with free := x.free + 1 } h 0x0001 (((rs.map (·.1)).find? fun r => r ≠ Res.ok).getD Res.ok)
          (le 4 (x.rd F.timeFrameNumber) ++ le 2 (x.rd F.timeFrameEpoch) ++ le 2 items.length ++ rs.flatMap fun r => le 2 r.1 ++ r.2)
      else x.respond h 0x0001 Res.badLength [])) ∧
  (∀ (s x : State) (h : Hdr) (count : W16) (items : List (W16 × W16 × W64)),
    Processed s h 0x0002 (le 2 count.toNat ++ items.flatMap fun i => le 2 i.1.toNat ++ le 2 i.2.1.toNat ++ le 8 i.2.2.toNat) x →
    (¬ (1 ≤ items.length ∧ items.length ≤ 255 ∧ count.toNat = items.length) →
      exec (.cmdParamWrite h count items) s = .next (x.respond h 0x0002 Res.badLength [])) ∧
    (1 ≤ items.length → items.length ≤ 255 → count.toNat = items.length →
      (∀ (before after : List (W16 × W16 × W64)) (i : W16 × W16 × W64), items = before ++ i :: after →
        (∀ j ∈ before, x.checkItem j.1.toNat (j.2.1.toNat % 2 ^ 14) j.2.2.toNat = Res.ok) →
        x.checkItem i.1.toNat (i.2.1.toNat % 2 ^ 14) i.2.2.toNat ≠ Res.ok →
        exec (.cmdParamWrite h count items) s =
          .next (x.respond h 0x0002 (x.checkItem i.1.toNat (i.2.1.toNat % 2 ^ 14) i.2.2.toNat) (le 2 before.length))) ∧
      ((∀ j ∈ items, x.checkItem j.1.toNat (j.2.1.toNat % 2 ^ 14) j.2.2.toNat = Res.ok) →
        exec (.cmdParamWrite h count items) s = .next (State.respond
          (items.foldl (fun (s : State) i => s.writeItem i.1.toNat (i.2.1.toNat % 2 ^ 14) i.2.2.toNat) x) h 0x0002 Res.ok []))))

/-- While staging is open and the Write Guard released, a processed CMD_FOLIO_SECTION of 1 to 3,968 bytes within the limit of section
1 or 2 writes them to that section of the shadow, cleared first at offset 0, and stages it; CMD_FOLIO_TURN of a staged shadow
makes the turn pending. CMD_FOLIO_DISCARD without a turn makes the shadow SYNCING. A VALIDATING turn that passes validation and
has the Safety Monitor's consent is SEALED, for this frame up to F+18.5 and the next after it; one that fails is refused with its
result, ID and element. At F+19.0 of its frame a SEALED turn is written to the commit record and COMMITTED, with the response OK
of the effective frame. A SYNCING shadow becomes CLEAN, equal to the active Folio, with EV_FOLIO_TURN. -/
def Obligations.FolioCommandsStageAndTurn : Prop :=
  (∀ (s x : State) (h : Hdr) (sec : Byte) (off : W32) (data : List Byte), Processed s h 0x0005 ([sec] ++ le 4 off.toNat ++ data) x →
    x.stagingOpen = true → x.writeGuard = false → data ≠ [] → data.length ≤ 3968 →
    (sec = 1 ∧ off.toNat + data.length ≤ 524288) ∨ (sec = 2 ∧ off.toNat + data.length ≤ 262144) →
    exec (.cmdFolioSection h sec off data) s = .next (
      let n := 1 - x.rd F.devFolioActive
      let f := x.folio n
      ((x.setFolio n (if sec = 1 then { f with sec1 := f.sec1.load off.toNat data } else { f with sec2 := f.sec2.load off.toNat data })).wr
        F.devFolioShadow 1).respond h 0x0005 Res.ok [])) ∧
  (∀ (s x : State) (h : Hdr), Processed s h 0x0003 [] x → x.stagingOpen = true → x.writeGuard = false → x.rd F.devFolioShadow = 1 →
    exec (.cmdFolioTurn h) s = .next (State.awaitReply { x with turn := { x.turn with pending := true, hdr := some h } } h)) ∧
  (∀ (s x : State) (h : Hdr), Processed s h 0x0004 [] x → x.rd F.devFolioTurn = 0 → x.turn.pending = false →
    exec (.cmdFolioDiscard h) s = .next ((x.wr F.devFolioShadow 2).respond h 0x0004 Res.ok [])) ∧
  (∀ (s x : State), Runs s x → x.ready = true → x.rd F.devFolioTurn = 1 →
    exec .folioValidated s = .next (match x.validate, x.safetyConsent with
      | some (res, id, elem), _ => x.refuseTurn res (some (id, elem))
      | none, some (res, id) => x.refuseTurn res (some (id, 0))
      | none, none => State.wr { x with turn := { x.turn with
          prepared := some (1 - x.rd F.devFolioActive, (x.folio (1 - x.rd F.devFolioActive)).crc),
          sealFrame := some (x.totalFrames + if 148 < x.time.tickDue then 1 else 0) } } F.devFolioTurn 2)) ∧
  (∀ (s x : State) (h : Hdr) (f n : Nat) (crc : W32), Runs s x → x.turn.sealFrame = some f → x.turn.prepared = some (n, crc) →
    x.turn.hdr = some h → x.atTick 152 = true → x.rd F.devFolioTurn = 2 → f ≤ x.totalFrames →
    exec .folioCommit s = .next (((x.writeCommit n crc).wr F.devFolioTurn 3).respond h 0x0003 Res.ok
      (le 4 ((x.totalFrames + 1) % 2 ^ 32) ++ le 2 ((x.totalFrames + 1) / 2 ^ 32) ++ stBytes ((x.totalFrames + 1) * 20000000)))) ∧
  (∀ (s x : State), Runs s x → x.ready = true → x.rd F.devFolioShadow = 2 → x.writeGuard = false →
    exec .shadowSyncComplete s = .next (
      let y := (x.setFolio (1 - x.rd F.devFolioActive) x.active).wr F.devFolioShadow 0
      y.emit 0x02 (le 1 (y.rd F.devFolioActive) ++ le 4 (y.rd F.devFolioCrc) ++ le 4 (y.rd F.timeFrameNumber))))

/-- Power on after a supply loss counts the power-up in MRAM and resets every domain with cause 0, and does nothing while the
converters run. RST_N low for 10 µs or more is an external reset with cause 1, held back while an Endpaper is being written; a
shorter pulse does nothing. The converters' stop takes the power away, with every safety output and analog output off. The loss of
VBAT without power invalidates the RTC. A feed change sets the class of its feed, powered or not. -/
def Obligations.SupplyEventsAct : Prop :=
  (∀ (s : State) (off : Nat), s.powered = false → exec (.powerOn off) s = .next (State.doReset (State.countMram
      { s with outputs := [], powered := true, time := { s.time with mono := s.time.mono + off } } 0xE000) .powerOn 0)) ∧
  (∀ (s : State) (off : Nat), s.powered = true → exec (.powerOn off) s = .next { s with outputs := [] }) ∧
  (∀ (s x : State) (low : Nat), Runs s x → 10000 ≤ low → x.power.writing = none →
    exec (.rstN low) s = .next (x.doReset .external 1)) ∧
  (∀ (s x : State) (low : Nat), Runs s x → 10000 ≤ low → x.power.writing ≠ none →
    exec (.rstN low) s = .next { x with boot := { x.boot with heldReset := true } }) ∧
  (∀ (s x : State) (low : Nat), Runs s x → low < 10000 → exec (.rstN low) s = .next x) ∧
  (∀ (s x : State), Runs s x → exec .convertersStop s = .next { x with
      powered := false, power := { x.power with writing := none },
      outputs := (List.range 8).map (fun o => Output.safeOut o false) ++ (List.range 16).map (fun n => Output.analog n none) ++
        [.restPins false] }) ∧
  (∀ (s : State), s.powered = false → exec .vbatLoss s = .next { s with outputs := [], life := { s.life with rtcValid := false } }) ∧
  (∀ (s : State) (f : Feed) (cls : Nat), exec (.feedChange f cls) s =
    .next { s with outputs := [], power := { s.power with feeds := s.power.feeds.set (feedNo f) (feedCode f cls) } })

/-- A trip of the released Write Guard shows its cause, counts it, starts the Endpaper of the next sequence with the trip, the state
of Station Time, the newest Quire and the fault log, refuses a turn that is pending, VALIDATING or SEALED with WRITE_GUARD, and
sends EV_POWER_WRITE_GUARD. A second trip before the release is shown, counted and announced but starts no Endpaper (that it is
counted and announced is the model's reading, log entry 72). The completed Endpaper stands in a slot that held none, else in the
older, and a reset that it held back follows. The release, no earlier than 10 ms after the last trip, clears the guard and sends
the event with the trip's length; earlier, or without a trip, it does nothing. -/
def Obligations.WriteGuardActs : Prop :=
  (∀ (s x : State) (c : GuardCause), Runs s x → x.writeGuard = false →
    exec (.writeGuardTrip c) s = .next (
      let e : Endpaper := {
        valid := true, seq := (x.rd F.powerEndpaperSeq + 1) % 2 ^ 32, cause := guardCode c, at_ := x.now, clock := x.clock,
        frame := x.totalFrames, status := x.timeStatusWord, bound := x.rd F.timeErrorBound, tb3off := x.time.tb3off, ocxo := x.time.ocxo,
        image := x.lane.latest.bind fun n => (x.lane.quires.get n).image, ring := x.fault.ring }
      let y := State.showTrip { x with power := { x.power with writing := some e, tripAt := x.clock } } c
      let z := if y.turn.pending ∨ y.rd F.devFolioTurn = 1 ∨ y.rd F.devFolioTurn = 2 then y.refuseTurn Res.writeGuard none else y
      z.emit 0xD2 (le 1 0 ++ le 1 (z.rd F.powerWriteGuardCause / 2) ++ le 4 e.seq ++ msF32 0))) ∧
  (∀ (s x : State) (c : GuardCause), Runs s x → x.writeGuard = true →
    exec (.writeGuardTrip c) s = .next ((x.showTrip c).emit 0xD2
      (le 1 0 ++ le 1 ((x.showTrip c).rd F.powerWriteGuardCause / 2) ++ le 4 x.lastEndpaperSeq ++ msF32 0))) ∧
  (∀ (s x : State) (e : Endpaper), Runs s x → x.power.writing = some e →
    exec .endpaperComplete s = .next (
      let a := x.power.slots.get 0
      let b := x.power.slots.get 1
      let slot := if a.valid = false then 0 else if b.valid = false then 1 else if a.clock ≤ b.clock then 0 else 1
      let y := State.wr { x with power := { x.power with slots := x.power.slots.set slot e, writing := none } } F.powerEndpaperSeq e.seq
      if x.boot.heldReset then y.doReset .external 1 else y)) ∧
  (∀ (s x : State), Runs s x → x.writeGuard = true → 10000000 ≤ x.since x.power.sagAt →
    exec .writeGuardRelease s = .next (
      let y := x.wr F.powerWriteGuardTripped 0
      y.emit 0xD2 (le 1 1 ++ le 1 (y.rd F.powerWriteGuardCause / 2) ++ le 4 (x.rd F.powerEndpaperSeq) ++ msF32 (x.since x.power.tripAt)))) ∧
  (∀ (s x : State), Runs s x → x.writeGuard = false ∨ x.since x.power.sagAt < 10000000 → exec .writeGuardRelease s = .next x)

/-- At tick 156, once, the governor latches the instant, the feeds, the baseplate temperature, the highest die temperature, the
commanded cap and the input power, of which it keeps the last 50 frames. A latch whose target is a state of more work, with the
upward hold elapsed at it, is marked to step. CMD_BUDGET_CAP with a state code sets the commanded cap, and with 0xFF clears it;
another code is OUT_OF_RANGE. -/
def Obligations.GovernorLatchesAndHolds : Prop :=
  (∀ (s x : State) (base d : Int) (dies : List Int) (power : Nat), Runs s x → x.atTick 156 = true → x.latchedNow = false →
    exec (.governorLatch base (d :: dies) power) s = .next { x with power := { x.power with
      history := (x.power.history ++ [power]).drop (x.power.history.length + 1 - 50),
      latch := some ⟨x.clock, x.power.feeds, base, dies.foldl max d, x.power.cmdCap, false, true⟩ } }) ∧
  (∀ (s x : State) (l : Latch), Runs s x → x.power.latch = some l → x.power.started = true → (x.caps l).target < x.budget →
    x.cfg F.powerUpstepHold * 1000000000 ≤ l.at_ - x.power.holdFrom.getD l.at_ →
    exec .upstepHoldExpiry s = .next { x with power := { x.power with latch := some { l with step := true } } }) ∧
  (∀ (s x : State) (h : Hdr) (code : Byte), Processed s h 0xD001 [code] x →
    exec (.cmdBudgetCap h code) s = .next (
      if code = 0xFF then State.respond { x with power := { x.power with cmdCap := none } } h 0xD001 Res.ok []
      else if code.toNat ≤ 3 then State.respond { x with power := { x.power with cmdCap := some code.toNat } } h 0xD001 Res.ok []
      else x.respond h 0xD001 Res.outOfRange []))

/-- While the lanes are not up, a servo tick that is due moves Station Time to the end of that tick and makes the next due, and a
frame instant that is due moves Station Time to the next multiple of 20 ms, counts the frame number, epoch and index from it,
begins 160 ticks, marks no transfer absent any more and keeps the frame-level values for the logic; nothing else changes. In a
frame that no step cut, a tick lasts 125 µs. The next multiple is the first at or after the instant. -/
def Obligations.TimePassesInBoot : Prop :=
  (∀ (s x : State) (d : Differs), Runs s x → x.ready = false → x.time.tickDue < x.time.tickEnd →
    exec (.servoTick d) s = .next { x with time := { x.time with
      mono := x.time.mono + (x.tickStop - x.time.tb0), tb0 := x.tickStop, tickDue := x.time.tickDue + 1 } }) ∧
  (∀ (x : State), x.time.tickOrigin = 0 → x.time.tickDue < 160 → x.time.tb0 = x.time.frameAt + 125000 * x.time.tickDue →
    x.tickStop = x.time.tb0 + 125000) ∧
  (∀ (s x : State) (i : FrameIn), Runs s x → x.ready = false → x.time.tickEnd ≤ x.time.tickDue → x.stepDue = false →
    exec (.frameInstant i) s = .next (
      let t := nextMultiple 20000000 x.time.tb0
      let y : State := { x with
        time := { x.time with mono := x.time.mono + (t - x.time.tb0), tb0 := t, frameAt := t, tickDue := 0, tickOrigin := 0, tickEnd := 160 },
        lane := { x.lane with rapidFrom := 0, rapidTo := 0 }, fault := { x.fault with absent := [] } }
      let z := ((y.wr F.timeFrameNumber (t / 20000000 % 2 ^ 32)).wr F.timeFrameEpoch (t / 20000000 / 2 ^ 32)).wr F.timeFrameIndex (t / 20000000 % 50)
      { z with logic := { z.logic with frameArea := z.frameValues } })) ∧
  (∀ t : Nat, nextMultiple 20000000 t % 20000000 = 0 ∧ t ≤ nextMultiple 20000000 t ∧ nextMultiple 20000000 t < t + 20000000)

/-- At its start a tick closes a Rapid Check that is over, takes the waiting mailboxes, at tick 48 ends an offload, releases what the
hold kept back, takes the transfers withheld from the lanes and readies the solver units. A tick that lasts beyond T+40 then runs
the loops, compares and selects, and drives the outputs, in that order, and ends; a tick cut short by then drives nothing. A
promotion under a hold, the Quire of the frame and, at tick D+4, what it takes of the vessel controller follow. A frame instant
opens the frame and runs it, and the mirrors then show the registers as the frame left them. The frame-boundary changes are the
Folio turn, then the budget state under the Folio now active, then the join of a waking lane. A step of the grid that falls due
moves to the source it is made to, or is cancelled without one. -/
def Obligations.TicksAndFramesRunInOrder : Prop :=
  (∀ x : State, x.tickBoundary =
    (let y := x.lateVerdict.takeMailboxes
     (((if y.time.tickDue = 48 then y.abortOffload else y).releaseHeld).busBoundary).readyUnits)) ∧
  (∀ (s x : State) (d : Differs), Runs s x → x.ready = true → x.time.tickDue < x.time.tickEnd →
    (x.tickBoundary.now + 40000 < x.tickBoundary.tickStop →
      exec (.servoTick d) s = .next
        ((x.tickBoundary.tickLoops.selector d).driveOutputs x.tickBoundary.time.tickDue).tryPromote.dueQuire.keepControl.endTick) ∧
    (x.tickBoundary.tickStop ≤ x.tickBoundary.now + 40000 →
      exec (.servoTick d) s = .next x.tickBoundary.endTick)) ∧
  (∀ (s x : State) (i : FrameIn), Runs s x → x.ready = true → x.time.tickEnd ≤ x.time.tickDue → x.stepDue = false →
    ∃ t, exec (.frameInstant i) s = .next t ∧ t = x.openFrame.runFrame i ∧
      t.host.mirrors.frameNumber = t.rd F.timeFrameNumber ∧ t.host.mirrors.frameEpoch = t.rd F.timeFrameEpoch ∧
      t.host.mirrors.ctlMode = t.rd F.ctlMode ∧ t.host.mirrors.solveStatus = t.rd F.ctlSolveStatus ∧
      t.host.mirrors.collStatus = t.rd F.collStatus ∧ t.host.mirrors.actAvailable = t.rd F.ctlActAvailable) ∧
  (∀ (s x : State) (src : TimeSrc), Runs s x → x.stepDue = true → x.stepSource = some src →
    exec .gridStep s = .next (x.gridStep src)) ∧
  (∀ (s x : State), Runs s x → x.stepDue = true → x.stepSource = none →
    exec .gridStep s = .next (State.wrFlag { x with time := { x.time with step := none } } F.timeGridStatusStepPending x.time.stepped.isSome))

/-- After a power-on, external or device reset of any state the device is in BOOT with READY clear, every mailbox is IDLE and empty of
bytes, no event is queued, no turn is pending, no image transfer runs, no command waits for a response, the two Folios, the commit
records, the image slots, the logic program slots, the Spine keys, the committed lifetime counters and the journal are as before,
and the waiting commands of the queue stay. The Safety Monitor and the fault log go on over a device reset and start anew at the
others. -/
def Obligations.ResetStartsBootAnew : Prop :=
  ∀ (s : State) (kind : ResetKind) (cause : Nat),
    let t := s.doReset kind cause
    t.rd F.devState = 0 ∧ t.ready = false ∧ (∀ n, t.host.mbx.get n = ⟨.idle, Store.empty⟩) ∧ t.host.queue = [] ∧ t.turn.pending = false ∧
    t.turn.prepared = none ∧ t.fw.beginHdr = none ∧ t.fw.commitHdr = none ∧ t.host.waiting = [] ∧
    t.folioA = s.folioA ∧ t.folioB = s.folioB ∧ t.turn.commits = s.turn.commits ∧ t.fw.slots = s.fw.slots ∧
    t.logic.slots = s.logic.slots ∧ t.spine.keys = s.spine.keys ∧ t.life.committed = s.life.committed ∧ t.life.pages = s.life.pages ∧
    t.pending = s.pending ∧
    (kind = .device → t.safe = s.safe ∧ t.fault.ring = s.fault.ring) ∧
    (kind ≠ .device → t.fault.ring = [] ∧ t.safe.tested = false)

/-- A device reset that a command made pending takes place at the next frame instant, with cause 2. BOOT ends, with an image and a
lane that pass, in this order: the image, the Folio, the lanes and domains, the safety section, READY with its first events, the
units and the lanes that failed reported, the blocks, the restore, and the operating time that BOOT took; without an image or a
lane BOOT goes on, and a trial image that finds the active Folio invalid resets the device with cause 4. In START at a frame
instant, with the conditions of NORMAL met, the device enters NORMAL with EV_DEV_STATE, a pending step of Station Time is
cancelled, and it resumes its mode. -/
def Obligations.BootAndNormalAreEntered : Prop :=
  (∀ (s x : State) (t : Nat), Runs s x → x.boot.resetAt = some t → t < x.clock → x.ready = true → x.time.tickDue = 0 →
    exec .deviceReset s = .next (x.doReset .device 2)) ∧
  (∀ (s x : State) (b : BootIn) (slot duty : Nat) (rest : List Nat), Runs s x → x.bootSlot b = some slot → x.bootRoles b = duty :: rest →
    x.devState = 0 → (x.bootTrial slot = false ∨ b.trialFolioOk = true ∨ x.bootCommit b = none) →
    exec (.bootComplete b) s = .next (
      let src := newerSrc ((x.bootQuire b).map (·.1)) (x.bootEndpaper b)
      let u := (((x.startImage slot).loadFolio b).releaseLanes (duty :: rest)).domainsOn
      let v := (u.readSection u.active).openBoot (((x.bootCommit b).map (·.2)).getD false) ((src.map fun r => r.image.unacked).getD 0xFFFF)
        (if x.fw.attempts = 0 then none else x.fw.trialSlot)
      let w := v.reportUnits.reportLanes.startBlocks
      let y := ((w.wrInt F.lifeTaiUtc w.taiUtc).restoreAll b).loadHoldOff
      y.accrue 0xE003 ((y.clock - y.time.resetAt) / 1000000000))) ∧
  (∀ (s x : State) (b : BootIn) (slot duty : Nat) (rest : List Nat), Runs s x → x.bootSlot b = some slot → x.bootRoles b = duty :: rest →
    x.devState = 0 → x.bootTrial slot = true → b.trialFolioOk = false → x.bootCommit b ≠ none →
    exec (.bootComplete b) s = .next (State.doReset { x with fw := { x.fw with attempts := 1 } } .device 4)) ∧
  (∀ (s x : State) (b : BootIn), Runs s x → x.bootSlot b = none ∨ x.bootRoles b = [] → exec (.bootComplete b) s = .next x) ∧
  (∀ (s x : State), Runs s x → x.devState = 1 → x.time.tickDue = 0 → x.normalReady = true →
    exec .normalEntry s = .next (((x.wr F.devState 2).emit 4 (le 1 1 ++ le 1 2 ++ le 1 0)).cancelStep.resumeMode))

/-- A one-step Sync of the followed domain on the slave port of a known grandmaster is measured at once, a two-step Sync waits for its
Follow_Up and is measured with it, and a Delay_Resp there gives the path delay; a Delay_Req goes out on the slave port. Three
announce intervals of the grandmaster without an Announce end the grandmaster, the qualification and the measurement, and
time.sync_loss_timeout without an accepted Sync ends the qualification and the measurement; sooner, neither timeout does anything.
An Announce of a first or better grandmaster, not the module's own clock, is taken: the measurements and the qualification go on,
under the jump test, and the difference of the asymmetries of the new and the old port is added to what was measured. -/
def Obligations.NetworkTimeIsFollowed : Prop :=
  (∀ (s x : State) (red : Bool) (port : Fin 9) (domain : Byte) (off : Int) (bound : Nat), Runs s x →
    domain.toNat = x.ptpDomain red → (x.source (ptpSrc red)).gm ≠ none → (x.source (ptpSrc red)).slavePort = port.val →
    exec (.ptpSyncRx red port domain false off bound) s = .next (x.acceptSync (ptpSrc red) port.val off bound) ∧
    exec (.ptpSyncRx red port domain true off bound) s =
      .next (x.setSource (ptpSrc red) { (x.source (ptpSrc red)) with awaitFollowUp := some port.val })) ∧
  (∀ (s x : State) (red : Bool) (port : Fin 9) (off : Int) (bound : Nat), Runs s x →
    (x.source (ptpSrc red)).awaitFollowUp = some port.val →
    exec (.ptpFollowUpRx red port off bound) s = .next (x.acceptSync (ptpSrc red) port.val off bound)) ∧
  (∀ (s x : State) (red : Bool), Runs s x → (x.source (ptpSrc red)).gm ≠ none →
    exec (.ptpDelayReqTx red) s = .next { x with outputs := [.ptp (x.source (ptpSrc red)).slavePort
      (if x.cfg F.timePtpProfile = 0 then 1 else 2) (le 1 (x.ptpDomain red))] }) ∧
  (∀ (s x : State) (red : Bool) (port : Fin 9) (delay : Int), Runs s x → (x.source (ptpSrc red)).gm ≠ none →
    (x.source (ptpSrc red)).slavePort = port.val →
    exec (.ptpDelayRespRx red port delay) s = .next (x.setSource (ptpSrc red) { (x.source (ptpSrc red)) with pathDelay := delay })) ∧
  (∀ (s x : State) (red : Bool) (a : Announce) (t : Nat), Runs s x → (x.source (ptpSrc red)).gm = some a →
    (x.source (ptpSrc red)).lastAnnounce = some t →
    exec (.announceTimeout red) s = .next (if 3 * a.interval * 250000000 ≤ x.since t then x.setSource (ptpSrc red) { (x.source (ptpSrc red)) with
      qualified := false, gm := none, lastAnnounce := none, offsets := [], measured := false, awaitFollowUp := none } else x)) ∧
  (∀ (s x : State) (red : Bool) (t : Nat), Runs s x → (x.source (ptpSrc red)).lastSync = some t →
    exec (.syncLossTimeout red) s = .next (if x.cfg F.timeSyncLossTimeout * 1000000 ≤ x.since t then x.setSource (ptpSrc red) { (x.source (ptpSrc red)) with
      qualified := false, lastSync := none, offsets := [], measured := false } else x)) ∧
  (∀ (s x : State) (red : Bool) (port : Fin 9) (a g : Announce), Runs s x → (x.source (ptpSrc red)).gm = some g →
    rankBelow (announceRank a) (announceRank g) = true → a.gmIdentity ≠ Config.clockIdentity → a.gmIdentity ≠ g.gmIdentity →
    exec (.ptpAnnounceRx red port a) s = .next (
      let d : Int := if (x.source (ptpSrc red)).measured then
        x.active.asymmetry port.val - x.active.asymmetry (x.source (ptpSrc red)).slavePort else 0
      let o : Source := { ((x.source (ptpSrc red)).shifted d) with
        gm := some a, slavePort := port.val, lastAnnounce := some x.clock, awaitFollowUp := none }
      let y := x.setSource (ptpSrc red) (x.qualify o (x.ptpQualifies o))
      if a.utcOffsetValid = true ∧ y.ready = true then y.hearLeap ⟨srcCode (ptpSrc red), a.utcOffset, y.announcedLeap a⟩ else y)) ∧
  (∀ (s x : State) (red : Bool) (port : Fin 9) (a : Announce), Runs s x → a.gmIdentity = Config.clockIdentity →
    exec (.ptpAnnounceRx red port a) s = .next x)

/-- On a master port a Delay_Req is answered with its receive instant, and a Sync names the domain and the transmit instant, each in
whole 8 ns. A jumped source, still measured and steady for 60 s, is freed, and qualifies again as its kind does; TB2 qualifies
once a receiver's solution has been good for 10 s and loses qualification when every receiver's has been bad for 2 s; a cross-
check failure is set after 10 s beyond the limit and cleared after 10 s within it; after time.acquire_timeout any qualified source
may be acquired. CMD_TIME_RESYNC is refused WRONG_STATE outside START and NO_SOURCE with none qualified, and otherwise sets
STEP_PENDING. At F+0 of frame index 40 the PPS message of the next second goes out and fixes the edge, as TB0 is corrected then;
the edge raises the pin at its instant, and the pulse falls after time.pps_width. -/
def Obligations.TimeIsServedAndMarked : Prop :=
  (∀ (s x : State) (port : Fin 9) (requester : W64) (atNs : Fin 125000), Runs s x → x.masterPort port.val = true →
    (x.cfg F.timePtpProfile = 0 → exec (.ptpDelayReqRx port requester false atNs) s =
      .next (x.put (.ptp port.val 3 (stBytes ((x.now + atNs.val) / 8 * 8) ++ le 8 requester.toNat)))) ∧
    exec (.ptpSyncTx port atNs) s = .next (x.put (.ptp port.val 0 (le 1 (x.ptpDomain false) ++ stBytes ((x.now + atNs.val) / 8 * 8))))) ∧
  (∀ (s x : State) (t : TimeSrc), Runs s x → (x.source t).jumped = true → 60 * nsSecond ≤ x.since (x.source t).steadyFrom → x.isMeasured t = true →
    exec (.jumpRequalify t) s = .next (
      let o : Source := { (x.source t) with jumped := false }
      x.setSource t (x.qualify o (match t with
        | .tb2 => true
        | .ptp => x.ptpQualifies o
        | .tb1 => x.ptpQualifies o)))) ∧
  (∀ (s x : State) (n g : Nat), Runs s x → n < 3 → x.gnss.timeGood.get n = some g → 10 * nsSecond ≤ x.since g →
    x.time.tb2.measured = true → x.time.tb2.jumped = false →
    exec .tb2Qualify s = .next (x.judgeReceivers.setSource .tb2 (x.judgeReceivers.qualify x.time.tb2 true))) ∧
  (∀ (s x : State), Runs s x → x.gnss.timeOk.wf = true → (∀ n < 3, x.gnss.timeGood.get n = none ∧ ∃ b, x.gnss.timeBad.get n = some b ∧ 2 * nsSecond ≤ x.since b) →
    exec .tb2Qualify s = .next (x.judgeReceivers.setSource .tb2 (x.judgeReceivers.qualify x.time.tb2 false))) ∧
  (∀ (s x : State) (t : Nat), Runs s x → x.time.overTb2 = some t → 10 * nsSecond ≤ x.since t → x.flag F.timeStatusCrosscheckFail = false →
    exec (.crosscheckTimeout true) s =
      .next ((x.wrFlag F.timeStatusCrosscheckFail true).emit 0x14 (le 1 3 ++ x.nsBytes 0x14 x.time.tb2.offset ++ le 1 0))) ∧
  (∀ (s x : State) (tb2 : Bool), Runs s x → x.time.overTb1 = none → x.time.overTb2 = none → 10 * nsSecond ≤ x.since x.time.withinSince →
    x.flag F.timeStatusCrosscheckFail = true →
    exec (.crosscheckTimeout tb2) s = .next ((x.wrFlag F.timeStatusCrosscheckFail false).emit 0x14
      (le 1 (if tb2 then 3 else 2) ++ x.nsBytes 0x14 (if tb2 then x.time.tb2 else x.time.tb1).offset ++ le 1 1))) ∧
  (∀ (s x : State), Runs s x → x.flag F.timeStatusAcquired = false → x.cfg F.timeAcquireTimeout * nsSecond ≤ x.since x.time.resetAt →
    exec .acquireTimeout s = .next ({ x with time := { x.time with anySource := true } } : State).tryAcquire) ∧
  (∀ (s x : State) (h : Hdr), Processed s h 0x1001 [] x → x.devState ≠ 1 →
    exec (.cmdTimeResync h) s = .next (x.respond h 0x1001 Res.wrongState [])) ∧
  (∀ (s x : State) (h : Hdr), Processed s h 0x1001 [] x → x.devState = 1 → x.firstQualified = none →
    exec (.cmdTimeResync h) s = .next (x.respond h 0x1001 Res.noSource [])) ∧
  (∀ (s x : State) (h : Hdr), Processed s h 0x1001 [] x → x.devState = 1 → x.firstQualified ≠ none →
    exec (.cmdTimeResync h) s = .next ((({ x with time := { x.time with step := some .resync } } : State).wrFlag F.timeGridStatusStepPending true).respond
      h 0x1001 Res.ok [])) ∧
  (∀ (s x : State), Runs s x → x.time.tickDue = 0 → x.rd F.timeFrameIndex = 40 → x.time.ppsEdge = none →
    exec .ppsMessage s = .next (
      let edge := x.second + 1
      let ideal := edge * nsSecond - x.cfg F.timePpsCableDelay
      let q := ppsQuant ideal
      let y := x.wrInt F.timePpsQuant q
      let m := y.todMessage edge q (taiUtcAt y.life.leaps edge) (leapPending y.life.leaps y.second)
      (({ y with time := { y.time with ppsEdge := some ((ideal : Int) + q / 1000).toNat, ppsRate := y.tb0Rate, ppsRest := 0 } } : State).put (.tod m)).emit 0x15 m)) ∧
  (∀ (s x : State) (e : Nat), Runs s x → x.time.ppsEdge = some e → x.withinTick e = true →
    exec .ppsEdge s = .next (State.put { x with
      time := { x.time with
        ppsEdge := none, ppsHigh := true, ppsFall := x.clock + (e - x.now) + x.cfg F.timePpsWidth * nsMs } } (.pps true e))) ∧
  (∀ (s x : State), Runs s x → x.time.ppsHigh = true → x.time.ppsFall < x.clock + nsTick →
    exec .ppsPulseEnd s = .next (State.put { x with time := { x.time with ppsHigh := false } }
      (.pps false ((x.now : Int) + ((x.time.ppsFall : Int) - x.clock)))))

/-- At a frame instant a source earlier in the order, qualified for time.revert_hold, takes the steering. A master port announces the
followed grandmaster one step further while TB0 follows the primary domain. At life.commit_interval the increments are added,
saturating at 2^48 - 1, into a new copy, the copy before it kept; a leap value that has come into force is written to life.tai_utc
and announced; the RTC takes UTC at acquisition and at each whole UTC hour. Outside its window DRAIN_PAGE does nothing; with less
than a page waiting it only shows the backlog; else it programs a page. The journal commands find the first page stamped at or
after an instant, read part of a page, and answer NOT_FOUND and OUT_OF_RANGE. -/
def Obligations.TimeOrderAndRecordsAreKept : Prop :=
  (∀ (s x : State) (cur y : TimeSrc), Runs s x → srcOfCode (x.rd F.timeStatusSource) = some cur →
    ((x.sourceOrder.takeWhile fun z => z ≠ cur).find? fun z => (x.source z).qualified &&
      decide (x.cfg F.timeRevertHold * nsSecond ≤ x.since (x.source z).since)) = some y →
    x.time.tickDue = 0 → x.cfg F.timeRevertHold ≠ 0 → x.flag F.timeStatusAcquired = true → x.sourceOrder.contains cur = true →
    exec .revertHoldExpiry s = .next (((x.steerTo y).trackRemaining).reportTime)) ∧
  (∀ (s x : State) (port : Fin 9) (a : Announce), Runs s x → x.masterPort port.val = true → x.time.masterKind = 0 → x.time.masterParent = some a →
    exec (.ptpAnnounceTx port) s = .next (x.put (.ptp port.val 4 (announceBytes a.gmIdentity a.priority1.toNat a.priority2.toNat
      a.clockClass.toNat a.accuracy.toNat a.variance.toNat (a.stepsRemoved.toNat + 1) ++ leInt 2 (x.rdInt F.lifeTaiUtc))))) ∧
  (∀ (s x : State), Runs s x → x.ready = true → x.writeGuard = false → x.cfg F.lifeCommitInterval ≤ x.life.sinceCommit →
    exec .lifetimeCommit s = .next { x with
      life := { x.life with
        committed := x.life.accrued.cells.foldl (fun (m : Nats) c => m.set c.1 (min (2 ^ 48 - 1) (m.get c.1 + c.2))) x.life.committed
        accrued := ⟨[]⟩, copySeq := x.life.copySeq + 1, older := x.life.committed, olderSeq := x.life.copySeq, sinceCommit := 0 } }) ∧
  (∀ (s x : State) (l : Leap), Runs s x → (x.life.leaps.filter fun l => decide (l.from_ ≤ x.second)).getLast? = some l → x.ready = true →
    x.rdInt F.lifeTaiUtc ≠ l.offset →
    exec .leapSecond s = .next ((x.wrInt F.lifeTaiUtc l.offset).leapEvent l (x.noValue 0xE1) 0)) ∧
  (∀ (s x : State), Runs s x → x.ready = true →
    (x.life.rtcDue = true ∨ (x.flag F.timeStatusAcquired = true ∧ x.time.tickDue = 0 ∧
      ((x.now : Int) - x.taiUtc * (nsSecond : Int)) % (3600 * nsSecond : Nat) = 0)) →
    exec .rtcWrite s = .next { x with
      life := { x.life with rtcDue := false, rtcValid := true, rtcUtc := (x.now : Int) - x.taiUtc * (nsSecond : Int) - x.clock } }) ∧
  (∀ (s x : State) (ok : Bool), Runs s x →
    (x.ready = false ∨ x.time.tickDue < x.deadline + 16 ∨ x.budget = 3 ∨ x.writeGuard = true ∨ x.pageLimit ≤ x.life.pagesThisFrame) →
    exec (.drainPage ok) s = .next x) ∧
  (∀ (s x : State) (ok : Bool), Runs s x → x.ready = true → x.deadline + 16 ≤ x.time.tickDue → x.budget ≠ 3 →
    x.writeGuard = false → x.life.pagesThisFrame < x.pageLimit →
    exec (.drainPage ok) s = .next (
      let y := x.fillCarry
      if y.life.carry.length < pageBody then (y.wr F.lifeRecBacklog (min y.backlog (2 ^ 30 - 1))).checkWear else
      let z := y.programPage ok
      (z.wr F.lifeRecBacklog (min z.backlog (2 ^ 30 - 1))).checkWear)) ∧
  (∀ (s x : State) (h : Hdr) (sec : BitVec 48) (ns : W32) (p : Page), Processed s h 0xE001 (le 6 sec.toNat ++ le 4 ns.toNat) x →
    x.life.pages.find? (fun p => decide (sec.toNat * nsSecond + ns.toNat ≤ p.at_)) = some p →
    exec (.cmdLifeJournalFind h sec ns) s = .next (x.respond h 0xE001 Res.ok (le 8 p.seq))) ∧
  (∀ (s x : State) (h : Hdr) (sec : BitVec 48) (ns : W32), Processed s h 0xE001 (le 6 sec.toNat ++ le 4 ns.toNat) x →
    x.life.pages.find? (fun p => decide (sec.toNat * nsSecond + ns.toNat ≤ p.at_)) = none →
    exec (.cmdLifeJournalFind h sec ns) s = .next (x.respond h 0xE001 Res.notFound [])) ∧
  (∀ (s x : State) (h : Hdr) (page : W64) (off : W16) (len : W32), Processed s h 0xE002 (le 8 page.toNat ++ le 2 off.toNat ++ le 4 len.toNat) x →
    (len = 0 ∨ 3968 < len.toNat ∨ 4096 < off.toNat + len.toNat) →
    exec (.cmdLifeJournalRead h page off len) s = .next (x.respond h 0xE002 Res.outOfRange [])) ∧
  (∀ (s x : State) (h : Hdr) (page : W64) (off : W16) (len : W32) (p : Page),
    Processed s h 0xE002 (le 8 page.toNat ++ le 2 off.toNat ++ le 4 len.toNat) x →
    len ≠ 0 → len.toNat ≤ 3968 → off.toNat + len.toNat ≤ 4096 → x.life.pages.find? (fun p => p.seq == page.toNat) = some p →
    exec (.cmdLifeJournalRead h page off len) s = .next (x.respond h 0xE002 Res.ok ((p.bytes.drop off.toNat).take len.toNat)))

/-- With its port ready, a trigger output is driven at a grid instant less its advance, at the nearest point of the 4 ns grid (the
earlier of two), and returns after inp.trig_width; IMU sync rises at each multiple of its period. An analog sample is limited to
its range and counted when beyond it, its run and marks advance and a finished entry goes to every stream of the channel, with
WIRE_FAULT where the run is in it or has come into it with this sample. A 4-20 mA current whose samples are out of range for 50 ms
is a wire fault. An answer to a sync edge, the first to it, is counted and rejected when it is malformed or the next edge came
first; a good one is taken. A stream that has had no sample for inp.stream_timeout reads NO_DATA, and so does an IMU port. -/
def Obligations.InputsAreTriggeredAndSampled : Prop :=
  (∀ (s x : State) (t : Fin 8), Runs s x → x.ready = true → trigPeriod (x.cfg (F.inpTrigPeriod t.val)) ≠ 0 →
    let adv := x.cfg (F.inpTrigAdvance t.val)
    let g := x.nextGrid t.val (trigPeriod (x.cfg (F.inpTrigPeriod t.val))) adv
    let edge := nearest4 (g - adv)
    x.withinTick edge = true →
    exec (.triggerEdge t) s = .next (State.put { x with
      inp := { (x.inp.edge t.val g edge) with
        trigHigh := x.inp.trigHigh.set t.val true
        trigFall := x.inp.trigFall.set t.val (x.clock + edge + x.cfg (F.inpTrigWidth t.val) * 1000 - x.now) } }
      (.trig t.val (x.cfg (F.inpTrigPolarity t.val) == 0) edge))) ∧
  (∀ (s x : State) (t : Fin 8), Runs s x → x.inp.trigHigh.get t.val = true → x.inp.trigFall.get t.val ≤ x.clock + nsTick →
    exec (.triggerPulseEnd t) s = .next (State.put { x with inp := { x.inp with trigHigh := x.inp.trigHigh.set t.val false } }
      (.trig t.val (x.cfg (F.inpTrigPolarity t.val) == 1) ((x.now : Int) + ((x.inp.trigFall.get t.val : Int) - x.clock))))) ∧
  (∀ (s x : State) (p : Fin 4), Runs s x → x.ready = true → imuPeriod (x.cfg (F.inpImuRate p.val)) ≠ 0 →
    let g := x.nextGrid (8 + p.val) (imuPeriod (x.cfg (F.inpImuRate p.val))) 0
    x.withinTick g = true →
    exec (.imuSyncEdge p) s = .next (State.put { x with inp := x.inp.edge (8 + p.val) g g } (.imuSync p.val g))) ∧
  (∀ (s x : State) (ch : Fin 16) (pins : Int), Runs s x → x.ready = true →
    let c := x.inp.ain.get ch.val
    let r := c.current
    let raw := ainInput r.source r.mode pins
    r.mode ≠ 0 → r.due ≤ (x.now : Int) →
    exec (.analogSampleComplete ch pins) s = .next (
      let (r', entry) := ainStep r raw
      let value := ainClip r.mode raw
      let y : State := { x with inp := { x.inp with
        ain := x.inp.ain.set ch.val (c.advance r'), latest := x.inp.latest.set ch.val (some (value, x.clockAt r.due)) } }
      let z := (if value = raw then y else y.inc (F.inpAinOverrangeCount ch.val)).enterAnalog ch.val r (r'.wire || r'.wireDue) entry
      if c.oldRun.isSome then z else z.setAin ch.val (ainStatus r'.wire r'.outside (decide (0 < ainUnsettled r raw))))) ∧
  (∀ (r : AinRun) (t : Nat), r.wireSince = some t → r.mode = 3 → (r.wireDue = true ↔ t + 50 * nsMs + ainPeriod r.preset ≤ r.next)) ∧
  (∀ (s x : State) (ch : Fin 16), Runs s x → (x.inp.ain.get ch.val).run.wireDue = true →
    exec (.wireFaultDetect ch) s = .next (({ x with inp := { x.inp with
      ain := x.inp.ain.set ch.val (x.inp.ain.get ch.val).detect } } : State).setAin ch.val 4)) ∧
  (∀ (s x : State) (p : Fin 4) (bytes : List Byte) (delay edge : Nat), Runs s x → x.imuAnswers p.val delay = some edge →
    imuPeriod (x.cfg (F.inpImuRate p.val)) ≠ 0 → (∀ u, x.inp.imuUsed.get p.val = some u → u < edge) →
    let y : State := { x with inp := { x.inp with imuUsed := x.inp.imuUsed.set p.val (some edge) } }
    ((imuGood bytes = false ∨ x.imuPassed p.val edge (edge + delay) = true) →
      exec (.imuFrameRx p bytes delay) s = .next ((y.inc (F.inpImuErrors p.val)).reject (x.streamsOf 2 p.val))) ∧
    (imuGood bytes = true → x.imuPassed p.val edge (edge + delay) = false →
      exec (.imuFrameRx p bytes delay) s = .next (y.takeImu p.val edge bytes))) ∧
  (∀ (s x : State) (st : Fin 45) (t : Nat), Runs s x → x.ready = true → x.cfg (F.inpStreamSourceKind st.val) ≠ 0 →
    x.inp.lastSample.get st.val = some t → x.cfg (F.inpStreamTimeout st.val) * nsMs ≤ x.since t →
    exec (.streamTimeout st) s = .next ((if x.cfg (F.inpStreamSourceKind st.val) = 2
      then x.wr (F.inpImuStatus (x.cfg (F.inpStreamSourceIndex st.val))) 2 else x).setStream st.val 5))

/-- A sentence on a serial input in use with no or a wrong checksum is counted as rejected on the streams of its port and code, and
one of no listed code on all of the port; a good one is taken by each stream of its code. For each group whose address and UDP
port a datagram bears, its sentences are taken in turn by the streams whose source matches, and one that is no IEC 61162-450
datagram is counted as rejected on the group's streams. A malformed sensor datagram to inp.dgram_port on a sensor port is rejected
for the streams of its identifier, a good one is taken by each. On a stream an arrival-stamped sample carries the arrival instant
less inp.stream_latency, a triggered one the grid instant of its edge, and one that matches no edge is rejected. -/
def Obligations.MessagesReachTheirStreams : Prop :=
  (∀ (s x : State) (k : Fin 4) (chars : List Byte) (start : Nat), Runs s x → x.ready = true → x.cfg (F.inpSerBaud k.val) ≠ 0 →
    exec (.serialSentenceRx k chars start) s = .next (
      let m := parseSentence chars
      let all := x.streamsOf 3 k.val
      let ks := all.filter fun j => x.cfg (F.inpStreamSourceSelector j) == m.code
      if m.checksumOk = false ∨ m.code = 0 then x.reject (if m.code = 0 then all else ks)
      else ks.foldl (fun y j => y.acceptRef j 3 (bit m.invalid) (y.inp.count.get j % 65536) m.code m.values start) x)) ∧
  (∀ (s x : State) (d : Datagram) (start : Nat), Runs s x → x.ready = true → x.bringsDatagrams d.port.val false = true →
    (∀ lines, parseL450 d.bytes = some lines →
      exec (.l450DatagramRx d start) s = .next ((x.l450Groups d).foldl (fun y g => lines.foldl (fun y l => y.sentence 4 g
        (fun k => y.cfg (F.inpL450Src k) == 0 || y.cfg (F.inpL450Src k) == l.source) l.count l.sentence start) y) x)) ∧
    (parseL450 d.bytes = none →
      exec (.l450DatagramRx d start) s = .next ((x.l450Groups d).foldl (fun y g => y.reject (y.streamsOf 4 g)) x))) ∧
  (∀ (s x : State) (d : Datagram) (start : Nat), Runs s x → x.ready = true → x.bringsDatagrams d.port.val true = true → d.udp.toNat = x.cfg F.inpDgramPort →
    datagramGood d.bytes = false →
    exec (.sensorDatagramRx d start) s = .next (x.reject (x.datagramStreams d.bytes))) ∧
  (∀ (s x : State) (d : Datagram) (start : Nat), Runs s x → x.ready = true → x.bringsDatagrams d.port.val true = true → d.udp.toNat = x.cfg F.inpDgramPort →
    datagramGood d.bytes = true →
    exec (.sensorDatagramRx d start) s =
      .next ((x.datagramStreams d.bytes).foldl (fun y k => y.takeDatagram k d.bytes start) x)) ∧
  (∀ (x : State) (k kind flags seq typ : Nat) (vals : List F64) (start : Nat), x.cfg (F.inpStreamTimingCls k) ≠ 0 →
    x.acceptRef k kind flags seq typ vals start = x.enterRef k kind flags seq typ vals (start - x.cfg (F.inpStreamLatency k) * 1000)) ∧
  (∀ (x : State) (k kind flags seq typ : Nat) (vals : List F64) (start g : Nat), x.cfg (F.inpStreamTimingCls k) = 0 →
    x.linkedStamp k start = some g → x.acceptRef k kind flags seq typ vals start = x.enterRef k kind flags seq typ vals g) ∧
  (∀ (x : State) (k kind flags seq typ : Nat) (vals : List F64) (start : Nat), x.cfg (F.inpStreamTimingCls k) = 0 →
    x.linkedStamp k start = none → x.acceptRef k kind flags seq typ vals start = x.inc (F.inpStreamRejects k))

/-- CMD_GNSS_LAYUP is accepted in the joystick and manual modes for up to 720 h, answered WRONG_STATE elsewhere and OUT_OF_RANGE
beyond; CMD_GNSS_WAKE is accepted while a lay-up is in progress. At a frame instant the lay-up ends for the command, a new mode or
its elapsed duration. Outside Survival a due keep-alive powers and wakes the receiver once and schedules the next; it ends when
complete or after 15 min, the receiver powered down again, with EV_GNSS_KEEPALIVE. Outside lay-up a starting receiver with a fix
of at least four satellites, each with EPHEMERIS_VALID and CARRIER_VALID, at a frame instant has started, and its records are
written. -/
def Obligations.LayupSleepsAndWakes : Prop :=
  (∀ (s x : State) (h : Hdr) (hours : W16), Processed s h 0x2001 (le 2 hours.toNat) x →
    exec (.cmdGnssLayup h hours) s = .next (
      if x.rd F.ctlMode ≠ 4 ∧ x.rd F.ctlMode ≠ 5 then x.respond h 0x2001 Res.wrongState []
      else if 720 < hours.toNat then x.respond h 0x2001 Res.outOfRange []
      else ({ x with gnss := { x.gnss with layupReq := some hours.toNat } } : State).respond h 0x2001 Res.ok [])) ∧
  (∀ (s x : State) (h : Hdr), Processed s h 0x2002 [] x →
    exec (.cmdGnssWake h) s = .next (
      if x.gnss.layup then ({ x with gnss := { x.gnss with wakeReq := some 1 } } : State).respond h 0x2002 Res.ok []
      else x.respond h 0x2002 Res.wrongState [])) ∧
  (∀ (s x : State) (c : Nat), Runs s x → x.atTick 0 = true → x.gnss.layup = true → x.gnss.wakeReq = some c →
    exec .layupEnd s = .next (x.endLayup c)) ∧
  (∀ (s x : State) (e : Nat), Runs s x → x.atTick 0 = true → x.gnss.layup = true → x.gnss.wakeReq = none → x.gnss.layupEnd = some e →
    exec .layupEnd s = .next (if e ≤ x.clock then x.endLayup 0 else x)) ∧
  (∀ (s x : State), Runs s x → x.gnss.layup = true → x.gnss.nextWake ≤ x.clock → x.budget ≠ 3 →
    exec .keepaliveWake s = .next (
      let y : State := { x with gnss := { x.gnss with
        nextWake := nextScheduled x.gnss.nextWake (x.cfg F.gnssLayupWakeInterval * nsHour) x.clock } }
      if x.gnss.wakeSince.isSome = true then y else
      (({ y with gnss := { y.gnss with wakeSince := some y.clock, wakeRx := y.cfg F.gnssLayupReceiver, wakeEphs := 0 } } :
        State).powerRx).showLayup)) ∧
  (∀ (s x : State) (t : Nat), Runs s x → x.gnss.wakeSince = some t →
    (x.keepaliveComplete = true ∨ 15 * 60 * nsSecond ≤ x.since t) →
    exec .keepaliveEnd s = .next (((({ x with gnss := { x.gnss with wakeSince := none } } : State).powerRx).showLayup).emit 0x23
      (le 1 x.gnss.wakeRx ++ le 4 (Float.fratio (x.since t) nsSecond).toNat ++ le 4 x.gnss.wakeEphs ++
        le 1 (bit (!x.keepaliveComplete))))) ∧
  (∀ (s x : State) (rx : Fin 3), Runs s x → x.atTick 0 = true → x.gnss.on.get rx.val = true → x.gnss.starting.get rx.val = true →
    x.gnss.layup = false → (x.gnss.fixes.any fun f => f.rx == rx && x.goodFix f) = true →
    exec (.gnssStartComplete rx) s = .next ((({ x with gnss := { x.gnss with
      starting := x.gnss.starting.set rx.val false } } : State).writeRecords (x.gnss.records.filter fun r => r.rx == rx)).showRx rx.val))

/-- In its phase the references are tested, both groups voted on and the weights sent; without weights by F+4.8 the held ones apply; a
pair that disagrees for coll.vote_split_confirm frames is a split; probation without failure makes a reference VALID. The vote
commands are taken as requests whatever their arguments; at the frame instant one that names no group, reference or value of the
rules is answered OUT_OF_RANGE. Inconsistency of a receiver is set and cleared with its counts, warming ends after coll.dn_warmup
frames, blocking after coll.env_reentry frames inside. GATHERING_CLOSE at F+4 fixes the Gathering once: it marks the entries
applied or discarded, sends the prediction and the re-run or starts the offload. -/
def Obligations.ReferencesAreVotedOn : Prop :=
  (∀ (s x : State), Runs s x → x.voteDue = true →
    exec .referenceVote s = .next (((x.testSamples.voteOn 0).voteOn 1).sendWeights)) ∧
  (∀ (s x : State), Runs s x → x.atCore 39 = true → x.vote.voted = false → x.coll.closed = true →
    exec .weightsDeadline s = .next { x with coll := { x.coll with held := true } }) ∧
  (∀ (s x : State) (g : VGroup), Runs s x → x.vote.voted = true → (x.group (vgroup g)).pair ≠ [] →
    x.cfg F.collVoteSplitConfirm ≤ (x.group (vgroup g)).run →
    exec (.splitConfirm g) s = .next (((groupRefs (vgroup g)).foldl (fun y i => y.showRef i)
      (x.enterSplit (vgroup g) 5 (x.group (vgroup g)).pair (x.group (vgroup g)).diff)).showGroup (vgroup g) (x.group (vgroup g)).pair.length)) ∧
  (∀ (s x : State) (r : Fin 12), Runs s x → x.ready = true → x.rd (F.collVoteRefStatus r.val) = 3 →
    x.cfg F.collVoteRecoverTime * nsSecond ≤ x.since (x.ref r.val).since →
    exec (.probationEnd r) s = .next ((x.setRef r.val { (x.ref r.val) with valid := true, ramp := 0 }).showRef r.val)) ∧
  (∀ (x : State) (h : Hdr) (g ref : Nat), (1 < g ∨ (ref ≠ 15 ∧ (groupRefs g).contains ref = false)) →
    x.voteCommand ⟨h, false, g, ref⟩ = x.respond h 0x4001 Res.outOfRange []) ∧
  (∀ (s x : State) (h : Hdr) (g ref : Byte), Processed s h 0x4001 [g, ref] x →
    exec (.cmdVoteSelect h g ref) s = .next (({ x with vote := { x.vote with
      requests := x.vote.requests ++ [⟨h, false, g.toNat, ref.toNat⟩] } } : State).awaitReply h)) ∧
  (∀ (x : State) (h : Hdr) (ref excl : Nat), (11 < ref ∨ 1 < excl) →
    x.voteCommand ⟨h, true, ref, excl⟩ = x.respond h 0x4002 Res.outOfRange []) ∧
  (∀ (s x : State) (h : Hdr) (ref excl : Byte), Processed s h 0x4002 [ref, excl] x →
    exec (.cmdVoteExclude h ref excl) s = .next (({ x with vote := { x.vote with
      requests := x.vote.requests ++ [⟨h, true, ref.toNat, excl.toNat⟩] } } : State).awaitReply h)) ∧
  (∀ (s x : State) (rx : Fin 3), Runs s x → testBit (x.rd F.collRxConsistency) rx.val = true →
    x.cfg F.collRxRecoverFrames ≤ x.coll.rxGood.get rx.val →
    exec (.rxConsistencyCount rx) s =
      .next ((x.wr F.collRxConsistency (putBit (x.rd F.collRxConsistency) rx.val false)).emit 0x42 (le 1 rx.val ++ le 1 1))) ∧
  (∀ (s x : State) (rx : Fin 3), Runs s x → testBit (x.rd F.collRxConsistency) rx.val = false →
    x.cfg F.collRxInconsistentFrames ≤ x.coll.rxBad.get rx.val →
    exec (.rxConsistencyCount rx) s =
      .next ((x.wr F.collRxConsistency (putBit (x.rd F.collRxConsistency) rx.val true)).emit 0x42 (le 1 rx.val ++ le 1 0))) ∧
  (∀ (s x : State) (n : Nat), Runs s x → x.coll.dnWarm = some n → x.ready = true → x.cfg F.collDnWarmup ≤ n →
    exec .dnWarmupEnd s = .next ({ x with coll := { x.coll with dnWarm := none } } : State).showDn) ∧
  (∀ (s x : State), Runs s x → x.ready = true → x.coll.blocked = true → x.flag F.collEnvBinOutside = false →
    x.cfg F.collEnvReentry ≤ x.coll.inside →
    exec .envReentry s = .next ({ x with coll := { x.coll with blocked := false } } : State).showDn) ∧
  (∀ (s x : State), Runs s x → x.atCore 32 = true → x.coll.closed = false →
    exec .gatheringClose s = .next (
      let w := x.closeWork
      let y := ((x.discardLate w).takeGathering w).markEntries w
      if x.offloading && !w.late.isEmpty then y.startOffload else y))

/-- A unit whose power has ramped up is ready within 1.5 ms. Of a completed solve job: during a Rapid Check, or when its transfer to
the lanes failed, it is held; descriptors that differ are a disagreement and a counted rejection, and the job is lost; else its
status and its check code over status and result are kept, and it is lost on overflow, ends the solve when too large, is counted
and lost when a lane rejects it (its check code as the lane received it does not hold, it names another job or frame, or the
column checked is wrong), and is else accepted; a re-run of the Collator goes to the Collator. A job overdue by 4 ms makes its
unit FAULTED. Each unit is tested once between the deadline and the frame instant. At tick D the window closes: an aborted job,
with the OVERFLOW that it had come to, and a truncated incumbent are marked, and the TEST jobs start. Degraded control is set at
the third stale frame in a row and cleared after ctl.degraded_clear others. CMD_SOLVER_STATS_CLEAR is accepted. -/
def Obligations.SolverUnitsWork : Prop :=
  (∀ (s x : State) (u : Fin 4), Runs s x → x.ready = true → x.solv.powered.get u.val = true → x.unitState u.val = 0 →
    300000 < x.since (x.solv.poweredAt.get u.val) + nsTick → x.since (x.solv.poweredAt.get u.val) ≤ 1500000 →
    exec (.unitReady u) s = .next (
      let y := x.wr (F.ctlUnitStatusState u.val) 1
      if y.solv.isOpen ∧ y.solv.fallUnit = some u.val then y.startJob y.clock u.val else y)) ∧
  (∀ (s x : State) (r : JobResult), Runs s x → x.jobDue r = true → x.lane.rapid = true ∨ x.isWithheld (.result r.unit) = true →
    exec (.solverJobComplete r) s = .next { x with solv := { x.solv with held := x.solv.held ++ [r] } }) ∧
  (∀ (s x : State) (r : JobResult), Runs s x → x.jobDue r = true → x.lane.rapid = false → x.isWithheld (.result r.unit) = false →
    x.coll.offload = .waiting →
    exec (.solverJobComplete r) s = .next (x.offloadJob r)) ∧
  (∀ (s x : State) (r : JobResult), Runs s x → x.jobDue r = true → x.lane.rapid = false → x.isWithheld (.result r.unit) = false →
    x.coll.offload ≠ .waiting → x.solv.isOpen = true → r.descDiffer = true → x.twoLanes = true →
    exec (.solverJobComplete r) s = .next (
      let y := (x.noteVerdicts false true).countRejection r.unit.val (r.atUs - 6000)
      if y.solv.next = .none then y else y.lostJob false (r.atUs - 6000))) ∧
  (∀ (s x : State) (r : JobResult), Runs s x → x.jobDue r = true → x.lane.rapid = false → x.isWithheld (.result r.unit) = false →
    x.coll.offload ≠ .waiting → x.solv.isOpen = true → (r.descDiffer = false ∨ x.twoLanes = false) →
    exec (.solverJobComplete r) s = .next (
      let u := r.unit.val
      let atUs := r.atUs - 6000
      let o := x.runJob r.flaw
      let z := (x.noteOverflow u (some o.kind) o.overflow o.nonfinite).holdResult u o r.ecc
      if o.overflow || o.nonfinite then z.lostJob true atUs
      else if o.tooLarge then z.solveStall atUs
      else
        let wrong := fun err : W32 => !checkHolds o.words z.solv.last err || !(r.job == z.solv.jobSeq && r.frame.toNat == z.rd F.timeFrameNumber) ||
          !z.columnGood o
        let v := z.noteVerdicts (wrong r.errDuty) (wrong r.errPartner)
        if v.rejectedBy (wrong r.errDuty) (wrong r.errPartner) then
          let w := v.countRejection u atUs
          if w.solv.isOpen && w.solv.next == v.solv.next then w.lostJob false atUs else w
        else v.acceptJob o u atUs)) ∧
  (∀ (x : State) (u : Nat) (o : JobOutcome) (ecc : Bool), (x.holdResult u o ecc).solv.last =
    (⟨firstBreakdown o.factors, o.overflow || o.nonfinite, o.nonfinite, false, ecc, o.tooLarge, none⟩ : JobStatus).checked o.words) ∧
  (∀ (s x : State) (u : Fin 4) (t : Nat), Runs s x → x.ready = true → x.solv.jobFrom.get u.val = some t → 4 * nsMs ≤ x.since t →
    exec (.solverJobTimeout u) s = .next (x.unitFault u.val 2 x.solveUs)) ∧
  (∀ (s x : State) (u : Fin 4) (ok : Bool), Runs s x → x.ready = true → x.deadline ≤ x.time.tickDue → x.solv.powered.get u.val = true →
    x.solv.tested.get u.val = false → (x.unitState u.val = 1 ∨ x.unitState u.val = 2) → x.solv.isOpen = false →
    let y := ({ x with solv := { x.solv with tested := x.solv.tested.set u.val true } } : State).endUnit u.val
    exec (.unitTestJob u ok) s = .next (if ok then y else y.unitFault u.val 1 y.solveUs)) ∧
  (∀ (s x : State) (inJob : Option Bool), Runs s x → x.atTick x.deadline = true → x.solv.isOpen = true →
    exec (.solveDeadline inJob) s = .next (
      let y := match inJob with
        | some reached => x.abortJob reached
        | none => x
      let z := if y.solv.incumbent then y.solveBit svTruncated else y
      (({ z with solv := { z.solv with isOpen := false, ended := none } } : State).clearJobs).startTests)) ∧
  (∀ (s x : State), Runs s x → x.degraded = false → 3 ≤ x.rd F.ctlStaleRun →
    exec .controlDegradedCount s = .next (((x.wr F.ctlSolveStatus (putBit (x.rd F.ctlSolveStatus) svDegraded true)).inc
      F.ctlCountDegraded).emit 0x53 (le 1 0 ++ le 4 (x.rd F.ctlStaleRun)))) ∧
  (∀ (s x : State), Runs s x → x.degraded = true → x.cfg F.ctlDegradedClear ≤ x.solv.notStale →
    exec .controlDegradedCount s = .next ((x.wr F.ctlSolveStatus (putBit (x.rd F.ctlSolveStatus) svDegraded false)).emit 0x53
      (le 1 1 ++ le 4 (x.rd F.ctlStaleRun)))) ∧
  (∀ (s x : State) (h : Hdr), Processed s h 0x5001 [] x →
    exec (.cmdSolverStatsClear h) s = .next (({ x with solv := { x.solv with clearStats := true } } : State).respond h 0x5001 Res.ok []))

/-- The control commands wait for the frame instant in the order they came, and the response with them; a track of fewer than 2 or
more than 32 waypoints is OUT_OF_RANGE, and one whose length does not match BAD_LENGTH. A split that has lasted
coll.vote_split_timeout is timed out, which ends position keeping and track following for drift limiting. A joystick demand not
renewed for ctl.joystick_timeout is zero, with EV_JOYSTICK_TIMEOUT. At F+6 the estimate is published once after the close, one
tick later when its transfer to the lanes failed once and as absent when it failed twice, the lanes' verdicts on it noted, and the
solve posed; at tick D + 4 the outcome of the solve is decided and the setpoints are published once. -/
def Obligations.ControlRequestsAreTaken : Prop :=
  (∀ (s x : State) (h : Hdr) (m : Byte), Processed s h 0x5002 [m] x →
    exec (.cmdCtlMode h m) s = .next (({ x with ctl := { x.ctl with requests := x.ctl.requests ++ [(h, .mode m.toNat)] } } : State).awaitReply h)) ∧
  (∀ (s x : State) (h : Hdr) (lat lon : F64) (hd : F32), Processed s h 0x5003 (le 8 lat.toNat ++ le 8 lon.toNat ++ le 4 hd.toNat) x →
    exec (.cmdCtlSetpoint h lat lon hd) s =
      .next (({ x with ctl := { x.ctl with requests := x.ctl.requests ++ [(h, .setpoint lat lon hd)] } } : State).awaitReply h)) ∧
  (∀ (s x : State) (h : Hdr) (a b c : F32), Processed s h 0x5004 (le 4 a.toNat ++ le 4 b.toNat ++ le 4 c.toNat) x →
    exec (.cmdCtlJoystick h a b c) s =
      .next (({ x with ctl := { x.ctl with requests := x.ctl.requests ++ [(h, .joystick a b c)] } } : State).awaitReply h)) ∧
  (∀ (s x : State) (h : Hdr) (n : Byte) (a b c : F32), Processed s h 0x5005 ([n] ++ le 4 a.toNat ++ le 4 b.toNat ++ le 4 c.toNat) x →
    exec (.cmdCtlManual h n a b c) s =
      .next (({ x with ctl := { x.ctl with requests := x.ctl.requests ++ [(h, .manual n.toNat a b c)] } } : State).awaitReply h)) ∧
  (∀ (s x : State) (h : Hdr) (n : W32) (w : List (F64 × F64 × F32 × F32)),
    Processed s h 0x5006 (le 4 n.toNat ++ w.flatMap waypointBytes) x → 2 ≤ n.toNat → n.toNat ≤ 32 → w.length = n.toNat →
    exec (.cmdCtlTrackLoad h n w) s =
      .next (({ x with ctl := { x.ctl with requests := x.ctl.requests ++ [(h, .track w)] } } : State).awaitReply h)) ∧
  (∀ (s x : State) (h : Hdr) (n : W32) (w : List (F64 × F64 × F32 × F32)),
    Processed s h 0x5006 (le 4 n.toNat ++ w.flatMap waypointBytes) x →
    ((n.toNat < 2 ∨ 32 < n.toNat) → exec (.cmdCtlTrackLoad h n w) s = .next (x.respond h 0x5006 Res.outOfRange [])) ∧
    (2 ≤ n.toNat → n.toNat ≤ 32 → w.length ≠ n.toNat → exec (.cmdCtlTrackLoad h n w) s = .next (x.respond h 0x5006 Res.badLength []))) ∧
  (∀ (s x : State) (g : VGroup), Runs s x → x.splitTimeoutDue (vgroup g) = true →
    exec (.splitTimeout g) s = .next (
      let y := x.splitTimedOut (vgroup g)
      if y.mode = 1 ∨ y.mode = 2 then y.setMode 6 modeDriftEntry else y)) ∧
  (∀ (s x : State), Runs s x → x.ready = true → x.mode = 4 → x.flag F.ctlStatusJoystickTimeout = false →
    x.cfg F.ctlJoystickTimeout * nsMs ≤ x.since x.ctl.joyAt →
    exec .joystickTimeout s = .next ((({ x with ctl := { x.ctl with joyX := 0, joyY := 0, joyN := 0 } } : State).wr
      F.ctlStatusJoystickTimeout 1).emit 0x5A (le 1 0))) ∧
  (∀ (s x : State) (cd cp : Bool), Runs s x → x.atTransfer 48 .estimate = true ∨ (x.isAbsent .estimate = true ∧ x.atTick 49 = true) →
    x.coll.closed = true → x.coll.published = false →
    exec (.estimatePublish cd cp) s = .next (
      let y := x.publishEstimate (x.isAbsent .estimate || (cd || (x.twoLanes && cp)))
      let bad := !y.estimateSound
      ((y.noteVerdicts (cd || bad) (cp || bad)).noteAbsent).pose)) ∧
  (∀ (s x : State) (bd bp : Bool), Runs s x → x.atCore (x.deadline + 4) = true → x.time.tickDue < x.deadline + 8 →
    x.ctl.spPublished = false →
    exec (.setpointPublish bd bp) s = .next (x.solveOutcome bd bp).publishSetpoints)

/-- A channel on the bus acknowledges a frame that ends in the tick in normal mode, stamps it, matches it to a target under the table
of its start, and lowers its receive error counter; a remote or unmatched frame is counted. At a tick boundary the frames that
ended before it enter their targets, unless their transfer failed. A completed frame of a channel in normal mode goes out with the
stamp of its start of frame and the ESI of the channel, leaves its queue and lowers the transmit error counter; one whose lifetime
ends before its start of frame is dropped, and one on the bus then goes on. An error, of sending only where the channel may send,
moves the counters and they give the channel its state, bus-off from 256 on; bus-off, after 1,408 bit times, and a change of
timing, after 11, end in error-active. CMD_CAN_BUF_READ gives a buffer's record and clears OVERWRITTEN, or an empty record;
CMD_CAN_FIFO_READ takes up to 48 of the oldest records out; beyond their ranges both are OUT_OF_RANGE. -/
def Obligations.FieldChannelsCarryFrames : Prop :=
  (∀ (s x : State) (ch : Fin 8) (f : CanFrame) (sof eof : Nat), Runs s x → x.ready = true → x.onBus ch.val sof = true → x.now ≤ eof → x.withinTick eof = true →
    exec (.canFrameRx ch f sof eof) s = .next (
      let y := if (x.folioFor sof).val (F.canModeMode ch.val) = 1 then x.put (.canAck ch.val) else x
      ((y.wasBusy ch.val (eof - sof)).takeFrame ch.val sof eof f).lessRec ch.val)) ∧
  (∀ (y : State) (c sof eof : Nat) (f : CanFrame), f.rtr = true ∨ (y.folioFor sof).canTarget c f = none →
    y.takeFrame c sof eof f = y.inc (F.canRxUnmatched c)) ∧
  (∀ (y : State) (c sof eof : Nat) (f : CanFrame) (t : CanTarget), f.rtr = false → (y.folioFor sof).canTarget c f = some t →
    y.takeFrame c sof eof f = { y with can := { y.can with rx := y.can.rx ++ [⟨⟨stampOf sof, c, f⟩, t, eof⟩] } }) ∧
  (∀ (s x : State) (ch : Fin 8), Runs s x → x.ready = true → x.isWithheld (.can ch) = false →
    exec (.canRxDeliver ch) s = .next (x.deliverWhere fun y => y.rec_.chan == ch.val && decide (y.eof < x.now))) ∧
  (∀ (s x : State) (ch : Fin 8) (sof eof : Nat) (i : TxItem), Runs s x → x.ready = true → x.onBus ch.val sof = true → x.now ≤ eof → x.withinTick eof = true →
    (x.folioFor sof).val (F.canModeMode ch.val) = 1 → x.sending ch.val sof = some i →
    exec (.canFrameTxComplete ch sof eof true) s = .next (((x.wasBusy ch.val (eof - sof)).completeTx ch.val sof i).lessTec ch.val) ∧
    exec (.canFrameTxComplete ch sof eof false) s = .next x) ∧
  (∀ (x : State) (c sof : Nat) (i : TxItem),
    (x.completeTx c sof i).outputs = x.outputs ++ [.can c (stampOf sof) { i.frame with esi := x.rd (F.canStatusState c) == 2 }] ∧
    (x.completeTx c sof i).can.tx = x.can.tx.set c ((x.can.tx.get c).erase i)) ∧
  (∀ (s x : State) (ch : Fin 8) (k : TxKind), Runs s x → x.ready = true →
    exec (.canLifetimeEnd ch ⟨k, false⟩) s = .next (x.dropTx ch.val fun i => i.kind == k && decide (i.ends < x.clock + nsTick)) ∧
    exec (.canLifetimeEnd ch ⟨k, true⟩) s = .next x) ∧
  (∀ (s x : State) (ch : Fin 8) (e : CanErr) (busyNs : Nat), Runs s x → x.ready = true → x.onBus ch.val x.now = true →
    (x.cfg (F.canModeMode ch.val) = 2 → e ≠ .transmit ∧ e ≠ .ack) →
    exec (.canBusError ch e busyNs) s = .next (
      let d := errorStep e (x.rd (F.canStatusState ch.val) == 2)
      let tec := x.rd (F.canStatusTec ch.val) + d.1
      let recv := x.rd (F.canStatusRec ch.val) + d.2
      (x.wasBusy ch.val busyNs).setBusState ch.val (if 256 ≤ tec then 3 else if 128 ≤ tec ∨ 128 ≤ recv then 2 else 1) tec recv)) ∧
  (∀ (s x : State) (ch : Fin 8), Runs s x → x.ready = true → x.rd (F.canStatusState ch.val) = 3 → x.can.resync.get ch.val = false →
    x.can.offAt.get ch.val + 1408 * x.active.nominalBit ch.val < x.clock + nsTick →
    exec (.canBusoffRecovery ch) s = .next (x.setBusState ch.val 1 0 0)) ∧
  (∀ (s x : State) (ch : Fin 8), Runs s x → x.ready = true → x.can.resync.get ch.val = true →
    x.turnedAt + 11 * x.active.nominalBit ch.val < x.clock + nsTick →
    exec (.canTimingResync ch) s = .next
      (({ x with can := { x.can with resync := x.can.resync.set ch.val false } } : State).setBusState ch.val 1 0 0)) ∧
  (∀ (s x : State) (h : Hdr) (n : W16), Processed s h 0x8001 (le 2 n.toNat) x →
    (1087 < n.toNat → exec (.cmdCanBufRead h n) s = .next (x.respond h 0x8001 Res.outOfRange [])) ∧
    (n.toNat ≤ 1087 → (x.can.bufs.get n.toNat).rec_ = none →
      exec (.cmdCanBufRead h n) s = .next (x.respond h 0x8001 Res.ok (le 9 0 ++ le 1 2 ++ le 70 0))) ∧
    (∀ r, n.toNat ≤ 1087 → (x.can.bufs.get n.toNat).rec_ = some r →
      exec (.cmdCanBufRead h n) s = .next (({ x with can := { x.can with
        bufs := x.can.bufs.set n.toNat { (x.can.bufs.get n.toNat) with overwritten := false } } } : State).respond h 0x8001 Res.ok
          (r.bytes (x.can.bufs.get n.toNat).overwritten)))) ∧
  (∀ (s x : State) (h : Hdr) (c : Byte) (n : W32), Processed s h 0x8002 ([c] ++ le 4 n.toNat) x →
    ((7 < c.toNat ∨ n.toNat = 0 ∨ 48 < n.toNat) → exec (.cmdCanFifoRead h c n) s = .next (x.respond h 0x8002 Res.outOfRange [])) ∧
    (c.toNat ≤ 7 → n.toNat ≠ 0 → n.toNat ≤ 48 →
      exec (.cmdCanFifoRead h c n) s = .next (
        let q := x.can.fifo.get c.toNat
        ({ x with can := { x.can with fifo := x.can.fifo.set c.toNat (q.drop n.toNat) } } : State).respond h 0x8002 Res.ok
          (le 4 (q.take n.toNat).length ++ (q.take n.toNat).flatMap fun r => r.bytes false))))

/-- At a due instant a cycle starts: period and changes, the cycle count while running, the latched input, the marks. At C + W it
takes remote replies, counts missing ones, completes the input and executes with inputs, and variables in a working copy, forced.
An overrun past its limit, an index or a stack fault stops the logic. Within the tick of its completion the commit takes over
images and working copy under the forces, notes what changed, shows the execution time, sends up to 16 user events and queues
outputs. In the idle phase a changed page of the retained data, or the page under way, goes into the older mirror copy, whose
check code is wrong until no page differs; the copy is then the newer. Validation drops a bad program and swaps a good one in
later. -/
def Obligations.LogicCyclesRun : Prop :=
  (∀ (s x : State) (t : Nat), Runs s x → x.cycleInstant = some t →
    exec .logicCycleStart s = .next (
      let y := (((({ x with logic := { x.logic with moveNs := 0 } } : State).newPeriod t)).cycleChanges).noteRetain x.logic.retain
      let y := if y.logicState = 2 then y.wr F.logicCycleCount (y.rd F.logicCycleCount + 1) else y
      (y.latchInput t).queueMarks t)) ∧
  (∀ (s x : State), Runs s x → x.ready = true → x.logic.phase = 1 → x.logic.cycleAt + x.cfg F.logicReplyWindow * 1000 < x.now + nsTick →
    exec .replyWindowEnd s = .next (
      let y := ((x.deliverWhere fun f => f.target == .remote &&
        decide (f.eof < x.logic.cycleAt + x.cfg F.logicReplyWindow * 1000)).countMissing).completeInput
      if y.logic.phase = 2 then y.forceInputs else y)) ∧
  (∀ (s x : State), Runs s x → x.ready = true → x.logic.phase = 2 →
    exec (.logicOverrun .index) s = .next (x.faultLogic 2) ∧ exec (.logicOverrun .stack) s = .next (x.faultLogic 3) ∧
    (x.execLimit < x.now + nsTick → exec (.logicOverrun .overrun) s = .next ((x.inc F.logicOverrunCount).faultLogic 1)) ∧
    (x.now + nsTick ≤ x.execLimit → exec (.logicOverrun .overrun) s = .next x)) ∧
  (∀ (s x : State) (o : LogicOut), Runs s x → x.ready = true → x.lane.rapid = false → x.logic.phase = 2 →
    x.completion o ≤ x.execLimit → x.withinTick (x.completion o) = true →
    exec (.logicCommit o) s = .next (((((x.commitImages o).noteRetain x.logic.retain).showExec
      (x.execTime o)).userEvents o).queueOutputs (x.completion o))) ∧
  (∀ (s x : State) (p : Nat), Runs s x → x.ready = true → (x.logic.mirrorPage = some p ∨
      (x.logic.mirrorPage = none ∧ x.logic.phase = 0 ∧ x.logic.mirrorDue = true ∧ x.writeGuard = false ∧ x.changedPages.head? = some p)) →
    exec .retainMirrorWrite s = .next (State.nextPage { x with
      logic := { x.logic with
        mirror := x.logic.mirror.set (1 - x.logic.newest) { x.logic.mirror.get (1 - x.logic.newest) with
          bytes := copyPage x.logic.retain (x.logic.mirror.get (1 - x.logic.newest)).bytes p, valid := false }
        mirrorPage := none } })) ∧
  (∀ (s x : State), Runs s x → x.ready = true → x.logic.mirrorPage = none → x.logic.phase = 0 → x.logic.mirrorDue = true →
    x.writeGuard = false → x.changedPages = [] →
    exec .retainMirrorWrite s = .next { x with
      logic := { x.logic with
        mirror := x.logic.mirror.set (1 - x.logic.newest) { x.logic.mirror.get (1 - x.logic.newest) with
          cycle := x.logic.committed.getD 0, progId := x.logic.retainProg.getD 0, valid := x.logic.retainProg.isSome }
        newest := 1 - x.logic.newest, mirrorDue := false } }) ∧
  (∀ (s x : State) (i : ProgInfo) (c : LogicChange), Runs s x → x.logic.change = some c → x.ready = true → c.info = none →
    (x.writeGuard = true → exec (.logicValidationDone i) s = .next (x.dropChange.respond c.hdr 0x7002 Res.writeGuard [])) ∧
    (x.writeGuard = false → programResult i ≠ Res.ok →
      exec (.logicValidationDone i) s = .next (x.dropChange.respond c.hdr 0x7002 (programResult i) [])) ∧
    (x.writeGuard = false → programResult i = Res.ok → exec (.logicValidationDone i) s = .next (x.takeProgram c i)))

/-- CMD_LOGIC_LOAD writes to the inactive slot and shows the program unless a change pends, the length or the place is wrong, or the
Write Guard is tripped. CMD_LOGIC_CHANGE waits for validation. START abandons a pending change and restarts at the next cycle;
STOP stops unless the logic commands the mode. FORCE is refused without a program, by place, by name or when full, and otherwise
joins the operations of the next cycle, as does UNFORCE of a forced target or of all. REPORT gives whole lines from one on;
VAR_READ gives a variable's bytes and its type. -/
def Obligations.LogicCommandsAct : Prop :=
  (∀ (s x : State) (h : Hdr) (off : W32) (d : List Byte), Processed s h 0x7001 (le 4 off.toNat ++ d) x →
    exec (.cmdLogicLoad h off d) s = .next (
      if x.logic.change.isSome then x.respond h 0x7001 Res.wrongState []
      else if d = [] ∨ 3968 < d.length then x.respond h 0x7001 Res.badLength []
      else if 4608 * 1024 < off.toNat + d.length then x.respond h 0x7001 Res.outOfRange []
      else if x.writeGuard then x.respond h 0x7001 Res.writeGuard []
      else
        let k := 1 - x.activeSlot
        let old := if off.toNat = 0 then noProgram 0 else x.logic.slots.get k
        let slot : LogicSlot := ⟨old.bytes.writeBytes off.toNat d, max old.size (off.toNat + d.length), none⟩
        (({ x with logic := { x.logic with slots := x.logic.slots.set k slot } } : State).showProgram).respond h 0x7001 Res.ok [])) ∧
  (∀ (s x : State) (h : Hdr) (r : Byte), Processed s h 0x7002 [r] x →
    (1 < r.toNat → exec (.cmdLogicChange h r) s = .next (x.respond h 0x7002 Res.outOfRange [])) ∧
    (r.toNat ≤ 1 → (x.logic.change ≠ none ∨ (r.toNat = 0 ∧ x.logicState ≠ 2)) →
      exec (.cmdLogicChange h r) s = .next (x.respond h 0x7002 Res.wrongState [])) ∧
    (r.toNat ≤ 1 → x.logic.change = none → (r.toNat = 1 ∨ x.logicState = 2) → x.writeGuard = false →
      exec (.cmdLogicChange h r) s = .next ((({ x with logic := { x.logic with change := some ⟨h, r.toNat == 1, none, 0⟩ } } : State).wr
        F.logicStatePending 1).awaitReply h)) ∧
    (r.toNat ≤ 1 → x.logic.change = none → (r.toNat = 1 ∨ x.logicState = 2) → x.writeGuard = true →
      exec (.cmdLogicChange h r) s = .next (x.respond h 0x7002 Res.writeGuard []))) ∧
  (∀ (s x : State) (h : Hdr) (c : Byte), Processed s h 0x7003 [c] x →
    exec (.cmdLogicStart h c) s = .next (
      if 1 < c.toNat then x.respond h 0x7003 Res.outOfRange []
      else if x.logicState = 0 then x.respond h 0x7003 Res.wrongState []
      else ({ x.abandonChange with logic := { x.abandonChange.logic with restart := some (c.toNat == 1), atBoot := false } } : State).respond
        h 0x7003 Res.ok [])) ∧
  (∀ (s x : State) (h : Hdr), Processed s h 0x7004 [] x →
    exec (.cmdLogicStop h) s = .next (
      if x.cfg F.ctlModeSource = 1 ∧ x.mode ≠ 0 ∧ x.mode ≠ 5 then x.respond h 0x7004 Res.wrongState []
      else x.stopLogic.respond h 0x7004 Res.ok [])) ∧
  (∀ (s x : State) (h : Hdr) (t : ForceTarget) (ty : Byte) (v : List Byte), Processed s h 0x7005 (targetBytes t ++ [ty] ++ v) x →
    exec (.cmdLogicForce h t ty v) s = .next (
      if x.logicState = 0 then x.respond h 0x7005 Res.wrongState []
      else if forceInside t v.length = false ∨ v = [] ∨ 80 < v.length then x.respond h 0x7005 Res.outOfRange []
      else if x.knowsTarget t = false then x.respond h 0x7005 Res.notFound []
      else if x.forceTargets.contains t = false ∧ 256 ≤ x.forceTargets.length then x.respond h 0x7005 Res.full []
      else ({ x with logic := { x.logic with forceOps := x.logic.forceOps ++ [.set ⟨t, ty.toNat, v⟩] } } : State).respond h 0x7005 Res.ok [])) ∧
  (∀ (s x : State) (h : Hdr) (t : ForceTarget), Processed s h 0x7006 (targetBytes t) x →
    exec (.cmdLogicUnforce h (some t)) s = .next (
      if x.forceTargets.contains t then
        ({ x with logic := { x.logic with forceOps := x.logic.forceOps ++ [.remove (some t)] } } : State).respond h 0x7006 Res.ok []
      else x.respond h 0x7006 Res.notFound [])) ∧
  (∀ (s x : State) (h : Hdr), Processed s h 0x7006 (le 1 0xFF) x →
    exec (.cmdLogicUnforce h none) s =
      .next (({ x with logic := { x.logic with forceOps := x.logic.forceOps ++ [.remove none] } } : State).respond h 0x7006 Res.ok [])) ∧
  (∀ (s x : State) (h : Hdr) (n : W32), Processed s h 0x7007 (le 4 n.toNat) x →
    exec (.cmdLogicReport h n) s = .next (x.respond h 0x7007 Res.ok
      ((x.logic.report.drop n.toNat).foldl (fun acc (line : List Byte) =>
        if acc.2 = true ∨ 4064 < acc.1.length + line.length + 1 then (acc.1, true) else (acc.1 ++ line ++ [10], false))
        (([] : List Byte), false)).1)) ∧
  (∀ (s x : State) (h : Hdr) (p : List Byte), Processed s h 0x7008 p x →
    exec (.cmdLogicVarRead h p) s = .next (
      if x.logicState = 0 then x.respond h 0x7008 Res.wrongState []
      else match x.symbol p with
        | none => x.respond h 0x7008 Res.notFound []
        | some y => x.respond h 0x7008 Res.ok (x.readSym y ++ [y.typ])))

/-- A loop in use is FAULTED at loop.fault_ticks invalid ticks in a row, with its event once, and re-initialised after
loop.fault_clear_ticks valid ones. At tick D + 8 an intact published record of the frame in progress comes into force; otherwise
SP_MISSING is set, with an event at the first of a run. When n reaches 160 times loop.sp_hold_frames the references freeze there.
CMD_LOOP_TEST is OUT_OF_RANGE, BUSY or WRONG_STATE, or asks for a test; it begins at tick 0 and ends for its reason.
CMD_LOOP_TEST_STOP stops it, and CMD_LOOP_CAPTURE_READ gives whole samples that were captured. -/
def Obligations.LoopsFaultAndAreTested : Prop :=
  (∀ (s x : State) (l : Fin 128), Runs s x → x.ready = true → x.loopOn l.val = true → (x.loopRt l.val).told = false →
    x.loopState l.val = 3 ∨ x.cfg F.loopFaultTicks ≤ (x.loopRt l.val).bad →
    exec (.loopFaultCount l) s = .next
      (((x.setLoop l.val { x.loopRt l.val with told := true }).wr (F.loopStatusState l.val) 3).loopEvent l.val 0)) ∧
  (∀ (s x : State) (l : Fin 128), Runs s x → x.ready = true → x.loopState l.val = 3 →
    x.cfg F.loopFaultClearTicks ≤ (x.loopRt l.val).good →
    exec (.loopRecovery l) s = .next (
      let rt := x.loopRt l.val
      let ref := x.reference l.val ((List.range 128).map fun k => (k, (x.loopRt k).u1))
      ((x.setLoop l.val { x.reinitLoop l.val rt rt.yLast ref.1 ref.2 with told := false }).wr (F.loopStatusState l.val) 1).loopEvent l.val 1)) ∧
  (∀ (s x : State) (r : SpRecord), Runs s x → x.atTick (x.deadline + 8) = true → x.ctl.published = some r → x.ctl.spPublished = true →
    r.frame = x.rd F.timeFrameNumber → r.epoch = x.rd F.timeFrameEpoch →
    exec (.applyTick true) s = .next (({ x with loop := { x.loop with
      record := some r, n := 0, frozen := none, missRun := false, applied := true } } : State).wr F.loopOutStatusSpMissing 0)) ∧
  (∀ (s x : State) (ok : Bool), Runs s x → x.atTick (x.deadline + 8) = true →
    (x.ctl.spPublished = false ∨ ok = false ∨ ∀ r, x.ctl.published = some r → r.frame ≠ x.rd F.timeFrameNumber ∨ r.epoch ≠ x.rd F.timeFrameEpoch) →
    exec (.applyTick ok) s = .next (
      let y := ({ x with loop := { x.loop with missRun := true } } : State).wr F.loopOutStatusSpMissing 1
      if x.loop.missRun then y else y.emit 0x61 (le 4 (y.rd F.timeFrameNumber)))) ∧
  (∀ (s x : State), Runs s x → x.ready = true → x.loop.record ≠ none → x.loop.frozen = none → 160 * x.cfg F.loopSpHoldFrames ≤ x.loop.n →
    exec .spHoldExpiry s = .next { x with loop := { x.loop with frozen := some (160 * x.cfg F.loopSpHoldFrames) } }) ∧
  (∀ (s x : State) (h : Hdr) (l p k : Byte) (a : F32) (hold : Byte) (f0 f1 : F32) (dur : W32) (dec : Byte),
    Processed s h 0x6001 ([l, p, k] ++ le 4 a.toNat ++ [hold] ++ le 4 f0.toNat ++ le 4 f1.toNat ++ le 4 dur.toNat ++ [dec]) x →
    exec (.cmdLoopTest h l p k a hold f0 f1 dur dec) s = .next (
      if loopTestArgs l p k a hold f0 f1 dur dec = false then x.respond h 0x6001 Res.outOfRange []
      else if x.loop.test.isSome then x.respond h 0x6001 Res.busy []
      else if x.testAllowed l.toNat = false then x.respond h 0x6001 Res.wrongState []
      else ({ x with loop := { x.loop with test := some (⟨l.toNat, p.toNat, k.toNat, a, hold.toNat, f0, f1,
          dur.toNat, 2 ^ dec.toNat, false, 0, 1, false, false, x.clock, none⟩ : LoopTest) } } : State).respond h 0x6001 Res.ok [])) ∧
  (∀ (s x : State) (t : LoopTest), Runs s x → x.loop.test = some t → x.atTick 0 = true → t.running = false → t.at_ < x.frameClock →
    exec .loopTestStart s = .next (x.beginTest t)) ∧
  (∀ (s x : State) (t : LoopTest) (why : Nat), Runs s x → x.loop.test = some t → x.ready = true → x.testEnd t (x.loopState t.loop == 3) = some why →
    exec .loopTestEnd s = .next (x.finishTest t why)) ∧
  (∀ (s x : State) (h : Hdr), Processed s h 0x6002 [] x →
    (x.loop.test = none → exec (.cmdLoopTestStop h) s = .next (x.respond h 0x6002 Res.wrongState [])) ∧
    (∀ t, x.loop.test = some t → exec (.cmdLoopTestStop h) s =
      .next (({ x with loop := { x.loop with test := some { t with stop := true } } } : State).respond h 0x6002 Res.ok []))) ∧
  (∀ (s x : State) (h : Hdr) (first n : W32), Processed s h 0x6003 (le 2 first.toNat ++ le 4 n.toNat) x →
    exec (.cmdLoopCaptureRead h first n) s = .next (
      if n.toNat = 0 ∨ 240 < n.toNat ∨ 65535 < first.toNat ∨ x.rd F.loopCaptureCount < first.toNat + n.toNat then
        x.respond h 0x6003 Res.outOfRange []
      else x.respond h 0x6003 Res.ok ((x.loop.captures.get ((x.laneIn laneDuty).getD 0)).bytes.readBytes (16 * first.toNat) (16 * n.toNat))))

/-- At F+0.5 a heartbeat goes out once, sealed, to spine.hb_group and spine.hb_port on the ports of the group, or waits during a hold.
A datagram to spine.hb_port is rejected without its tag, counted when malformed, ignored from a stranger, and else taken; a silent
partner is lost at the frame instant. Links change state with an event, and one that comes up is told the module's groups; tables
forget what is old; supervision frames go out every 2 s and keep a table of 512 nodes. A frame at a port with a link is counted
and enters the switch. CMD_SPINE_KEY takes or clears a 32-byte key, locally only, outside the Write Guard. A datagram to
spine.plezen_port of no enabled host, or that fails its slot, tag or counter, is counted as such, a malformed message as an error,
and an unknown code answered. -/
def Obligations.SpineTrafficIsHandled : Prop :=
  (∀ (s x : State), Runs s x → x.atTick 4 = true → x.spine.hbSent = false → x.cfg F.spineHbGroup ≠ 0 → x.keyLoaded (x.cfg F.spineHbKey) = true →
    let y : State := { x with spine := { x.spine with hbSent := true } }
    (x.flag F.laneStatusHolding = true →
      exec .heartbeatTx s = .next { y with host := { y.host with withheld := y.host.withheld ++ [.heartbeat y.heartbeatBody] } }) ∧
    (x.flag F.laneStatusHolding = false → exec .heartbeatTx s =
      .next ((y.seal (x.cfg F.spineHbKey) y.heartbeatBody).1.put (.heartbeat (x.cfg F.spineHbGroup)
        (x.cfg F.spineHbPort) y.floodPorts (y.seal (x.cfg F.spineHbKey) y.heartbeatBody).2)))) ∧
  (∀ (s x : State) (hb : Heartbeat), Runs s x → x.ready = true → x.cfg F.spineIpAddr ≠ 0 → hb.dst.toNat = x.cfg F.spineHbPort →
    x.withinTick (x.time.frameAt + hb.atUs * 1000) = true →
    (x.authentic hb = false → exec (.heartbeatRx hb) s = .next (x.authReject hb.addr.toNat 0)) ∧
    (x.authentic hb = true → hbFormed hb = false → exec (.heartbeatRx hb) s = .next (x.inc F.devMsgErrors)) ∧
    (x.authentic hb = true → hbFormed hb = true → x.partnerOf (hbField hb 4 8) = none → exec (.heartbeatRx hb) s = .next x) ∧
    (∀ p, x.authentic hb = true → hbFormed hb = true → x.partnerOf (hbField hb 4 8) = some p →
      exec (.heartbeatRx hb) s = .next (x.takeHeartbeat hb p))) ∧
  (∀ (s x : State) (p : Fin 3) (t : Nat), Runs s x → (x.spine.partners.get p.val).last = some t → x.atTick 0 = true →
    x.rd (F.spinePartnerStatusState p.val) ≠ 1 → t + x.cfg F.spineHbTimeout * nsMs < x.frameClock →
    exec (.partnerLost p) s = .next (({ x with spine := { x.spine with
      partners := x.spine.partners.set p.val { (x.spine.partners.get p.val) with run := 0 } } } : State).setPartner p.val 1
        (x.rd (F.spinePartnerStatusSinglePath p.val)) (x.rd (F.spinePartnerStatusGridMismatch p.val)))) ∧
  (∀ (s x : State) (q : Fin 8) (v : Fin 3), Runs s x → x.ready = true → x.rd (F.spinePortStatus q.val) ≠ x.linkSpeed q.val v.val →
    exec (.spineLinkChange q v) s = .next (
      let y := x.wr (F.spinePortStatus q.val) (x.linkSpeed q.val v.val)
      let z := if x.linkSpeed q.val v.val = 0 ∧ q.val < 2 then y.dropPath q.val else y
      (if x.linkSpeed q.val v.val = 0 then z else z.joinGroups [q.val]).emit 0x90
        (le 1 q.val ++ le 1 (x.rd (F.spinePortStatus q.val)) ++ le 1 (x.linkSpeed q.val v.val)))) ∧
  (∀ (s x : State), Runs s x → x.ready = true → x.cfg F.spineRedundancy ≠ 0 → 2 * nsSecond ≤ x.since x.spine.supervisedAt →
    exec .supervisionTx s = .next (State.put { x with spine := { x.spine with supervisedAt := x.clock } } .supervision)) ∧
  (∀ (s x : State) (src : BitVec 48) (q : Fin 2), Runs s x → x.ready = true → x.cfg F.spineRedundancy ≠ 0 → x.rd (F.spinePortStatus q.val) ≠ 0 →
    (x.spine.nodes.filter fun n => n.1 != src).length < 512 →
    exec (.supervisionRx src q) s = .next { x with
      spine := { x.spine with nodes := (x.spine.nodes.filter fun n => n.1 != src) ++ [(src, x.clock)] } }) ∧
  (∀ (s x : State) (mac : BitVec 48), Runs s x →
    exec (.macAgeExpiry mac) s = .next { x with spine := { x.spine with macs := x.spine.macs.filter fun m =>
      !(m.mac == mac && decide (x.cfg F.spineMacAge * nsSecond ≤ x.since m.at_)) } }) ∧
  (∀ (s x : State) (src : BitVec 48) (n : W16), Runs s x →
    exec (.prpEntryForget src n) s = .next { x with spine := { x.spine with dups := x.spine.dups.filter fun d =>
      !(d.src == src && d.seq == n.toNat && decide (400 * nsMs ≤ x.since d.at_)) } }) ∧
  (∀ (s x : State) (n : W16), Runs s x →
    exec (.reassemblyTimeout n) s = .next { x with spine := { x.spine with reassembly := x.spine.reassembly.filter fun d =>
      !(d.1 == n.toNat && decide (100 * nsMs ≤ x.since d.2)) } }) ∧
  (∀ (s x : State) (port : Fin 9) (f : EthFrame), Runs s x → x.ready = true → x.portUp port.val = true →
    exec (.spineFrameForward port f) s = .next ((x.countPort port.val 0).ingress port.val f)) ∧
  (∀ (s x : State) (h : Hdr) (k : Byte) (key : Option (List Byte)), Processed s h 0x9001 (k :: key.getD []) x →
    exec (.cmdSpineKey h k key) s = .next (
      if fromHere h = false then x.respond h 0x9001 Res.wrongTransport []
      else if 3 < k.toNat then x.respond h 0x9001 Res.outOfRange []
      else if x.writeGuard then x.respond h 0x9001 Res.writeGuard []
      else if key.getD [] = [] then (x.setKey k.toNat []).respond h 0x9001 Res.ok []
      else if (key.getD []).length ≠ 32 then x.respond h 0x9001 Res.badLength []
      else (x.setKey k.toNat (key.getD [])).respond h 0x9001 Res.ok [])) ∧
  (∀ (s x : State) (addr : UdpFrom) (bytes : List Byte), Runs s x → x.ready = true → x.cfg F.spineIpAddr ≠ 0 →
    addr.ports.dst.toNat = x.cfg F.spinePlezenPort →
    (∀ k : Fin 4, x.cfgFlag (F.spineHostCfgEnabled k.val) = true → x.cfg (F.spineHostIp k.val) ≠ addr.ip.toNat) →
    exec (.plezenMessageReject addr bytes) s = .next (x.authReject addr.ip.toNat 2)) ∧
  (∀ (s x : State) (addr : UdpFrom) (bytes : List Byte) (k : Fin 4), Runs s x → x.ready = true → x.cfg F.spineIpAddr ≠ 0 →
    addr.ports.dst.toNat = x.cfg F.spinePlezenPort →
    ((List.finRange 4).find? fun k => x.cfgFlag (F.spineHostCfgEnabled k.val) && x.cfg (F.spineHostIp k.val) == addr.ip.toNat) = some k →
    let m := bytes.take (bytes.length - 28)
    let tr := bytes.drop (bytes.length - 28)
    let slot := tr.headD 0
    let c := BitVec.ofNat 64 (unle ((tr.drop 4).take 8))
    let h : Hdr := ⟨.spine k slot c (tr.drop 12) addr.ports, BitVec.ofNat 32 (unle ((m.drop 8).take 4)), BitVec.ofNat 32 (unle ((m.drop 28).take 4))⟩
    let fault := x.authFault k.val slot c (tr.drop 12) (bytes.take (bytes.length - 16))
    let y := x.acceptFrom k.val c
    let code := unle ((m.drop 4).take 2)
    (bytes.length < 28 → exec (.plezenMessageReject addr bytes) s = .next (x.authReject addr.ip.toNat 0)) ∧
    (∀ r, 28 ≤ bytes.length → fault = some r → exec (.plezenMessageReject addr bytes) s = .next (x.authReject addr.ip.toNat r)) ∧
    (28 ≤ bytes.length → fault = none → plezenFormed m = false →
      exec (.plezenMessageReject addr bytes) s = .next (y.inc F.devMsgErrors)) ∧
    (28 ≤ bytes.length → fault = none → plezenFormed m = true → argLength code = none →
      ((x.host.kept.get k.val).find? fun r => r.seq = h.seq.toNat) = none → (x.host.outstanding.get k.val).length < 8 →
      exec (.plezenMessageReject addr bytes) s = .next (y.respond h code Res.unknownCommand [])))

/-- The verdict of a Rapid Check silences the duty lane if it alone failed, by its test or by a fault of its own, and else the
partner, by rule when both passed or both failed. At tick D + 16 the active lanes write a Quire of at most 7.5 MiB; once written
it is committed unless the Catchwords of two lanes differ. From 240 µs after its wake on a lane that passes its tests joins, and
fails otherwise; a replay that is live marks it, a first difference has it try again, a second silences it. A rotation instant in
a hold or a Rapid Check postpones the rotation. A silenced lane that passes its self-test under the limit is the standby. Before a
rotation instant the standby wakes or the rotation is postponed, and at the instant the roles rotate. CMD_LANE_ROTATE waits. -/
def Obligations.LanesArbitrateAndRotate : Prop :=
  (∀ (s x : State) (dr pr : RapidReport) (d p : Nat), Runs s x → x.lane.rapid = true → x.laneIn laneDuty = some d → x.laneIn lanePartner = some p →
    exec (.rapidCheckVerdict dr pr) s = .next (
      let dOk := dr == .passed && !x.lane.rapidFailed.get d
      let pOk := pr == .passed && !x.lane.rapidFailed.get p
      let y := x.endRapid (dOk == pOk)
      if dOk = false ∧ pOk = true then
        (((y.silenceFor d 1 (y.failedTest dr) (125 * (x.lane.held + 1))).setLane p laneDuty).ownerChanged.fillPartner).showRoles 0
      else ((y.silenceFor p (if dOk == pOk then 2 else 1) (y.failedTest pr) (125 * (x.lane.held + 1))).fillPartner).showRoles 0)) ∧
  (∀ (s x : State), Runs s x → x.atCore (x.deadline + 16) = true → x.lane.writing = none → x.lane.committed = false →
    x.laneIn laneDuty ≠ none →
    exec .quireWrite s = .next { x with free := x.free + 1, lane := { x.lane with
      writing := some (min (Config.quireBytes x.free) 7864320, x.snapshot), writeAt := x.clock } }) ∧
  (∀ (s x : State) (d : Differs) (n : Nat) (c : Checkpoint), Runs s x → x.lane.writing = some (n, c) →
    x.quireWritten n = true → x.lane.rapid = false →
    exec (.quireCommit d) s = .next (
      if x.twoLanes = true ∧ (d.duty = true ∨ d.partner = true ∨ (x.overlapLane.isSome = true ∧ d.joined = true)) then
        { x with lane := { x.lane with writing := none, differ := some d, fold := 0 } }
      else (({ x with free := x.free + 1 } : State).retireLane).commitQuire n c
        (x.catchword ((List.range 32).map (Config.quireDigest x.free))))) ∧
  (∀ (s x : State) (quick all q0 q1 : Bool) (n : Nat), Runs s x → x.laneIn laneWaking = some n →
    240000 < x.since x.lane.joinAt + nsTick →
    exec (.standbyWakeComplete quick all q0 q1) s = .next (
      let y := if x.lane.byRotation = true ∧ quick = true then x.inc (F.laneHealth n (if all then 8 else 9)) else x
      if quick = true ∧ (x.lane.byRotation = false ∨ all = true) then (y.setLane n laneJoining).restoreFresh q0 q1
      else ((y.endRotation 2 1).failLane n 4).showRoles 0)) ∧
  (∀ (s x : State) (ok : Bool) (n : Nat), Runs s x → x.laneIn laneJoining = some n → x.lane.live = false → x.lane.waitQuire = false →
    exec (.laneReplayLive ok) s = .next (
      if ok then { x with lane := { x.lane with live := true } }
      else if x.lane.tries = 0 then { x with lane := { x.lane with tries := 1 } }
      else ((((x.endRotation 2 3).silence n 5 0).abandonJoin n 0)).showRoles 0)) ∧
  (∀ (s x : State) (l : Lane) (ok : Bool), Runs s x → x.laneSt (laneNo l) = laneSilenced → x.lane.rapid = false → x.lane.promote = false →
    exec (.laneSelfTestComplete l ok) s = .next (
      let n := laneNo l
      let y := (x.wr (F.faultLaneFatal n) 0).inc (F.laneHealth n (if ok then 8 else 9))
      if ok = false then (y.failLane n 4).showRoles 0
      else if y.cfg F.laneFailLimit ≤ y.recentSilences n then (y.failLane n (y.lane.causes.get n)).showRoles 0
      else
        let z := y.setLane n laneStandby
        let w := if (z.laneIn lanePartner).isNone then z.wakeStandby false else z
        ({ w with lane := { w.lane with release := if y.lane.causes.get n == 5 then some w.clock else w.lane.release } } : State).showRoles 0)) ∧
  (∀ (s x : State), Runs s x → x.atTick 0 = true → x.rd F.timeFrameIndex = 35 →
    (x.isRotation (x.second + 1) = true ∨ x.flag F.laneStatusRotationPending = true ∨ x.lane.commanded = some (x.second + 1)) →
    x.rotationPossible = true → x.lane.rotation = none →
    exec .rotationWake s = .next (
      let y : State := if x.lane.commanded = some (x.second + 1) then { x with lane := { x.lane with commanded := none } } else x
      match y.rotationBlocked with
      | some why => if y.flag F.laneStatusRotationPending then y
          else (y.wrFlag F.laneStatusRotationPending true).emit 0xA3 (le 1 0 ++ le 1 1 ++ le 1 why)
      | none =>
        let z := (y.wrFlag F.laneStatusRotationPending false).wakeStandby true
        { z with lane := { z.lane with rotation := some (x.second + 1) } })) ∧
  (∀ (s x : State) (r d p j : Nat), Runs s x → x.lane.rotation = some r → x.laneIn laneDuty = some d → x.laneIn lanePartner = some p →
    x.overlapLane = some j → x.atTick 0 = true → r ≤ x.second → x.flag F.laneStatusHolding = false → x.lane.rapid = false →
    exec .rotationHandover s = .next (x.handOver d p j)) ∧
  (∀ (s x : State) (r d p j : Nat), Runs s x → x.lane.rotation = some r → x.laneIn laneDuty = some d → x.laneIn lanePartner = some p →
    x.overlapLane = some j → x.atTick 0 = true → x.second = r → x.rd F.timeFrameIndex = 0 →
    (x.flag F.laneStatusHolding = true ∨ x.lane.rapid = true) →
    exec .rotationHandover s = .next (x.postponeRotation j 2)) ∧
  (∀ (s x : State) (h : Hdr), Processed s h 0xA001 [] x →
    exec (.cmdLaneRotate h) s = .next (({ x with lane := { x.lane with requests := x.lane.requests ++ [h] } } : State).awaitReply h))

/-- A hardware error is taken by its class. A private fault or a failed watchdog of an active lane is reported and silences the lane
or counts against it. A slice is counted, its corrected error reported and its failure a self-detected fault. At each whole minute
the corrected rates are judged once. A source returns to its severity after a whole window. CMD_FAULT_INJECT is OUT_OF_RANGE,
WRONG_STATE or BUSY, or arms an injection and says so; one that meets no access in 1 s expires. CMD_FAULT_LOG_READ gives up to 64
records from a sequence number on. -/
def Obligations.FaultsAreCollected : Prop :=
  (∀ (s x : State) (e : HwError), Runs s x → exec (.hwErrorReport e) s = .next (x.hwError e)) ∧
  (∀ (s x : State) (l : Lane) (us : Fin 125), Runs s x → x.ready = true →
    (x.laneSt (laneNo l) = laneDuty ∨ x.laneSt (laneNo l) = lanePartner ∨ x.laneSt (laneNo l) = laneWaking ∨ x.laneSt (laneNo l) = laneJoining) →
    exec (.selfDetectedFault l none us) s = .next (x.selfFault (laneNo l) (decide (34 < us.val))) ∧
    (∀ c : Fin 2, exec (.selfDetectedFault l (some c) us) s =
      .next ((x.reportHw ⟨⟨c.val, by omega⟩, false, BitVec.ofNat 8 (laneNo l), 0, 0, none, us⟩ 2 false).fatalLane c.val (laneNo l)
        (decide (34 < us.val))))) ∧
  (∀ (s x : State) (l : Lane) (ok : SliceResult) (ecc : Bool), Runs s x → x.ready = true →
    (x.laneSt (laneNo l) = laneDuty ∨ x.laneSt (laneNo l) = lanePartner ∨ x.overlapLane = some (laneNo l)) → x.deadline + 16 ≤ x.time.tickDue →
    exec (.selfTestSlice l ok ecc) s = .next (
      let y := x.inc (F.laneHealth (laneNo l) 0)
      let y := if ecc then y.hwError ⟨0, true, BitVec.ofNat 8 (laneNo l), 0, 0, none, 0⟩ else y
      match ok with
      | .passed => y
      | .failed us => (y.inc (F.laneHealth (laneNo l) 1)).selfFault (laneNo l) (decide (34 < us.val)))) ∧
  (∀ (s x : State), Runs s x → x.atTick 0 = true → x.second % 60 = 0 → x.rd F.timeFrameIndex = 0 →
    x.fault.minuteAt ≠ some (x.second / 60) →
    exec .correctedRateMinute s = .next ((List.range 15).foldl (fun (y : State) k => y.minuteEnd k)
      { x with fault := { x.fault with minuteAt := some (x.second / 60) } })) ∧
  (∀ (s x : State) (src : Fin 256) (t : Nat), Runs s x → (x.fault.times.get src.val).getLast? = some t →
    x.cfg F.faultEscalateWindow * nsSecond ≤ x.since t →
    exec (.escalateWindowEnd src) s = .next { x with fault := { x.fault with
      escalated := x.fault.escalated.set src.val false, times := x.fault.times.set src.val [] } }) ∧
  (∀ (s x : State) (h : Hdr) (k place dbl : Byte), Processed s h 0xC001 [k, place, dbl] x →
    exec (.cmdFaultInject h k place dbl) s = .next (
      let i : Inject := ⟨k.toNat, if placed k.toNat then place.toNat else 0xFF, dbl == 1, x.clock⟩
      if injectable k.toNat = false ∨ 1 < dbl.toNat ∨ (k.toNat = 0 ∧ 2 < place.toNat) ∨ (k.toNat = 9 ∧ 3 < place.toNat) ∨
          (parityChecker k.toNat = true ∧ i.double = true) then x.respond h 0xC001 Res.outOfRange []
      else if i.double = true ∧ x.devState ≠ 3 then x.respond h 0xC001 Res.wrongState []
      else if x.fault.injected.any (fun j => j.checker == k.toNat) then x.respond h 0xC001 Res.busy []
      else ((({ x with fault := { x.fault with injected := x.fault.injected ++ [i] } } : State).wrFlag
        F.faultStatusInjectArmed true).injectEvent i 0).respond h 0xC001 Res.ok [])) ∧
  (∀ (s x : State) (k : Fin 15), Runs s x →
    exec (.injectExpiry k) s = .next (x.voidInjects fun i => i.checker == k.val && decide (nsSecond ≤ x.since i.at_))) ∧
  (∀ (s x : State) (h : Hdr) (first n : W32), Processed s h 0xC002 (le 4 first.toNat ++ le 4 n.toNat) x →
    exec (.cmdFaultLogRead h first n) s = .next (
      let found := x.fault.ring.dropWhile fun r => r.seq ≠ first.toNat
      if n = 0 ∨ 64 < n.toNat ∨ found = [] then x.respond h 0xC002 Res.outOfRange []
      else x.respond h 0xC002 Res.ok (le 4 (found.take n.toNat).length ++ (found.take n.toNat).flatMap FaultRec.bytes)))

/-- The start-up self-test ends with the safety section read. An edge changes its channel and restarts its time. Of a pair in
DISCREPANCY only both channels LOW for the filter time give LOW; else one channel LOW gives LOW and both HIGH give HIGH; channels
that disagree beyond the discrepancy time give DISCREPANCY. Each encoder latch is taken for its channel; the first index mark
after a start makes the position referenced; a faulted encoder is sound again after 1 s. A SAFETY_CYCLE first turns a core
mismatch, a failed test or its watchdog into SAFETY_FAULT, and else evaluates. An output fault clears after 1 s of correct
readback. -/
def Obligations.SafetyInputsAreJudged : Prop :=
  (∀ (s x : State), Runs s x → x.safe.tested = false → x.flag F.safeStatusSafetyFault = false →
    exec .safetySelftestEnd s = .next (
      let y := x.readSection x.committedFolio
      { y with safe := { y.safe with tested := true } })) ∧
  (∀ (s x : State) (i : Fin 16) (high : Bool), Runs s x →
    exec (.safeInputEdge i high) s = .next (
      let p := x.safe.pairs.get (i.val / 2)
      let q : SafePair := if i.val % 2 = 0 then (if p.a = high then p else { p with a := high, aSince := x.clock })
        else (if p.b = high then p else { p with b := high, bSince := x.clock })
      { x with safe := { x.safe with pairs := x.safe.pairs.set (i.val / 2) q } })) ∧
  (∀ (s x : State) (p : Fin 8), Runs s x → x.monitors = true →
    exec (.safePairFilterExpiry p) s = .next (
      if x.rd (F.safePairStatus p.val) = 3 then (if x.lowHeld p.val false = true ∧ x.lowHeld p.val true = true then x.setPair p.val 1 else x)
      else if x.lowHeld p.val false = true ∨ x.lowHeld p.val true = true then x.setPair p.val 1
      else if x.highHeld p.val false = true ∧ x.highHeld p.val true = true then x.setPair p.val 2
      else x)) ∧
  (∀ (s x : State) (p : Fin 8), Runs s x → x.monitors = true → x.chanHigh p.val false ≠ x.chanHigh p.val true →
    x.sec (F.safePairDiscrepancy p.val) * nsMs < x.since (max (x.safe.pairs.get p.val).aSince (x.safe.pairs.get p.val).bSince) →
    exec (.safePairDiscrepancy p) s = .next (x.setPair p.val 3)) ∧
  (∀ (s x : State) (xs : List EncLatch), Runs s x → x.safe.read = true → x.flag F.safeStatusSafetyFault = false →
    exec (.encoderLatch xs) s = .next ((xs.take 8).zipIdx.foldl (fun (y : State) p => y.latchEncoder p.2 p.1) x)) ∧
  (∀ (s x : State) (e : Fin 8) (c : Int), Runs s x → (x.safe.encs.get e.val).counts.head? = some c → x.flag F.safeStatusSafetyFault = false →
    x.sec (F.safeEncCfgIndex e.val) ≠ 0 → x.sec (F.safeEncCfgKind e.val) ≠ 0 → x.flag (F.safeEncPosReferenced e.val) = false →
    x.flag (F.safeEncPosEncoderFault e.val) = false →
    exec (.encoderIndex e) s = .next (
      let y : State := { x with safe := { x.safe with encs := x.safe.encs.set e.val { (x.safe.encs.get e.val) with mark := c } } }
      ((y.wrFlag (F.safeEncPosReferenced e.val) true).encPosition e.val c).encEvent e.val)) ∧
  (∀ (s x : State) (e : Fin 8), Runs s x → x.flag (F.safeEncPosEncoderFault e.val) = true → x.flag F.safeStatusSafetyFault = false →
    (x.safe.encs.get e.val).bad = false →
    nsSecond ≤ x.since (x.safe.encs.get e.val).badAt →
    exec (.encoderRecovery e) s = .next ((x.wrFlag (F.safeEncPosEncoderFault e.val) false).encEvent e.val)) ∧
  (∀ (s x : State) (i : SafetyIn), Runs s x → x.flag F.safeStatusSafetyFault = false →
    exec (.safetyCycle i) s = .next (
      if i.coreMismatch then x.safetyFault 0
      else if i.testFailed then x.safetyFault 1
      else if i.watchdog then x.safetyFault 2
      else if x.monitors = false then x
      else x.evaluate i)) ∧
  (∀ (s x : State) (o : Fin 8), Runs s x → x.monitors = true → x.flag (F.safeOutStatusOutputFault o.val) = true →
    nsSecond ≤ x.since (x.safe.outs.get o.val).wrongAt →
    exec (.outputFaultClear o) s = .next (((x.wrFlag (F.safeOutStatusOutputFault o.val) false).wr (F.safeOutStatusSwitch o.val) 0).emit 0xB3
      (le 1 o.val ++ x.noValue 0xB3 ++ le 1 1)))

/-- An output whose pulse is due opens one switch and at the next pulse the other, and is faulted if its readback does not fall below
5 V and return to within 2 V of the supply. When the window of the challenge ends, the groups armed under it are LOCKED_OUT again
and the challenge is void. CMD_SAFE_ACK needs an 8-byte tag; a monitor that does not evaluate answers at once, and else it waits
for the cycle in progress behind those that wait. CMD_SAFE_CONFIRM confirms the Colophon it names, in commissioning. CMD_SAFE_KEY
takes a 32-byte key from the local port, in commissioning. Both are refused while the Write Guard is tripped. -/
def Obligations.SafetyCommandsAct : Prop :=
  (∀ (s x : State) (o : Fin 8) (low high supply : Nat), Runs s x → x.monitors = true → x.pulseDue o.val = true →
    exec (.offPulse o low high supply) s = .next (
      let sw := bit (x.safe.outs.get o.val).second
      let y := x.pulse o.val
      if low < 500 ∧ supply < high + 200 then y
      else (y.wr (F.safeOutStatusSwitch o.val) (putBit (y.rd (F.safeOutStatusSwitch o.val)) sw true)).outputFault o.val (le 1 sw))) ∧
  (∀ (s x : State), Runs s x → x.safe.armed ≠ 0 → x.safe.window ≤ x.clock → x.flag F.safeStatusSafetyFault = false →
    exec .ackWindowExpiry s = .next (
      let y := ((List.range 8).filter fun g => testBit x.safe.armed g && x.groupSt g == 3).foldl
        (fun (y : State) g => y.putGroup g 2 (y.rd (F.safeGroupStatusCause g))) x
      ({ y with safe := { y.safe with armed := 0 } } : State).voidChallenge)) ∧
  (∀ (s x : State) (h : Hdr) (mask : Byte) (c : W32) (tag : List Byte), Processed s h 0xB001 ([mask] ++ le 4 c.toNat ++ tag) x →
    (tag.length ≠ 8 → exec (.cmdSafeAck h mask c tag) s = .next (x.respond h 0xB001 Res.badLength [])) ∧
    (tag.length = 8 → x.monitors = false → exec (.cmdSafeAck h mask c tag) s =
      .next (x.respond h 0xB001 (if x.safe.key.isEmpty then Res.noKey else Res.condition) [])) ∧
    (tag.length = 8 → x.monitors = true → exec (.cmdSafeAck h mask c tag) s =
      .next (({ x with safe := { x.safe with ack := x.safe.ack ++ [⟨h, mask.toNat, c.toNat, tag, x.clock⟩] } } : State).awaitReply h))) ∧
  (∀ (s x : State) (h : Hdr) (c : W32), Processed s h 0xB002 (le 4 c.toNat) x →
    exec (.cmdSafeConfirm h c) s = .next (
      if x.monitors = false ∨ x.flag F.safeStatusCommissioning = false then x.respond h 0xB002 Res.wrongState []
      else if c ≠ x.shadowColophon then x.respond h 0xB002 Res.mismatch []
      else if x.writeGuard then x.respond h 0xB002 Res.writeGuard []
      else (x.confirm c).respond h 0xB002 Res.ok [])) ∧
  (∀ (s x : State) (h : Hdr) (key : List Byte), Processed s h 0xB003 key x →
    exec (.cmdSafeKey h key) s = .next (
      if key.length ≠ 32 then x.respond h 0xB003 Res.badLength []
      else if fromHere h = false then x.respond h 0xB003 Res.wrongTransport []
      else if x.monitors = false ∨ x.flag F.safeStatusCommissioning = false then x.respond h 0xB003 Res.wrongState []
      else if x.writeGuard then x.respond h 0xB003 Res.writeGuard []
      else (x.setSafeKey key).respond h 0xB003 Res.ok []))

/-- For every command c and state s with c at the front of its queue, a step of s answers what exec answers for c on s with the
queue's rest. That an empty queue leaves the state as it is, is the model's choice (log entry 1). -/
def Obligations.StepRunsTheFrontCommand : Prop :=
  (∀ (s : State) (c : Instr) (rest : List Instr), s.pending = c :: rest → step s = exec c { s with pending := rest }) ∧
  (∀ s : State, s.pending = [] → step s = .next s)

/-- For every command and every state exec answers a next state: the block has no stop of its own, and what it does not accept it
answers with a result code or leaves without effect. The queue of the waiting commands is not touched. A step takes exactly the
front command from it. -/
def Obligations.EveryCommandCompletes : Prop :=
  (∀ (c : Instr) (s : State), ∃ t, exec c s = .next t ∧ t.pending = s.pending) ∧
  (∀ s : State, ∃ t, step s = .next t ∧ t.pending = s.pending.tail)

/-- The state after reset is sound. Its queue of commands, its event queue, its fault log and its outputs are empty, its mailboxes are
IDLE, the device is in BOOT with READY clear, and the converters run. -/
def Obligations.ResetIsSound : Prop :=
  Sound State.reset ∧ State.reset.pending = [] ∧ State.reset.host.queue = [] ∧ State.reset.fault.ring = [] ∧ State.reset.outputs = [] ∧
  (∀ n, State.reset.host.mbx.get n = ⟨.idle, Store.empty⟩) ∧ State.reset.devState = 0 ∧ State.reset.ready = false ∧
  State.reset.powered = true

/-- From every sound state, whatever command stands at the front of its queue, a step answers a sound state: the registers and every
mailbox keep their canonical form, the event queue holds at most 1,024 entries, at most 768 of them Record or Notify, under codes
that the rules know, each host keeps at most 32 responses, the fault log at most 64 records, the power history at most 50 frames,
and the commit record at most two copies. With the soundness of the state after reset, every state of every run is sound. -/
def Obligations.EveryStepKeepsSound : Prop :=
  (∀ s t : State, Sound s → step s = .next t → Sound t) ∧
  (∀ (s : State) (n : Nat), Sound s → Sound (n.repeat (fun u => match step u with
    | .next t => t
    | .fault _ => u
    | .refused _ => u) s))

/-- While the converters stand still, every command but the power-on, the change of a feed and the loss of VBAT leaves the whole state
as it is, and nothing is driven on any pin. -/
def Obligations.UnpoweredModuleDoesNothing : Prop :=
  ∀ (c : Instr) (s : State), s.powered = false → (∀ off, c ≠ .powerOn off) → (∀ f k, c ≠ .feedChange f k) → c ≠ .vbatLoss →
    exec c s = .next { s with outputs := [] }

/-- In BOOT, with READY clear, a Plezen command has no effect and gets no response, whatever its origin, code and payload are:
State.command is the processing that every meaning of a Plezen command shares. Two commands of different blocks are named as
instances. -/
def Obligations.NoCommandActsBeforeReady : Prop :=
  (∀ (s : State) (h : Hdr) (code : Nat) (p : List Byte) (body : State → Reply), s.ready = false → s.command h code p body = s) ∧
  (∀ (s x : State) (h : Hdr), Runs s x → x.ready = false → exec (.cmdLogicStop h) s = .next x) ∧
  (∀ (s x : State) (h : Hdr) (m : Byte), Runs s x → x.ready = false → exec (.cmdCtlMode h m) s = .next x)

/-- In a queue as the rules allow it, an occurrence takes the next sequence number; after 0xFFFFFFFF the next is 0 and carries WRAP.
It stands in dev.event_seq. The queue stays as the rules allow it. The Alarm occurrences that the queue stands for, the sum of the
repeat counts of the entries of a code, grow by one for an Alarm of that code and by nothing otherwise: overflow removes none of
them. An Alarm occurrence stands in the queue as an entry of its own. -/
def Obligations.EventsAreNumberedAndAlarmsKept : Prop :=
  ∀ (s : State) (code : Nat) (cls : EvClass) (flags : Nat) (payload : List Byte), queueAllowed s.host.queue → code ≤ 0x200 →
    let t := s.queueOne code cls flags payload
    let e : Event := ⟨s.host.nextSeq, code, cls, 1, if s.host.wrapped then putBit flags 1 true else flags, s.now, payload⟩
    t.host.nextSeq = (s.host.nextSeq + 1) % 2 ^ 32 ∧ (t.host.wrapped = true ↔ t.host.nextSeq = 0) ∧
    queueAllowed t.host.queue ∧
    (cls = .alarm → e ∈ t.host.queue) ∧
    (∀ c, alarmReps t.host.queue c = alarmReps s.host.queue c + if cls = .alarm ∧ code = c then 1 else 0) ∧
    (s.regs.wf = true → s.host.nextSeq < 2 ^ 32 → t.rd F.devEventSeq = s.host.nextSeq)

/-- In a store of registers in canonical form, a field written with a value reads that value cut to the field's width, every other
field reads as before, and no part of the state but the registers changes. A status counter increased reads the sum, or its
largest value where the sum lies above it. -/
def Obligations.RegistersReadBackAndCountersStick : Prop :=
  (∀ (s : State) (f : Fld) (v : Nat), s.regs.wf = true → f.w ≤ 64 → (s.wr f v).rd f = v % 2 ^ f.w) ∧
  (∀ (s : State) (f g : Fld) (v : Nat), g.key ≠ f.key → (s.wr f v).rd g = s.rd g) ∧
  (∀ (s : State) (f : Fld) (v : Nat), { s.wr f v with regs := s.regs } = s) ∧
  (∀ (s : State) (f : Fld) (n : Nat), s.regs.wf = true → f.w ≤ 64 → (s.add f n).rd f = min (s.rd f + n) (2 ^ f.w - 1))

/-- A processed CMD_LOGIC_STOP is accepted, stops the logic and is answered OK, where ctl.mode_source is 0 or the mode is IDLE or
MANUAL. In every other case it is answered WRONG_STATE and changes nothing else. The mode source is one bit, so it is 0 or 1. The
cause of the stop in EV_LOGIC_STATE is COMMAND. -/
def Obligations.LogicStopNeedsAQuietMode : Prop :=
  (∀ (s x : State) (h : Hdr), Processed s h 0x7004 [] x → x.cfg F.ctlModeSource ≤ 1 →
    (x.cfg F.ctlModeSource = 0 ∨ x.rd F.ctlMode = 0 ∨ x.rd F.ctlMode = 5 →
      exec (.cmdLogicStop h) s = .next (x.stopLogic.respond h 0x7004 Res.ok [])) ∧
    (¬ (x.cfg F.ctlModeSource = 0 ∨ x.rd F.ctlMode = 0 ∨ x.rd F.ctlMode = 5) →
      exec (.cmdLogicStop h) s = .next (x.respond h 0x7004 Res.wrongState []))) ∧
  (∀ s : State, s.logicState = 2 →
    s.stopLogic = State.setLogicState { s with logic := { s.logic with restart := none, phase := 0, work := none } } 1 0 (some whyCommand)) ∧
  (∀ s : State, s.logicState ≠ 2 → s.stopLogic = { s with logic := { s.logic with restart := none, phase := 0, work := none } })

/-- From a state whose registers are in canonical form: after a power-on dev.reset_cause reads 0, after an external reset 1, also
after one that an Endpaper held back, after a device reset that a command made pending 2, after the reset of a Fatal, device error
3, and after the fallback of a trial image whose Folio is invalid 4. The end of BOOT sends EV_DEV_RESET with the cause that
dev.reset_cause reads as its first byte. -/
def Obligations.ResetCauseIsShown : Prop :=
  (∀ (s : State) (off : Nat), s.powered = false → ∃ t, exec (.powerOn off) s = .next t ∧ t.rd F.devResetCause = 0) ∧
  (∀ (s x : State) (low : Nat), Runs s x → 10000 ≤ low → x.power.writing = none →
    ∃ t, exec (.rstN low) s = .next t ∧ t.rd F.devResetCause = 1) ∧
  (∀ (s x : State), Runs s x → x.power.writing ≠ none → x.boot.heldReset = true →
    ∃ t, exec .endpaperComplete s = .next t ∧ t.rd F.devResetCause = 1) ∧
  (∀ (s x : State) (t : Nat), Runs s x → x.boot.resetAt = some t → t < x.clock → x.ready = true → x.time.tickDue = 0 →
    ∃ t, exec .deviceReset s = .next t ∧ t.rd F.devResetCause = 2) ∧
  (∀ s : State, s.fatalReset.rd F.devResetCause = 3) ∧
  (∀ (s x : State) (b : BootIn) (slot duty : Nat) (rest : List Nat), Runs s x → x.bootSlot b = some slot → x.bootRoles b = duty :: rest →
    x.devState = 0 → x.bootTrial slot = true → b.trialFolioOk = false → x.bootCommit b ≠ none →
    ∃ t, exec (.bootComplete b) s = .next t ∧ t.rd F.devResetCause = 4) ∧
  (∀ (s : State) (fallback : Bool) (unacked : Nat) (failed : Option Nat), ∃ x : State,
    x.rd F.devResetCause = s.rd F.devResetCause ∧ ∃ rest : List Byte,
    s.openBoot fallback unacked failed = State.reportTrial ((((x.emit 0 (le 1 (s.rd F.devResetCause) ++ rest)).emit 4
      (le 1 0 ++ le 1 s.bootState ++ le 1 (if s.bootState = 4 then 2 else 0))).wr (F.spinePortStatus 8) 2).emit 0x90
        (le 1 8 ++ le 1 0 ++ le 1 2)) failed)

/-- A lifetime counter increased by a positive number reads the sum, or 2^48 - 1 where the sum lies above, and so stays there. An
increment after which it reads 2^48 - 1 for the first time sets LIFETIME_SATURATED, sends EV_LIFE_SATURATED with the counter's ID
and is remembered; a counter that has saturated before, or does not reach the value, sends nothing. Other counters are as they
were. -/
def Obligations.LifetimeCountersSaturate : Prop :=
  ∀ (s : State) (id n : Nat), 0 < n →
    (s.accrue id n).lifeValue id = min (2 ^ 48 - 1) (s.lifeValue id + n) ∧
    (s.lifeValue id = 2 ^ 48 - 1 → (s.accrue id n).lifeValue id = 2 ^ 48 - 1) ∧
    (∀ j, j ≠ id → (s.accrue id n).lifeValue j = s.lifeValue j) ∧
    (let t : State := { s with life := { s.life with accrued := s.life.accrued.set id (s.life.accrued.get id + n) } }
     (2 ^ 48 - 1 ≤ s.lifeValue id + n → s.life.saturated.get id = false →
       s.accrue id n = (State.wrFlag { t with life := { t.life with saturated := t.life.saturated.set id true } } F.lifeStatus true).emit
         0xE0 (le 2 id) ∧
       (s.accrue id n).life.saturated.get id = true) ∧
     (s.lifeValue id + n < 2 ^ 48 - 1 ∨ s.life.saturated.get id = true → s.accrue id n = t))

/-- An item written to RS parameters changes the shadow Folio and the shadow's state in dev.folio, and nothing else: the active Folio,
every other register and all other state stay, so every value in force is the same. A turn that is refused leaves both Folios and
the choice of the active one as they were, so every value in force is the same and the shadow keeps what was staged. -/
def Obligations.StagedValuesWaitForTheTurn : Prop :=
  (∀ (s : State) (id elem v : Nat), (∀ f ∈ (fieldsOf id elem).getD [], f.acc = .rs) →
    let t := s.writeItem id elem v
    t = { s with regs := t.regs, folioA := t.folioA, folioB := t.folioB } ∧
    (∀ k, k ≠ F.devFolioShadow.key → t.regs.get k = s.regs.get k) ∧ t.active = s.active ∧ ∀ f, t.cfg f = s.cfg f) ∧
  (∀ (s : State) (res : Nat) (fail : Option (Nat × Nat)),
    let t := s.refuseTurn res fail
    t.folioA = s.folioA ∧ t.folioB = s.folioB ∧ t.active = s.active ∧ t.shadow = s.shadow ∧ ∀ f, t.cfg f = s.cfg f) ∧
  (∀ (s x : State) (r : Nat × Nat × Nat), Runs s x → x.ready = true → x.rd F.devFolioTurn = 1 → x.validate = some r →
    exec .folioValidated s = .next (x.refuseTurn r.1 (some r.2)))

/-- A record entered in the fault log stands at its end, with the sequence after that of the record before it, wrapping with no flag;
the log holds the newest 64 records, and the register of the sequence shows it. That the first record after the log was lost has
sequence 0 is the model's reading. -/
def Obligations.FaultLogKeepsTheNewest : Prop :=
  ∀ (s : State) (kind src sev place flags : Nat) (location : W64) (syndrome : W32),
    let seq := if s.fault.ring = [] then 0 else (s.rd F.faultLogSequence + 1) % 2 ^ 32
    let r : FaultRec := ⟨seq, s.now, kind, src % 256, sev, place, flags, location, syndrome⟩
    let t := s.logFault kind src sev place flags location syndrome
    t.fault.ring = (s.fault.ring ++ [r]).drop (s.fault.ring.length + 1 - 64) ∧ t.fault.ring.getLast? = some r ∧
    t.fault.ring.length = min 64 (s.fault.ring.length + 1) ∧
    (s.regs.wf = true → t.rd F.faultLogSequence = seq)

/-- For the frame that starts at S seconds and N nanoseconds, N a multiple of 20,000,000 below one second, the index register reads N
/ 20,000,000, and number and epoch the remainder and the quotient of S × 50 + index by 2^32, as long as the epoch fits 16 bits;
nothing of the state before shows in them. The frame after the last number of an epoch has number 0 in the next epoch. -/
def Obligations.FrameCountFollowsStationTime : Prop :=
  (∀ (s : State) (S N : Nat), s.regs.wf = true → N % 20000000 = 0 → N < nsSecond → (S * 50 + N / 20000000) / 2 ^ 32 < 2 ^ 16 →
    let t := s.setFrame (S * nsSecond + N)
    t.rd F.timeFrameIndex = N / 20000000 ∧ t.rd F.timeFrameNumber = (S * 50 + N / 20000000) % 2 ^ 32 ∧
    t.rd F.timeFrameEpoch = (S * 50 + N / 20000000) / 2 ^ 32) ∧
  (∀ (s u : State) (f : Nat), s.regs.wf = true → u.regs.wf = true → (f + 1) % 2 ^ 32 = 0 → (f + 1) / 2 ^ 32 < 2 ^ 16 →
    (s.setFrame ((f + 1) * nsFrame)).rd F.timeFrameNumber = 0 ∧
    (s.setFrame ((f + 1) * nsFrame)).rd F.timeFrameEpoch = (u.setFrame (f * nsFrame)).rd F.timeFrameEpoch + 1)

/-- A Ledger entry of a stream below 256 has 64 bytes: a header of 16 and a payload of 48, its stream first. The payload of a serial,
IEC 61162-450 or datagram sample of at most five values has stream, kind, value count, flags, sequence and type at their offsets
and value k at offset 8 + 8 k, and zeros where no value is. -/
def Obligations.LedgerEntriesKeepTheirLayout : Prop :=
  (∀ e : LedgerEntry, e.bytes.length = 64 ∧ e.bytes.drop 16 = padTo 48 e.payload ∧ unle (e.bytes.take 1) = e.stream % 256) ∧
  (∀ (k kind flags seq typ : Nat) (vals : List F64), vals.length ≤ 5 →
    let p := padTo 48 (refPayload k kind flags seq typ vals)
    p.length = 48 ∧ p.take 8 = le 1 k ++ le 1 kind ++ le 1 vals.length ++ le 1 flags ++ le 2 seq ++ le 2 typ ∧
    (∀ (n : Nat) (v : F64), vals[n]? = some v → unle ((p.drop (8 + 8 * n)).take 8) = v.toNat) ∧
    (∀ n, vals.length ≤ n → n < 5 → (p.drop (8 + 8 * n)).take 8 = le 8 0))

/-- In START at a frame instant, with an active Folio, Station Time acquired and locked, a duty lane, and dev.start_settle over,
NORMAL_ENTRY answers the state in which dev.state reads NORMAL, EV_DEV_STATE with 1, 2 and 0 has been sent, a pending step of
Station Time is cancelled, and the mode is resumed. -/
def Obligations.NormalIsEnteredFromStart : Prop :=
  ∀ (s x : State) (n : Nat), Runs s x → x.rd F.devState = 1 → x.time.tickDue = 0 → x.flag F.devFolioNone = false →
    x.flag F.timeStatusAcquired = true → x.flag F.timeStatusLocked = true → x.laneIn laneDuty = some n →
    x.cfg F.devStartSettle ≤ x.boot.settle →
    exec .normalEntry s = .next (((x.wr F.devState 2).emit 4 (le 1 1 ++ le 1 2 ++ le 1 0)).cancelStep.resumeMode)

/-- In START, at the end of a frame with a step pending and no time pulse under way, GRID_STEP answers the step to the steering source
after acquisition while that source is qualified, and to the acquisition source before it; with no such source the pending step is
gone, STEP_PENDING is clear unless an earlier step is still to be reported, and nothing else has changed. -/
def Obligations.StationTimeStepsToItsSource : Prop :=
  (∀ (s x : State) (src : TimeSrc), Runs s x → x.rd F.devState = 1 → x.time.step ≠ none → x.time.tickDue = 160 → x.time.tickOrigin = 0 →
    x.time.ppsEdge = none →
    (x.flag F.timeStatusAcquired = true → srcOfCode (x.rd F.timeStatusSource) = some src → (x.source src).qualified = true →
      exec .gridStep s = .next (x.gridStep src)) ∧
    (x.flag F.timeStatusAcquired = false → x.acquireSource = some src → exec .gridStep s = .next (x.gridStep src))) ∧
  (∀ (s x : State), Runs s x → x.rd F.devState = 1 → x.time.step ≠ none → x.time.tickDue = 160 → x.time.tickOrigin = 0 →
    x.time.ppsEdge = none → x.stepSource = none →
    exec .gridStep s = .next (State.wrFlag { x with time := { x.time with step := none } } F.timeGridStatusStepPending x.time.stepped.isSome))

/-- After BOOT, LOOP_FAULT_COUNT of a loop that is in use, whose fault has not been told and that is FAULTED or has had
loop.fault_ticks invalid ticks in a row answers the state in which the fault is told, the loop's state reads FAULTED and
EV_LOOP_FAULT has been sent. LOOP_RECOVERY of a FAULTED loop that has had loop.fault_clear_ticks valid ticks in a row answers the
state in which the loop is re-initialised at its last measurement and its reference, its state reads running, and the event's
clearing has been sent. -/
def Obligations.LoopsFaultAndRecover : Prop :=
  (∀ (s x : State) (l : Fin 128), Runs s x → x.ready = true → x.loopOn l.val = true → (x.loopRt l.val).told = false →
    x.rd (F.loopStatusState l.val) = 3 ∨ x.cfg F.loopFaultTicks ≤ (x.loopRt l.val).bad →
    exec (.loopFaultCount l) s = .next
      (((x.setLoop l.val { x.loopRt l.val with told := true }).wr (F.loopStatusState l.val) 3).loopEvent l.val 0)) ∧
  (∀ (s x : State) (l : Fin 128), Runs s x → x.ready = true → x.rd (F.loopStatusState l.val) = 3 →
    x.cfg F.loopFaultClearTicks ≤ (x.loopRt l.val).good →
    exec (.loopRecovery l) s = .next (
      let ref := x.reference l.val ((List.range 128).map fun k => (k, (x.loopRt k).u1))
      ((x.setLoop l.val { x.reinitLoop l.val (x.loopRt l.val) (x.loopRt l.val).yLast ref.1 ref.2 with told := false }).wr
        (F.loopStatusState l.val) 1).loopEvent l.val 1))

/-- At tick D + 8, APPLY_TICK with an intact published record of the frame in progress answers the state in which that record is in
force with n = 0 and SP_MISSING is clear; without one it answers the state in which SP_MISSING is set, and an event has been sent
if the frame before was not missing. SP_HOLD_EXPIRY, once n has reached 160 times loop.sp_hold_frames under a record, answers the
state in which the references are frozen there and nothing else has changed. -/
def Obligations.SetpointRecordsComeIntoForce : Prop :=
  (∀ (s x : State) (r : SpRecord), Runs s x → x.ready = true → x.time.tickDue = x.deadline + 8 → x.ctl.published = some r →
    x.ctl.spPublished = true → r.frame = x.rd F.timeFrameNumber → r.epoch = x.rd F.timeFrameEpoch →
    exec (.applyTick true) s = .next (({ x with loop := { x.loop with
      record := some r, n := 0, frozen := none, missRun := false, applied := true } } : State).wr F.loopOutStatusSpMissing 0)) ∧
  (∀ (s x : State) (intact : Bool), Runs s x → x.ready = true → x.time.tickDue = x.deadline + 8 →
    (x.ctl.spPublished = false ∨ intact = false ∨ x.ctl.published = none) →
    exec (.applyTick intact) s = .next (
      let y := ({ x with loop := { x.loop with missRun := true } } : State).wr F.loopOutStatusSpMissing 1
      if x.loop.missRun then y else y.emit 0x61 (le 4 (y.rd F.timeFrameNumber)))) ∧
  (∀ (s x : State) (r : SpRecord), Runs s x → x.ready = true → x.loop.record = some r → x.loop.frozen = none →
    160 * x.cfg F.loopSpHoldFrames ≤ x.loop.n →
    exec .spHoldExpiry s = .next { x with loop := { x.loop with frozen := some (160 * x.cfg F.loopSpHoldFrames) } })

/-- At tick 0 of a frame that starts after a test was asked for, LOOP_TEST_START answers the state in which the test runs, the
captures are empty with a count of 0, test_active is set, the capture is not incomplete, the loop is shown under test, and
EV_LOOP_TEST has been sent. LOOP_TEST_END of a test that has a reason to end answers the state in which no test stands,
test_active and the loop's mark are clear, and EV_LOOP_TEST has been sent with the reason; a test stopped by command ends for
reason 1. -/
def Obligations.LoopTestsBeginAndEnd : Prop :=
  (∀ (s x : State) (t : LoopTest), Runs s x → x.ready = true → x.time.tickDue = 0 → x.loop.test = some t → t.running = false →
    t.at_ < x.frameClock →
    exec .loopTestStart s = .next (
      let y : State := { x with loop := { x.loop with test := some { t with running := true }, captures := Store.empty } }
      let z := ((y.wr F.loopCaptureCount 0).wr F.loopOutStatusTestActive 1).wr F.loopOutStatusCaptureIncomplete 0
      (z.wr (F.loopStatusUnderTest t.loop) 1).emit 0x62 (le 1 t.loop ++ le 1 0))) ∧
  (∀ (s x : State) (t : LoopTest) (why : Nat), Runs s x → x.ready = true → x.loop.test = some t → x.testEnd t (x.loopState t.loop == 3) = some why →
    exec .loopTestEnd s = .next (
      let y : State := { x with loop := { x.loop with test := none } }
      ((y.wr F.loopOutStatusTestActive 0).wr (F.loopStatusUnderTest t.loop) 0).emit 0x62 (le 1 t.loop ++ le 1 1 ++ le 1 why))) ∧
  (∀ (x : State) (t : LoopTest) (faulted : Bool), t.why = none → t.stop = true → x.testEnd t faulted = some 1)

/-- CMD_LOOP_TEST with good arguments, no test standing and its loop free for a test is OK and leaves the test waiting; with a bad
argument it is OUT_OF_RANGE, with a test standing BUSY, with its loop not free WRONG_STATE. CMD_LOOP_TEST_STOP is OK and marks the
test stopped, and WRONG_STATE without one. CMD_LOOP_CAPTURE_READ of 1 to 240 samples that were captured is OK with 16 bytes for
each, and OUT_OF_RANGE otherwise. -/
def Obligations.LoopTestCommandsAct : Prop :=
  (∀ (s x : State) (h : Hdr) (l p k : Byte) (a : F32) (hold : Byte) (f0 f1 : F32) (dur : W32) (dec : Byte),
    Processed s h 0x6001 ([l, p, k] ++ le 4 a.toNat ++ [hold] ++ le 4 f0.toNat ++ le 4 f1.toNat ++ le 4 dur.toNat ++ [dec]) x →
    (loopTestArgs l p k a hold f0 f1 dur dec = true → x.loop.test = none → x.testAllowed l.toNat = true →
      exec (.cmdLoopTest h l p k a hold f0 f1 dur dec) s = .next (({ x with loop := { x.loop with
        test := some (⟨l.toNat, p.toNat, k.toNat, a, hold.toNat, f0, f1, dur.toNat, 2 ^ dec.toNat, false, 0, 1, false, false, x.clock, none⟩ : LoopTest)
        } } : State).respond h 0x6001 Res.ok [])) ∧
    (loopTestArgs l p k a hold f0 f1 dur dec = false →
      exec (.cmdLoopTest h l p k a hold f0 f1 dur dec) s = .next (x.respond h 0x6001 Res.outOfRange [])) ∧
    (loopTestArgs l p k a hold f0 f1 dur dec = true → x.loop.test ≠ none →
      exec (.cmdLoopTest h l p k a hold f0 f1 dur dec) s = .next (x.respond h 0x6001 Res.busy [])) ∧
    (loopTestArgs l p k a hold f0 f1 dur dec = true → x.loop.test = none → x.testAllowed l.toNat = false →
      exec (.cmdLoopTest h l p k a hold f0 f1 dur dec) s = .next (x.respond h 0x6001 Res.wrongState []))) ∧
  (∀ (s x : State) (h : Hdr), Processed s h 0x6002 [] x →
    (x.loop.test = none → exec (.cmdLoopTestStop h) s = .next (x.respond h 0x6002 Res.wrongState [])) ∧
    (∀ t, x.loop.test = some t → exec (.cmdLoopTestStop h) s =
      .next (({ x with loop := { x.loop with test := some { t with stop := true } } } : State).respond h 0x6002 Res.ok []))) ∧
  (∀ (s x : State) (h : Hdr) (first n : W32), Processed s h 0x6003 (le 2 first.toNat ++ le 4 n.toNat) x →
    (n.toNat ≠ 0 → n.toNat ≤ 240 → first.toNat ≤ 65535 → first.toNat + n.toNat ≤ x.rd F.loopCaptureCount →
      exec (.cmdLoopCaptureRead h first n) s = .next (x.respond h 0x6003 Res.ok
        ((x.loop.captures.get ((x.laneIn laneDuty).getD 0)).bytes.readBytes (16 * first.toNat) (16 * n.toNat)))) ∧
    ((n.toNat = 0 ∨ 240 < n.toNat ∨ 65535 < first.toNat ∨ x.rd F.loopCaptureCount < first.toNat + n.toNat) →
      exec (.cmdLoopCaptureRead h first n) s = .next (x.respond h 0x6003 Res.outOfRange [])))

/-- At F+0.5, HEARTBEAT_TX with a group set, its key loaded and none sent yet answers the state in which the heartbeat has been sent,
sealed, to spine.hb_group and spine.hb_port on the ports of the group, or waits while the outputs are held. HEARTBEAT_RX of a
datagram to spine.hb_port in its tick, with an IP address set, answers one without the right slot or tag counted as such, an
authentic malformed one counted in dev.msg_errors, a stranger's ignored, and one of a partner taken: with a fresh counter its
counter is accepted and the partner is heard on the port; the copy of the last one that comes by the other path shows that path;
and any other is a replay. At a frame instant, PARTNER_LOST of a partner not heard for longer than spine.hb_timeout answers the
state in which it is lost. -/
def Obligations.HeartbeatsPass : Prop :=
  (∀ (s x : State), Runs s x → x.ready = true → x.time.tickDue = 4 → x.spine.hbSent = false → x.cfg F.spineHbGroup ≠ 0 →
    x.keyLoaded (x.cfg F.spineHbKey) = true →
    let y : State := { x with spine := { x.spine with hbSent := true } }
    (x.flag F.laneStatusHolding = true →
      exec .heartbeatTx s = .next { y with host := { y.host with withheld := y.host.withheld ++ [.heartbeat y.heartbeatBody] } }) ∧
    (x.flag F.laneStatusHolding = false → exec .heartbeatTx s =
      .next ((y.seal (x.cfg F.spineHbKey) y.heartbeatBody).1.put (.heartbeat (x.cfg F.spineHbGroup)
        (x.cfg F.spineHbPort) y.floodPorts (y.seal (x.cfg F.spineHbKey) y.heartbeatBody).2)))) ∧
  (∀ (s x : State) (hb : Heartbeat), Runs s x → x.ready = true → x.cfg F.spineIpAddr ≠ 0 → hb.dst.toNat = x.cfg F.spineHbPort →
    x.withinTick (x.time.frameAt + hb.atUs * 1000) = true →
    (x.authentic hb = false → exec (.heartbeatRx hb) s = .next (x.authReject hb.addr.toNat 0)) ∧
    (x.authentic hb = true → hbFormed hb = false → exec (.heartbeatRx hb) s = .next (x.inc F.devMsgErrors)) ∧
    (x.authentic hb = true → hbFormed hb = true → x.partnerOf (hbField hb 4 8) = none → exec (.heartbeatRx hb) s = .next x) ∧
    (∀ p, x.authentic hb = true → hbFormed hb = true → x.partnerOf (hbField hb 4 8) = some p →
      let c := hbField hb (hb.payload.length - 24) 8
      let o := x.spine.senders.get (4 + p)
      (o.fresh c = true → exec (.heartbeatRx hb) s = .next (
        let y : State := { x with spine := { x.spine with senders := x.spine.senders.set (4 + p) (o.accept c x.writeGuard) } }
        (y.heardPartner p (hbField hb 12 4) (hbField hb 16 2) hb.atUs).heardOn p hb.port.val)) ∧
      (o.fresh c = false → x.cfg F.spineRedundancy ≠ 0 → o.last = some c →
        exec (.heartbeatRx hb) s = .next (x.heardOn p hb.port.val)) ∧
      (o.fresh c = false → (x.cfg F.spineRedundancy = 0 ∨ o.last ≠ some c) →
        exec (.heartbeatRx hb) s = .next (x.authReject hb.addr.toNat 1)))) ∧
  (∀ (s x : State) (p : Fin 3) (t : Nat), Runs s x → x.ready = true → x.time.tickDue = 0 → (x.spine.partners.get p.val).last = some t →
    x.rd (F.spinePartnerStatusState p.val) ≠ 1 → t + x.cfg F.spineHbTimeout * nsMs < x.frameClock →
    exec (.partnerLost p) s = .next (({ x with spine := { x.spine with
      partners := x.spine.partners.set p.val { (x.spine.partners.get p.val) with run := 0 } } } : State).setPartner p.val 1
        (x.rd (F.spinePartnerStatusSinglePath p.val)) (x.rd (F.spinePartnerStatusGridMismatch p.val))))

/-- After BOOT, SPINE_FRAME_FORWARD at a port that forwards answers the state in which the frame is counted at the port and has
entered the switch. MAC_AGE_EXPIRY answers the state without the learned places of the address that are as old as spine.mac_age,
PRP_ENTRY_FORGET that without the entries of the source and sequence of 400 ms or more, REASSEMBLY_TIMEOUT that without the
reassemblies of the identification of 100 ms or more; nothing else has changed. -/
def Obligations.SpineFramesAndTablesMove : Prop :=
  (∀ (s x : State) (port : Fin 9) (f : EthFrame), Runs s x → x.ready = true → x.portUp port.val = true →
    exec (.spineFrameForward port f) s = .next ((x.countPort port.val 0).ingress port.val f)) ∧
  (∀ (s x : State) (mac : BitVec 48), Runs s x →
    exec (.macAgeExpiry mac) s = .next { x with spine := { x.spine with macs := x.spine.macs.filter fun m =>
      !(m.mac == mac && decide (x.cfg F.spineMacAge * nsSecond ≤ x.since m.at_)) } }) ∧
  (∀ (s x : State) (src : BitVec 48) (n : W16), Runs s x →
    exec (.prpEntryForget src n) s = .next { x with spine := { x.spine with dups := x.spine.dups.filter fun d =>
      !(d.src == src && d.seq == n.toNat && decide (400 * nsMs ≤ x.since d.at_)) } }) ∧
  (∀ (s x : State) (n : W16), Runs s x →
    exec (.reassemblyTimeout n) s = .next { x with spine := { x.spine with reassembly := x.spine.reassembly.filter fun d =>
      !(d.1 == n.toNat && decide (100 * nsMs ≤ x.since d.2)) } })

/-- After BOOT, SPINE_LINK_CHANGE to another speed answers the state in which spine.port_status shows it, the partners are no longer
heard on a Spine port that went down, the groups are reported on a port that came up, and the event has been sent. Under PRP or
HSR, SUPERVISION_TX 2 s after the last answers the state in which a supervision frame has been sent, and SUPERVISION_RX on a port
with a link that in which the node stands in its table with the instant, as long as fewer than 512 others do. -/
def Obligations.SpineLinksAndNodesAreKept : Prop :=
  (∀ (s x : State) (q : Fin 8) (v : Fin 3), Runs s x → x.ready = true → x.rd (F.spinePortStatus q.val) ≠ x.linkSpeed q.val v.val →
    exec (.spineLinkChange q v) s = .next (
      let y := x.wr (F.spinePortStatus q.val) (x.linkSpeed q.val v.val)
      let z := if x.linkSpeed q.val v.val = 0 ∧ q.val < 2 then y.dropPath q.val else y
      (if x.linkSpeed q.val v.val = 0 then z else z.joinGroups [q.val]).emit 0x90
        (le 1 q.val ++ le 1 (x.rd (F.spinePortStatus q.val)) ++ le 1 (x.linkSpeed q.val v.val)))) ∧
  (∀ (s x : State), Runs s x → x.ready = true → x.cfg F.spineRedundancy ≠ 0 → 2 * nsSecond ≤ x.since x.spine.supervisedAt →
    exec .supervisionTx s = .next (State.put { x with spine := { x.spine with supervisedAt := x.clock } } .supervision)) ∧
  (∀ (s x : State) (src : BitVec 48) (q : Fin 2), Runs s x → x.ready = true → x.cfg F.spineRedundancy ≠ 0 → x.rd (F.spinePortStatus q.val) ≠ 0 →
    (x.spine.nodes.filter fun n => n.1 != src).length < 512 →
    exec (.supervisionRx src q) s = .next { x with
      spine := { x.spine with nodes := (x.spine.nodes.filter fun n => n.1 != src) ++ [(src, x.clock)] } })

/-- CMD_SPINE_KEY in a mailbox, of a slot 0 to 3 with the Write Guard released, is OK and sets a key of 32 bytes or, without one,
clears the slot, and BAD_LENGTH for another length; another slot is OUT_OF_RANGE, with the Write Guard tripped it is WRITE_GUARD,
and from a Spine host WRONG_TRANSPORT. With an IP address, PLEZEN_MESSAGE_REJECT of a datagram to spine.plezen_port from an
address of no enabled host answers it counted as of an unknown source; from an enabled host, counted as what its slot, tag or
counter fails, as malformed where only its message is, and answered UNKNOWN_COMMAND for a code that no rule lists. -/
def Obligations.SpineKeysAndDatagramsAreJudged : Prop :=
  (∀ (s x : State) (h : Hdr) (k : Byte) (b : List Byte),
    (Processed s h 0x9001 (k :: b) x → fromHere h = true → k.toNat ≤ 3 → x.writeGuard = false → b.length = 32 →
      exec (.cmdSpineKey h k (some b)) s = .next ((x.setKey k.toNat b).respond h 0x9001 Res.ok [])) ∧
    (Processed s h 0x9001 (k :: b) x → fromHere h = true → k.toNat ≤ 3 → x.writeGuard = false → b ≠ [] → b.length ≠ 32 →
      exec (.cmdSpineKey h k (some b)) s = .next (x.respond h 0x9001 Res.badLength [])) ∧
    (Processed s h 0x9001 [k] x → fromHere h = true → k.toNat ≤ 3 → x.writeGuard = false →
      exec (.cmdSpineKey h k none) s = .next ((x.setKey k.toNat []).respond h 0x9001 Res.ok []) ∧
      exec (.cmdSpineKey h k (some [])) s = .next ((x.setKey k.toNat []).respond h 0x9001 Res.ok [])) ∧
    (Processed s h 0x9001 (k :: b) x → fromHere h = true → 3 < k.toNat →
      exec (.cmdSpineKey h k (some b)) s = .next (x.respond h 0x9001 Res.outOfRange [])) ∧
    (Processed s h 0x9001 (k :: b) x → fromHere h = true → k.toNat ≤ 3 → x.writeGuard = true →
      exec (.cmdSpineKey h k (some b)) s = .next (x.respond h 0x9001 Res.writeGuard [])) ∧
    (Processed s h 0x9001 (k :: b) x → fromHere h = false →
      exec (.cmdSpineKey h k (some b)) s = .next (x.respond h 0x9001 Res.wrongTransport []))) ∧
  (∀ (x : State) (k : Nat) (b : List Byte), (x.setKey k b).spine.keys = x.spine.keys.set k b) ∧
  (∀ (s x : State) (addr : UdpFrom) (bytes : List Byte), Runs s x → x.ready = true → x.cfg F.spineIpAddr ≠ 0 →
    addr.ports.dst.toNat = x.cfg F.spinePlezenPort →
    (∀ k : Fin 4, x.cfgFlag (F.spineHostCfgEnabled k.val) = true → x.cfg (F.spineHostIp k.val) ≠ addr.ip.toNat) →
    exec (.plezenMessageReject addr bytes) s = .next (x.authReject addr.ip.toNat 2)) ∧
  (∀ (s x : State) (addr : UdpFrom) (m : List Byte) (slot z1 z2 z3 : Byte) (c : W64) (tag : List Byte) (k : Fin 4), Runs s x → x.ready = true →
    x.cfg F.spineIpAddr ≠ 0 → addr.ports.dst.toNat = x.cfg F.spinePlezenPort → tag.length = 16 →
    ((List.finRange 4).find? fun k => x.cfgFlag (F.spineHostCfgEnabled k.val) && x.cfg (F.spineHostIp k.val) == addr.ip.toNat) = some k →
    let bytes := m ++ ([slot, z1, z2, z3] ++ le 8 c.toNat ++ tag)
    let code := unle ((m.drop 4).take 2)
    let h : Hdr := ⟨.spine k slot c tag addr.ports, BitVec.ofNat 32 (unle ((m.drop 8).take 4)), BitVec.ofNat 32 (unle ((m.drop 28).take 4))⟩
    let fault := x.authFault k.val slot c tag (m ++ ([slot, z1, z2, z3] ++ le 8 c.toNat))
    (∀ r, fault = some r → exec (.plezenMessageReject addr bytes) s = .next (x.authReject addr.ip.toNat r)) ∧
    (fault = none → plezenFormed m = false →
      exec (.plezenMessageReject addr bytes) s = .next ((x.acceptFrom k.val c).inc F.devMsgErrors)) ∧
    (fault = none → plezenFormed m = true → argLength code = none →
      ((x.host.kept.get k.val).find? fun r => r.seq = h.seq.toNat) = none → (x.host.outstanding.get k.val).length < 8 →
      exec (.plezenMessageReject addr bytes) s = .next ((x.acceptFrom k.val c).respond h code Res.unknownCommand [])))
end

