-- ==== Sys2Proof/Laws/Bits.lean ====
section
/-! SUPPORT. One bit of a number: reading a bit that was written, and every other. -/

namespace Sys2Proof

theorem div_pow_split (v i j : Nat) (h : i ≤ j) : v / 2 ^ j = v / 2 ^ i / 2 ^ (j - i) := by
  rw [Nat.div_div_eq_div_mul, ← Nat.pow_add, Nat.add_sub_cancel' h]

theorem div_add_pow (v i : Nat) : (v + 2 ^ i) / 2 ^ i = v / 2 ^ i + 1 :=
  Nat.add_div_right v (Nat.two_pow_pos i)

/-- A bit below the one that is added keeps its value. -/
theorem testBit_add_below (v : Nat) {i j : Nat} (h : j < i) : testBit (v + 2 ^ i) j = testBit v j := by
  unfold testBit
  have e : 2 ^ i = 2 ^ j * (2 * 2 ^ (i - j - 1)) := by
    rw [← Nat.pow_succ', ← Nat.pow_add]; congr 1; omega
  rw [e, Nat.add_mul_div_left _ _ (Nat.two_pow_pos j), Nat.add_mul_mod_self_left]

/-- A bit above the one that is added to a number without it keeps its value. -/
theorem testBit_add_above (v : Nat) {i j : Nat} (h : i < j) (hv : testBit v i = false) :
    testBit (v + 2 ^ i) j = testBit v j := by
  unfold testBit at *
  rw [div_pow_split (v + 2 ^ i) i j (by omega), div_pow_split v i j (by omega), div_add_pow]
  have e : 2 ^ (j - i) = 2 * 2 ^ (j - i - 1) := by rw [← Nat.pow_succ']; congr 1; omega
  have he : (v / 2 ^ i + 1) / 2 = v / 2 ^ i / 2 := by
    have : v / 2 ^ i % 2 ≠ 1 := by simpa using hv
    omega
  rw [e, ← Nat.div_div_eq_div_mul, he, Nat.div_div_eq_div_mul]

/-- A number without a bit, with the bit added, has it. -/
theorem testBit_add_self (v : Nat) {i : Nat} (hv : testBit v i = false) : testBit (v + 2 ^ i) i = true := by
  unfold testBit at *
  rw [div_add_pow]
  have : v / 2 ^ i % 2 ≠ 1 := by simpa using hv
  have : (v / 2 ^ i + 1) % 2 = 1 := by omega
  simp [this]

/-- A number with a bit is another without it, plus the bit. -/
theorem testBit_sub (v : Nat) {i : Nat} (hv : testBit v i = true) :
    ∃ u, v = u + 2 ^ i ∧ testBit u i = false := by
  unfold testBit at *
  have hv : v / 2 ^ i % 2 = 1 := by simpa using hv
  have hle : 2 ^ i ≤ v := Nat.le_of_not_lt fun h => by rw [Nat.div_eq_of_lt h] at hv; omega
  refine ⟨v - 2 ^ i, by omega, ?_⟩
  have e : v / 2 ^ i = (v - 2 ^ i) / 2 ^ i + 1 := by
    rw [← div_add_pow]; congr 1; omega
  have : (v - 2 ^ i) / 2 ^ i % 2 ≠ 1 := by omega
  simp [this]

/-- The bit that was written reads as written. -/
@[simp] theorem testBit_putBit_self (v i : Nat) (b : Bool) : testBit (putBit v i b) i = b := by
  unfold putBit
  split
  · assumption
  · rename_i h
    cases b
    · have hv : testBit v i = true := by simpa using h
      obtain ⟨u, rfl, hu⟩ := testBit_sub v hv
      simpa using hu
    · have hv : testBit v i = false := by simpa using h
      simpa using testBit_add_self v hv

/-- Every other bit keeps its value. -/
theorem testBit_putBit_other (v : Nat) {i j : Nat} (b : Bool) (h : j ≠ i) : testBit (putBit v i b) j = testBit v j := by
  have hadd : ∀ u, testBit u i = false → testBit (u + 2 ^ i) j = testBit u j := fun u hu => by
    rcases Nat.lt_or_gt_of_ne h with h | h
    · exact testBit_add_below u h
    · exact testBit_add_above u h hu
  unfold putBit
  split
  · rfl
  · rename_i hb
    cases b
    · have hv : testBit v i = true := by simpa using hb
      obtain ⟨u, rfl, hu⟩ := testBit_sub v hv
      simpa using (hadd u hu).symm
    · have hv : testBit v i = false := by simpa using hb
      simpa using hadd v hv

end Sys2Proof
end

