-- ==== Sys2Proof/Laws/Commands.lean ====
section
/-! SUPPORT. What a command that is carried out answers, in terms of its effect on the state it finds. -/

namespace Sys2Proof.Machine

variable {s x y : State} {f : State → State} {h : Hdr} {code r : Nat} {p q : List Byte} {body : State → Reply}

/-- A command that acts while powered answers its effect. -/
theorem act_of_runs (hr : Runs s x) : act f s = .next (f x) := by
  obtain ⟨hp, rfl⟩ := hr
  simp [act, hp]

/-- The state that a command finds has power and drives nothing: a command that is run there finds it unchanged. -/
theorem Runs.self (hr : Runs s x) : Runs x x := by
  obtain ⟨hp, rfl⟩ := hr
  exact ⟨hp, rfl⟩

/-- A state with power that drives nothing is found unchanged. -/
theorem runs_of_quiet (hp : s.powered = true) (ho : s.outputs = []) : Runs s s := by
  refine ⟨hp, ?_⟩
  cases s
  simp_all

/-- Without power nothing happens. -/
theorem act_unpowered (hp : s.powered = false) : act f s = .next { s with outputs := [] } := by
  simp [act, hp]

/-- An accepted command runs its body. -/
theorem command_accepted (ha : Accepted s h code p x) : s.command h code p body = x.runCommand h code body := by
  obtain ⟨hr, hm⟩ := ha
  unfold State.command
  rw [if_neg (by simp [hr])]
  split at hm
  · rename_i n hn
    obtain ⟨ht, hh, rfl⟩ := hm
    try simp only [hn]
    rw [if_pos ⟨ht, hh⟩]
  · rename_i k slot c tag ports hk
    obtain ⟨hi, hp, hw, ha, ⟨a, hl, hf⟩, hc, hq, ho, rfl⟩ := hm
    try simp only [hk]
    rw [if_neg (by simp [hi, hp, hw]), ha]
    simp only [State.admitted, hl, hf, hc, beq_self_eq_true]
    unfold State.spineCommand
    have hq' : (((s.acceptFrom k.val c).host.kept.get k.val).find? fun r => r.seq = h.seq.toNat) = none := hq
    simp only [hq']
    rw [if_neg (by simp only [State.acceptFrom]; omega)]

/-- A command is accepted while READY is set. -/
theorem ready_of_accepted (ha : Accepted s h code p x) : x.ready = true := by
  obtain ⟨hr, hm⟩ := ha
  split at hm
  · rw [hm.2.2]; exact hr
  · rw [hm.2.2.2.2.2.2.2.2]; exact hr

/-- A processed command runs its body. -/
theorem command_processed (hp : Processed s h code p x) :
    act (fun s => s.command h code p body) s = .next (x.runCommand h code body) := by
  obtain ⟨u, hr, ha⟩ := hp
  rw [act_of_runs hr, command_accepted ha]

/-- A processed command that is complete answers with its response. -/
theorem command_replied (hp : Processed s h code p x) (hb : body x = (y, some (r, q))) :
    act (fun s => s.command h code p body) s = .next (y.respond h code r q) := by
  rw [command_processed hp]
  simp only [State.runCommand, hb]

/-- A processed command that goes on. -/
theorem command_waits (hp : Processed s h code p x) (hb : body x = (y, none)) :
    act (fun s => s.command h code p body) s = .next (y.awaitReply h) := by
  rw [command_processed hp]
  simp only [State.runCommand, hb]

/-- While READY is clear no Plezen command is processed. -/
theorem command_unready (hr : s.ready = false) :
    act (fun s => s.command h code p body) s = .next { s with outputs := [] } := by
  have e : ∀ u : State, u.ready = false → u.command h code p body = u := fun u hu => by
    unfold State.command
    rw [if_pos hu]
  simp only [act, e { s with outputs := [] } hr, ite_self]

end Sys2Proof.Machine
end

