-- ==== Sys2Proof/Laws/Store.lean ====
section
/-! SUPPORT. The laws of keyed stores: a read after a write, and that every operation keeps the canonical form. -/

namespace Sys2Proof

variable {α : Type}

/-! ### Reading after writing -/

theorem lookup_insert (k j : Nat) (x : α) (cells : List (Nat × α)) :
    lookupCell j (insertCell k x cells) = if j = k then some x else lookupCell j cells := by
  induction cells with
  | nil => simp [insertCell, lookupCell, eq_comm]
  | cons c rest ih =>
    obtain ⟨i, v⟩ := c
    simp only [insertCell]
    split
    · rename_i lt
      simp only [lookupCell, ih]
      by_cases hij : i = j
      · subst hij; simp [Nat.ne_of_lt lt]
      · simp [hij]
    · split
      · rename_i e
        subst e
        by_cases h : i = j
        · simp [lookupCell, h]
        · simp [lookupCell, h, Ne.symm h]
      · by_cases h : k = j
        · simp [lookupCell, h]
        · simp [lookupCell, h, Ne.symm h]

theorem lookup_erase_other {k j : Nat} (h : j ≠ k) (cells : List (Nat × α)) :
    lookupCell j (eraseCell k cells) = lookupCell j cells := by
  induction cells with
  | nil => rfl
  | cons c rest ih =>
    obtain ⟨i, v⟩ := c
    simp only [eraseCell]
    split
    · simp only [lookupCell, ih]
    · split
      · rename_i e
        subst e
        simp [lookupCell, Ne.symm h]
      · rfl

theorem lookup_below {b k : Nat} {cells : List (Nat × α)} (h : risingFrom b cells = true) (hk : k < b) :
    lookupCell k cells = none := by
  induction cells generalizing b with
  | nil => rfl
  | cons c rest ih =>
    obtain ⟨i, v⟩ := c
    simp only [risingFrom, Bool.and_eq_true, decide_eq_true_eq] at h
    have : i ≠ k := by omega
    simp [lookupCell, this, ih h.2 (by omega : k < i + 1)]

theorem lookup_erase_self {k b : Nat} {cells : List (Nat × α)} (h : risingFrom b cells = true) :
    lookupCell k (eraseCell k cells) = none := by
  induction cells generalizing b with
  | nil => rfl
  | cons c rest ih =>
    obtain ⟨i, v⟩ := c
    simp only [risingFrom, Bool.and_eq_true, decide_eq_true_eq] at h
    simp only [eraseCell]
    split
    · rename_i lt
      simp [lookupCell, Nat.ne_of_lt lt, ih h.2]
    · split
      · rename_i e
        exact lookup_below h.2 (by omega)
      · rename_i h1 h2
        have : i ≠ k := h2
        simp [lookupCell, this, lookup_below h.2 (by omega : k < i + 1)]

variable {d : Nat → α}

/-- A key that is not written keeps its value. -/
theorem Store.get_set_other [DecidableEq α] (m : Store d) {k j : Nat} (h : j ≠ k) (x : α) : (m.set k x).get j = m.get j := by
  by_cases e : x = d k
  · simp only [Store.set, if_pos e, Store.get, lookup_erase_other h]
  · simp only [Store.set, if_neg e, Store.get, lookup_insert, if_neg h]

theorem Store.wf_rising [DecidableEq α] {m : Store d} (h : m.wf = true) : risingFrom 0 m.cells = true := by
  simp only [Store.wf, Bool.and_eq_true] at h; exact h.1

/-- A key that is written reads as what was written. -/
theorem Store.get_set_self [DecidableEq α] {m : Store d} (h : m.wf = true) (k : Nat) (x : α) : (m.set k x).get k = x := by
  by_cases e : x = d k
  · simp only [Store.set, if_pos e, Store.get, lookup_erase_self (Store.wf_rising h)]
    exact e.symm
  · simp only [Store.set, if_neg e, Store.get, lookup_insert, if_true]

/-- A value that differs from the default reads back whatever the store's form. -/
theorem Store.get_set_listed [DecidableEq α] (m : Store d) {k : Nat} {x : α} (h : x ≠ d k) : (m.set k x).get k = x := by
  simp only [Store.set, if_neg h, Store.get, lookup_insert, if_true]

/-! ### The canonical form -/

theorem rising_mono {b c : Nat} {cells : List (Nat × α)} (hcb : c ≤ b) (h : risingFrom b cells = true) :
    risingFrom c cells = true := by
  cases cells with
  | nil => rfl
  | cons x rest =>
    simp only [risingFrom, Bool.and_eq_true, decide_eq_true_eq] at h ⊢
    exact ⟨by omega, h.2⟩

theorem rising_insert {k b : Nat} (x : α) {cells : List (Nat × α)} (hb : b ≤ k) (h : risingFrom b cells = true) :
    risingFrom b (insertCell k x cells) = true := by
  induction cells generalizing b with
  | nil => simp [insertCell, risingFrom, hb]
  | cons c rest ih =>
    obtain ⟨i, v⟩ := c
    simp only [risingFrom, Bool.and_eq_true, decide_eq_true_eq] at h
    simp only [insertCell]
    split
    · simp only [risingFrom, Bool.and_eq_true, decide_eq_true_eq]
      exact ⟨h.1, ih (by omega) h.2⟩
    · split
      · rename_i e
        simp only [risingFrom, Bool.and_eq_true, decide_eq_true_eq]
        exact ⟨hb, by rw [← e]; exact h.2⟩
      · simp only [risingFrom, Bool.and_eq_true, decide_eq_true_eq]
        exact ⟨hb, by omega, h.2⟩

theorem rising_erase {k b : Nat} {cells : List (Nat × α)} (h : risingFrom b cells = true) :
    risingFrom b (eraseCell k cells) = true := by
  induction cells generalizing b with
  | nil => rfl
  | cons c rest ih =>
    obtain ⟨i, v⟩ := c
    simp only [risingFrom, Bool.and_eq_true, decide_eq_true_eq] at h
    simp only [eraseCell]
    split
    · simp only [risingFrom, Bool.and_eq_true, decide_eq_true_eq]
      exact ⟨h.1, ih h.2⟩
    · split
      · exact rising_mono (by omega) h.2
      · simp only [risingFrom, Bool.and_eq_true, decide_eq_true_eq]
        exact h

theorem rising_filter {b : Nat} (p : Nat × α → Bool) {cells : List (Nat × α)} (h : risingFrom b cells = true) :
    risingFrom b (cells.filter p) = true := by
  induction cells generalizing b with
  | nil => rfl
  | cons c rest ih =>
    obtain ⟨i, v⟩ := c
    simp only [risingFrom, Bool.and_eq_true, decide_eq_true_eq] at h
    simp only [List.filter]
    split
    · simp only [risingFrom, Bool.and_eq_true, decide_eq_true_eq]
      exact ⟨h.1, ih h.2⟩
    · exact rising_mono (by omega) (ih h.2)

theorem mem_insert {k : Nat} {x : α} {c : Nat × α} {cells : List (Nat × α)} (h : c ∈ insertCell k x cells) :
    c = (k, x) ∨ c ∈ cells := by
  induction cells with
  | nil => simpa [insertCell] using h
  | cons e rest ih =>
    obtain ⟨i, v⟩ := e
    simp only [insertCell] at h
    split at h
    · rcases List.mem_cons.mp h with h | h
      · exact .inr (h ▸ List.mem_cons_self)
      · exact (ih h).imp_right (List.mem_cons_of_mem _)
    · split at h
      · exact (List.mem_cons.mp h).imp_right (List.mem_cons_of_mem _)
      · exact List.mem_cons.mp h

theorem mem_erase {k : Nat} {c : Nat × α} {cells : List (Nat × α)} (h : c ∈ eraseCell k cells) : c ∈ cells := by
  induction cells with
  | nil => exact h
  | cons e rest ih =>
    obtain ⟨i, v⟩ := e
    simp only [eraseCell] at h
    split at h
    · rcases List.mem_cons.mp h with h | h
      · exact h ▸ List.mem_cons_self
      · exact List.mem_cons_of_mem _ (ih h)
    · split at h
      · exact List.mem_cons_of_mem _ h
      · exact h

/-- A write keeps the canonical form. -/
theorem Store.set_wf [DecidableEq α] {m : Store d} (h : m.wf = true) (k : Nat) (x : α) : (m.set k x).wf = true := by
  simp only [Store.wf, Bool.and_eq_true, List.all_eq_true, decide_eq_true_eq] at h ⊢
  unfold Store.set
  split
  · exact ⟨rising_erase h.1, fun c hc => h.2 c (mem_erase hc)⟩
  · rename_i ne
    refine ⟨rising_insert x (Nat.zero_le k) h.1, fun c hc => ?_⟩
    rcases mem_insert hc with e | e
    · subst e; exact ne
    · exact h.2 c e

/-- Writes one after another keep the canonical form. -/
theorem Store.setAll_wf [DecidableEq α] {m : Store d} (h : m.wf = true) (cells : List (Nat × α)) : (m.setAll cells).wf = true := by
  induction cells generalizing m with
  | nil => exact h
  | cons c rest ih => exact ih (Store.set_wf h _ _)

/-- A part of a store is in canonical form. -/
theorem Store.filter_wf [DecidableEq α] {m : Store d} (h : m.wf = true) (p : Nat × α → Bool) :
    (⟨m.cells.filter p⟩ : Store d).wf = true := by
  simp only [Store.wf, Bool.and_eq_true, List.all_eq_true, decide_eq_true_eq] at h ⊢
  exact ⟨rising_filter p h.1, fun c hc => h.2 c ((List.mem_filter.mp hc).1)⟩

/-- A key that no cell names keeps its value. -/
theorem Store.get_setAll_other [DecidableEq α] (m : Store d) (cells : List (Nat × α)) (k : Nat) (h : ∀ c ∈ cells, c.1 ≠ k) :
    (m.setAll cells).get k = m.get k := by
  induction cells generalizing m with
  | nil => rfl
  | cons c rest ih =>
    show ((m.set c.1 c.2).setAll rest).get k = m.get k
    rw [ih _ fun x hx => h x (List.mem_cons_of_mem _ hx),
      Store.get_set_other m (fun e => h c (List.mem_cons_self ..) e.symm)]

/-! ### Byte buffers -/

/-- Writing bytes keeps the canonical form of a buffer. -/
theorem writeBytes_wf {m : Mem} (h : Memory.wf m = true) (a : Nat) (bs : List Byte) :
    Memory.wf (m.writeBytes a bs) = true := by
  induction bs generalizing m a with
  | nil => exact h
  | cons b rest ih => exact ih (Store.set_wf h a b) (a + 1)

/-- A byte outside the bytes written keeps its value. -/
theorem writeBytes_get_other (m : Mem) {a k : Nat} (bs : List Byte) (h : k < a ∨ a + bs.length ≤ k) :
    (m.writeBytes a bs).get k = m.get k := by
  induction bs generalizing m a with
  | nil => rfl
  | cons b rest ih =>
    simp only [List.length_cons] at h
    simp only [Store.writeBytes]
    rw [ih _ (by omega), Store.get_set_other m (by omega)]

/-- A byte that was written reads as what was written. -/
theorem writeBytes_get {m : Mem} (hm : Memory.wf m = true) {a k : Nat} (bs : List Byte) (h : k < bs.length) :
    (m.writeBytes a bs).get (a + k) = bs[k] := by
  induction bs generalizing m a k with
  | nil => simp at h
  | cons b rest ih =>
    cases k with
    | zero =>
      simp only [Store.writeBytes, Nat.add_zero, List.getElem_cons_zero]
      rw [writeBytes_get_other _ rest (.inl (Nat.lt_succ_self a)), Store.get_set_self hm]
    | succ k =>
      simp only [List.length_cons] at h
      have := ih (Store.set_wf hm a b) (a := a + 1) (k := k) (by omega)
      simp only [Store.writeBytes, List.getElem_cons_succ]
      rw [show a + (k + 1) = a + 1 + k by omega]
      exact this

/-- Bytes read back where they were written. -/
theorem readBytes_writeBytes {m : Mem} (hm : Memory.wf m = true) (a : Nat) (bs : List Byte) :
    (m.writeBytes a bs).readBytes a bs.length = bs := by
  induction bs generalizing m a with
  | nil => rfl
  | cons b rest ih =>
    simp only [Store.writeBytes, List.length_cons, Store.readBytes]
    rw [writeBytes_get_other _ rest (.inl (Nat.lt_succ_self a)), Store.get_set_self hm, ih (Store.set_wf hm a b)]

end Sys2Proof
end

