-- ==== Sys2Proof/Laws/Keeps.lean ====
section
/-! SUPPORT. The relation between two states that says what no command does: the queue of waiting commands stays, and a sound state
stays sound. One lemma for each function of the model says that it keeps both. -/

namespace Sys2Proof.Machine

/-- From `s` to `t` the waiting commands stay, and soundness is kept. -/
structure Keeps (s t : State) : Prop where
  pending : t.pending = s.pending
  sound : Sound s → Sound t

variable {s t u : State}

theorem Keeps.refl (s : State) : Keeps s s := ⟨rfl, id⟩

theorem Keeps.trans (h : Keeps s t) (k : Keeps t u) : Keeps s u :=
  ⟨k.pending.trans h.pending, fun x => k.sound (h.sound x)⟩

/-- A change of nothing that soundness rests on. -/
theorem Keeps.of_eq (h : Keeps s t) (hp : u.pending = t.pending) (hr : u.regs = t.regs) (hm : u.host.mbx = t.host.mbx)
    (hq : u.host.queue = t.host.queue) (hk : u.host.kept = t.host.kept) (hf : u.fault.ring = t.fault.ring)
    (hh : u.power.history = t.power.history) (hc : u.turn.commits = t.turn.commits) : Keeps s u := by
  refine ⟨hp.trans h.pending, fun x => ?_⟩
  have y := h.sound x
  exact ⟨hr ▸ y.regs, hm ▸ y.mailboxes, hq ▸ y.queue, hk ▸ y.responses, hf ▸ y.faultLog, hh ▸ y.inputPower, hc ▸ y.commits⟩

/-- A record of a state in which nothing changes that soundness rests on. -/
theorem Keeps.of_mk (h : Keeps s t)
    {a0 : List Instr} {a1 : Nat} {a2 : List Output} {a3 : Bool} {a4 : Regs} {a5 : Folio} {a6 : Folio} {a7 : HostPort}
    {a8 : TurnState} {a9 : FwState} {a10 : BootState} {a11 : FaultState} {a12 : LifeState} {a13 : TimeState} {a14 :
    GnssState} {a15 : InputState} {a16 : CollState} {a17 : VoteState} {a18 : SolverState} {a19 : ControlState} {a20 :
    LoopState} {a21 : LogicState} {a22 : CanState} {a23 : SpineState} {a24 : LaneState} {a25 : SafeState} {a26 :
    PowerState}
    (hp : a0 = t.pending) (hr : a4 = t.regs) (hm : a7.mbx = t.host.mbx) (hq : a7.queue = t.host.queue)
    (hk : a7.kept = t.host.kept) (hf : a11.ring = t.fault.ring) (hh : a26.history = t.power.history)
    (hc : a8.commits = t.turn.commits) :
    Keeps s (State.mk a0 a1 a2 a3 a4 a5 a6 a7 a8 a9 a10 a11 a12 a13 a14 a15 a16 a17 a18 a19 a20 a21 a22 a23 a24 a25 a26) :=
  h.of_eq hp hr hm hq hk hf hh hc

/-- A change of the registers to a store in canonical form. -/
theorem Keeps.of_regs (h : Keeps s t) {r : Regs} (hr : t.regs.wf = true → r.wf = true) : Keeps s { t with regs := r } := by
  refine ⟨h.pending, fun x => ?_⟩
  have y := h.sound x
  exact ⟨hr y.regs, y.mailboxes, y.queue, y.responses, y.faultLog, y.inputPower, y.commits⟩

/-- A change of the event queue to one that is allowed. -/
theorem Keeps.of_queue (h : Keeps s t) {q : List Event} (hq : queueAllowed t.host.queue → queueAllowed q) :
    Keeps s { t with host := { t.host with queue := q } } := by
  refine ⟨h.pending, fun x => ?_⟩
  have y := h.sound x
  exact ⟨y.regs, y.mailboxes, hq y.queue, y.responses, y.faultLog, y.inputPower, y.commits⟩

/-- A change of the mailboxes that keeps the form of their memory. -/
theorem Keeps.of_mbx (h : Keeps s t) {m : Store idleMailbox}
    (hm : (t.host.mbx.wf = true ∧ ∀ n, Memory.wf (t.host.mbx.get n).buf = true) →
      m.wf = true ∧ ∀ n, Memory.wf (m.get n).buf = true) :
    Keeps s { t with host := { t.host with mbx := m } } := by
  refine ⟨h.pending, fun x => ?_⟩
  have y := h.sound x
  exact ⟨y.regs, hm y.mailboxes, y.queue, y.responses, y.faultLog, y.inputPower, y.commits⟩

/-- A fold keeps what each of its steps keeps. -/
theorem Keeps.foldl {α : Type} {f : State → α → State} (hf : ∀ (x : State) (a : α), Keeps s x → Keeps s (f x a)) (h : Keeps s t)
    (l : List α) : Keeps s (l.foldl f t) := by
  induction l generalizing t with
  | nil => exact h
  | cons a rest ih => exact ih (hf t a h)

/-- A fold that carries a value along keeps what each of its steps keeps. -/
theorem Keeps.foldlPair {α β : Type} {f : State × β → α → State × β}
    (hf : ∀ (x : State × β) (a : α), Keeps s x.1 → Keeps s (f x a).1) {p : State × β} (h : Keeps s p.1) (l : List α) :
    Keeps s (l.foldl f p).1 := by
  induction l generalizing p with
  | nil => exact h
  | cons a rest ih => exact ih (hf p a h)

/-- A mailbox with memory in canonical form in place of another. -/
theorem mailboxes_set {m : Store idleMailbox} (h : m.wf = true ∧ ∀ n, Memory.wf (m.get n).buf = true) (k : Nat) {b : Mailbox}
    (hb : Memory.wf b.buf = true) : (m.set k b).wf = true ∧ ∀ n, Memory.wf ((m.set k b).get n).buf = true := by
  refine ⟨Store.set_wf h.1 k b, fun n => ?_⟩
  by_cases e : n = k
  · subst e; rw [Store.get_set_self h.1]; exact hb
  · rw [Store.get_set_other m e]; exact h.2 n

end Sys2Proof.Machine
end

