-- ==== Sys2Proof/Laws/KeepsOps.lean ====
section
/-! SUPPORT. What the functions of Machine/Ops.lean keep. -/

namespace Sys2Proof.Machine

/-- A command that acts while powered keeps what its effect keeps. -/
theorem act_keeps {s : State} {f : State → State} (h : ∀ x : State, Keeps s x → Keeps s (f x)) :
    ∃ t', act f s = .next t' ∧ Keeps s t' := by
  have h0 : Keeps s { s with outputs := [] } := (Keeps.refl s).of_eq rfl rfl rfl rfl rfl rfl rfl rfl
  refine ⟨_, rfl, ?_⟩
  split
  · exact h _ h0
  · exact h0

theorem takeNonAlarm_length {q : List Event} {x : Event} {q' : List Event} (h : takeNonAlarm q = some (x, q')) :
    q'.length + 1 = q.length := by
  induction q generalizing x q' with
  | nil => simp [takeNonAlarm] at h
  | cons e rest ih =>
    simp only [takeNonAlarm] at h
    split at h
    · split at h
      · rename_i y r hr
        simp only [Option.some.injEq, Prod.mk.injEq] at h
        rw [← h.2]; simp [← ih hr]
      · simp at h
    · simp only [Option.some.injEq, Prod.mk.injEq] at h
      rw [← h.2]; simp

theorem takeCode_length {c : Nat} {q : List Event} {x : Event} {q' : List Event} (h : takeCode c q = some (x, q')) :
    q'.length + 1 = q.length := by
  induction q generalizing x q' with
  | nil => simp [takeCode] at h
  | cons e rest ih =>
    simp only [takeCode] at h
    split at h
    · simp only [Option.some.injEq, Prod.mk.injEq] at h
      rw [← h.2]; simp
    · split at h
      · rename_i y r hr
        simp only [Option.some.injEq, Prod.mk.injEq] at h
        rw [← h.2]; simp [← ih hr]
      · simp at h

theorem mergeAlarms_length {q q' : List Event} (h : mergeAlarms q = some q') : q'.length + 1 = q.length := by
  induction q generalizing q' with
  | nil => simp [mergeAlarms] at h
  | cons e rest ih =>
    simp only [mergeAlarms] at h
    split at h
    · rename_i x r hr
      simp only [Option.some.injEq] at h
      rw [← h]; simp [takeCode_length hr]
    · split at h
      · rename_i r hr
        simp only [Option.some.injEq] at h
        rw [← h]; simp [← ih hr]
      · simp at h

theorem alarmCount_cons (e : Event) (q : List Event) : alarmCount (e :: q) = (if e.cls = .alarm then 1 else 0) + alarmCount q := by
  unfold alarmCount
  by_cases c : e.cls = .alarm <;> simp [c]; omega

theorem alarmCount_append (q r : List Event) : alarmCount (q ++ r) = alarmCount q + alarmCount r := by
  unfold alarmCount
  rw [List.filter_append, List.length_append]

theorem alarmCount_le (q : List Event) : alarmCount q ≤ q.length := List.length_filter_le _ _

/-- An empty queue is as the rules allow it. -/
theorem noEvents_allowed : queueAllowed [] := ⟨Nat.zero_le _, Nat.zero_le _, fun _ he => absurd he List.not_mem_nil⟩

/-- Entries taken out of a queue leave one as the rules allow it. -/
theorem filter_allowed {q : List Event} (h : queueAllowed q) (p : Event → Bool) : queueAllowed (q.filter p) := by
  refine ⟨Nat.le_trans (List.length_filter_le _ _) h.1, ?_, fun e he => h.2.2 e (List.mem_filter.mp he).1⟩
  have key : ∀ l : List Event, (l.filter p).length + alarmCount l ≤ alarmCount (l.filter p) + l.length := by
    intro l
    induction l with
    | nil => exact Nat.le_refl _
    | cons e rest ih =>
      rw [List.filter_cons, alarmCount_cons, List.length_cons]
      split
      · rw [alarmCount_cons, List.length_cons]; omega
      · split <;> omega
  have := key q
  have := h.2.1
  omega

/-- What is left when the oldest Record or Notify entry is taken. -/
theorem takeNonAlarm_rest {q : List Event} {x : Event} {q' : List Event} (h : takeNonAlarm q = some (x, q')) :
    alarmCount q' = alarmCount q ∧ ∀ e ∈ q', e ∈ q := by
  induction q generalizing x q' with
  | nil => simp [takeNonAlarm] at h
  | cons e rest ih =>
    simp only [takeNonAlarm] at h
    split at h
    · rename_i c
      split at h
      · rename_i y r hr
        simp only [Option.some.injEq, Prod.mk.injEq] at h
        rw [← h.2, alarmCount_cons, alarmCount_cons, (ih hr).1]
        refine ⟨rfl, fun a ha => ?_⟩
        rcases List.mem_cons.mp ha with rfl | ha
        · exact List.mem_cons_self
        · exact List.mem_cons_of_mem _ ((ih hr).2 a ha)
      · simp at h
    · rename_i c
      simp only [Option.some.injEq, Prod.mk.injEq] at h
      rw [← h.2, alarmCount_cons, if_neg c]
      exact ⟨by omega, fun a ha => List.mem_cons_of_mem _ ha⟩

/-- A queue from which no Record or Notify entry can be taken holds only Alarm entries. -/
theorem takeNonAlarm_none {q : List Event} (h : takeNonAlarm q = none) : alarmCount q = q.length := by
  induction q with
  | nil => rfl
  | cons e rest ih =>
    simp only [takeNonAlarm] at h
    split at h
    · rename_i c
      split at h
      · simp at h
      · rename_i hr
        rw [alarmCount_cons, if_pos c, ih hr, List.length_cons]; omega
    · simp at h

/-- A queue of which one more entry can be taken out holds what the rest holds. -/
theorem takeCode_rest {c : Nat} {q : List Event} {x : Event} {q' : List Event} (h : takeCode c q = some (x, q')) :
    (∀ e ∈ q', e ∈ q) ∧ alarmCount q ≤ alarmCount q' + 1 := by
  induction q generalizing x q' with
  | nil => simp [takeCode] at h
  | cons e rest ih =>
    simp only [takeCode] at h
    split at h
    · simp only [Option.some.injEq, Prod.mk.injEq] at h
      rw [← h.2, alarmCount_cons]
      exact ⟨fun a ha => List.mem_cons_of_mem _ ha, by split <;> omega⟩
    · split at h
      · rename_i y r hr
        simp only [Option.some.injEq, Prod.mk.injEq] at h
        rw [← h.2, alarmCount_cons, alarmCount_cons]
        refine ⟨fun a ha => ?_, by have := (ih hr).2; omega⟩
        rcases List.mem_cons.mp ha with rfl | ha
        · exact List.mem_cons_self
        · exact List.mem_cons_of_mem _ ((ih hr).1 a ha)
      · simp at h

/-- A merge of two entries leaves every code one of the queue, and takes away at most one Alarm entry. -/
theorem mergeAlarms_rest {q q' : List Event} (h : mergeAlarms q = some q') :
    (∀ e ∈ q', ∃ a ∈ q, e.code = a.code) ∧ alarmCount q ≤ alarmCount q' + 1 := by
  induction q generalizing q' with
  | nil => simp [mergeAlarms] at h
  | cons e rest ih =>
    simp only [mergeAlarms] at h
    split at h
    · rename_i x r hr
      simp only [Option.some.injEq] at h
      rw [← h, alarmCount_cons, alarmCount_cons]
      refine ⟨fun a ha => ?_, by have := (takeCode_rest hr).2; dsimp only; omega⟩
      rcases List.mem_cons.mp ha with rfl | ha
      · exact ⟨e, List.mem_cons_self, rfl⟩
      · exact ⟨a, List.mem_cons_of_mem _ ((takeCode_rest hr).1 a ha), rfl⟩
    · split at h
      · rename_i r hr
        simp only [Option.some.injEq] at h
        rw [← h, alarmCount_cons, alarmCount_cons]
        refine ⟨fun a ha => ?_, by have := (ih hr).2; omega⟩
        rcases List.mem_cons.mp ha with rfl | ha
        · exact ⟨a, List.mem_cons_self, rfl⟩
        · obtain ⟨b, hb, hc⟩ := (ih hr).1 a ha
          exact ⟨b, List.mem_cons_of_mem _ hb, hc⟩
      · simp at h

/-- An allowed code at the end of a queue of allowed codes. -/
theorem code_append {q : List Event} {e : Event} (h : ∀ a ∈ q, a.code ≤ 0x200) (he : e.code ≤ 0x200) :
    ∀ a ∈ q ++ [e], a.code ≤ 0x200 := by
  intro a ha
  rcases List.mem_append.mp ha with ha | ha
  · exact h a ha
  · rw [List.mem_singleton.mp ha]; exact he

/-- The index of a process source is a code that the rules allow. -/
theorem source_allowed (src : Nat) : src % 256 ≤ 0x200 := by omega

theorem reply_keeps {s0 s : State} (h : Keeps s0 s) (res : Nat) (payload : List Byte) : Keeps s0 (s.reply res payload).1 := h

theorem wr_keeps {s0 s : State} (h : Keeps s0 s) (f : Fld) (v : Nat) : Keeps s0 (s.wr f v) :=
  h.of_regs fun w => Store.set_wf w _ _

theorem wrFlag_keeps {s0 s : State} (h : Keeps s0 s) (f : Fld) (b : Bool) :
    Keeps s0 (State.wrFlag s f b) := by
  unfold State.wrFlag
  try dsimp only
  repeat' (first
    | with_reducible assumption
    | with_reducible intro _
    | with_reducible apply wr_keeps
    | split
    | with_reducible refine Keeps.of_mk ?_ rfl rfl rfl rfl rfl rfl rfl rfl)

theorem wrInt_keeps {s0 s : State} (h : Keeps s0 s) (f : Fld) (v : Int) :
    Keeps s0 (State.wrInt s f v) := by
  unfold State.wrInt
  try dsimp only
  repeat' (first
    | with_reducible assumption
    | with_reducible intro _
    | with_reducible apply wr_keeps
    | split
    | with_reducible refine Keeps.of_mk ?_ rfl rfl rfl rfl rfl rfl rfl rfl)

theorem add_keeps {s0 s : State} (h : Keeps s0 s) (f : Fld) (n : Nat) :
    Keeps s0 (State.add s f n) := by
  unfold State.add
  try dsimp only
  repeat' (first
    | with_reducible assumption
    | with_reducible intro _
    | with_reducible apply wr_keeps
    | split
    | with_reducible refine Keeps.of_mk ?_ rfl rfl rfl rfl rfl rfl rfl rfl)

theorem inc_keeps {s0 s : State} (h : Keeps s0 s) (f : Fld) :
    Keeps s0 (State.inc s f) := by
  unfold State.inc
  try dsimp only
  repeat' (first
    | with_reducible assumption
    | with_reducible intro _
    | with_reducible apply add_keeps
    | split
    | with_reducible refine Keeps.of_mk ?_ rfl rfl rfl rfl rfl rfl rfl rfl)

theorem put_keeps {s0 s : State} (h : Keeps s0 s) (o : Output) :
    Keeps s0 (State.put s o) := by
  unfold State.put
  try dsimp only
  repeat' (first
    | with_reducible assumption
    | with_reducible intro _
    | split
    | with_reducible refine Keeps.of_mk ?_ rfl rfl rfl rfl rfl rfl rfl rfl)

theorem setFolio_keeps {s0 s : State} (h : Keeps s0 s) (n : Nat) (x : Folio) : Keeps s0 (s.setFolio n x) := by
  unfold State.setFolio
  split
  · exact h.of_eq rfl rfl rfl rfl rfl rfl rfl rfl
  · exact h.of_eq rfl rfl rfl rfl rfl rfl rfl rfl

theorem setFrame_keeps {s0 s : State} (h : Keeps s0 s) (frameNs : Nat) :
    Keeps s0 (State.setFrame s frameNs) := by
  unfold State.setFrame
  try dsimp only
  repeat' (first
    | with_reducible assumption
    | with_reducible intro _
    | with_reducible apply wr_keeps
    | split
    | with_reducible refine Keeps.of_mk ?_ rfl rfl rfl rfl rfl rfl rfl rfl)

theorem moveTo_keeps {s0 s : State} (h : Keeps s0 s) (t : Nat) :
    Keeps s0 (State.moveTo s t) := by
  unfold State.moveTo
  try dsimp only
  repeat' (first
    | with_reducible assumption
    | with_reducible intro _
    | with_reducible apply start_keeps
    | split
    | with_reducible refine Keeps.of_mk ?_ rfl rfl rfl rfl rfl rfl rfl rfl)

theorem busBoundary_keeps {s0 s : State} (h : Keeps s0 s)  :
    Keeps s0 (State.busBoundary s) := by
  unfold State.busBoundary
  try dsimp only
  repeat' (first
    | with_reducible assumption
    | with_reducible intro _
    | split
    | with_reducible refine Keeps.of_mk ?_ rfl rfl rfl rfl rfl rfl rfl rfl)

theorem ringRecord_keeps {s0 s : State} (h : Keeps s0 s) (kind flags : Nat) (body : List Byte) (fill : Nat) :
    Keeps s0 (s.ringRecord kind flags body fill) := by
  unfold State.ringRecord
  dsimp only
  generalize ringRoom _ _ _ _ = x
  obtain ⟨kept, used, lost⟩ := x
  exact (add_keeps (wr_keeps h _ _) _ _).of_eq rfl rfl rfl rfl rfl rfl rfl rfl

theorem record_keeps {s0 s : State} (h : Keeps s0 s) (kind flags : Nat) (body : List Byte) (fill : Nat) :
    Keeps s0 (s.record kind flags body fill) := by
  unfold State.record
  dsimp only
  split
  · exact h
  · split
    · exact ringRecord_keeps (ringRecord_keeps (h.of_mk rfl rfl rfl rfl rfl rfl rfl rfl) _ _ _ _) _ _ _ _
    · exact ringRecord_keeps h _ _ _ _

theorem logFault_keeps {s0 s : State} (h : Keeps s0 s) (kind src sev place flags : Nat) (location : W64) (syndrome : W32) :
    Keeps s0 (s.logFault kind src sev place flags location syndrome) := by
  unfold State.logFault
  dsimp only
  refine record_keeps (wr_keeps ?_ _ _) _ _ _ _
  refine ⟨h.pending, fun x => ?_⟩
  have y := h.sound x
  exact ⟨y.regs, y.mailboxes, y.queue, y.responses, by simp; omega, y.inputPower, y.commits⟩

theorem seal_keeps {s0 s : State} (h : Keeps s0 s) (slot : Nat) (body : List Byte) :
    Keeps s0 (State.seal s slot body).1 := by
  unfold State.seal
  try dsimp only
  repeat' (first
    | with_reducible assumption
    | with_reducible intro _
    | with_reducible apply wr_keeps
    | split
    | with_reducible refine Keeps.of_mk ?_ rfl rfl rfl rfl rfl rfl rfl rfl)

theorem seal_keeps_of {s0 s a : State} {rb : List Byte} (h : Keeps s0 s) (slot : Nat) (body : List Byte) (e : (State.seal s slot body) = (a, rb)) : Keeps s0 a := by
  have k := seal_keeps h slot body
  rw [e] at k
  exact k

theorem sendHost_keeps {s0 s : State} (h : Keeps s0 s) (host : Nat) (mk : List (List Byte) → Output) (body : List Byte) :
    Keeps s0 (State.sendHost s host mk body) := by
  unfold State.sendHost
  try dsimp only
  repeat' (first
    | with_reducible assumption
    | with_reducible intro _
    | with_reducible apply seal_keeps
    | with_reducible refine seal_keeps_of ?_ (by with_reducible assumption)
    | with_reducible apply put_keeps
    | split
    | with_reducible refine Keeps.of_mk ?_ rfl rfl rfl rfl rfl rfl rfl rfl)

theorem sendEvent_keeps {s0 s : State} (h : Keeps s0 s) (host : Nat) (msg : List Byte) :
    Keeps s0 (State.sendEvent s host msg) := by
  unfold State.sendEvent
  try dsimp only
  repeat' (first
    | with_reducible assumption
    | with_reducible intro _
    | with_reducible apply sendHost_keeps
    | split
    | with_reducible refine Keeps.of_mk ?_ rfl rfl rfl rfl rfl rfl rfl rfl)

theorem sendHeartbeat_keeps {s0 s : State} (h : Keeps s0 s) (body : List Byte) :
    Keeps s0 (State.sendHeartbeat s body) := by
  unfold State.sendHeartbeat
  try dsimp only
  repeat' (first
    | with_reducible assumption
    | with_reducible intro _
    | with_reducible apply seal_keeps
    | with_reducible refine seal_keeps_of ?_ (by with_reducible assumption)
    | with_reducible apply put_keeps
    | split
    | with_reducible refine Keeps.of_mk ?_ rfl rfl rfl rfl rfl rfl rfl rfl)

theorem countLost_keeps {s0 s : State} (h : Keeps s0 s) (seq : Nat) :
    Keeps s0 (State.countLost s seq) := by
  unfold State.countLost
  try dsimp only
  repeat' (first
    | with_reducible assumption
    | with_reducible intro _
    | with_reducible apply inc_keeps
    | split
    | with_reducible refine Keeps.of_mk ?_ rfl rfl rfl rfl rfl rfl rfl rfl)

theorem place_keeps {s0 s : State} (h : Keeps s0 s) (e : Event) (he : e.code ≤ 0x200) : Keeps s0 (s.place e) := by
  unfold State.place
  dsimp only
  split
  · rename_i ca
    split
    · refine h.of_queue fun hq => ⟨by simp; omega, ?_, code_append hq.2.2 he⟩
      rw [alarmCount_append, alarmCount_cons, if_pos ca, List.length_append, List.length_singleton]
      have := hq.2.1; omega
    · split
      · rename_i x q' e'
        refine countLost_keeps ?_ _
        refine h.of_queue fun hq => ?_
        have := takeNonAlarm_length e'; have := hq.1; have := hq.2.1; have r := takeNonAlarm_rest e'
        refine ⟨by simp; omega, ?_, code_append (fun a ha => hq.2.2 a (r.2 a ha)) he⟩
        rw [alarmCount_append, alarmCount_cons, if_pos ca, List.length_append, List.length_singleton, r.1]
        omega
      · rename_i e1
        split
        · rename_i q' e'
          refine inc_keeps ?_ _
          refine h.of_queue fun hq => ?_
          have := mergeAlarms_length e'; have := hq.1; have r := mergeAlarms_rest e'; have := takeNonAlarm_none e1
          refine ⟨by simp; omega, ?_, code_append (fun a ha => ?_) he⟩
          · rw [alarmCount_append, alarmCount_cons, if_pos ca, List.length_append, List.length_singleton]
            omega
          · obtain ⟨b, hb, hc⟩ := r.1 a ha
            rw [hc]; exact hq.2.2 b hb
        · exact h
  · rename_i ca
    split
    · rename_i c
      refine h.of_queue fun hq => ⟨by simp; omega, ?_, code_append hq.2.2 he⟩
      rw [alarmCount_append, alarmCount_cons, if_neg ca, List.length_append, List.length_singleton]
      have : alarmCount [] = 0 := rfl
      omega
    · split
      · rename_i x q' e'
        refine countLost_keeps ?_ _
        refine h.of_queue fun hq => ?_
        have := takeNonAlarm_length e'; have := hq.1; have := hq.2.1; have r := takeNonAlarm_rest e'
        refine ⟨by simp; omega, ?_, code_append (fun a ha => hq.2.2 a (r.2 a ha)) he⟩
        rw [alarmCount_append, alarmCount_cons, if_neg ca, List.length_append, List.length_singleton, r.1]
        have : alarmCount [] = 0 := rfl
        omega
      · exact countLost_keeps h _

theorem queueOne_keeps {s0 s : State} (h : Keeps s0 s) (code : Nat) (cls : EvClass) (flags : Nat) (payload : List Byte) (hc : code ≤ 0x200) :
    Keeps s0 (State.queueOne s code cls flags payload) := by
  unfold State.queueOne
  try dsimp only
  repeat' (first
    | with_reducible assumption
    | with_reducible intro _
    | with_reducible apply inc_keeps
    | with_reducible apply wr_keeps
    | with_reducible apply place_keeps
    | with_reducible apply sendEvent_keeps
    | with_reducible apply record_keeps
    | with_reducible refine Keeps.foldl ?_ ?_ _
    | with_reducible exact source_allowed _
    | decide
    | split
    | with_reducible refine Keeps.of_mk ?_ rfl rfl rfl rfl rfl rfl rfl rfl)

theorem queueEvent_keeps {s0 s : State} (h : Keeps s0 s) (code : Nat) (cls : EvClass) (flags : Nat) (payload : List Byte) (hc : code ≤ 0x200) :
    Keeps s0 (State.queueEvent s code cls flags payload) := by
  unfold State.queueEvent
  try dsimp only
  repeat' (first
    | with_reducible assumption
    | with_reducible intro _
    | with_reducible apply queueOne_keeps
    | with_reducible apply inc_keeps
    | with_reducible exact source_allowed _
    | decide
    | split
    | with_reducible refine Keeps.of_mk ?_ rfl rfl rfl rfl rfl rfl rfl rfl)

theorem escalate_keeps {s0 s : State} (h : Keeps s0 s) (src : Nat) :
    Keeps s0 (State.escalate s src).1 := by
  unfold State.escalate
  try dsimp only
  repeat' (first
    | with_reducible assumption
    | with_reducible intro _
    | split
    | with_reducible refine Keeps.of_mk ?_ rfl rfl rfl rfl rfl rfl rfl rfl)

theorem escalate_keeps_of {s0 s a : State} {rb : Bool} (h : Keeps s0 s) (src : Nat) (e : (State.escalate s src) = (a, rb)) : Keeps s0 a := by
  have k := escalate_keeps h src
  rw [e] at k
  exact k

theorem emitBase_keeps {s0 s : State} (h : Keeps s0 s) (src : Nat) (flags : Nat) (payload : List Byte) :
    Keeps s0 (State.emitBase s src flags payload) := by
  unfold State.emitBase
  try dsimp only
  repeat' (first
    | with_reducible assumption
    | with_reducible intro _
    | with_reducible apply inc_keeps
    | with_reducible apply escalate_keeps
    | with_reducible refine escalate_keeps_of ?_ (by with_reducible assumption)
    | with_reducible apply queueEvent_keeps
    | with_reducible apply logFault_keeps
    | with_reducible exact source_allowed _
    | decide
    | split
    | with_reducible refine Keeps.of_mk ?_ rfl rfl rfl rfl rfl rfl rfl rfl)

theorem emit_keeps {s0 s : State} (h : Keeps s0 s) (src : Nat) (payload : List Byte) :
    Keeps s0 (State.emit s src payload) := by
  unfold State.emit
  try dsimp only
  repeat' (first
    | with_reducible assumption
    | with_reducible intro _
    | with_reducible apply emitBase_keeps
    | with_reducible apply inc_keeps
    | with_reducible apply wr_keeps
    | split
    | with_reducible refine Keeps.of_mk ?_ rfl rfl rfl rfl rfl rfl rfl rfl)

theorem emitAtFrame_keeps {s0 s : State} (h : Keeps s0 s) (src : Nat) (payload : List Byte) :
    Keeps s0 (State.emitAtFrame s src payload) := by
  unfold State.emitAtFrame
  try dsimp only
  repeat' (first
    | with_reducible assumption
    | with_reducible intro _
    | with_reducible apply emit_keeps
    | split
    | with_reducible refine Keeps.of_mk ?_ rfl rfl rfl rfl rfl rfl rfl rfl)

/-- A mailbox changed to one whose memory is in canonical form. -/
theorem setMailbox_keeps {s0 s : State} (h : Keeps s0 s) (n : Nat) (b : Mailbox)
    (hb : Memory.wf (s.host.mbx.get n).buf = true → Memory.wf b.buf = true) : Keeps s0 (s.setMailbox n b) :=
  h.of_mbx fun m => mailboxes_set m n (hb (m.2 n))

theorem deliver_keeps {s0 s : State} (h : Keeps s0 s) (hd : Hdr) (code res : Nat) (payload : List Byte) :
    Keeps s0 (s.deliver hd code res payload) := by
  unfold State.deliver
  split
  · refine ⟨h.pending, fun x => ?_⟩
    have y := h.sound x
    exact ⟨y.regs, mailboxes_set y.mailboxes _ (writeBytes_wf (y.mailboxes.2 _) _ _), y.queue, y.responses, y.faultLog,
      y.inputPower, y.commits⟩
  · rename_i k _ _ _ _ _
    refine sendHost_keeps ?_ _ _ _
    refine ⟨h.pending, fun x => ?_⟩
    have y := h.sound x
    refine ⟨y.regs, y.mailboxes, y.queue, fun n => ?_, y.faultLog, y.inputPower, y.commits⟩
    by_cases e : n = k.val
    · subst e
      dsimp only
      rw [Store.get_set_listed]
      · have := y.responses k.val
        simp
        omega
      · intro e
        have := congrArg List.length e
        have r := y.responses k.val
        simp [noKept] at this
        omega
    · dsimp only
      rw [Store.get_set_other _ e]
      exact y.responses n

theorem respond_keeps {s0 s : State} (h : Keeps s0 s) (h : Hdr) (code res : Nat) (payload : List Byte) :
    Keeps s0 (State.respond s h code res payload) := by
  unfold State.respond
  try dsimp only
  repeat' (first
    | with_reducible assumption
    | with_reducible intro _
    | with_reducible apply deliver_keeps
    | with_reducible apply selector_keeps
    | split
    | with_reducible refine Keeps.of_mk ?_ rfl rfl rfl rfl rfl rfl rfl rfl)

theorem flushWaiting_keeps {s0 s : State} (h : Keeps s0 s)  :
    Keeps s0 (State.flushWaiting s) := by
  unfold State.flushWaiting
  try dsimp only
  repeat' (first
    | with_reducible assumption
    | with_reducible intro _
    | with_reducible apply start_keeps
    | with_reducible apply sendEvent_keeps
    | with_reducible apply sendHeartbeat_keeps
    | with_reducible apply deliver_keeps
    | with_reducible apply command_keeps
    | with_reducible refine Keeps.foldl ?_ ?_ _
    | split
    | with_reducible refine Keeps.of_mk ?_ rfl rfl rfl rfl rfl rfl rfl rfl)

theorem awaitReply_keeps {s0 s : State} (h : Keeps s0 s) (h : Hdr) :
    Keeps s0 (State.awaitReply s h) := by
  unfold State.awaitReply
  try dsimp only
  repeat' (first
    | with_reducible assumption
    | with_reducible intro _
    | with_reducible apply command_keeps
    | split
    | with_reducible refine Keeps.of_mk ?_ rfl rfl rfl rfl rfl rfl rfl rfl)

/-- A command keeps what its body keeps. -/
theorem runCommand_keeps {s0 s : State} (h : Keeps s0 s) (hd : Hdr) (code : Nat) {body : State → Reply}
    (hb : ∀ x, Keeps s0 x → Keeps s0 (body x).1) : Keeps s0 (s.runCommand hd code body) := by
  have hbs := hb s h
  unfold State.runCommand
  split
  · rename_i s' res p e
    rw [e] at hbs
    exact respond_keeps hbs _ _ _ _
  · rename_i s' e
    rw [e] at hbs
    exact awaitReply_keeps hbs _

theorem authReject_keeps {s0 s : State} (h : Keeps s0 s) (addr reason : Nat) :
    Keeps s0 (State.authReject s addr reason) := by
  unfold State.authReject
  try dsimp only
  repeat' (first
    | with_reducible assumption
    | with_reducible intro _
    | with_reducible apply inc_keeps
    | with_reducible apply emit_keeps
    | with_reducible apply command_keeps
    | split
    | with_reducible refine Keeps.of_mk ?_ rfl rfl rfl rfl rfl rfl rfl rfl)

theorem answerSpine_keeps {s0 s : State} (h : Keeps s0 s) (k : Nat) (h : Hdr) (msg : List Byte) :
    Keeps s0 (State.answerSpine s k h msg) := by
  unfold State.answerSpine
  try dsimp only
  repeat' (first
    | with_reducible assumption
    | with_reducible intro _
    | with_reducible apply sendHost_keeps
    | with_reducible apply command_keeps
    | split
    | with_reducible refine Keeps.of_mk ?_ rfl rfl rfl rfl rfl rfl rfl rfl)

/-- A command of a Spine host keeps what its body keeps. -/
theorem spineCommand_keeps {s0 s : State} (h : Keeps s0 s) (k : Nat) (hd : Hdr) (code : Nat) {body : State → Reply}
    (hb : ∀ x, Keeps s0 x → Keeps s0 (body x).1) : Keeps s0 (s.spineCommand k hd code body) := by
  unfold State.spineCommand
  split
  · split
    · exact answerSpine_keeps h _ _ _
    · exact answerSpine_keeps h _ _ _
  · split
    · exact answerSpine_keeps h _ _ _
    · exact runCommand_keeps h _ _ hb

theorem acceptFrom_keeps {s0 s : State} (h : Keeps s0 s) (k : Nat) (c : W64) :
    Keeps s0 (State.acceptFrom s k c) := by
  unfold State.acceptFrom
  try dsimp only
  repeat' (first
    | with_reducible assumption
    | with_reducible intro _
    | with_reducible apply command_keeps
    | split
    | with_reducible refine Keeps.of_mk ?_ rfl rfl rfl rfl rfl rfl rfl rfl)

/-- A listed command keeps what its body keeps. -/
theorem admitted_keeps {s0 s : State} (h : Keeps s0 s) (k : Nat) (hd : Hdr) (code : Nat) (payload : List Byte) {body : State → Reply}
    (hb : ∀ x, Keeps s0 x → Keeps s0 (body x).1) : Keeps s0 (s.admitted k hd code payload body) := by
  unfold State.admitted
  dsimp only
  split
  · exact spineCommand_keeps h _ _ _ fun x hx => hx
  · split
    · exact spineCommand_keeps h _ _ _ hb
    · exact spineCommand_keeps h _ _ _ fun x hx => hx
    · exact inc_keeps h _

/-- A Plezen command keeps what its body keeps. -/
theorem command_keeps {s0 s : State} (h : Keeps s0 s) (hd : Hdr) (code : Nat) (payload : List Byte) {body : State → Reply}
    (hb : ∀ x, Keeps s0 x → Keeps s0 (body x).1) : Keeps s0 (s.command hd code payload body) := by
  unfold State.command
  dsimp only
  split
  · exact h
  · split
    · split
      · exact runCommand_keeps h _ _ hb
      · exact h
    · split
      · exact h
      · split
        · exact authReject_keeps h _ _
        · exact admitted_keeps (acceptFrom_keeps h _ _) _ _ _ _ hb

end Sys2Proof.Machine
end

