-- ==== Sys2Proof/Laws/State.lean ====
section
/-! SUPPORT. What the basic updates of the state leave as it was, and what a register field reads after a write. -/

namespace Sys2Proof.Machine

variable (s : State)

@[simp] theorem wr_pending (f : Fld) (v : Nat) : (s.wr f v).pending = s.pending := rfl
@[simp] theorem wr_free (f : Fld) (v : Nat) : (s.wr f v).free = s.free := rfl
@[simp] theorem wr_outputs (f : Fld) (v : Nat) : (s.wr f v).outputs = s.outputs := rfl
@[simp] theorem wr_powered (f : Fld) (v : Nat) : (s.wr f v).powered = s.powered := rfl
@[simp] theorem wr_folioA (f : Fld) (v : Nat) : (s.wr f v).folioA = s.folioA := rfl
@[simp] theorem wr_folioB (f : Fld) (v : Nat) : (s.wr f v).folioB = s.folioB := rfl
@[simp] theorem wr_host (f : Fld) (v : Nat) : (s.wr f v).host = s.host := rfl
@[simp] theorem wr_turn (f : Fld) (v : Nat) : (s.wr f v).turn = s.turn := rfl
@[simp] theorem wr_fw (f : Fld) (v : Nat) : (s.wr f v).fw = s.fw := rfl
@[simp] theorem wr_boot (f : Fld) (v : Nat) : (s.wr f v).boot = s.boot := rfl
@[simp] theorem wr_fault (f : Fld) (v : Nat) : (s.wr f v).fault = s.fault := rfl
@[simp] theorem wr_life (f : Fld) (v : Nat) : (s.wr f v).life = s.life := rfl
@[simp] theorem wr_time (f : Fld) (v : Nat) : (s.wr f v).time = s.time := rfl
@[simp] theorem wr_gnss (f : Fld) (v : Nat) : (s.wr f v).gnss = s.gnss := rfl
@[simp] theorem wr_inp (f : Fld) (v : Nat) : (s.wr f v).inp = s.inp := rfl
@[simp] theorem wr_coll (f : Fld) (v : Nat) : (s.wr f v).coll = s.coll := rfl
@[simp] theorem wr_vote (f : Fld) (v : Nat) : (s.wr f v).vote = s.vote := rfl
@[simp] theorem wr_solv (f : Fld) (v : Nat) : (s.wr f v).solv = s.solv := rfl
@[simp] theorem wr_ctl (f : Fld) (v : Nat) : (s.wr f v).ctl = s.ctl := rfl
@[simp] theorem wr_loop (f : Fld) (v : Nat) : (s.wr f v).loop = s.loop := rfl
@[simp] theorem wr_logic (f : Fld) (v : Nat) : (s.wr f v).logic = s.logic := rfl
@[simp] theorem wr_can (f : Fld) (v : Nat) : (s.wr f v).can = s.can := rfl
@[simp] theorem wr_spine (f : Fld) (v : Nat) : (s.wr f v).spine = s.spine := rfl
@[simp] theorem wr_lane (f : Fld) (v : Nat) : (s.wr f v).lane = s.lane := rfl
@[simp] theorem wr_safe (f : Fld) (v : Nat) : (s.wr f v).safe = s.safe := rfl
@[simp] theorem wr_power (f : Fld) (v : Nat) : (s.wr f v).power = s.power := rfl

@[simp] theorem wrFlag_pending (f : Fld) (b : Bool) : (s.wrFlag f b).pending = s.pending := rfl
@[simp] theorem wrFlag_free (f : Fld) (b : Bool) : (s.wrFlag f b).free = s.free := rfl
@[simp] theorem wrFlag_outputs (f : Fld) (b : Bool) : (s.wrFlag f b).outputs = s.outputs := rfl
@[simp] theorem wrFlag_powered (f : Fld) (b : Bool) : (s.wrFlag f b).powered = s.powered := rfl
@[simp] theorem wrFlag_folioA (f : Fld) (b : Bool) : (s.wrFlag f b).folioA = s.folioA := rfl
@[simp] theorem wrFlag_folioB (f : Fld) (b : Bool) : (s.wrFlag f b).folioB = s.folioB := rfl
@[simp] theorem wrFlag_host (f : Fld) (b : Bool) : (s.wrFlag f b).host = s.host := rfl
@[simp] theorem wrFlag_turn (f : Fld) (b : Bool) : (s.wrFlag f b).turn = s.turn := rfl
@[simp] theorem wrFlag_fw (f : Fld) (b : Bool) : (s.wrFlag f b).fw = s.fw := rfl
@[simp] theorem wrFlag_boot (f : Fld) (b : Bool) : (s.wrFlag f b).boot = s.boot := rfl
@[simp] theorem wrFlag_fault (f : Fld) (b : Bool) : (s.wrFlag f b).fault = s.fault := rfl
@[simp] theorem wrFlag_life (f : Fld) (b : Bool) : (s.wrFlag f b).life = s.life := rfl
@[simp] theorem wrFlag_time (f : Fld) (b : Bool) : (s.wrFlag f b).time = s.time := rfl
@[simp] theorem wrFlag_gnss (f : Fld) (b : Bool) : (s.wrFlag f b).gnss = s.gnss := rfl
@[simp] theorem wrFlag_inp (f : Fld) (b : Bool) : (s.wrFlag f b).inp = s.inp := rfl
@[simp] theorem wrFlag_coll (f : Fld) (b : Bool) : (s.wrFlag f b).coll = s.coll := rfl
@[simp] theorem wrFlag_vote (f : Fld) (b : Bool) : (s.wrFlag f b).vote = s.vote := rfl
@[simp] theorem wrFlag_solv (f : Fld) (b : Bool) : (s.wrFlag f b).solv = s.solv := rfl
@[simp] theorem wrFlag_ctl (f : Fld) (b : Bool) : (s.wrFlag f b).ctl = s.ctl := rfl
@[simp] theorem wrFlag_loop (f : Fld) (b : Bool) : (s.wrFlag f b).loop = s.loop := rfl
@[simp] theorem wrFlag_logic (f : Fld) (b : Bool) : (s.wrFlag f b).logic = s.logic := rfl
@[simp] theorem wrFlag_can (f : Fld) (b : Bool) : (s.wrFlag f b).can = s.can := rfl
@[simp] theorem wrFlag_spine (f : Fld) (b : Bool) : (s.wrFlag f b).spine = s.spine := rfl
@[simp] theorem wrFlag_lane (f : Fld) (b : Bool) : (s.wrFlag f b).lane = s.lane := rfl
@[simp] theorem wrFlag_safe (f : Fld) (b : Bool) : (s.wrFlag f b).safe = s.safe := rfl
@[simp] theorem wrFlag_power (f : Fld) (b : Bool) : (s.wrFlag f b).power = s.power := rfl

@[simp] theorem wrInt_pending (f : Fld) (v : Int) : (s.wrInt f v).pending = s.pending := rfl
@[simp] theorem wrInt_free (f : Fld) (v : Int) : (s.wrInt f v).free = s.free := rfl
@[simp] theorem wrInt_outputs (f : Fld) (v : Int) : (s.wrInt f v).outputs = s.outputs := rfl
@[simp] theorem wrInt_powered (f : Fld) (v : Int) : (s.wrInt f v).powered = s.powered := rfl
@[simp] theorem wrInt_folioA (f : Fld) (v : Int) : (s.wrInt f v).folioA = s.folioA := rfl
@[simp] theorem wrInt_folioB (f : Fld) (v : Int) : (s.wrInt f v).folioB = s.folioB := rfl
@[simp] theorem wrInt_host (f : Fld) (v : Int) : (s.wrInt f v).host = s.host := rfl
@[simp] theorem wrInt_turn (f : Fld) (v : Int) : (s.wrInt f v).turn = s.turn := rfl
@[simp] theorem wrInt_fw (f : Fld) (v : Int) : (s.wrInt f v).fw = s.fw := rfl
@[simp] theorem wrInt_boot (f : Fld) (v : Int) : (s.wrInt f v).boot = s.boot := rfl
@[simp] theorem wrInt_fault (f : Fld) (v : Int) : (s.wrInt f v).fault = s.fault := rfl
@[simp] theorem wrInt_life (f : Fld) (v : Int) : (s.wrInt f v).life = s.life := rfl
@[simp] theorem wrInt_time (f : Fld) (v : Int) : (s.wrInt f v).time = s.time := rfl
@[simp] theorem wrInt_gnss (f : Fld) (v : Int) : (s.wrInt f v).gnss = s.gnss := rfl
@[simp] theorem wrInt_inp (f : Fld) (v : Int) : (s.wrInt f v).inp = s.inp := rfl
@[simp] theorem wrInt_coll (f : Fld) (v : Int) : (s.wrInt f v).coll = s.coll := rfl
@[simp] theorem wrInt_vote (f : Fld) (v : Int) : (s.wrInt f v).vote = s.vote := rfl
@[simp] theorem wrInt_solv (f : Fld) (v : Int) : (s.wrInt f v).solv = s.solv := rfl
@[simp] theorem wrInt_ctl (f : Fld) (v : Int) : (s.wrInt f v).ctl = s.ctl := rfl
@[simp] theorem wrInt_loop (f : Fld) (v : Int) : (s.wrInt f v).loop = s.loop := rfl
@[simp] theorem wrInt_logic (f : Fld) (v : Int) : (s.wrInt f v).logic = s.logic := rfl
@[simp] theorem wrInt_can (f : Fld) (v : Int) : (s.wrInt f v).can = s.can := rfl
@[simp] theorem wrInt_spine (f : Fld) (v : Int) : (s.wrInt f v).spine = s.spine := rfl
@[simp] theorem wrInt_lane (f : Fld) (v : Int) : (s.wrInt f v).lane = s.lane := rfl
@[simp] theorem wrInt_safe (f : Fld) (v : Int) : (s.wrInt f v).safe = s.safe := rfl
@[simp] theorem wrInt_power (f : Fld) (v : Int) : (s.wrInt f v).power = s.power := rfl

@[simp] theorem add_pending (f : Fld) (n : Nat) : (s.add f n).pending = s.pending := rfl
@[simp] theorem add_free (f : Fld) (n : Nat) : (s.add f n).free = s.free := rfl
@[simp] theorem add_outputs (f : Fld) (n : Nat) : (s.add f n).outputs = s.outputs := rfl
@[simp] theorem add_powered (f : Fld) (n : Nat) : (s.add f n).powered = s.powered := rfl
@[simp] theorem add_folioA (f : Fld) (n : Nat) : (s.add f n).folioA = s.folioA := rfl
@[simp] theorem add_folioB (f : Fld) (n : Nat) : (s.add f n).folioB = s.folioB := rfl
@[simp] theorem add_host (f : Fld) (n : Nat) : (s.add f n).host = s.host := rfl
@[simp] theorem add_turn (f : Fld) (n : Nat) : (s.add f n).turn = s.turn := rfl
@[simp] theorem add_fw (f : Fld) (n : Nat) : (s.add f n).fw = s.fw := rfl
@[simp] theorem add_boot (f : Fld) (n : Nat) : (s.add f n).boot = s.boot := rfl
@[simp] theorem add_fault (f : Fld) (n : Nat) : (s.add f n).fault = s.fault := rfl
@[simp] theorem add_life (f : Fld) (n : Nat) : (s.add f n).life = s.life := rfl
@[simp] theorem add_time (f : Fld) (n : Nat) : (s.add f n).time = s.time := rfl
@[simp] theorem add_gnss (f : Fld) (n : Nat) : (s.add f n).gnss = s.gnss := rfl
@[simp] theorem add_inp (f : Fld) (n : Nat) : (s.add f n).inp = s.inp := rfl
@[simp] theorem add_coll (f : Fld) (n : Nat) : (s.add f n).coll = s.coll := rfl
@[simp] theorem add_vote (f : Fld) (n : Nat) : (s.add f n).vote = s.vote := rfl
@[simp] theorem add_solv (f : Fld) (n : Nat) : (s.add f n).solv = s.solv := rfl
@[simp] theorem add_ctl (f : Fld) (n : Nat) : (s.add f n).ctl = s.ctl := rfl
@[simp] theorem add_loop (f : Fld) (n : Nat) : (s.add f n).loop = s.loop := rfl
@[simp] theorem add_logic (f : Fld) (n : Nat) : (s.add f n).logic = s.logic := rfl
@[simp] theorem add_can (f : Fld) (n : Nat) : (s.add f n).can = s.can := rfl
@[simp] theorem add_spine (f : Fld) (n : Nat) : (s.add f n).spine = s.spine := rfl
@[simp] theorem add_lane (f : Fld) (n : Nat) : (s.add f n).lane = s.lane := rfl
@[simp] theorem add_safe (f : Fld) (n : Nat) : (s.add f n).safe = s.safe := rfl
@[simp] theorem add_power (f : Fld) (n : Nat) : (s.add f n).power = s.power := rfl

@[simp] theorem inc_pending (f : Fld) : (s.inc f).pending = s.pending := rfl
@[simp] theorem inc_free (f : Fld) : (s.inc f).free = s.free := rfl
@[simp] theorem inc_outputs (f : Fld) : (s.inc f).outputs = s.outputs := rfl
@[simp] theorem inc_powered (f : Fld) : (s.inc f).powered = s.powered := rfl
@[simp] theorem inc_folioA (f : Fld) : (s.inc f).folioA = s.folioA := rfl
@[simp] theorem inc_folioB (f : Fld) : (s.inc f).folioB = s.folioB := rfl
@[simp] theorem inc_host (f : Fld) : (s.inc f).host = s.host := rfl
@[simp] theorem inc_turn (f : Fld) : (s.inc f).turn = s.turn := rfl
@[simp] theorem inc_fw (f : Fld) : (s.inc f).fw = s.fw := rfl
@[simp] theorem inc_boot (f : Fld) : (s.inc f).boot = s.boot := rfl
@[simp] theorem inc_fault (f : Fld) : (s.inc f).fault = s.fault := rfl
@[simp] theorem inc_life (f : Fld) : (s.inc f).life = s.life := rfl
@[simp] theorem inc_time (f : Fld) : (s.inc f).time = s.time := rfl
@[simp] theorem inc_gnss (f : Fld) : (s.inc f).gnss = s.gnss := rfl
@[simp] theorem inc_inp (f : Fld) : (s.inc f).inp = s.inp := rfl
@[simp] theorem inc_coll (f : Fld) : (s.inc f).coll = s.coll := rfl
@[simp] theorem inc_vote (f : Fld) : (s.inc f).vote = s.vote := rfl
@[simp] theorem inc_solv (f : Fld) : (s.inc f).solv = s.solv := rfl
@[simp] theorem inc_ctl (f : Fld) : (s.inc f).ctl = s.ctl := rfl
@[simp] theorem inc_loop (f : Fld) : (s.inc f).loop = s.loop := rfl
@[simp] theorem inc_logic (f : Fld) : (s.inc f).logic = s.logic := rfl
@[simp] theorem inc_can (f : Fld) : (s.inc f).can = s.can := rfl
@[simp] theorem inc_spine (f : Fld) : (s.inc f).spine = s.spine := rfl
@[simp] theorem inc_lane (f : Fld) : (s.inc f).lane = s.lane := rfl
@[simp] theorem inc_safe (f : Fld) : (s.inc f).safe = s.safe := rfl
@[simp] theorem inc_power (f : Fld) : (s.inc f).power = s.power := rfl

@[simp] theorem put_pending (o : Output) : (s.put o).pending = s.pending := rfl
@[simp] theorem put_free (o : Output) : (s.put o).free = s.free := rfl
@[simp] theorem put_powered (o : Output) : (s.put o).powered = s.powered := rfl
@[simp] theorem put_regs (o : Output) : (s.put o).regs = s.regs := rfl
@[simp] theorem put_folioA (o : Output) : (s.put o).folioA = s.folioA := rfl
@[simp] theorem put_folioB (o : Output) : (s.put o).folioB = s.folioB := rfl
@[simp] theorem put_host (o : Output) : (s.put o).host = s.host := rfl
@[simp] theorem put_turn (o : Output) : (s.put o).turn = s.turn := rfl
@[simp] theorem put_fw (o : Output) : (s.put o).fw = s.fw := rfl
@[simp] theorem put_boot (o : Output) : (s.put o).boot = s.boot := rfl
@[simp] theorem put_fault (o : Output) : (s.put o).fault = s.fault := rfl
@[simp] theorem put_life (o : Output) : (s.put o).life = s.life := rfl
@[simp] theorem put_time (o : Output) : (s.put o).time = s.time := rfl
@[simp] theorem put_gnss (o : Output) : (s.put o).gnss = s.gnss := rfl
@[simp] theorem put_inp (o : Output) : (s.put o).inp = s.inp := rfl
@[simp] theorem put_coll (o : Output) : (s.put o).coll = s.coll := rfl
@[simp] theorem put_vote (o : Output) : (s.put o).vote = s.vote := rfl
@[simp] theorem put_solv (o : Output) : (s.put o).solv = s.solv := rfl
@[simp] theorem put_ctl (o : Output) : (s.put o).ctl = s.ctl := rfl
@[simp] theorem put_loop (o : Output) : (s.put o).loop = s.loop := rfl
@[simp] theorem put_logic (o : Output) : (s.put o).logic = s.logic := rfl
@[simp] theorem put_can (o : Output) : (s.put o).can = s.can := rfl
@[simp] theorem put_spine (o : Output) : (s.put o).spine = s.spine := rfl
@[simp] theorem put_lane (o : Output) : (s.put o).lane = s.lane := rfl
@[simp] theorem put_safe (o : Output) : (s.put o).safe = s.safe := rfl
@[simp] theorem put_power (o : Output) : (s.put o).power = s.power := rfl

@[simp] theorem setMailbox_pending (n : Nat) (b : Mailbox) : (s.setMailbox n b).pending = s.pending := rfl
@[simp] theorem setMailbox_free (n : Nat) (b : Mailbox) : (s.setMailbox n b).free = s.free := rfl
@[simp] theorem setMailbox_outputs (n : Nat) (b : Mailbox) : (s.setMailbox n b).outputs = s.outputs := rfl
@[simp] theorem setMailbox_powered (n : Nat) (b : Mailbox) : (s.setMailbox n b).powered = s.powered := rfl
@[simp] theorem setMailbox_regs (n : Nat) (b : Mailbox) : (s.setMailbox n b).regs = s.regs := rfl
@[simp] theorem setMailbox_folioA (n : Nat) (b : Mailbox) : (s.setMailbox n b).folioA = s.folioA := rfl
@[simp] theorem setMailbox_folioB (n : Nat) (b : Mailbox) : (s.setMailbox n b).folioB = s.folioB := rfl
@[simp] theorem setMailbox_turn (n : Nat) (b : Mailbox) : (s.setMailbox n b).turn = s.turn := rfl
@[simp] theorem setMailbox_fw (n : Nat) (b : Mailbox) : (s.setMailbox n b).fw = s.fw := rfl
@[simp] theorem setMailbox_boot (n : Nat) (b : Mailbox) : (s.setMailbox n b).boot = s.boot := rfl
@[simp] theorem setMailbox_fault (n : Nat) (b : Mailbox) : (s.setMailbox n b).fault = s.fault := rfl
@[simp] theorem setMailbox_life (n : Nat) (b : Mailbox) : (s.setMailbox n b).life = s.life := rfl
@[simp] theorem setMailbox_time (n : Nat) (b : Mailbox) : (s.setMailbox n b).time = s.time := rfl
@[simp] theorem setMailbox_gnss (n : Nat) (b : Mailbox) : (s.setMailbox n b).gnss = s.gnss := rfl
@[simp] theorem setMailbox_inp (n : Nat) (b : Mailbox) : (s.setMailbox n b).inp = s.inp := rfl
@[simp] theorem setMailbox_coll (n : Nat) (b : Mailbox) : (s.setMailbox n b).coll = s.coll := rfl
@[simp] theorem setMailbox_vote (n : Nat) (b : Mailbox) : (s.setMailbox n b).vote = s.vote := rfl
@[simp] theorem setMailbox_solv (n : Nat) (b : Mailbox) : (s.setMailbox n b).solv = s.solv := rfl
@[simp] theorem setMailbox_ctl (n : Nat) (b : Mailbox) : (s.setMailbox n b).ctl = s.ctl := rfl
@[simp] theorem setMailbox_loop (n : Nat) (b : Mailbox) : (s.setMailbox n b).loop = s.loop := rfl
@[simp] theorem setMailbox_logic (n : Nat) (b : Mailbox) : (s.setMailbox n b).logic = s.logic := rfl
@[simp] theorem setMailbox_can (n : Nat) (b : Mailbox) : (s.setMailbox n b).can = s.can := rfl
@[simp] theorem setMailbox_spine (n : Nat) (b : Mailbox) : (s.setMailbox n b).spine = s.spine := rfl
@[simp] theorem setMailbox_lane (n : Nat) (b : Mailbox) : (s.setMailbox n b).lane = s.lane := rfl
@[simp] theorem setMailbox_safe (n : Nat) (b : Mailbox) : (s.setMailbox n b).safe = s.safe := rfl
@[simp] theorem setMailbox_power (n : Nat) (b : Mailbox) : (s.setMailbox n b).power = s.power := rfl

@[simp] theorem moveTo_pending (t : Nat) : (s.moveTo t).pending = s.pending := rfl
@[simp] theorem moveTo_free (t : Nat) : (s.moveTo t).free = s.free := rfl
@[simp] theorem moveTo_outputs (t : Nat) : (s.moveTo t).outputs = s.outputs := rfl
@[simp] theorem moveTo_powered (t : Nat) : (s.moveTo t).powered = s.powered := rfl
@[simp] theorem moveTo_regs (t : Nat) : (s.moveTo t).regs = s.regs := rfl
@[simp] theorem moveTo_folioA (t : Nat) : (s.moveTo t).folioA = s.folioA := rfl
@[simp] theorem moveTo_folioB (t : Nat) : (s.moveTo t).folioB = s.folioB := rfl
@[simp] theorem moveTo_host (t : Nat) : (s.moveTo t).host = s.host := rfl
@[simp] theorem moveTo_turn (t : Nat) : (s.moveTo t).turn = s.turn := rfl
@[simp] theorem moveTo_fw (t : Nat) : (s.moveTo t).fw = s.fw := rfl
@[simp] theorem moveTo_boot (t : Nat) : (s.moveTo t).boot = s.boot := rfl
@[simp] theorem moveTo_fault (t : Nat) : (s.moveTo t).fault = s.fault := rfl
@[simp] theorem moveTo_life (t : Nat) : (s.moveTo t).life = s.life := rfl
@[simp] theorem moveTo_gnss (t : Nat) : (s.moveTo t).gnss = s.gnss := rfl
@[simp] theorem moveTo_inp (t : Nat) : (s.moveTo t).inp = s.inp := rfl
@[simp] theorem moveTo_coll (t : Nat) : (s.moveTo t).coll = s.coll := rfl
@[simp] theorem moveTo_vote (t : Nat) : (s.moveTo t).vote = s.vote := rfl
@[simp] theorem moveTo_solv (t : Nat) : (s.moveTo t).solv = s.solv := rfl
@[simp] theorem moveTo_ctl (t : Nat) : (s.moveTo t).ctl = s.ctl := rfl
@[simp] theorem moveTo_loop (t : Nat) : (s.moveTo t).loop = s.loop := rfl
@[simp] theorem moveTo_logic (t : Nat) : (s.moveTo t).logic = s.logic := rfl
@[simp] theorem moveTo_can (t : Nat) : (s.moveTo t).can = s.can := rfl
@[simp] theorem moveTo_spine (t : Nat) : (s.moveTo t).spine = s.spine := rfl
@[simp] theorem moveTo_lane (t : Nat) : (s.moveTo t).lane = s.lane := rfl
@[simp] theorem moveTo_safe (t : Nat) : (s.moveTo t).safe = s.safe := rfl
@[simp] theorem moveTo_power (t : Nat) : (s.moveTo t).power = s.power := rfl

@[simp] theorem put_outputs (o : Output) : (s.put o).outputs = withOutput o s.outputs := rfl

/-- The first output stands alone. -/
@[simp] theorem withOutput_nil (o : Output) : withOutput o [] = [o] := by unfold withOutput; split <;> rfl

/-- What goes to a pin comes after everything before it. -/
theorem withOutput_pin {o : Output} (h : o.pcp = none) (outs : List Output) : withOutput o outs = outs ++ [o] := by
  unfold withOutput; rw [h]

/-- A register field reads the registers alone. -/
theorem rd_congr {s t : State} (h : t.regs = s.regs) (f : Fld) : t.rd f = s.rd f := by unfold State.rd; rw [h]

/-- A flag reads the registers alone. -/
theorem flag_congr {s t : State} (h : t.regs = s.regs) (f : Fld) : t.flag f = s.flag f := by
  unfold State.flag; rw [rd_congr h]

/-- A field that was not written reads as before. -/
theorem rd_wr_other {f g : Fld} (v : Nat) (h : f.key ≠ g.key) : (s.wr g v).rd f = s.rd f := by
  unfold State.rd State.wr
  rw [Store.get_set_other _ h]

/-- A field that was written reads what was written, cut to its width. -/
theorem rd_wr_self {s : State} (hs : s.regs.wf = true) (f : Fld) (v : Nat) (hw : f.w ≤ 64) :
    (s.wr f v).rd f = v % 2 ^ f.w := by
  unfold State.rd State.wr
  rw [Store.get_set_self hs, BitVec.toNat_ofNat]
  exact Nat.mod_eq_of_lt (Nat.lt_of_lt_of_le (Nat.mod_lt _ (Nat.two_pow_pos _)) (Nat.pow_le_pow_right (by decide) hw))

theorem flag_wr_other {f g : Fld} (v : Nat) (h : f.key ≠ g.key) : (s.wr g v).flag f = s.flag f := by
  unfold State.flag; rw [rd_wr_other s v h]

theorem rd_add_other {f g : Fld} (n : Nat) (h : f.key ≠ g.key) : (s.add g n).rd f = s.rd f := rd_wr_other s _ h

/-- The frame counts leave every other field. -/
theorem rd_setFrame {f : Fld} (t : Nat) (h : f.key ≠ F.timeFrameNumber.key ∧ f.key ≠ F.timeFrameEpoch.key ∧
    f.key ≠ F.timeFrameIndex.key) : (s.setFrame t).rd f = s.rd f := by
  unfold State.setFrame
  dsimp only
  rw [rd_wr_other _ _ h.2.2, rd_wr_other _ _ h.2.1, rd_wr_other _ _ h.1]

/-- The lanes are up by the device state. -/
theorem ready_congr {s t : State} (h : t.rd F.devState = s.rd F.devState) : t.ready = s.ready := by
  unfold State.ready State.devState; rw [h]

end Sys2Proof.Machine
end

