-- ==== Sys2Proof/Laws/Events.lean ====
section
/-! SUPPORT. What the event queue loses and keeps when an entry is placed in it (R457). -/

namespace Sys2Proof.Machine

/-- What one entry adds to the Alarm occurrences of a code. -/
def Event.reps (e : Event) (code : Nat) : Nat := if e.cls = .alarm ∧ e.code = code then e.rep else 0

theorem alarmReps_cons (e : Event) (q : List Event) (code : Nat) : alarmReps (e :: q) code = e.reps code + alarmReps q code := by
  unfold alarmReps Event.reps
  rw [List.filter_cons]
  by_cases h : e.cls = .alarm ∧ e.code = code
  · rw [if_pos (by simpa using h), if_pos h, List.map_cons, List.sum_cons]
  · rw [if_neg (by simpa using h), if_neg h, Nat.zero_add]

theorem alarmReps_append (q r : List Event) (code : Nat) : alarmReps (q ++ r) code = alarmReps q code + alarmReps r code := by
  unfold alarmReps
  rw [List.filter_append, List.map_append, List.sum_append]

theorem takeNonAlarm_reps {q : List Event} {x : Event} {q' : List Event} (h : takeNonAlarm q = some (x, q')) (code : Nat) :
    alarmReps q' code = alarmReps q code := by
  induction q generalizing x q' with
  | nil => simp [takeNonAlarm] at h
  | cons e rest ih =>
    simp only [takeNonAlarm] at h
    split at h
    · split at h
      · rename_i y r hr
        simp only [Option.some.injEq, Prod.mk.injEq] at h
        rw [← h.2, alarmReps_cons, alarmReps_cons, ih hr]
      · simp at h
    · rename_i c
      simp only [Option.some.injEq, Prod.mk.injEq] at h
      rw [← h.2, alarmReps_cons, Event.reps, if_neg (fun k => c k.1), Nat.zero_add]

/-- A queue from which no Record or Notify entry can be taken holds only Alarm entries. -/
theorem takeNonAlarm_all {q : List Event} (h : takeNonAlarm q = none) : ∀ e ∈ q, e.cls = .alarm := by
  induction q with
  | nil => simp
  | cons e rest ih =>
    simp only [takeNonAlarm] at h
    split at h
    · rename_i c
      split at h
      · simp at h
      · rename_i hr
        intro a ha
        rcases List.mem_cons.mp ha with rfl | ha
        · exact c
        · exact ih hr a ha
    · simp at h

theorem takeCode_reps {c : Nat} {q : List Event} {x : Event} {q' : List Event} (h : takeCode c q = some (x, q')) (code : Nat) :
    x.code = c ∧ x ∈ q ∧ alarmReps q code = x.reps code + alarmReps q' code := by
  induction q generalizing x q' with
  | nil => simp [takeCode] at h
  | cons e rest ih =>
    simp only [takeCode] at h
    split at h
    · rename_i k
      simp only [Option.some.injEq, Prod.mk.injEq] at h
      rw [← h.1, ← h.2, alarmReps_cons]
      exact ⟨k, List.mem_cons_self, rfl⟩
    · split at h
      · rename_i y r hr
        simp only [Option.some.injEq, Prod.mk.injEq] at h
        obtain ⟨h1, h2, h3⟩ := ih hr
        rw [← h.1, ← h.2, alarmReps_cons, alarmReps_cons, h3]
        exact ⟨h1, List.mem_cons_of_mem _ h2, by omega⟩
      · simp at h

theorem takeCode_none {c : Nat} {q : List Event} (h : takeCode c q = none) : ∀ e ∈ q, e.code ≠ c := by
  induction q with
  | nil => simp
  | cons e rest ih =>
    simp only [takeCode] at h
    split at h
    · simp at h
    · rename_i k
      split at h
      · simp at h
      · rename_i hr
        intro a ha
        rcases List.mem_cons.mp ha with rfl | ha
        · exact k
        · exact ih hr a ha

/-- A merge in a queue of Alarm entries loses no occurrence. -/
theorem mergeAlarms_reps {q q' : List Event} (h : mergeAlarms q = some q') (ha : ∀ e ∈ q, e.cls = .alarm) (code : Nat) :
    alarmReps q' code = alarmReps q code := by
  induction q generalizing q' with
  | nil => simp [mergeAlarms] at h
  | cons e rest ih =>
    simp only [mergeAlarms] at h
    split at h
    · rename_i x r hr
      simp only [Option.some.injEq] at h
      obtain ⟨h1, h2, h3⟩ := takeCode_reps hr code
      have he := ha e List.mem_cons_self
      have hx := ha x (List.mem_cons_of_mem _ h2)
      rw [← h, alarmReps_cons, alarmReps_cons, h3]
      unfold Event.reps
      simp only [he, hx, h1, true_and]
      split <;> omega
    · split at h
      · rename_i r hr
        simp only [Option.some.injEq] at h
        rw [← h, alarmReps_cons, alarmReps_cons, ih hr fun a k => ha a (List.mem_cons_of_mem _ k)]
      · simp at h

/-- Where nothing merges, no two entries have one code. -/
theorem mergeAlarms_none {q : List Event} (h : mergeAlarms q = none) : (q.map (·.code)).Nodup := by
  induction q with
  | nil => exact List.Pairwise.nil
  | cons e rest ih =>
    simp only [mergeAlarms] at h
    split at h
    · simp at h
    · rename_i hr
      split at h
      · simp at h
      · rename_i hn
        refine List.Pairwise.cons (fun c hc => ?_) (ih hn)
        obtain ⟨a, ha, rfl⟩ := List.mem_map.mp hc
        exact (takeCode_none hr a ha).symm

/-- Distinct numbers below `n` are at most `n` many. -/
theorem nodup_length {l : List Nat} (n : Nat) (hl : l.Nodup) (hb : ∀ a ∈ l, a < n) : l.length ≤ n := by
  induction n generalizing l with
  | zero =>
    cases l with
    | nil => exact Nat.le_refl _
    | cons a rest => exact absurd (hb a List.mem_cons_self) (Nat.not_lt_zero a)
  | succ n ih =>
    have he : (l.erase n).length ≤ n := by
      refine ih (hl.erase n) fun a ha => ?_
      have hm := (List.Nodup.mem_erase_iff hl).mp ha
      have := hb a hm.2
      have := hm.1
      omega
    have := List.length_erase (a := n) (l := l)
    split at this <;> omega

/-- An Alarm entry placed in an allowed queue stands at its end, and no Alarm occurrence is lost. -/
theorem place_alarm {s : State} {e : Event} (hq : queueAllowed s.host.queue) (ha : e.cls = .alarm) :
    e ∈ (s.place e).host.queue ∧
    ∀ code, alarmReps (s.place e).host.queue code = alarmReps s.host.queue code + e.reps code := by
  have last : ∀ q : List Event, e ∈ q ++ [e] := fun q => List.mem_append_right _ List.mem_cons_self
  have reps : ∀ (q : List Event) (code : Nat), alarmReps (q ++ [e]) code = alarmReps q code + e.reps code := by
    intro q code
    rw [alarmReps_append, alarmReps_cons]; rfl
  unfold State.place
  dsimp only
  rw [if_pos ha]
  split
  · exact ⟨last _, reps _⟩
  · rename_i full
    split
    · rename_i x q' ht
      refine ⟨last _, fun code => ?_⟩
      rw [← takeNonAlarm_reps ht code]
      exact reps _ _
    · rename_i ht
      split
      · rename_i q' hm
        refine ⟨last _, fun code => ?_⟩
        rw [← mergeAlarms_reps hm (takeNonAlarm_all ht) code]
        exact reps _ _
      · rename_i hm
        have := nodup_length 0x201 (mergeAlarms_none hm) fun a h => by
          obtain ⟨b, hb, rfl⟩ := List.mem_map.mp h
          exact Nat.lt_succ_of_le (hq.2.2 b hb)
        rw [List.length_map] at this
        omega

/-- An entry of class Record or Notify placed in a queue loses no Alarm occurrence. -/
theorem place_other {s : State} {e : Event} (ha : e.cls ≠ .alarm) (code : Nat) :
    alarmReps (s.place e).host.queue code = alarmReps s.host.queue code := by
  have reps : ∀ q : List Event, alarmReps (q ++ [e]) code = alarmReps q code := by
    intro q
    rw [alarmReps_append, alarmReps_cons, Event.reps, if_neg fun k => ha k.1]; rfl
  unfold State.place
  dsimp only
  rw [if_neg ha]
  split
  · exact reps _
  · split
    · rename_i x q' ht
      rw [← takeNonAlarm_reps ht code]
      exact reps _
    · rfl

/-! ### What leaves the host's side as it is -/

theorem ringRecord_host (s : State) (kind flags : Nat) (body : List Byte) (fill : Nat) : (s.ringRecord kind flags body fill).host = s.host := by
  unfold State.ringRecord
  extract_lets r
  generalize ringRoom r.size s.life.ring (s.rd F.lifeRecBacklog) 0 = room
  obtain ⟨kept, used, lost⟩ := room
  rfl

theorem ringRecord_rd (s : State) (kind flags : Nat) (body : List Byte) (fill : Nat) (f : Fld) (h : f.key ≠ F.lifeRecBacklog.key ∧ f.key ≠ F.lifeRecLost.key) :
    (s.ringRecord kind flags body fill).rd f = s.rd f := by
  unfold State.ringRecord
  extract_lets r
  generalize ringRoom r.size s.life.ring (s.rd F.lifeRecBacklog) 0 = room
  obtain ⟨kept, used, lost⟩ := room
  exact (rd_add_other _ _ h.2).trans (rd_wr_other _ _ h.1)

theorem record_host (s : State) (kind flags : Nat) (body : List Byte) (fill : Nat) : (s.record kind flags body fill).host = s.host := by
  unfold State.record
  split
  · rfl
  · split
    · rw [ringRecord_host, ringRecord_host]
    · rw [ringRecord_host]

theorem record_rd (s : State) (kind flags : Nat) (body : List Byte) (fill : Nat) (f : Fld) (h : f.key ≠ F.lifeRecBacklog.key ∧ f.key ≠ F.lifeRecLost.key) :
    (s.record kind flags body fill).rd f = s.rd f := by
  unfold State.record
  split
  · rfl
  · split
    · rw [ringRecord_rd _ _ _ _ _ _ h, ringRecord_rd _ _ _ _ _ _ h]; rfl
    · rw [ringRecord_rd _ _ _ _ _ _ h]

/-- A trailer moves the counter on, and its epoch at a wrap: the host's side and every other field stay. -/
theorem seal_host (s : State) (slot : Nat) (body : List Byte) : (s.seal slot body).1.host = s.host := by
  unfold State.seal
  dsimp only
  split <;> rfl

theorem seal_rd (s : State) (slot : Nat) (body : List Byte) (f : Fld) (h : f.key ≠ F.spineTxEpoch.key) :
    (s.seal slot body).1.rd f = s.rd f := by
  unfold State.seal
  dsimp only
  split
  · exact rd_wr_other _ _ h
  · rfl

theorem sendEvent_host (s : State) (host : Nat) (msg : List Byte) : (s.sendEvent host msg).host = s.host := by
  unfold State.sendEvent State.sendHost
  dsimp only
  split
  · exact seal_host _ _ _
  · rfl

theorem sendEvent_rd (s : State) (host : Nat) (msg : List Byte) (f : Fld) (h : f.key ≠ F.spineTxEpoch.key) :
    (s.sendEvent host msg).rd f = s.rd f := by
  unfold State.sendEvent State.sendHost
  dsimp only
  split
  · exact seal_rd _ _ _ _ h
  · rfl

/-- A message sent to any hosts leaves the host's side as it is, and every field but the counter's epoch. -/
theorem sendAll_same (hosts : List Nat) (msg : List Byte) (s : State) :
    (hosts.foldl (fun (s : State) h => s.sendEvent h msg) s).host = s.host ∧
    ∀ f : Fld, f.key ≠ F.spineTxEpoch.key → (hosts.foldl (fun (s : State) h => s.sendEvent h msg) s).rd f = s.rd f := by
  induction hosts generalizing s with
  | nil => exact ⟨rfl, fun _ _ => rfl⟩
  | cons h rest ih =>
    exact ⟨(ih _).1.trans (sendEvent_host s h msg), fun f hf => ((ih _).2 f hf).trans (sendEvent_rd s h msg f hf)⟩

/-! ### What no event changes -/

/-- What an event leaves as it is: the lifetime counters, the Folios and which of them is active. -/
structure Untouched (s t : State) : Prop where
  committed : t.life.committed = s.life.committed
  accrued : t.life.accrued = s.life.accrued
  saturated : t.life.saturated = s.life.saturated
  folioA : t.folioA = s.folioA
  folioB : t.folioB = s.folioB
  active : t.rd F.devFolioActive = s.rd F.devFolioActive
  noFolio : t.rd F.devFolioNone = s.rd F.devFolioNone

variable {s t u : State}

theorem Untouched.refl (s : State) : Untouched s s := ⟨rfl, rfl, rfl, rfl, rfl, rfl, rfl⟩

theorem Untouched.trans (h : Untouched s t) (k : Untouched t u) : Untouched s u :=
  ⟨k.committed.trans h.committed, k.accrued.trans h.accrued, k.saturated.trans h.saturated, k.folioA.trans h.folioA,
    k.folioB.trans h.folioB, k.active.trans h.active, k.noFolio.trans h.noFolio⟩

/-- A change of nothing but what an event may change, with the registers as they were. -/
theorem Untouched.of_eq (hr : t.regs = s.regs) (hl : t.life = s.life) (ha : t.folioA = s.folioA) (hb : t.folioB = s.folioB) :
    Untouched s t :=
  ⟨by rw [hl], by rw [hl], by rw [hl], ha, hb, rd_congr hr _, rd_congr hr _⟩

/-- The field is none of those that tell which Folio is active. -/
abbrev freeField (f : Fld) : Prop := F.devFolioActive.key ≠ f.key ∧ F.devFolioNone.key ≠ f.key

theorem wr_untouched (s : State) {f : Fld} (v : Nat) (h : freeField f) : Untouched s (s.wr f v) :=
  ⟨rfl, rfl, rfl, rfl, rfl, rd_wr_other s v h.1, rd_wr_other s v h.2⟩

theorem add_untouched (s : State) {f : Fld} (n : Nat) (h : freeField f) : Untouched s (s.add f n) := wr_untouched s _ h

theorem ringRecord_untouched (s : State) (kind flags : Nat) (body : List Byte) (fill : Nat) : Untouched s (s.ringRecord kind flags body fill) := by
  have rd : ∀ f : Fld, f.key ≠ F.lifeRecBacklog.key ∧ f.key ≠ F.lifeRecLost.key → _ := fun f => ringRecord_rd s kind flags body fill f
  refine ⟨?_, ?_, ?_, ?_, ?_, rd _ (by decide), rd _ (by decide)⟩
  all_goals
    unfold State.ringRecord
    extract_lets r
    generalize ringRoom r.size s.life.ring (s.rd F.lifeRecBacklog) 0 = room
    obtain ⟨kept, used, lost⟩ := room
    rfl

theorem record_untouched (s : State) (kind flags : Nat) (body : List Byte) (fill : Nat) : Untouched s (s.record kind flags body fill) := by
  unfold State.record
  split
  · exact Untouched.refl s
  · split
    · have h0 : Untouched s { s with life := { s.life with markDue := false } } := ⟨rfl, rfl, rfl, rfl, rfl, rd_congr rfl _, rd_congr rfl _⟩
      exact (h0.trans (ringRecord_untouched _ _ _ _ _)).trans (ringRecord_untouched _ _ _ _ _)
    · exact ringRecord_untouched _ _ _ _ _

theorem countLost_untouched (s : State) (n : Nat) : Untouched s (s.countLost n) :=
  (add_untouched s (f := F.devEventLost) 1 (by decide)).trans (Untouched.of_eq rfl rfl rfl rfl)

theorem place_untouched (s : State) (e : Event) : Untouched s (s.place e) := by
  have hq : ∀ q : List Event, Untouched s { s with host := { s.host with queue := q } } := fun q => Untouched.of_eq rfl rfl rfl rfl
  unfold State.place
  dsimp only
  split
  · split
    · exact hq _
    · split
      · exact (hq _).trans (countLost_untouched _ _)
      · split
        · exact (hq _).trans (add_untouched _ (f := F.devEventMerged) 1 (by decide))
        · exact Untouched.refl s
  · split
    · exact hq _
    · split
      · exact (hq _).trans (countLost_untouched _ _)
      · exact countLost_untouched s _

theorem seal_untouched (s : State) (slot : Nat) (body : List Byte) : Untouched s (s.seal slot body).1 := by
  unfold State.seal
  dsimp only
  split
  · refine Untouched.trans ?_ (wr_untouched _ (f := F.spineTxEpoch) _ (by decide))
    exact Untouched.of_eq rfl rfl rfl rfl
  · exact Untouched.of_eq rfl rfl rfl rfl

theorem sendHost_untouched (s : State) (host : Nat) (mk : List (List Byte) → Output) (msg : List Byte) :
    Untouched s (s.sendHost host mk msg) := by
  unfold State.sendHost
  dsimp only
  split
  · exact (seal_untouched s _ _).trans (Untouched.of_eq rfl rfl rfl rfl)
  · exact Untouched.refl s

theorem sendEvent_untouched (s : State) (host : Nat) (msg : List Byte) : Untouched s (s.sendEvent host msg) :=
  sendHost_untouched s host _ msg

theorem queueOne_untouched (s : State) (code : Nat) (cls : EvClass) (flags : Nat) (payload : List Byte) :
    Untouched s (s.queueOne code cls flags payload) := by
  have sends : ∀ (hosts : List Nat) (m : List Byte) (x : State),
      Untouched x (hosts.foldl (fun (s : State) h => s.sendEvent h m) x) := by
    intro hosts m
    induction hosts with
    | nil => exact Untouched.refl
    | cons h rest ih => exact fun x => (sendEvent_untouched x h m).trans (ih _)
  unfold State.queueOne
  extract_lets seq e next hs s1 s2 s3 hosts held s4
  have h1 : Untouched s s1 := Untouched.of_eq rfl rfl rfl rfl
  have h2 : Untouched s s2 := by
    show Untouched s (if next = 0 then s1.inc F.devEventWraps else s1)
    split
    · exact h1.trans (add_untouched s1 1 (by decide))
    · exact h1
  have h3 : Untouched s s3 := (h2.trans (wr_untouched s2 (f := F.devEventSeq) seq (by decide))).trans (place_untouched _ e)
  have h4 : Untouched s s4 := by
    show Untouched s (if _ then _ else _)
    split
    · exact h3.trans (Untouched.of_eq rfl rfl rfl rfl)
    · exact h3.trans (sends _ _ _)
  exact h4.trans (record_untouched _ _ _ _ _)

theorem source_free (src : Nat) : freeField (F.faultSourceCount src) := by
  constructor <;> (intro e; change 0x0010 * 64 + _ = (0xC140 + src) * 64 + 0 at e; simp only at e; omega)

theorem queueEvent_untouched (s : State) (code : Nat) (cls : EvClass) (flags : Nat) (payload : List Byte) :
    Untouched s (s.queueEvent code cls flags payload) := by
  unfold State.queueEvent
  split
  · exact Untouched.refl s
  · dsimp only
    split
    · refine Untouched.trans ?_ (queueOne_untouched _ _ _ _ _)
      refine Untouched.trans ?_ (add_untouched _ 1 (source_free 1))
      exact (queueOne_untouched s code cls flags payload).trans (Untouched.of_eq rfl rfl rfl rfl)
    · exact queueOne_untouched s code cls flags payload

theorem logFault_untouched (s : State) (kind src sev place flags : Nat) (location : W64) (syndrome : W32) :
    Untouched s (s.logFault kind src sev place flags location syndrome) := by
  unfold State.logFault
  dsimp only
  refine Untouched.trans (Untouched.trans ?_ (wr_untouched _ (f := F.faultLogSequence) _ (by decide))) (record_untouched _ _ _ _ _)
  exact Untouched.of_eq rfl rfl rfl rfl

theorem emitBase_untouched (s : State) (src flags : Nat) (payload : List Byte) : Untouched s (s.emitBase src flags payload) := by
  unfold State.emitBase
  have h0 : Untouched s ((s.inc (F.faultSourceCount src)).escalate src).1 :=
    (add_untouched s 1 (source_free src)).trans (Untouched.of_eq rfl rfl rfl rfl)
  generalize (s.inc (F.faultSourceCount src)).escalate src = r at h0
  obtain ⟨x, esc⟩ := r
  dsimp only at h0 ⊢
  have h1 : ∀ code cls g p, Untouched s (x.queueEvent code cls g p) := fun _ _ _ _ => h0.trans (queueEvent_untouched _ _ _ _ _)
  repeat' split
  all_goals first | exact (h1 _ _ _ _).trans (logFault_untouched _ _ _ _ _ _ _ _) | exact h1 _ _ _ _

/-- An event leaves the lifetime counters and the Folios as they are. -/
theorem emit_untouched (s : State) (src : Nat) (payload : List Byte) : Untouched s (s.emit src payload) := by
  unfold State.emit
  split
  · exact Untouched.refl s
  · split
    · dsimp only
      refine Untouched.trans ?_ (emitBase_untouched _ _ _ _)
      refine Untouched.trans ?_ (wr_untouched _ (f := F.faultStatusCommonMode) 1 (by decide))
      exact (emitBase_untouched s src 16 payload).trans (add_untouched _ (f := F.faultCommonModeCount) 1 (by decide))
    · exact emitBase_untouched _ _ _ _

theorem respond_untouched (s : State) (h : Hdr) (code res : Nat) (payload : List Byte) : Untouched s (s.respond h code res payload) := by
  unfold State.respond
  split
  · exact Untouched.of_eq rfl rfl rfl rfl
  · unfold State.deliver
    split
    · exact Untouched.of_eq rfl rfl rfl rfl
    · refine Untouched.trans ?_ (sendHost_untouched _ _ _ _)
      exact Untouched.of_eq rfl rfl rfl rfl

end Sys2Proof.Machine
end

