-- ==== Sys2Proof/Laws/Folios.lean ====
section
/-! SUPPORT. The checks of the items of a parameter write. -/

namespace Sys2Proof.Machine

/-- Items that pass are no first refused item. -/
theorem firstRefused_pass (s : State) (before after : List (W16 × W16 × W64)) (k : Nat)
    (h : ∀ j ∈ before, s.checkItem j.1.toNat (j.2.1.toNat % 2 ^ 14) j.2.2.toNat = Res.ok) :
    s.firstRefused k (before ++ after) = s.firstRefused (k + before.length) after := by
  induction before generalizing k with
  | nil => simp
  | cons i rest ih =>
    rw [List.cons_append]
    show (if s.checkItem i.1.toNat (i.2.1.toNat % 2 ^ 14) i.2.2.toNat = Res.ok then _ else _) = _
    rw [if_pos (h i (List.mem_cons_self ..)), ih _ fun j hj => h j (List.mem_cons_of_mem _ hj)]
    simp only [List.length_cons]
    congr 1
    omega

/-- An item that fails is the first refused where it stands first. -/
theorem firstRefused_here (s : State) (i : W16 × W16 × W64) (after : List (W16 × W16 × W64)) (k : Nat)
    (h : s.checkItem i.1.toNat (i.2.1.toNat % 2 ^ 14) i.2.2.toNat ≠ Res.ok) :
    s.firstRefused k (i :: after) = some (k, s.checkItem i.1.toNat (i.2.1.toNat % 2 ^ 14) i.2.2.toNat) := if_neg h

/-- The count of the items is right. -/
theorem countOk_iff (count n : Nat) : countOk count n = true ↔ 1 ≤ n ∧ n ≤ 255 ∧ count = n := by
  unfold countOk
  simp only [Bool.and_eq_true, decide_eq_true_eq, beq_iff_eq]
  omega

end Sys2Proof.Machine
end

