-- ==== Sys2Proof/Laws/Frame.lean ====
section
/-! SUPPORT. The end of a frame instant: the mirrors. -/

namespace Sys2Proof.Machine

/-- The last work of a frame instant latches the mirrors. -/
theorem runFrame_latches (s : State) (i : FrameIn) : ∃ y : State, s.runFrame i = y.latchMirrors := ⟨_, rfl⟩

/-- Latching the mirrors leaves the registers. -/
@[simp] theorem latchMirrors_regs (y : State) : y.latchMirrors.regs = y.regs := rfl

/-- A register reads the same over latching the mirrors. -/
@[simp] theorem latchMirrors_rd (y : State) (f : Fld) : y.latchMirrors.rd f = y.rd f := rfl

end Sys2Proof.Machine
end

