-- ==== Sys2Proof/Laws/Host.lean ====
section
/-! SUPPORT. What the doorbell, a status clear and a direct register write do to the host port. -/

namespace Sys2Proof.Machine

variable {s : State}

/-- A mailbox that is changed. -/
theorem setMailbox_other (s : State) {n m : Nat} (b : Mailbox) (h : m ≠ n) :
    (s.setMailbox n b).host.mbx.get m = s.host.mbx.get m := Store.get_set_other _ h _

/-- One mailbox rung. -/
def rungMailbox (b : Mailbox) : Mailbox := if b.st = .idle then ⟨.busy, b.buf⟩ else b

/-- One mailbox freed. -/
def freedMailbox (b : Mailbox) : Mailbox := if b.st = .done ∨ b.st = .rejected then ⟨.idle, b.buf⟩ else b

/-- What ringing mailbox `n` does. -/
def State.ringOne (s : State) (n : Nat) : State :=
  if (s.host.mbx.get n).st = .idle then s.setMailbox n ⟨.busy, (s.host.mbx.get n).buf⟩ else s.countLink

theorem ring_eq (bits : Nat) : s.ring bits = ((List.range 8).filter (testBit bits)).foldl State.ringOne s := rfl

theorem ringOne_get (s : State) (n m : Nat) :
    (s.ringOne n).host.mbx.get m = if m = n then rungMailbox (s.host.mbx.get m) else s.host.mbx.get m := by
  unfold State.ringOne rungMailbox
  by_cases h : m = n
  · subst h
    rw [if_pos rfl]
    split
    · exact Store.get_set_listed _ (by simp [idleMailbox])
    · rfl
  · rw [if_neg h]
    split
    · exact setMailbox_other s _ h
    · rfl

theorem ringOne_rest (s : State) (n : Nat) : s.ringOne n =
    { s with host := { s.host with mbx := (s.ringOne n).host.mbx, linkErrors := (s.ringOne n).host.linkErrors } } := by
  unfold State.ringOne
  split <;> rfl

/-- The mailboxes after ringing several. -/
theorem ring_fold_get (l : List Nat) (hl : l.Nodup) (s : State) (m : Nat) :
    (l.foldl State.ringOne s).host.mbx.get m = if m ∈ l then rungMailbox (s.host.mbx.get m) else s.host.mbx.get m := by
  induction l generalizing s with
  | nil => simp
  | cons n rest ih =>
    have hn := List.nodup_cons.mp hl
    rw [List.foldl_cons, ih hn.2, ringOne_get]
    by_cases h : m = n
    · subst h; simp [hn.1]
    · simp [h]

theorem ring_fold_rest (l : List Nat) (s : State) : l.foldl State.ringOne s =
    { s with host := { s.host with mbx := (l.foldl State.ringOne s).host.mbx,
                                   linkErrors := (l.foldl State.ringOne s).host.linkErrors } } := by
  induction l generalizing s with
  | nil => rfl
  | cons n rest ih =>
    rw [List.foldl_cons, ih, ringOne_rest]

/-- The mailboxes after freeing several, in a sound state. -/
theorem free_fold_get (l : List Nat) (hl : l.Nodup) (s : State) (hs : s.host.mbx.wf = true) (m : Nat) :
    (l.foldl (fun (s : State) n => s.freeMailbox n) s).host.mbx.get m =
      if m ∈ l then freedMailbox (s.host.mbx.get m) else s.host.mbx.get m := by
  induction l generalizing s with
  | nil => simp
  | cons n rest ih =>
    have hn := List.nodup_cons.mp hl
    have hw : (s.freeMailbox n).host.mbx.wf = true := by
      unfold State.freeMailbox
      dsimp only
      split
      · exact Store.set_wf hs _ _
      · exact hs
    have hg : (s.freeMailbox n).host.mbx.get m = if m = n then freedMailbox (s.host.mbx.get m) else s.host.mbx.get m := by
      unfold State.freeMailbox freedMailbox
      dsimp only
      by_cases h : m = n
      · subst h
        rw [if_pos rfl]
        split
        · exact Store.get_set_self hs _ _
        · rfl
      · rw [if_neg h]
        split
        · exact setMailbox_other s _ h
        · rfl
    rw [List.foldl_cons, ih hn.2 _ hw, hg]
    by_cases h : m = n
    · subst h; simp [hn.1]
    · simp [h]

theorem free_fold_rest (l : List Nat) (s : State) : l.foldl (fun (s : State) n => s.freeMailbox n) s =
    { s with host := { s.host with mbx := (l.foldl (fun (s : State) n => s.freeMailbox n) s).host.mbx } } := by
  induction l generalizing s with
  | nil => rfl
  | cons n rest ih =>
    have e : s.freeMailbox n = { s with host := { s.host with mbx := (s.freeMailbox n).host.mbx } } := by
      unfold State.freeMailbox
      dsimp only
      split <;> rfl
    rw [List.foldl_cons, ih, e]

/-- Bits cleared one after another. -/
theorem clear_fold_bit (l : List Nat) (v b : Nat) :
    testBit (l.foldl (fun v b => putBit v b false) v) b = (testBit v b && !l.contains b) := by
  induction l generalizing v with
  | nil => simp
  | cons n rest ih =>
    rw [List.foldl_cons, ih]
    by_cases h : b = n
    · subst h; simp
    · rw [testBit_putBit_other v false h, List.contains_cons]
      have : (b == n) = false := by simp [h]
      simp [this]

/-- A direct register write drives nothing, and leaves the power as it is. -/
theorem writeDirect_quiet (s : State) (off : Nat) (v : W32) :
    (s.writeDirect off v).outputs = s.outputs ∧ (s.writeDirect off v).powered = s.powered := by
  have hr : ∀ (l : List Nat) (u : State), (l.foldl State.ringOne u).outputs = u.outputs ∧ (l.foldl State.ringOne u).powered = u.powered :=
    fun l u => by rw [ring_fold_rest]; exact ⟨rfl, rfl⟩
  unfold State.writeDirect
  split
  · unfold State.clearIrq
    dsimp only
    rw [free_fold_rest]
    exact ⟨rfl, rfl⟩
  · exact ⟨rfl, rfl⟩
  · rw [ring_eq]; exact hr _ _
  · exact ⟨rfl, rfl⟩
  · exact ⟨rfl, rfl⟩
  · unfold State.requestReset
    split <;> exact ⟨rfl, rfl⟩
  · exact ⟨rfl, rfl⟩

end Sys2Proof.Machine
end

