-- ==== Sys2Proof/Laws/KeepsTime.lean ====
section
/-! SUPPORT. What the functions of Machine/Time.lean keep. -/

namespace Sys2Proof.Machine

theorem setSource_keeps {s0 s : State} (h : Keeps s0 s) (x : TimeSrc) (o : Source) :
    Keeps s0 (State.setSource s x o) := by
  unfold State.setSource
  try dsimp only
  repeat' (first
    | with_reducible assumption
    | with_reducible intro _
    | split
    | with_reducible refine Keeps.of_mk ?_ rfl rfl rfl rfl rfl rfl rfl rfl)

theorem ptpTurn_keeps {s0 s : State} (h : Keeps s0 s) (old : Folio) :
    Keeps s0 (State.ptpTurn s old) := by
  unfold State.ptpTurn
  try dsimp only
  repeat' (first
    | with_reducible assumption
    | with_reducible intro _
    | split
    | with_reducible refine Keeps.of_mk ?_ rfl rfl rfl rfl rfl rfl rfl rfl)

theorem acceptSync_keeps {s0 s : State} (h : Keeps s0 s) (x : TimeSrc) (port : Nat) (offset : Int) (bound : Nat) :
    Keeps s0 (State.acceptSync s x port offset bound) := by
  unfold State.acceptSync
  try dsimp only
  repeat' (first
    | with_reducible assumption
    | with_reducible intro _
    | with_reducible apply setSource_keeps
    | split
    | with_reducible refine Keeps.of_mk ?_ rfl rfl rfl rfl rfl rfl rfl rfl)

theorem execPtpSyncRx_keeps {s : State} (red : Bool) (port : Fin 9) (domain : Byte) (twoStep : Bool) (offset : Int) (bound : Nat) :
    ∃ t', execPtpSyncRx red port domain twoStep offset bound s = .next t' ∧ Keeps s t' := by
  unfold execPtpSyncRx
  refine act_keeps fun s h => ?_
  try dsimp only
  repeat' (first
    | with_reducible assumption
    | with_reducible intro _
    | with_reducible apply setSource_keeps
    | with_reducible apply acceptSync_keeps
    | split
    | with_reducible refine Keeps.of_mk ?_ rfl rfl rfl rfl rfl rfl rfl rfl)

theorem execPtpFollowUpRx_keeps {s : State} (red : Bool) (port : Fin 9) (offset : Int) (bound : Nat) :
    ∃ t', execPtpFollowUpRx red port offset bound s = .next t' ∧ Keeps s t' := by
  unfold execPtpFollowUpRx
  refine act_keeps fun s h => ?_
  try dsimp only
  repeat' (first
    | with_reducible assumption
    | with_reducible intro _
    | with_reducible apply acceptSync_keeps
    | split
    | with_reducible refine Keeps.of_mk ?_ rfl rfl rfl rfl rfl rfl rfl rfl)

theorem execPtpDelayReqTx_keeps {s : State} (red : Bool) :
    ∃ t', execPtpDelayReqTx red s = .next t' ∧ Keeps s t' := by
  unfold execPtpDelayReqTx
  refine act_keeps fun s h => ?_
  try dsimp only
  repeat' (first
    | with_reducible assumption
    | with_reducible intro _
    | with_reducible apply put_keeps
    | split
    | with_reducible refine Keeps.of_mk ?_ rfl rfl rfl rfl rfl rfl rfl rfl)

theorem execPtpDelayRespRx_keeps {s : State} (red : Bool) (port : Fin 9) (delay : Int) :
    ∃ t', execPtpDelayRespRx red port delay s = .next t' ∧ Keeps s t' := by
  unfold execPtpDelayRespRx
  refine act_keeps fun s h => ?_
  try dsimp only
  repeat' (first
    | with_reducible assumption
    | with_reducible intro _
    | with_reducible apply setSource_keeps
    | split
    | with_reducible refine Keeps.of_mk ?_ rfl rfl rfl rfl rfl rfl rfl rfl)

theorem execPtpDelayReqRx_keeps {s : State} (port : Fin 9) (requester : W64) (peer : Bool) (atNs : Fin 125000) :
    ∃ t', execPtpDelayReqRx port requester peer atNs s = .next t' ∧ Keeps s t' := by
  unfold execPtpDelayReqRx
  refine act_keeps fun s h => ?_
  try dsimp only
  repeat' (first
    | with_reducible assumption
    | with_reducible intro _
    | with_reducible apply put_keeps
    | with_reducible apply inc_keeps
    | split
    | with_reducible refine Keeps.of_mk ?_ rfl rfl rfl rfl rfl rfl rfl rfl)

theorem execPtpSyncTx_keeps {s : State} (port : Fin 9) (atNs : Fin 125000) :
    ∃ t', execPtpSyncTx port atNs s = .next t' ∧ Keeps s t' := by
  unfold execPtpSyncTx
  refine act_keeps fun s h => ?_
  try dsimp only
  repeat' (first
    | with_reducible assumption
    | with_reducible intro _
    | with_reducible apply put_keeps
    | split
    | with_reducible refine Keeps.of_mk ?_ rfl rfl rfl rfl rfl rfl rfl rfl)

theorem execPtpAnnounceTx_keeps {s : State} (port : Fin 9) :
    ∃ t', execPtpAnnounceTx port s = .next t' ∧ Keeps s t' := by
  unfold execPtpAnnounceTx
  refine act_keeps fun s h => ?_
  try dsimp only
  repeat' (first
    | with_reducible assumption
    | with_reducible intro _
    | with_reducible apply put_keeps
    | split
    | with_reducible refine Keeps.of_mk ?_ rfl rfl rfl rfl rfl rfl rfl rfl)

theorem execAnnounceTimeout_keeps {s : State} (red : Bool) :
    ∃ t', execAnnounceTimeout red s = .next t' ∧ Keeps s t' := by
  unfold execAnnounceTimeout
  refine act_keeps fun s h => ?_
  try dsimp only
  repeat' (first
    | with_reducible assumption
    | with_reducible intro _
    | with_reducible apply setSource_keeps
    | split
    | with_reducible refine Keeps.of_mk ?_ rfl rfl rfl rfl rfl rfl rfl rfl)

theorem execSyncLossTimeout_keeps {s : State} (red : Bool) :
    ∃ t', execSyncLossTimeout red s = .next t' ∧ Keeps s t' := by
  unfold execSyncLossTimeout
  refine act_keeps fun s h => ?_
  try dsimp only
  repeat' (first
    | with_reducible assumption
    | with_reducible intro _
    | with_reducible apply setSource_keeps
    | split
    | with_reducible refine Keeps.of_mk ?_ rfl rfl rfl rfl rfl rfl rfl rfl)

theorem execJumpRequalify_keeps {s : State} (t : TimeSrc) :
    ∃ t', execJumpRequalify t s = .next t' ∧ Keeps s t' := by
  unfold execJumpRequalify
  refine act_keeps fun s h => ?_
  try dsimp only
  repeat' (first
    | with_reducible assumption
    | with_reducible intro _
    | with_reducible apply setSource_keeps
    | split
    | with_reducible refine Keeps.of_mk ?_ rfl rfl rfl rfl rfl rfl rfl rfl)

theorem judgeReceivers_keeps {s0 s : State} (h : Keeps s0 s)  :
    Keeps s0 (State.judgeReceivers s) := by
  unfold State.judgeReceivers
  try dsimp only
  repeat' (first
    | with_reducible assumption
    | with_reducible intro _
    | with_reducible refine Keeps.foldl ?_ ?_ _
    | split
    | with_reducible refine Keeps.of_mk ?_ rfl rfl rfl rfl rfl rfl rfl rfl)

theorem execTb2Qualify_keeps {s : State}  :
    ∃ t', execTb2Qualify s = .next t' ∧ Keeps s t' := by
  unfold execTb2Qualify
  refine act_keeps fun s h => ?_
  try dsimp only
  repeat' (first
    | with_reducible assumption
    | with_reducible intro _
    | with_reducible apply judgeReceivers_keeps
    | with_reducible apply setSource_keeps
    | split
    | with_reducible refine Keeps.of_mk ?_ rfl rfl rfl rfl rfl rfl rfl rfl)

theorem showNs_keeps {s0 s : State} (h : Keeps s0 s) (f : Fld) (v : Int) :
    Keeps s0 (State.showNs s f v) := by
  unfold State.showNs
  try dsimp only
  repeat' (first
    | with_reducible assumption
    | with_reducible intro _
    | with_reducible apply wrInt_keeps
    | with_reducible apply wr_keeps
    | with_reducible apply freeNat_keeps
    | with_reducible refine freeNat_keeps_of ?_ (by with_reducible assumption)
    | split
    | with_reducible refine Keeps.of_mk ?_ rfl rfl rfl rfl rfl rfl rfl rfl)

theorem setRemaining_keeps {s0 s : State} (h : Keeps s0 s) (v : Int) :
    Keeps s0 (State.setRemaining s v) := by
  unfold State.setRemaining
  try dsimp only
  repeat' (first
    | with_reducible assumption
    | with_reducible intro _
    | with_reducible apply showNs_keeps
    | split
    | with_reducible refine Keeps.of_mk ?_ rfl rfl rfl rfl rfl rfl rfl rfl)

theorem setLocked_keeps {s0 s : State} (h : Keeps s0 s)  :
    Keeps s0 (State.setLocked s) := by
  unfold State.setLocked
  try dsimp only
  repeat' (first
    | with_reducible assumption
    | with_reducible intro _
    | with_reducible apply wrFlag_keeps
    | with_reducible apply corrected_keeps
    | with_reducible apply slew_keeps
    | split
    | with_reducible refine Keeps.of_mk ?_ rfl rfl rfl rfl rfl rfl rfl rfl)

theorem slew_keeps {s0 s : State} (h : Keeps s0 s)  :
    Keeps s0 (State.slew s) := by
  unfold State.slew
  try dsimp only
  repeat' (first
    | with_reducible assumption
    | with_reducible intro _
    | with_reducible apply setRemaining_keeps
    | split
    | with_reducible refine Keeps.of_mk ?_ rfl rfl rfl rfl rfl rfl rfl rfl)

theorem clearConverging_keeps {s0 s : State} (h : Keeps s0 s)  :
    Keeps s0 (State.clearConverging s) := by
  unfold State.clearConverging
  try dsimp only
  repeat' (first
    | with_reducible assumption
    | with_reducible intro _
    | with_reducible apply wrFlag_keeps
    | with_reducible apply setLocked_keeps
    | with_reducible apply emit_keeps
    | split
    | with_reducible refine Keeps.of_mk ?_ rfl rfl rfl rfl rfl rfl rfl rfl)

theorem steerTo_keeps {s0 s : State} (h : Keeps s0 s) (x : TimeSrc) :
    Keeps s0 (State.steerTo s x) := by
  unfold State.steerTo
  try dsimp only
  repeat' (first
    | with_reducible assumption
    | with_reducible intro _
    | with_reducible apply wr_keeps
    | with_reducible apply inc_keeps
    | with_reducible apply wrFlag_keeps
    | with_reducible apply setRemaining_keeps
    | with_reducible apply emit_keeps
    | with_reducible apply setLocked_keeps
    | with_reducible apply clearConverging_keeps
    | with_reducible apply start_keeps
    | split
    | with_reducible refine Keeps.of_mk ?_ rfl rfl rfl rfl rfl rfl rfl rfl)

theorem startHoldover_keeps {s0 s : State} (h : Keeps s0 s)  :
    Keeps s0 (State.startHoldover s) := by
  unfold State.startHoldover
  try dsimp only
  repeat' (first
    | with_reducible assumption
    | with_reducible intro _
    | with_reducible apply wr_keeps
    | with_reducible apply inc_keeps
    | with_reducible apply wrFlag_keeps
    | with_reducible apply emit_keeps
    | with_reducible apply clearConverging_keeps
    | split
    | with_reducible refine Keeps.of_mk ?_ rfl rfl rfl rfl rfl rfl rfl rfl)

theorem chooseSource_keeps {s0 s : State} (h : Keeps s0 s)  :
    Keeps s0 (State.chooseSource s) := by
  unfold State.chooseSource
  try dsimp only
  repeat' (first
    | with_reducible assumption
    | with_reducible intro _
    | with_reducible apply steerTo_keeps
    | with_reducible apply startHoldover_keeps
    | split
    | with_reducible refine Keeps.of_mk ?_ rfl rfl rfl rfl rfl rfl rfl rfl)

theorem trackRemaining_keeps {s0 s : State} (h : Keeps s0 s)  :
    Keeps s0 (State.trackRemaining s) := by
  unfold State.trackRemaining
  try dsimp only
  repeat' (first
    | with_reducible assumption
    | with_reducible intro _
    | with_reducible apply setRemaining_keeps
    | split
    | with_reducible refine Keeps.of_mk ?_ rfl rfl rfl rfl rfl rfl rfl rfl)

theorem judgeConverging_keeps {s0 s : State} (h : Keeps s0 s)  :
    Keeps s0 (State.judgeConverging s) := by
  unfold State.judgeConverging
  try dsimp only
  repeat' (first
    | with_reducible assumption
    | with_reducible intro _
    | with_reducible apply clearConverging_keeps
    | with_reducible apply wrFlag_keeps
    | with_reducible apply setLocked_keeps
    | split
    | with_reducible refine Keeps.of_mk ?_ rfl rfl rfl rfl rfl rfl rfl rfl)

theorem reportTime_keeps {s0 s : State} (h : Keeps s0 s)  :
    Keeps s0 (State.reportTime s) := by
  unfold State.reportTime
  try dsimp only
  repeat' (first
    | with_reducible assumption
    | with_reducible intro _
    | with_reducible apply showNs_keeps
    | with_reducible apply wrInt_keeps
    | with_reducible apply wr_keeps
    | split
    | with_reducible refine Keeps.of_mk ?_ rfl rfl rfl rfl rfl rfl rfl rfl)

theorem crossCheck_keeps {s0 s : State} (h : Keeps s0 s)  :
    Keeps s0 (State.crossCheck s) := by
  unfold State.crossCheck
  try dsimp only
  repeat' (first
    | with_reducible assumption
    | with_reducible intro _
    | with_reducible apply command_keeps
    | split
    | with_reducible refine Keeps.of_mk ?_ rfl rfl rfl rfl rfl rfl rfl rfl)

theorem execCrosscheckTimeout_keeps {s : State} (tb2 : Bool) :
    ∃ t', execCrosscheckTimeout tb2 s = .next t' ∧ Keeps s t' := by
  unfold execCrosscheckTimeout
  refine act_keeps fun s h => ?_
  try dsimp only
  repeat' (first
    | with_reducible assumption
    | with_reducible intro _
    | with_reducible apply wrFlag_keeps
    | with_reducible apply emit_keeps
    | split
    | with_reducible refine Keeps.of_mk ?_ rfl rfl rfl rfl rfl rfl rfl rfl)

theorem execRevertHoldExpiry_keeps {s : State}  :
    ∃ t', execRevertHoldExpiry s = .next t' ∧ Keeps s t' := by
  unfold execRevertHoldExpiry
  refine act_keeps fun s h => ?_
  try dsimp only
  repeat' (first
    | with_reducible assumption
    | with_reducible intro _
    | with_reducible apply steerTo_keeps
    | with_reducible apply trackRemaining_keeps
    | with_reducible apply reportTime_keeps
    | split
    | with_reducible refine Keeps.of_mk ?_ rfl rfl rfl rfl rfl rfl rfl rfl)

theorem cancelStep_keeps {s0 s : State} (h : Keeps s0 s)  :
    Keeps s0 (State.cancelStep s) := by
  unfold State.cancelStep
  try dsimp only
  repeat' (first
    | with_reducible assumption
    | with_reducible intro _
    | with_reducible apply wrFlag_keeps
    | split
    | with_reducible refine Keeps.of_mk ?_ rfl rfl rfl rfl rfl rfl rfl rfl)

theorem tryAcquire_keeps {s0 s : State} (h : Keeps s0 s)  :
    Keeps s0 (State.tryAcquire s) := by
  unfold State.tryAcquire
  try dsimp only
  repeat' (first
    | with_reducible assumption
    | with_reducible intro _
    | with_reducible apply wrFlag_keeps
    | split
    | with_reducible refine Keeps.of_mk ?_ rfl rfl rfl rfl rfl rfl rfl rfl)

theorem execAcquireTimeout_keeps {s : State}  :
    ∃ t', execAcquireTimeout s = .next t' ∧ Keeps s t' := by
  unfold execAcquireTimeout
  refine act_keeps fun s h => ?_
  try dsimp only
  repeat' (first
    | with_reducible assumption
    | with_reducible intro _
    | with_reducible apply tryAcquire_keeps
    | split
    | with_reducible refine Keeps.of_mk ?_ rfl rfl rfl rfl rfl rfl rfl rfl)

theorem execCmdTimeResync_keeps {s : State} (h : Hdr) :
    ∃ t', execCmdTimeResync h s = .next t' ∧ Keeps s t' := by
  unfold execCmdTimeResync
  refine act_keeps fun s h => ?_
  try dsimp only
  repeat' (first
    | with_reducible assumption
    | with_reducible intro _
    | with_reducible apply reply_keeps
    | with_reducible apply command_keeps
    | with_reducible apply wrFlag_keeps
    | with_reducible apply pulse_keeps
    | split
    | with_reducible refine Keeps.of_mk ?_ rfl rfl rfl rfl rfl rfl rfl rfl)

theorem execPpsMessage_keeps {s : State}  :
    ∃ t', execPpsMessage s = .next t' ∧ Keeps s t' := by
  unfold execPpsMessage
  refine act_keeps fun s h => ?_
  try dsimp only
  repeat' (first
    | with_reducible assumption
    | with_reducible intro _
    | with_reducible apply wrInt_keeps
    | with_reducible apply put_keeps
    | with_reducible apply emit_keeps
    | split
    | with_reducible refine Keeps.of_mk ?_ rfl rfl rfl rfl rfl rfl rfl rfl)

theorem execPpsEdge_keeps {s : State}  :
    ∃ t', execPpsEdge s = .next t' ∧ Keeps s t' := by
  unfold execPpsEdge
  refine act_keeps fun s h => ?_
  try dsimp only
  repeat' (first
    | with_reducible assumption
    | with_reducible intro _
    | with_reducible apply put_keeps
    | split
    | with_reducible refine Keeps.of_mk ?_ rfl rfl rfl rfl rfl rfl rfl rfl)

theorem execPpsPulseEnd_keeps {s : State}  :
    ∃ t', execPpsPulseEnd s = .next t' ∧ Keeps s t' := by
  unfold execPpsPulseEnd
  refine act_keeps fun s h => ?_
  try dsimp only
  repeat' (first
    | with_reducible assumption
    | with_reducible intro _
    | with_reducible apply put_keeps
    | split
    | with_reducible refine Keeps.of_mk ?_ rfl rfl rfl rfl rfl rfl rfl rfl)

end Sys2Proof.Machine
end

