-- ==== Sys2Proof/Laws/KeepsLedger.lean ====
section
/-! SUPPORT. What the functions of Machine/Ledger.lean keep. -/

namespace Sys2Proof.Machine

theorem ledgerWrite_keeps {s0 s : State} (h : Keeps s0 s) (stream stamp : Nat) (payload : List Byte) (barred : Bool) (meas : Option GnssRec) :
    Keeps s0 (State.ledgerWrite s stream stamp payload barred meas) := by
  unfold State.ledgerWrite
  try dsimp only
  repeat' (first
    | with_reducible assumption
    | with_reducible intro _
    | with_reducible apply inc_keeps
    | with_reducible apply emit_keeps
    | with_reducible apply record_keeps
    | split
    | with_reducible refine Keeps.of_mk ?_ rfl rfl rfl rfl rfl rfl rfl rfl)

theorem ledgerFree_keeps {s0 s : State} (h : Keeps s0 s) (frame : Nat) :
    Keeps s0 (State.ledgerFree s frame) := by
  unfold State.ledgerFree
  try dsimp only
  repeat' (first
    | with_reducible assumption
    | with_reducible intro _
    | with_reducible apply wr_keeps
    | with_reducible refine Keeps.foldl ?_ ?_ _
    | split
    | with_reducible refine Keeps.of_mk ?_ rfl rfl rfl rfl rfl rfl rfl rfl)

theorem setStream_keeps {s0 s : State} (h : Keeps s0 s) (k st : Nat) :
    Keeps s0 (State.setStream s k st) := by
  unfold State.setStream
  try dsimp only
  repeat' (first
    | with_reducible assumption
    | with_reducible intro _
    | with_reducible apply wr_keeps
    | with_reducible apply emit_keeps
    | split
    | with_reducible refine Keeps.of_mk ?_ rfl rfl rfl rfl rfl rfl rfl rfl)

theorem streamSeen_keeps {s0 s : State} (h : Keeps s0 s) (k : Nat) :
    Keeps s0 (State.streamSeen s k) := by
  unfold State.streamSeen
  try dsimp only
  repeat' (first
    | with_reducible assumption
    | with_reducible intro _
    | split
    | with_reducible refine Keeps.of_mk ?_ rfl rfl rfl rfl rfl rfl rfl rfl)

theorem reject_keeps {s0 s : State} (h : Keeps s0 s) (ks : List Nat) :
    Keeps s0 (State.reject s ks) := by
  unfold State.reject
  try dsimp only
  repeat' (first
    | with_reducible assumption
    | with_reducible intro _
    | with_reducible apply inc_keeps
    | with_reducible refine Keeps.foldl ?_ ?_ _
    | split
    | with_reducible refine Keeps.of_mk ?_ rfl rfl rfl rfl rfl rfl rfl rfl)

end Sys2Proof.Machine
end

