-- ==== Sys2Proof/Laws/KeepsInputs.lean ====
section
/-! SUPPORT. What the functions of Machine/Inputs.lean keep. -/

namespace Sys2Proof.Machine

theorem newGrid_keeps {s0 s : State} (h : Keeps s0 s)  :
    Keeps s0 (State.newGrid s) := by
  unfold State.newGrid
  try dsimp only
  repeat' (first
    | with_reducible assumption
    | with_reducible intro _
    | with_reducible refine Keeps.foldl ?_ ?_ _
    | split
    | with_reducible refine Keeps.of_mk ?_ rfl rfl rfl rfl rfl rfl rfl rfl)

theorem execTriggerEdge_keeps {s : State} (t : Fin 8) :
    ∃ t', execTriggerEdge t s = .next t' ∧ Keeps s t' := by
  unfold execTriggerEdge
  refine act_keeps fun s h => ?_
  try dsimp only
  repeat' (first
    | with_reducible assumption
    | with_reducible intro _
    | with_reducible apply put_keeps
    | split
    | with_reducible refine Keeps.of_mk ?_ rfl rfl rfl rfl rfl rfl rfl rfl)

theorem execTriggerPulseEnd_keeps {s : State} (t : Fin 8) :
    ∃ t', execTriggerPulseEnd t s = .next t' ∧ Keeps s t' := by
  unfold execTriggerPulseEnd
  refine act_keeps fun s h => ?_
  try dsimp only
  repeat' (first
    | with_reducible assumption
    | with_reducible intro _
    | with_reducible apply put_keeps
    | split
    | with_reducible refine Keeps.of_mk ?_ rfl rfl rfl rfl rfl rfl rfl rfl)

theorem execImuSyncEdge_keeps {s : State} (p : Fin 4) :
    ∃ t', execImuSyncEdge p s = .next t' ∧ Keeps s t' := by
  unfold execImuSyncEdge
  refine act_keeps fun s h => ?_
  try dsimp only
  repeat' (first
    | with_reducible assumption
    | with_reducible intro _
    | with_reducible apply put_keeps
    | split
    | with_reducible refine Keeps.of_mk ?_ rfl rfl rfl rfl rfl rfl rfl rfl)

theorem takeImu_keeps {s0 s : State} (h : Keeps s0 s) (n edge : Nat) (bytes : List Byte) :
    Keeps s0 (State.takeImu s n edge bytes) := by
  unfold State.takeImu
  try dsimp only
  repeat' (first
    | with_reducible assumption
    | with_reducible intro _
    | with_reducible apply wr_keeps
    | with_reducible apply ledgerWrite_keeps
    | with_reducible apply streamSeen_keeps
    | with_reducible apply setStream_keeps
    | with_reducible refine Keeps.foldl ?_ ?_ _
    | split
    | with_reducible refine Keeps.of_mk ?_ rfl rfl rfl rfl rfl rfl rfl rfl)

theorem execImuFrameRx_keeps {s : State} (p : Fin 4) (bytes : List Byte) (delayNs : Nat) :
    ∃ t', execImuFrameRx p bytes delayNs s = .next t' ∧ Keeps s t' := by
  unfold execImuFrameRx
  refine act_keeps fun s h => ?_
  try dsimp only
  repeat' (first
    | with_reducible assumption
    | with_reducible intro _
    | with_reducible apply inc_keeps
    | with_reducible apply reject_keeps
    | with_reducible apply takeImu_keeps
    | split
    | with_reducible refine Keeps.of_mk ?_ rfl rfl rfl rfl rfl rfl rfl rfl)

theorem enterRef_keeps {s0 s : State} (h : Keeps s0 s) (k kind flags seq typ : Nat) (vals : List F64) (stamp : Nat) :
    Keeps s0 (State.enterRef s k kind flags seq typ vals stamp) := by
  unfold State.enterRef
  try dsimp only
  repeat' (first
    | with_reducible assumption
    | with_reducible intro _
    | with_reducible apply ledgerWrite_keeps
    | with_reducible apply streamSeen_keeps
    | with_reducible apply setStream_keeps
    | split
    | with_reducible refine Keeps.of_mk ?_ rfl rfl rfl rfl rfl rfl rfl rfl)

theorem acceptRef_keeps {s0 s : State} (h : Keeps s0 s) (k kind flags seq typ : Nat) (vals : List F64) (startNs : Nat) :
    Keeps s0 (State.acceptRef s k kind flags seq typ vals startNs) := by
  unfold State.acceptRef
  try dsimp only
  repeat' (first
    | with_reducible assumption
    | with_reducible intro _
    | with_reducible apply enterRef_keeps
    | with_reducible apply reject_keeps
    | with_reducible apply sentence_keeps
    | split
    | with_reducible refine Keeps.of_mk ?_ rfl rfl rfl rfl rfl rfl rfl rfl)

theorem sentence_keeps {s0 s : State} (h : Keeps s0 s) (kind index : Nat) (pass : Nat → Bool) (seq : Option Nat) (chars : List Byte) (startNs : Nat) :
    Keeps s0 (State.sentence s kind index pass seq chars startNs) := by
  unfold State.sentence
  try dsimp only
  repeat' (first
    | with_reducible assumption
    | with_reducible intro _
    | with_reducible apply reject_keeps
    | with_reducible apply acceptRef_keeps
    | with_reducible refine Keeps.foldl ?_ ?_ _
    | split
    | with_reducible refine Keeps.of_mk ?_ rfl rfl rfl rfl rfl rfl rfl rfl)

theorem execSerialSentenceRx_keeps {s : State} (k : Fin 4) (chars : List Byte) (startNs : Nat) :
    ∃ t', execSerialSentenceRx k chars startNs s = .next t' ∧ Keeps s t' := by
  unfold execSerialSentenceRx
  refine act_keeps fun s h => ?_
  try dsimp only
  repeat' (first
    | with_reducible assumption
    | with_reducible intro _
    | with_reducible apply sentence_keeps
    | split
    | with_reducible refine Keeps.of_mk ?_ rfl rfl rfl rfl rfl rfl rfl rfl)

theorem execL450DatagramRx_keeps {s : State} (d : Datagram) (startNs : Nat) :
    ∃ t', execL450DatagramRx d startNs s = .next t' ∧ Keeps s t' := by
  unfold execL450DatagramRx
  refine act_keeps fun s h => ?_
  try dsimp only
  repeat' (first
    | with_reducible assumption
    | with_reducible intro _
    | with_reducible apply reject_keeps
    | with_reducible apply sentence_keeps
    | with_reducible refine Keeps.foldl ?_ ?_ _
    | split
    | with_reducible refine Keeps.of_mk ?_ rfl rfl rfl rfl rfl rfl rfl rfl)

theorem takeDatagram_keeps {s0 s : State} (h : Keeps s0 s) (k : Nat) (b : List Byte) (startNs : Nat) :
    Keeps s0 (State.takeDatagram s k b startNs) := by
  unfold State.takeDatagram
  try dsimp only
  repeat' (first
    | with_reducible assumption
    | with_reducible intro _
    | with_reducible apply reject_keeps
    | with_reducible apply enterRef_keeps
    | with_reducible apply acceptRef_keeps
    | split
    | with_reducible refine Keeps.of_mk ?_ rfl rfl rfl rfl rfl rfl rfl rfl)

theorem execSensorDatagramRx_keeps {s : State} (d : Datagram) (startNs : Nat) :
    ∃ t', execSensorDatagramRx d startNs s = .next t' ∧ Keeps s t' := by
  unfold execSensorDatagramRx
  refine act_keeps fun s h => ?_
  try dsimp only
  repeat' (first
    | with_reducible assumption
    | with_reducible intro _
    | with_reducible apply reject_keeps
    | with_reducible apply takeDatagram_keeps
    | with_reducible refine Keeps.foldl ?_ ?_ _
    | split
    | with_reducible refine Keeps.of_mk ?_ rfl rfl rfl rfl rfl rfl rfl rfl)

theorem execStreamTimeout_keeps {s : State} (st : Fin 45) :
    ∃ t', execStreamTimeout st s = .next t' ∧ Keeps s t' := by
  unfold execStreamTimeout
  refine act_keeps fun s h => ?_
  try dsimp only
  repeat' (first
    | with_reducible assumption
    | with_reducible intro _
    | with_reducible apply wr_keeps
    | with_reducible apply setStream_keeps
    | split
    | with_reducible refine Keeps.of_mk ?_ rfl rfl rfl rfl rfl rfl rfl rfl)

theorem setAin_keeps {s0 s : State} (h : Keeps s0 s) (ch st : Nat) :
    Keeps s0 (State.setAin s ch st) := by
  unfold State.setAin
  try dsimp only
  repeat' (first
    | with_reducible assumption
    | with_reducible intro _
    | with_reducible apply setStream_keeps
    | with_reducible apply wr_keeps
    | with_reducible refine Keeps.foldl ?_ ?_ _
    | split
    | with_reducible refine Keeps.of_mk ?_ rfl rfl rfl rfl rfl rfl rfl rfl)

theorem enterAnalog_keeps {s0 s : State} (h : Keeps s0 s) (n : Nat) (r : AinRun) (wire : Bool) (entry : Option (List AinSample × Bool)) :
    Keeps s0 (State.enterAnalog s n r wire entry) := by
  unfold State.enterAnalog
  try dsimp only
  repeat' (first
    | with_reducible assumption
    | with_reducible intro _
    | with_reducible apply ledgerWrite_keeps
    | with_reducible apply streamSeen_keeps
    | with_reducible refine Keeps.foldl ?_ ?_ _
    | split
    | with_reducible refine Keeps.of_mk ?_ rfl rfl rfl rfl rfl rfl rfl rfl)

theorem execAnalogSampleComplete_keeps {s : State} (ch : Fin 16) (pins : Int) :
    ∃ t', execAnalogSampleComplete ch pins s = .next t' ∧ Keeps s t' := by
  unfold execAnalogSampleComplete
  refine act_keeps fun s h => ?_
  try dsimp only
  repeat' (first
    | with_reducible assumption
    | with_reducible intro _
    | with_reducible apply inc_keeps
    | with_reducible apply enterAnalog_keeps
    | with_reducible apply setAin_keeps
    | split
    | with_reducible refine Keeps.of_mk ?_ rfl rfl rfl rfl rfl rfl rfl rfl)

theorem execWireFaultDetect_keeps {s : State} (ch : Fin 16) :
    ∃ t', execWireFaultDetect ch s = .next t' ∧ Keeps s t' := by
  unfold execWireFaultDetect
  refine act_keeps fun s h => ?_
  try dsimp only
  repeat' (first
    | with_reducible assumption
    | with_reducible intro _
    | with_reducible apply setAin_keeps
    | split
    | with_reducible refine Keeps.of_mk ?_ rfl rfl rfl rfl rfl rfl rfl rfl)

theorem restartChains_keeps {s0 s : State} (h : Keeps s0 s) (oldEnd newStart : Nat) (d : Int) :
    Keeps s0 (State.restartChains s oldEnd newStart d) := by
  unfold State.restartChains
  try dsimp only
  repeat' (first
    | with_reducible assumption
    | with_reducible intro _
    | with_reducible apply setAin_keeps
    | with_reducible refine Keeps.foldl ?_ ?_ _
    | split
    | with_reducible refine Keeps.of_mk ?_ rfl rfl rfl rfl rfl rfl rfl rfl)

theorem turnChains_keeps {s0 s : State} (h : Keeps s0 s) (old : Folio) (frame : Nat) :
    Keeps s0 (State.turnChains s old frame) := by
  unfold State.turnChains
  try dsimp only
  repeat' (first
    | with_reducible assumption
    | with_reducible intro _
    | with_reducible apply setAin_keeps
    | with_reducible refine Keeps.foldl ?_ ?_ _
    | split
    | with_reducible refine Keeps.of_mk ?_ rfl rfl rfl rfl rfl rfl rfl rfl)

theorem triggerTurn_keeps {s0 s : State} (h : Keeps s0 s) (old : Folio) (frame : Nat) :
    Keeps s0 (State.triggerTurn s old frame) := by
  unfold State.triggerTurn
  try dsimp only
  repeat' (first
    | with_reducible assumption
    | with_reducible intro _
    | with_reducible refine Keeps.foldl ?_ ?_ _
    | split
    | with_reducible refine Keeps.of_mk ?_ rfl rfl rfl rfl rfl rfl rfl rfl)

theorem joinGroups_keeps {s0 s : State} (h : Keeps s0 s) (ports : List Nat) :
    Keeps s0 (State.joinGroups s ports) := by
  unfold State.joinGroups
  try dsimp only
  repeat' (first
    | with_reducible assumption
    | with_reducible intro _
    | with_reducible apply put_keeps
    | with_reducible refine Keeps.foldl ?_ ?_ _
    | split
    | with_reducible refine Keeps.of_mk ?_ rfl rfl rfl rfl rfl rfl rfl rfl)

theorem groupTurn_keeps {s0 s : State} (h : Keeps s0 s) (old : Folio) :
    Keeps s0 (State.groupTurn s old) := by
  unfold State.groupTurn
  try dsimp only
  repeat' (first
    | with_reducible assumption
    | with_reducible intro _
    | with_reducible apply put_keeps
    | with_reducible apply joinGroups_keeps
    | with_reducible refine Keeps.foldl ?_ ?_ _
    | split
    | with_reducible refine Keeps.of_mk ?_ rfl rfl rfl rfl rfl rfl rfl rfl)

theorem streamTurn_keeps {s0 s : State} (h : Keeps s0 s) (old : Folio) :
    Keeps s0 (State.streamTurn s old) := by
  unfold State.streamTurn
  try dsimp only
  repeat' (first
    | with_reducible assumption
    | with_reducible intro _
    | with_reducible apply wr_keeps
    | with_reducible apply setStream_keeps
    | with_reducible refine Keeps.foldl ?_ ?_ _
    | split
    | with_reducible refine Keeps.of_mk ?_ rfl rfl rfl rfl rfl rfl rfl rfl)

theorem inputTurn_keeps {s0 s : State} (h : Keeps s0 s) (old : Folio) (frame : Nat) :
    Keeps s0 (State.inputTurn s old frame) := by
  unfold State.inputTurn
  try dsimp only
  repeat' (first
    | with_reducible assumption
    | with_reducible intro _
    | with_reducible apply turnChains_keeps
    | with_reducible apply triggerTurn_keeps
    | with_reducible apply streamTurn_keeps
    | with_reducible apply groupTurn_keeps
    | split
    | with_reducible refine Keeps.of_mk ?_ rfl rfl rfl rfl rfl rfl rfl rfl)

end Sys2Proof.Machine
end

