-- ==== Sys2Proof/Laws/KeepsGnss.lean ====
section
/-! SUPPORT. What the functions of Machine/Gnss.lean keep. -/

namespace Sys2Proof.Machine

theorem showRx_keeps {s0 s : State} (h : Keeps s0 s) (n : Nat) :
    Keeps s0 (State.showRx s n) := by
  unfold State.showRx
  try dsimp only
  repeat' (first
    | with_reducible assumption
    | with_reducible intro _
    | with_reducible apply wr_keeps
    | with_reducible apply emit_keeps
    | split
    | with_reducible refine Keeps.of_mk ?_ rfl rfl rfl rfl rfl rfl rfl rfl)

theorem powerRx_keeps {s0 s : State} (h : Keeps s0 s)  :
    Keeps s0 (State.powerRx s) := by
  unfold State.powerRx
  try dsimp only
  repeat' (first
    | with_reducible assumption
    | with_reducible intro _
    | with_reducible refine Keeps.foldl ?_ ?_ _
    | split
    | with_reducible refine Keeps.of_mk ?_ rfl rfl rfl rfl rfl rfl rfl rfl)

theorem showAllRx_keeps {s0 s : State} (h : Keeps s0 s)  :
    Keeps s0 (State.showAllRx s) := by
  unfold State.showAllRx
  try dsimp only
  repeat' (first
    | with_reducible assumption
    | with_reducible intro _
    | with_reducible apply showRx_keeps
    | with_reducible refine Keeps.foldl ?_ ?_ _
    | split
    | with_reducible refine Keeps.of_mk ?_ rfl rfl rfl rfl rfl rfl rfl rfl)

theorem antennas_keeps {s0 s : State} (h : Keeps s0 s) (current : List Nat) :
    Keeps s0 (State.antennas s current) := by
  unfold State.antennas
  try dsimp only
  repeat' (first
    | with_reducible assumption
    | with_reducible intro _
    | with_reducible apply put_keeps
    | with_reducible apply emit_keeps
    | with_reducible refine Keeps.foldl ?_ ?_ _
    | split
    | with_reducible refine Keeps.of_mk ?_ rfl rfl rfl rfl rfl rfl rfl rfl)

theorem judgeIndependence_keeps {s0 s : State} (h : Keeps s0 s)  :
    Keeps s0 (State.judgeIndependence s) := by
  unfold State.judgeIndependence
  try dsimp only
  repeat' (first
    | with_reducible assumption
    | with_reducible intro _
    | with_reducible apply wr_keeps
    | split
    | with_reducible refine Keeps.of_mk ?_ rfl rfl rfl rfl rfl rfl rfl rfl)

theorem allocate_keeps {s0 s : State} (h : Keeps s0 s) (n : Nat) :
    Keeps s0 (State.allocate s n) := by
  unfold State.allocate
  try dsimp only
  repeat' (first
    | with_reducible assumption
    | with_reducible intro _
    | with_reducible apply record_keeps
    | with_reducible refine Keeps.foldl ?_ ?_ _
    | split
    | with_reducible refine Keeps.of_mk ?_ rfl rfl rfl rfl rfl rfl rfl rfl)

theorem writeRecords_keeps {s0 s : State} (h : Keeps s0 s) (rs : List GnssRec) :
    Keeps s0 (State.writeRecords s rs) := by
  unfold State.writeRecords
  try dsimp only
  repeat' (first
    | with_reducible assumption
    | with_reducible intro _
    | with_reducible apply ledgerWrite_keeps
    | with_reducible apply record_keeps
    | with_reducible refine Keeps.foldl ?_ ?_ _
    | split
    | with_reducible refine Keeps.of_mk ?_ rfl rfl rfl rfl rfl rfl rfl rfl)

theorem latchChan_keeps {s0 s : State} (h : Keeps s0 s) (raw : List GnssRaw) (n c : Nat) :
    Keeps s0 (State.latchChan s raw n c).1 := by
  unfold State.latchChan
  try dsimp only
  repeat' (first
    | with_reducible assumption
    | with_reducible intro _
    | split
    | with_reducible refine Keeps.of_mk ?_ rfl rfl rfl rfl rfl rfl rfl rfl)

theorem latchChan_keeps_of {s0 s a : State} {rb : Option GnssRec} (h : Keeps s0 s) (raw : List GnssRaw) (n c : Nat) (e : (State.latchChan s raw n c) = (a, rb)) : Keeps s0 a := by
  have k := latchChan_keeps h raw n c
  rw [e] at k
  exact k

theorem latchChans_keeps {s0 s : State} (h : Keeps s0 s) (raw : List GnssRaw) (n : Nat) : Keeps s0 (s.latchChans raw n).1 := by
  unfold State.latchChans
  generalize List.range 96 = l
  refine Keeps.foldlPair (fun x c hx => ?_) (p := (s, [])) h l
  exact latchChan_keeps hx raw n c

theorem latchChans_keeps_of {s0 s a : State} {rb : List GnssRec} (h : Keeps s0 s) (raw : List GnssRaw) (n : Nat)
    (e : s.latchChans raw n = (a, rb)) : Keeps s0 a := by
  have k := latchChans_keeps h raw n
  rw [e] at k
  exact k

theorem latchRx_keeps {s0 s : State} (h : Keeps s0 s) (i : FrameIn) (n : Nat) :
    Keeps s0 (State.latchRx s i n) := by
  unfold State.latchRx
  try dsimp only
  repeat' (first
    | with_reducible assumption
    | with_reducible intro _
    | with_reducible apply wr_keeps
    | with_reducible apply latchChans_keeps
    | with_reducible refine latchChans_keeps_of ?_ (by with_reducible assumption)
    | with_reducible apply add_keeps
    | with_reducible apply writeRecords_keeps
    | with_reducible apply place_keeps
    | with_reducible refine Keeps.foldl ?_ ?_ _
    | with_reducible exact source_allowed _
    | decide
    | split
    | with_reducible refine Keeps.of_mk ?_ rfl rfl rfl rfl rfl rfl rfl rfl)

theorem holdEphemeris_keeps {s0 s : State} (h : Keeps s0 s) (m : NavMsg) :
    Keeps s0 (State.holdEphemeris s m) := by
  unfold State.holdEphemeris
  try dsimp only
  repeat' (first
    | with_reducible assumption
    | with_reducible intro _
    | split
    | with_reducible refine Keeps.of_mk ?_ rfl rfl rfl rfl rfl rfl rfl rfl)

theorem holdNavigation_keeps {s0 s : State} (h : Keeps s0 s) (i : FrameIn) :
    Keeps s0 (State.holdNavigation s i) := by
  unfold State.holdNavigation
  try dsimp only
  repeat' (first
    | with_reducible assumption
    | with_reducible intro _
    | with_reducible apply holdEphemeris_keeps
    | with_reducible refine Keeps.foldl ?_ ?_ _
    | split
    | with_reducible refine Keeps.of_mk ?_ rfl rfl rfl rfl rfl rfl rfl rfl)

theorem showEphemerisAge_keeps {s0 s : State} (h : Keeps s0 s)  :
    Keeps s0 (State.showEphemerisAge s) := by
  unfold State.showEphemerisAge
  try dsimp only
  repeat' (first
    | with_reducible assumption
    | with_reducible intro _
    | with_reducible apply wr_keeps
    | with_reducible refine Keeps.foldl ?_ ?_ _
    | split
    | with_reducible refine Keeps.of_mk ?_ rfl rfl rfl rfl rfl rfl rfl rfl)

theorem testSolutions_keeps {s0 s : State} (h : Keeps s0 s) (i : FrameIn) :
    Keeps s0 (State.testSolutions s i) := by
  unfold State.testSolutions
  try dsimp only
  repeat' (first
    | with_reducible assumption
    | with_reducible intro _
    | with_reducible apply judgeReceivers_keeps
    | with_reducible refine Keeps.foldl ?_ ?_ _
    | split
    | with_reducible refine Keeps.of_mk ?_ rfl rfl rfl rfl rfl rfl rfl rfl)

theorem measureTb2_keeps {s0 s : State} (h : Keeps s0 s) (i : FrameIn) :
    Keeps s0 (State.measureTb2 s i) := by
  unfold State.measureTb2
  try dsimp only
  repeat' (first
    | with_reducible assumption
    | with_reducible intro _
    | with_reducible apply testSolutions_keeps
    | with_reducible apply wr_keeps
    | with_reducible apply setSource_keeps
    | split
    | with_reducible refine Keeps.of_mk ?_ rfl rfl rfl rfl rfl rfl rfl rfl)

theorem showLayup_keeps {s0 s : State} (h : Keeps s0 s)  :
    Keeps s0 (State.showLayup s) := by
  unfold State.showLayup
  try dsimp only
  repeat' (first
    | with_reducible assumption
    | with_reducible intro _
    | with_reducible apply wr_keeps
    | with_reducible apply command_keeps
    | split
    | with_reducible refine Keeps.of_mk ?_ rfl rfl rfl rfl rfl rfl rfl rfl)

theorem beginLayup_keeps {s0 s : State} (h : Keeps s0 s)  :
    Keeps s0 (State.beginLayup s) := by
  unfold State.beginLayup
  try dsimp only
  repeat' (first
    | with_reducible assumption
    | with_reducible intro _
    | with_reducible apply setSource_keeps
    | with_reducible apply emit_keeps
    | with_reducible apply start_keeps
    | split
    | with_reducible refine Keeps.of_mk ?_ rfl rfl rfl rfl rfl rfl rfl rfl)

theorem endLayup_keeps {s0 s : State} (h : Keeps s0 s) (cause : Nat) :
    Keeps s0 (State.endLayup s cause) := by
  unfold State.endLayup
  try dsimp only
  repeat' (first
    | with_reducible assumption
    | with_reducible intro _
    | with_reducible apply powerRx_keeps
    | with_reducible apply showAllRx_keeps
    | with_reducible apply showLayup_keeps
    | with_reducible apply emit_keeps
    | split
    | with_reducible refine Keeps.of_mk ?_ rfl rfl rfl rfl rfl rfl rfl rfl)

theorem execCmdGnssLayup_keeps {s : State} (h : Hdr) (hours : W16) :
    ∃ t', execCmdGnssLayup h hours s = .next t' ∧ Keeps s t' := by
  unfold execCmdGnssLayup
  refine act_keeps fun s h => ?_
  try dsimp only
  repeat' (first
    | with_reducible assumption
    | with_reducible intro _
    | with_reducible apply reply_keeps
    | with_reducible apply command_keeps
    | split
    | with_reducible refine Keeps.of_mk ?_ rfl rfl rfl rfl rfl rfl rfl rfl)

theorem execCmdGnssWake_keeps {s : State} (h : Hdr) :
    ∃ t', execCmdGnssWake h s = .next t' ∧ Keeps s t' := by
  unfold execCmdGnssWake
  refine act_keeps fun s h => ?_
  try dsimp only
  repeat' (first
    | with_reducible assumption
    | with_reducible intro _
    | with_reducible apply reply_keeps
    | with_reducible apply command_keeps
    | split
    | with_reducible refine Keeps.of_mk ?_ rfl rfl rfl rfl rfl rfl rfl rfl)

theorem execLayupEnd_keeps {s : State}  :
    ∃ t', execLayupEnd s = .next t' ∧ Keeps s t' := by
  unfold execLayupEnd
  refine act_keeps fun s h => ?_
  try dsimp only
  repeat' (first
    | with_reducible assumption
    | with_reducible intro _
    | with_reducible apply endLayup_keeps
    | split
    | with_reducible refine Keeps.of_mk ?_ rfl rfl rfl rfl rfl rfl rfl rfl)

theorem execKeepaliveWake_keeps {s : State}  :
    ∃ t', execKeepaliveWake s = .next t' ∧ Keeps s t' := by
  unfold execKeepaliveWake
  refine act_keeps fun s h => ?_
  try dsimp only
  repeat' (first
    | with_reducible assumption
    | with_reducible intro _
    | with_reducible apply powerRx_keeps
    | with_reducible apply showLayup_keeps
    | with_reducible apply start_keeps
    | split
    | with_reducible refine Keeps.of_mk ?_ rfl rfl rfl rfl rfl rfl rfl rfl)

theorem execKeepaliveEnd_keeps {s : State}  :
    ∃ t', execKeepaliveEnd s = .next t' ∧ Keeps s t' := by
  unfold execKeepaliveEnd
  refine act_keeps fun s h => ?_
  try dsimp only
  repeat' (first
    | with_reducible assumption
    | with_reducible intro _
    | with_reducible apply powerRx_keeps
    | with_reducible apply showLayup_keeps
    | with_reducible apply emit_keeps
    | split
    | with_reducible refine Keeps.of_mk ?_ rfl rfl rfl rfl rfl rfl rfl rfl)

theorem execGnssStartComplete_keeps {s : State} (rx : Fin 3) :
    ∃ t', execGnssStartComplete rx s = .next t' ∧ Keeps s t' := by
  unfold execGnssStartComplete
  refine act_keeps fun s h => ?_
  try dsimp only
  repeat' (first
    | with_reducible assumption
    | with_reducible intro _
    | with_reducible apply writeRecords_keeps
    | with_reducible apply showRx_keeps
    | with_reducible apply antennas_keeps
    | with_reducible apply deliver_keeps
    | split
    | with_reducible refine Keeps.of_mk ?_ rfl rfl rfl rfl rfl rfl rfl rfl)

theorem gnssFrame_keeps {s0 s : State} (h : Keeps s0 s) (i : FrameIn) :
    Keeps s0 (State.gnssFrame s i) := by
  unfold State.gnssFrame
  try dsimp only
  repeat' (first
    | with_reducible assumption
    | with_reducible intro _
    | with_reducible apply antennas_keeps
    | with_reducible apply beginLayup_keeps
    | with_reducible apply powerRx_keeps
    | with_reducible apply holdNavigation_keeps
    | with_reducible apply latchRx_keeps
    | with_reducible apply allocate_keeps
    | with_reducible apply showAllRx_keeps
    | with_reducible apply judgeIndependence_keeps
    | with_reducible apply showLayup_keeps
    | with_reducible apply showEphemerisAge_keeps
    | with_reducible apply measureTb2_keeps
    | with_reducible refine Keeps.foldl ?_ ?_ _
    | split
    | with_reducible refine Keeps.of_mk ?_ rfl rfl rfl rfl rfl rfl rfl rfl)

end Sys2Proof.Machine
end

