-- ==== Sys2Proof/Laws/KeepsFusion.lean ====
section
/-! SUPPORT. What the functions of Machine/Fusion.lean keep. -/

namespace Sys2Proof.Machine

theorem noteHeave_keeps {s0 s : State} (h : Keeps s0 s)  :
    Keeps s0 (State.noteHeave s) := by
  unfold State.noteHeave
  try dsimp only
  repeat' (first
    | with_reducible assumption
    | with_reducible intro _
    | split
    | with_reducible refine Keeps.of_mk ?_ rfl rfl rfl rfl rfl rfl rfl rfl)

end Sys2Proof.Machine
end

