-- ==== Sys2Proof/Laws/KeepsVote.lean ====
section
/-! SUPPORT. What the functions of Machine/Vote.lean keep. -/

namespace Sys2Proof.Machine

theorem setRef_keeps {s0 s : State} (h : Keeps s0 s) (i : Nat) (r : VoteRef) :
    Keeps s0 (State.setRef s i r) := by
  unfold State.setRef
  try dsimp only
  repeat' (first
    | with_reducible assumption
    | with_reducible intro _
    | split
    | with_reducible refine Keeps.of_mk ?_ rfl rfl rfl rfl rfl rfl rfl rfl)

theorem setGroup_keeps {s0 s : State} (h : Keeps s0 s) (g : Nat) (x : VoteGroup) :
    Keeps s0 (State.setGroup s g x) := by
  unfold State.setGroup
  try dsimp only
  repeat' (first
    | with_reducible assumption
    | with_reducible intro _
    | split
    | with_reducible refine Keeps.of_mk ?_ rfl rfl rfl rfl rfl rfl rfl rfl)

theorem judgeRef_keeps {s0 s : State} (h : Keeps s0 s) (i : Nat) :
    Keeps s0 (State.judgeRef s i) := by
  unfold State.judgeRef
  try dsimp only
  repeat' (first
    | with_reducible assumption
    | with_reducible intro _
    | with_reducible apply setRef_keeps
    | split
    | with_reducible refine Keeps.of_mk ?_ rfl rfl rfl rfl rfl rfl rfl rfl)

theorem testSamples_keeps {s0 s : State} (h : Keeps s0 s)  :
    Keeps s0 (State.testSamples s) := by
  unfold State.testSamples
  try dsimp only
  repeat' (first
    | with_reducible assumption
    | with_reducible intro _
    | with_reducible apply judgeRef_keeps
    | with_reducible refine Keeps.foldl ?_ ?_ _
    | split
    | with_reducible refine Keeps.of_mk ?_ rfl rfl rfl rfl rfl rfl rfl rfl)

theorem emitSplit_keeps {s0 s : State} (h : Keeps s0 s) (g : Nat) (disputed : List Nat) (diff kind : Nat) :
    Keeps s0 (State.emitSplit s g disputed diff kind) := by
  unfold State.emitSplit
  try dsimp only
  repeat' (first
    | with_reducible assumption
    | with_reducible intro _
    | with_reducible apply emitAtFrame_keeps
    | split
    | with_reducible refine Keeps.of_mk ?_ rfl rfl rfl rfl rfl rfl rfl rfl)

theorem enterSplit_keeps {s0 s : State} (h : Keeps s0 s) (g st : Nat) (cands : List Nat) (diff : Nat) :
    Keeps s0 (State.enterSplit s g st cands diff) := by
  unfold State.enterSplit
  try dsimp only
  repeat' (first
    | with_reducible assumption
    | with_reducible intro _
    | with_reducible apply setRef_keeps
    | with_reducible apply setGroup_keeps
    | with_reducible apply inc_keeps
    | with_reducible apply emitSplit_keeps
    | with_reducible refine Keeps.foldl ?_ ?_ _
    | split
    | with_reducible refine Keeps.of_mk ?_ rfl rfl rfl rfl rfl rfl rfl rfl)

theorem medianVote_keeps {s0 s : State} (h : Keeps s0 s) (g : Nat) (xs : List (Nat × Int × Int)) :
    Keeps s0 (State.medianVote s g xs).1 := by
  unfold State.medianVote
  try dsimp only
  repeat' (first
    | with_reducible assumption
    | with_reducible intro _
    | with_reducible apply enterSplit_keeps
    | with_reducible apply setRef_keeps
    | with_reducible apply emitSplit_keeps
    | with_reducible apply setGroup_keeps
    | with_reducible refine Keeps.foldl ?_ ?_ _
    | split
    | with_reducible refine Keeps.of_mk ?_ rfl rfl rfl rfl rfl rfl rfl rfl)

theorem medianVote_keeps_of {s0 s a : State} {rb : Option (Int × Int) × Bool} (h : Keeps s0 s) (g : Nat) (xs : List (Nat × Int × Int)) (e : (State.medianVote s g xs) = (a, rb)) : Keeps s0 a := by
  have k := medianVote_keeps h g xs
  rw [e] at k
  exact k

theorem disagree_keeps {s0 s : State} (h : Keeps s0 s) (g st : Nat) (xs : List (Nat × Int × Int)) :
    Keeps s0 (State.disagree s g st xs).1 := by
  unfold State.disagree
  try dsimp only
  repeat' (first
    | with_reducible assumption
    | with_reducible intro _
    | with_reducible apply setGroup_keeps
    | split
    | with_reducible refine Keeps.of_mk ?_ rfl rfl rfl rfl rfl rfl rfl rfl)

theorem disagree_keeps_of {s0 s a : State} {rb : Option (Int × Int) × Bool} (h : Keeps s0 s) (g st : Nat) (xs : List (Nat × Int × Int)) (e : (State.disagree s g st xs) = (a, rb)) : Keeps s0 a := by
  have k := disagree_keeps h g st xs
  rw [e] at k
  exact k

theorem voteGroup_keeps {s0 s : State} (h : Keeps s0 s) (g : Nat) :
    Keeps s0 (State.voteGroup s g).1 := by
  unfold State.voteGroup
  try dsimp only
  repeat' (first
    | with_reducible assumption
    | with_reducible intro _
    | with_reducible apply medianVote_keeps
    | with_reducible refine medianVote_keeps_of ?_ (by with_reducible assumption)
    | with_reducible apply enterSplit_keeps
    | with_reducible apply setRef_keeps
    | with_reducible apply setGroup_keeps
    | with_reducible apply disagree_keeps
    | with_reducible refine disagree_keeps_of ?_ (by with_reducible assumption)
    | with_reducible refine Keeps.foldl ?_ ?_ _
    | split
    | with_reducible refine Keeps.of_mk ?_ rfl rfl rfl rfl rfl rfl rfl rfl)

theorem voteGroup_keeps_of {s0 s a : State} {rb : Option (Int × Int) × Bool} (h : Keeps s0 s) (g : Nat) (e : (State.voteGroup s g) = (a, rb)) : Keeps s0 a := by
  have k := voteGroup_keeps h g
  rw [e] at k
  exact k

theorem showRef_keeps {s0 s : State} (h : Keeps s0 s) (i : Nat) :
    Keeps s0 (State.showRef s i) := by
  unfold State.showRef
  try dsimp only
  repeat' (first
    | with_reducible assumption
    | with_reducible intro _
    | with_reducible apply setRef_keeps
    | with_reducible apply wr_keeps
    | with_reducible apply emitAtFrame_keeps
    | split
    | with_reducible refine Keeps.of_mk ?_ rfl rfl rfl rfl rfl rfl rfl rfl)

theorem showGroup_keeps {s0 s : State} (h : Keeps s0 s) (g count : Nat) :
    Keeps s0 (State.showGroup s g count) := by
  unfold State.showGroup
  try dsimp only
  repeat' (first
    | with_reducible assumption
    | with_reducible intro _
    | with_reducible apply wr_keeps
    | with_reducible apply wrFlag_keeps
    | with_reducible apply emitAtFrame_keeps
    | split
    | with_reducible refine Keeps.of_mk ?_ rfl rfl rfl rfl rfl rfl rfl rfl)

theorem weigh_keeps {s0 s : State} (h : Keeps s0 s) (i : Nat) (blocked hold : Bool) :
    Keeps s0 (State.weigh s i blocked hold) := by
  unfold State.weigh
  try dsimp only
  repeat' (first
    | with_reducible assumption
    | with_reducible intro _
    | with_reducible apply wr_keeps
    | with_reducible apply setRef_keeps
    | split
    | with_reducible refine Keeps.of_mk ?_ rfl rfl rfl rfl rfl rfl rfl rfl)

theorem voteOn_keeps {s0 s : State} (h : Keeps s0 s) (g : Nat) :
    Keeps s0 (State.voteOn s g) := by
  unfold State.voteOn
  try dsimp only
  repeat' (first
    | with_reducible assumption
    | with_reducible intro _
    | with_reducible apply voteGroup_keeps
    | with_reducible refine voteGroup_keeps_of ?_ (by with_reducible assumption)
    | with_reducible apply setRef_keeps
    | with_reducible apply showRef_keeps
    | with_reducible apply weigh_keeps
    | with_reducible apply wr_keeps
    | with_reducible apply showGroup_keeps
    | with_reducible refine Keeps.foldl ?_ ?_ _
    | split
    | with_reducible refine Keeps.of_mk ?_ rfl rfl rfl rfl rfl rfl rfl rfl)

theorem sendWeights_keeps {s0 s : State} (h : Keeps s0 s)  :
    Keeps s0 (State.sendWeights s) := by
  unfold State.sendWeights
  try dsimp only
  repeat' (first
    | with_reducible assumption
    | with_reducible intro _
    | split
    | with_reducible refine Keeps.of_mk ?_ rfl rfl rfl rfl rfl rfl rfl rfl)

theorem execReferenceVote_keeps {s : State}  :
    ∃ t', execReferenceVote s = .next t' ∧ Keeps s t' := by
  unfold execReferenceVote
  refine act_keeps fun s h => ?_
  try dsimp only
  repeat' (first
    | with_reducible assumption
    | with_reducible intro _
    | with_reducible apply testSamples_keeps
    | with_reducible apply voteOn_keeps
    | with_reducible apply sendWeights_keeps
    | split
    | with_reducible refine Keeps.of_mk ?_ rfl rfl rfl rfl rfl rfl rfl rfl)

theorem execWeightsDeadline_keeps {s : State}  :
    ∃ t', execWeightsDeadline s = .next t' ∧ Keeps s t' := by
  unfold execWeightsDeadline
  refine act_keeps fun s h => ?_
  try dsimp only
  repeat' (first
    | with_reducible assumption
    | with_reducible intro _
    | split
    | with_reducible refine Keeps.of_mk ?_ rfl rfl rfl rfl rfl rfl rfl rfl)

theorem execSplitConfirm_keeps {s : State} (g : VGroup) :
    ∃ t', execSplitConfirm g s = .next t' ∧ Keeps s t' := by
  unfold execSplitConfirm
  refine act_keeps fun s h => ?_
  try dsimp only
  repeat' (first
    | with_reducible assumption
    | with_reducible intro _
    | with_reducible apply enterSplit_keeps
    | with_reducible apply showRef_keeps
    | with_reducible apply showGroup_keeps
    | with_reducible refine Keeps.foldl ?_ ?_ _
    | split
    | with_reducible refine Keeps.of_mk ?_ rfl rfl rfl rfl rfl rfl rfl rfl)

theorem splitTimedOut_keeps {s0 s : State} (h : Keeps s0 s) (n : Nat) :
    Keeps s0 (State.splitTimedOut s n) := by
  unfold State.splitTimedOut
  try dsimp only
  repeat' (first
    | with_reducible assumption
    | with_reducible intro _
    | with_reducible apply setGroup_keeps
    | with_reducible apply emitSplit_keeps
    | with_reducible apply showGroup_keeps
    | split
    | with_reducible refine Keeps.of_mk ?_ rfl rfl rfl rfl rfl rfl rfl rfl)

theorem execProbationEnd_keeps {s : State} (r : Fin 12) :
    ∃ t', execProbationEnd r s = .next t' ∧ Keeps s t' := by
  unfold execProbationEnd
  refine act_keeps fun s h => ?_
  try dsimp only
  repeat' (first
    | with_reducible assumption
    | with_reducible intro _
    | with_reducible apply setRef_keeps
    | with_reducible apply showRef_keeps
    | with_reducible apply command_keeps
    | split
    | with_reducible refine Keeps.of_mk ?_ rfl rfl rfl rfl rfl rfl rfl rfl)

theorem voteRequest_keeps {s0 s : State} (h : Keeps s0 s) (h : Hdr) (exclude : Bool) (a b : Nat) :
    Keeps s0 (State.voteRequest s h exclude a b).1 := by
  unfold State.voteRequest
  try dsimp only
  repeat' (first
    | with_reducible assumption
    | with_reducible intro _
    | split
    | with_reducible refine Keeps.of_mk ?_ rfl rfl rfl rfl rfl rfl rfl rfl)

theorem execCmdVoteSelect_keeps {s : State} (h : Hdr) (group ref : Byte) :
    ∃ t', execCmdVoteSelect h group ref s = .next t' ∧ Keeps s t' := by
  unfold execCmdVoteSelect
  refine act_keeps fun s h => ?_
  try dsimp only
  repeat' (first
    | with_reducible assumption
    | with_reducible intro _
    | with_reducible apply command_keeps
    | with_reducible apply voteRequest_keeps
    | split
    | with_reducible refine Keeps.of_mk ?_ rfl rfl rfl rfl rfl rfl rfl rfl)

theorem execCmdVoteExclude_keeps {s : State} (h : Hdr) (ref excl : Byte) :
    ∃ t', execCmdVoteExclude h ref excl s = .next t' ∧ Keeps s t' := by
  unfold execCmdVoteExclude
  refine act_keeps fun s h => ?_
  try dsimp only
  repeat' (first
    | with_reducible assumption
    | with_reducible intro _
    | with_reducible apply command_keeps
    | with_reducible apply voteRequest_keeps
    | split
    | with_reducible refine Keeps.of_mk ?_ rfl rfl rfl rfl rfl rfl rfl rfl)

theorem voteSelect_keeps {s0 s : State} (h : Keeps s0 s) (g r : Nat) :
    Keeps s0 (State.voteSelect s g r) := by
  unfold State.voteSelect
  try dsimp only
  repeat' (first
    | with_reducible assumption
    | with_reducible intro _
    | with_reducible apply setRef_keeps
    | with_reducible apply setGroup_keeps
    | with_reducible apply emitSplit_keeps
    | with_reducible refine Keeps.foldl ?_ ?_ _
    | split
    | with_reducible refine Keeps.of_mk ?_ rfl rfl rfl rfl rfl rfl rfl rfl)

theorem voteUnselect_keeps {s0 s : State} (h : Keeps s0 s) (g : Nat) :
    Keeps s0 (State.voteUnselect s g) := by
  unfold State.voteUnselect
  try dsimp only
  repeat' (first
    | with_reducible assumption
    | with_reducible intro _
    | with_reducible apply setRef_keeps
    | with_reducible apply setGroup_keeps
    | with_reducible apply command_keeps
    | with_reducible refine Keeps.foldl ?_ ?_ _
    | split
    | with_reducible refine Keeps.of_mk ?_ rfl rfl rfl rfl rfl rfl rfl rfl)

theorem voteCommand_keeps {s0 s : State} (h : Keeps s0 s) (q : VoteReq) :
    Keeps s0 (State.voteCommand s q) := by
  unfold State.voteCommand
  try dsimp only
  repeat' (first
    | with_reducible assumption
    | with_reducible intro _
    | with_reducible apply respond_keeps
    | with_reducible apply setRef_keeps
    | with_reducible apply emit_keeps
    | with_reducible apply voteUnselect_keeps
    | with_reducible apply voteSelect_keeps
    | split
    | with_reducible refine Keeps.of_mk ?_ rfl rfl rfl rfl rfl rfl rfl rfl)

theorem voteFrame_keeps {s0 s : State} (h : Keeps s0 s)  :
    Keeps s0 (State.voteFrame s) := by
  unfold State.voteFrame
  try dsimp only
  repeat' (first
    | with_reducible assumption
    | with_reducible intro _
    | with_reducible apply voteCommand_keeps
    | with_reducible apply wrFlag_keeps
    | with_reducible refine Keeps.foldl ?_ ?_ _
    | split
    | with_reducible refine Keeps.of_mk ?_ rfl rfl rfl rfl rfl rfl rfl rfl)

theorem voteTurn_keeps {s0 s : State} (h : Keeps s0 s) (old : Folio) :
    Keeps s0 (State.voteTurn s old) := by
  unfold State.voteTurn
  try dsimp only
  repeat' (first
    | with_reducible assumption
    | with_reducible intro _
    | with_reducible apply place_keeps
    | with_reducible apply setRef_keeps
    | with_reducible refine Keeps.foldl ?_ ?_ _
    | with_reducible exact source_allowed _
    | decide
    | split
    | with_reducible refine Keeps.of_mk ?_ rfl rfl rfl rfl rfl rfl rfl rfl)

end Sys2Proof.Machine
end

