-- ==== Sys2Proof/Laws/KeepsCollator.lean ====
section
/-! SUPPORT. What the functions of Machine/Collator.lean keep. -/

namespace Sys2Proof.Machine

theorem noteDiscards_keeps {s0 s : State} (h : Keeps s0 s) (reason n : Nat) :
    Keeps s0 (State.noteDiscards s reason n) := by
  unfold State.noteDiscards
  try dsimp only
  repeat' (first
    | with_reducible assumption
    | with_reducible intro _
    | with_reducible apply add_keeps
    | split
    | with_reducible refine Keeps.of_mk ?_ rfl rfl rfl rfl rfl rfl rfl rfl)

theorem tellDiscards_keeps {s0 s : State} (h : Keeps s0 s)  :
    Keeps s0 (State.tellDiscards s) := by
  unfold State.tellDiscards
  try dsimp only
  repeat' (first
    | with_reducible assumption
    | with_reducible intro _
    | with_reducible apply emit_keeps
    | split
    | with_reducible refine Keeps.of_mk ?_ rfl rfl rfl rfl rfl rfl rfl rfl)

theorem markEntries_keeps {s0 s : State} (h : Keeps s0 s) (w : CloseWork) :
    Keeps s0 (State.markEntries s w) := by
  unfold State.markEntries
  try dsimp only
  repeat' (first
    | with_reducible assumption
    | with_reducible intro _
    | split
    | with_reducible refine Keeps.of_mk ?_ rfl rfl rfl rfl rfl rfl rfl rfl)

theorem discardLate_keeps {s0 s : State} (h : Keeps s0 s) (w : CloseWork) :
    Keeps s0 (State.discardLate s w) := by
  unfold State.discardLate
  try dsimp only
  repeat' (first
    | with_reducible assumption
    | with_reducible intro _
    | with_reducible apply noteDiscards_keeps
    | with_reducible refine Keeps.foldl ?_ ?_ _
    | split
    | with_reducible refine Keeps.of_mk ?_ rfl rfl rfl rfl rfl rfl rfl rfl)

theorem startOffload_keeps {s0 s : State} (h : Keeps s0 s)  :
    Keeps s0 (State.startOffload s) := by
  unfold State.startOffload
  try dsimp only
  repeat' (first
    | with_reducible assumption
    | with_reducible intro _
    | with_reducible apply wr_keeps
    | with_reducible refine Keeps.foldl ?_ ?_ _
    | split
    | with_reducible refine Keeps.of_mk ?_ rfl rfl rfl rfl rfl rfl rfl rfl)

theorem endOffload_keeps {s0 s : State} (h : Keeps s0 s) (end_ : Offload) :
    Keeps s0 (State.endOffload s end_) := by
  unfold State.endOffload
  try dsimp only
  repeat' (first
    | with_reducible assumption
    | with_reducible intro _
    | with_reducible apply wr_keeps
    | with_reducible refine Keeps.foldl ?_ ?_ _
    | split
    | with_reducible refine Keeps.of_mk ?_ rfl rfl rfl rfl rfl rfl rfl rfl)

theorem takeGathering_keeps {s0 s : State} (h : Keeps s0 s) (w : CloseWork) :
    Keeps s0 (State.takeGathering s w) := by
  unfold State.takeGathering
  try dsimp only
  repeat' (first
    | with_reducible assumption
    | with_reducible intro _
    | with_reducible refine Keeps.foldl ?_ ?_ _
    | split
    | with_reducible refine Keeps.of_mk ?_ rfl rfl rfl rfl rfl rfl rfl rfl)

theorem execGatheringClose_keeps {s : State}  :
    ∃ t', execGatheringClose s = .next t' ∧ Keeps s t' := by
  unfold execGatheringClose
  refine act_keeps fun s h => ?_
  try dsimp only
  repeat' (first
    | with_reducible assumption
    | with_reducible intro _
    | with_reducible apply discardLate_keeps
    | with_reducible apply takeGathering_keeps
    | with_reducible apply markEntries_keeps
    | with_reducible apply startOffload_keeps
    | split
    | with_reducible refine Keeps.of_mk ?_ rfl rfl rfl rfl rfl rfl rfl rfl)

theorem countConsistency_keeps {s0 s : State} (h : Keeps s0 s) (p : Pass) (n : Nat) :
    Keeps s0 (State.countConsistency s p n) := by
  unfold State.countConsistency
  try dsimp only
  repeat' (first
    | with_reducible assumption
    | with_reducible intro _
    | split
    | with_reducible refine Keeps.of_mk ?_ rfl rfl rfl rfl rfl rfl rfl rfl)

theorem execRxConsistencyCount_keeps {s : State} (rx : Fin 3) :
    ∃ t', execRxConsistencyCount rx s = .next t' ∧ Keeps s t' := by
  unfold execRxConsistencyCount
  refine act_keeps fun s h => ?_
  try dsimp only
  repeat' (first
    | with_reducible assumption
    | with_reducible intro _
    | with_reducible apply wr_keeps
    | with_reducible apply emit_keeps
    | split
    | with_reducible refine Keeps.of_mk ?_ rfl rfl rfl rfl rfl rfl rfl rfl)

theorem showDn_keeps {s0 s : State} (h : Keeps s0 s)  :
    Keeps s0 (State.showDn s) := by
  unfold State.showDn
  try dsimp only
  repeat' (first
    | with_reducible assumption
    | with_reducible intro _
    | with_reducible apply wr_keeps
    | with_reducible apply emit_keeps
    | split
    | with_reducible refine Keeps.of_mk ?_ rfl rfl rfl rfl rfl rfl rfl rfl)

theorem setWeight_keeps {s0 s : State} (h : Keeps s0 s) (g : Nat) :
    Keeps s0 (State.setWeight s g) := by
  unfold State.setWeight
  try dsimp only
  repeat' (first
    | with_reducible assumption
    | with_reducible intro _
    | with_reducible apply wr_keeps
    | split
    | with_reducible refine Keeps.of_mk ?_ rfl rfl rfl rfl rfl rfl rfl rfl)

theorem moveWeight_keeps {s0 s : State} (h : Keeps s0 s) (entered : Bool) :
    Keeps s0 (State.moveWeight s entered) := by
  unfold State.moveWeight
  try dsimp only
  repeat' (first
    | with_reducible assumption
    | with_reducible intro _
    | with_reducible apply setWeight_keeps
    | split
    | with_reducible refine Keeps.of_mk ?_ rfl rfl rfl rfl rfl rfl rfl rfl)

theorem dnReset_keeps {s0 s : State} (h : Keeps s0 s)  :
    Keeps s0 (State.dnReset s) := by
  unfold State.dnReset
  try dsimp only
  repeat' (first
    | with_reducible assumption
    | with_reducible intro _
    | split
    | with_reducible refine Keeps.of_mk ?_ rfl rfl rfl rfl rfl rfl rfl rfl)

theorem filterAxes_keeps {s0 s : State} (h : Keeps s0 s)  :
    Keeps s0 (State.filterAxes s) := by
  unfold State.filterAxes
  try dsimp only
  repeat' (first
    | with_reducible assumption
    | with_reducible intro _
    | split
    | with_reducible refine Keeps.of_mk ?_ rfl rfl rfl rfl rfl rfl rfl rfl)

theorem judgeEnvelope_keeps {s0 s : State} (h : Keeps s0 s)  :
    Keeps s0 (State.judgeEnvelope s) := by
  unfold State.judgeEnvelope
  try dsimp only
  repeat' (first
    | with_reducible assumption
    | with_reducible intro _
    | with_reducible apply freeNat_keeps
    | with_reducible refine freeNat_keeps_of ?_ (by with_reducible assumption)
    | with_reducible apply wr_keeps
    | with_reducible apply wrFlag_keeps
    | split
    | with_reducible refine Keeps.of_mk ?_ rfl rfl rfl rfl rfl rfl rfl rfl)

theorem dnCount_keeps {s0 s : State} (h : Keeps s0 s)  :
    Keeps s0 (State.dnCount s) := by
  unfold State.dnCount
  try dsimp only
  repeat' (first
    | with_reducible assumption
    | with_reducible intro _
    | split
    | with_reducible refine Keeps.of_mk ?_ rfl rfl rfl rfl rfl rfl rfl rfl)

theorem dnFrame_keeps {s0 s : State} (h : Keeps s0 s)  :
    Keeps s0 (State.dnFrame s) := by
  unfold State.dnFrame
  try dsimp only
  repeat' (first
    | with_reducible assumption
    | with_reducible intro _
    | with_reducible apply dnReset_keeps
    | with_reducible apply filterAxes_keeps
    | with_reducible apply judgeEnvelope_keeps
    | with_reducible apply showDn_keeps
    | with_reducible apply moveWeight_keeps
    | split
    | with_reducible refine Keeps.of_mk ?_ rfl rfl rfl rfl rfl rfl rfl rfl)

theorem execDnWarmupEnd_keeps {s : State}  :
    ∃ t', execDnWarmupEnd s = .next t' ∧ Keeps s t' := by
  unfold execDnWarmupEnd
  refine act_keeps fun s h => ?_
  try dsimp only
  repeat' (first
    | with_reducible assumption
    | with_reducible intro _
    | with_reducible apply showDn_keeps
    | split
    | with_reducible refine Keeps.of_mk ?_ rfl rfl rfl rfl rfl rfl rfl rfl)

theorem execEnvReentry_keeps {s : State}  :
    ∃ t', execEnvReentry s = .next t' ∧ Keeps s t' := by
  unfold execEnvReentry
  refine act_keeps fun s h => ?_
  try dsimp only
  repeat' (first
    | with_reducible assumption
    | with_reducible intro _
    | with_reducible apply showDn_keeps
    | split
    | with_reducible refine Keeps.of_mk ?_ rfl rfl rfl rfl rfl rfl rfl rfl)

theorem stepNetwork_keeps {s0 s : State} (h : Keeps s0 s)  :
    Keeps s0 (State.stepNetwork s) := by
  unfold State.stepNetwork
  try dsimp only
  repeat' (first
    | with_reducible assumption
    | with_reducible intro _
    | with_reducible apply dnReset_keeps
    | with_reducible apply showDn_keeps
    | with_reducible apply setWeight_keeps
    | split
    | with_reducible refine Keeps.of_mk ?_ rfl rfl rfl rfl rfl rfl rfl rfl)

theorem tellBroken_keeps {s0 s : State} (h : Keeps s0 s) (frames : List Nat) :
    Keeps s0 (State.tellBroken s frames) := by
  unfold State.tellBroken
  try dsimp only
  repeat' (first
    | with_reducible assumption
    | with_reducible intro _
    | with_reducible apply emit_keeps
    | with_reducible refine Keeps.foldl ?_ ?_ _
    | split
    | with_reducible refine Keeps.of_mk ?_ rfl rfl rfl rfl rfl rfl rfl rfl)

theorem takePass_keeps {s0 s : State} (h : Keeps s0 s) (p : Pass) (again : Rerun) (kept : FrameKept) (revised : Bool) :
    Keeps s0 (State.takePass s p again kept revised) := by
  unfold State.takePass
  try dsimp only
  repeat' (first
    | with_reducible assumption
    | with_reducible intro _
    | with_reducible apply tellBroken_keeps
    | split
    | with_reducible refine Keeps.of_mk ?_ rfl rfl rfl rfl rfl rfl rfl rfl)

theorem endLate_keeps {s0 s : State} (h : Keeps s0 s) (w : CloseWork) (applied : Bool) :
    Keeps s0 (State.endLate s w applied) := by
  unfold State.endLate
  try dsimp only
  repeat' (first
    | with_reducible assumption
    | with_reducible intro _
    | with_reducible apply add_keeps
    | with_reducible apply noteDiscards_keeps
    | split
    | with_reducible refine Keeps.of_mk ?_ rfl rfl rfl rfl rfl rfl rfl rfl)

theorem fuse_keeps {s0 s : State} (h : Keeps s0 s)  :
    Keeps s0 (State.fuse s) := by
  unfold State.fuse
  try dsimp only
  repeat' (first
    | with_reducible assumption
    | with_reducible intro _
    | with_reducible apply takePass_keeps
    | with_reducible apply noteHeave_keeps
    | with_reducible apply countConsistency_keeps
    | with_reducible apply endLate_keeps
    | with_reducible apply tellDiscards_keeps
    | with_reducible refine Keeps.foldl ?_ ?_ _
    | split
    | with_reducible refine Keeps.of_mk ?_ rfl rfl rfl rfl rfl rfl rfl rfl)

theorem publishEstimate_keeps {s0 s : State} (h : Keeps s0 s) (corrupt : Bool) :
    Keeps s0 (State.publishEstimate s corrupt) := by
  unfold State.publishEstimate
  try dsimp only
  repeat' (first
    | with_reducible assumption
    | with_reducible intro _
    | with_reducible apply fuse_keeps
    | with_reducible apply stepNetwork_keeps
    | with_reducible apply record_keeps
    | with_reducible apply wr_keeps
    | split
    | with_reducible refine Keeps.of_mk ?_ rfl rfl rfl rfl rfl rfl rfl rfl)

theorem adaptThrust_keeps {s0 s : State} (h : Keeps s0 s)  :
    Keeps s0 (State.adaptThrust s) := by
  unfold State.adaptThrust
  try dsimp only
  repeat' (first
    | with_reducible assumption
    | with_reducible intro _
    | with_reducible apply wr_keeps
    | with_reducible refine Keeps.foldl ?_ ?_ _
    | split
    | with_reducible refine Keeps.of_mk ?_ rfl rfl rfl rfl rfl rfl rfl rfl)

theorem switchImu_keeps {s0 s : State} (h : Keeps s0 s)  :
    Keeps s0 (State.switchImu s) := by
  unfold State.switchImu
  try dsimp only
  repeat' (first
    | with_reducible assumption
    | with_reducible intro _
    | with_reducible apply wr_keeps
    | with_reducible apply wrFlag_keeps
    | with_reducible apply emit_keeps
    | split
    | with_reducible refine Keeps.of_mk ?_ rfl rfl rfl rfl rfl rfl rfl rfl)

theorem setBarrier_keeps {s0 s : State} (h : Keeps s0 s) (kind : Barrier) (at_ : Nat) :
    Keeps s0 (State.setBarrier s kind at_) := by
  unfold State.setBarrier
  try dsimp only
  repeat' (first
    | with_reducible assumption
    | with_reducible intro _
    | split
    | with_reducible refine Keeps.of_mk ?_ rfl rfl rfl rfl rfl rfl rfl rfl)

theorem collFrame_keeps {s0 s : State} (h : Keeps s0 s)  :
    Keeps s0 (State.collFrame s) := by
  unfold State.collFrame
  try dsimp only
  repeat' (first
    | with_reducible assumption
    | with_reducible intro _
    | with_reducible apply switchImu_keeps
    | with_reducible apply dnFrame_keeps
    | split
    | with_reducible refine Keeps.of_mk ?_ rfl rfl rfl rfl rfl rfl rfl rfl)

theorem collCold_keeps {s0 s : State} (h : Keeps s0 s)  :
    Keeps s0 (State.collCold s) := by
  unfold State.collCold
  try dsimp only
  repeat' (first
    | with_reducible assumption
    | with_reducible intro _
    | with_reducible apply dnReset_keeps
    | with_reducible apply setBarrier_keeps
    | split
    | with_reducible refine Keeps.of_mk ?_ rfl rfl rfl rfl rfl rfl rfl rfl)

end Sys2Proof.Machine
end

