-- ==== Sys2Proof/Laws/KeepsOperands.lean ====
section
/-! SUPPORT. What the functions of Machine/Operands.lean keep. -/

namespace Sys2Proof.Machine

theorem noteVerdicts_keeps {s0 s : State} (h : Keeps s0 s) (duty partner : Bool) :
    Keeps s0 (State.noteVerdicts s duty partner) := by
  unfold State.noteVerdicts
  try dsimp only
  repeat' (first
    | with_reducible assumption
    | with_reducible intro _
    | split
    | with_reducible refine Keeps.of_mk ?_ rfl rfl rfl rfl rfl rfl rfl rfl)

theorem freeNat_keeps {s0 s : State} (h : Keeps s0 s)  :
    Keeps s0 (State.freeNat s).2 := by
  unfold State.freeNat
  try dsimp only
  repeat' (first
    | with_reducible assumption
    | with_reducible intro _
    | split
    | with_reducible refine Keeps.of_mk ?_ rfl rfl rfl rfl rfl rfl rfl rfl)

theorem freeNat_keeps_of {s0 s a : State} {rb : Nat} (h : Keeps s0 s)  (e : (State.freeNat s) = (rb, a)) : Keeps s0 a := by
  have k := freeNat_keeps h 
  rw [e] at k
  exact k

end Sys2Proof.Machine
end

