-- ==== Sys2Proof/Laws/KeepsFlags.lean ====
section
/-! SUPPORT. What the functions of Machine/Flags.lean keep. -/

namespace Sys2Proof.Machine

theorem solveBit_keeps {s0 s : State} (h : Keeps s0 s) (b : Nat) :
    Keeps s0 (State.solveBit s b) := by
  unfold State.solveBit
  try dsimp only
  repeat' (first
    | with_reducible assumption
    | with_reducible intro _
    | split
    | with_reducible refine Keeps.of_mk ?_ rfl rfl rfl rfl rfl rfl rfl rfl)

end Sys2Proof.Machine
end

