-- ==== Sys2Proof/Laws/KeepsSolver.lean ====
section
/-! SUPPORT. What the functions of Machine/Solver.lean keep. -/

namespace Sys2Proof.Machine

theorem powerUnit_keeps {s0 s : State} (h : Keeps s0 s) (u : Nat) (on : Bool) :
    Keeps s0 (State.powerUnit s u on) := by
  unfold State.powerUnit
  try dsimp only
  repeat' (first
    | with_reducible assumption
    | with_reducible intro _
    | with_reducible apply wr_keeps
    | split
    | with_reducible refine Keeps.of_mk ?_ rfl rfl rfl rfl rfl rfl rfl rfl)

theorem powerUnits_keeps {s0 s : State} (h : Keeps s0 s)  :
    Keeps s0 (State.powerUnits s) := by
  unfold State.powerUnits
  try dsimp only
  repeat' (first
    | with_reducible assumption
    | with_reducible intro _
    | with_reducible apply powerUnit_keeps
    | with_reducible refine Keeps.foldl ?_ ?_ _
    | split
    | with_reducible refine Keeps.of_mk ?_ rfl rfl rfl rfl rfl rfl rfl rfl)

theorem startJob_keeps {s0 s : State} (h : Keeps s0 s) (at_ u : Nat) :
    Keeps s0 (State.startJob s at_ u) := by
  unfold State.startJob
  try dsimp only
  repeat' (first
    | with_reducible assumption
    | with_reducible intro _
    | with_reducible apply wr_keeps
    | split
    | with_reducible refine Keeps.of_mk ?_ rfl rfl rfl rfl rfl rfl rfl rfl)

theorem endUnit_keeps {s0 s : State} (h : Keeps s0 s) (u : Nat) :
    Keeps s0 (State.endUnit s u) := by
  unfold State.endUnit
  try dsimp only
  repeat' (first
    | with_reducible assumption
    | with_reducible intro _
    | with_reducible apply wr_keeps
    | split
    | with_reducible refine Keeps.of_mk ?_ rfl rfl rfl rfl rfl rfl rfl rfl)

theorem makeReady_keeps {s0 s : State} (h : Keeps s0 s) (u : Nat) :
    Keeps s0 (State.makeReady s u) := by
  unfold State.makeReady
  try dsimp only
  repeat' (first
    | with_reducible assumption
    | with_reducible intro _
    | with_reducible apply wr_keeps
    | with_reducible apply startJob_keeps
    | split
    | with_reducible refine Keeps.of_mk ?_ rfl rfl rfl rfl rfl rfl rfl rfl)

theorem execUnitReady_keeps {s : State} (u : Fin 4) :
    ∃ t', execUnitReady u s = .next t' ∧ Keeps s t' := by
  unfold execUnitReady
  refine act_keeps fun s h => ?_
  try dsimp only
  repeat' (first
    | with_reducible assumption
    | with_reducible intro _
    | with_reducible apply makeReady_keeps
    | split
    | with_reducible refine Keeps.of_mk ?_ rfl rfl rfl rfl rfl rfl rfl rfl)

theorem readyUnits_keeps {s0 s : State} (h : Keeps s0 s)  :
    Keeps s0 (State.readyUnits s) := by
  unfold State.readyUnits
  try dsimp only
  repeat' (first
    | with_reducible assumption
    | with_reducible intro _
    | with_reducible apply makeReady_keeps
    | with_reducible refine Keeps.foldl ?_ ?_ _
    | split
    | with_reducible refine Keeps.of_mk ?_ rfl rfl rfl rfl rfl rfl rfl rfl)

theorem issue_keeps {s0 s : State} (h : Keeps s0 s) (job : JobNext) (atUs : Nat) :
    Keeps s0 (State.issue s job atUs) := by
  unfold State.issue
  try dsimp only
  repeat' (first
    | with_reducible assumption
    | with_reducible intro _
    | with_reducible apply startJob_keeps
    | with_reducible refine Keeps.foldl ?_ ?_ _
    | split
    | with_reducible refine Keeps.of_mk ?_ rfl rfl rfl rfl rfl rfl rfl rfl)

theorem clearJobs_keeps {s0 s : State} (h : Keeps s0 s)  :
    Keeps s0 (State.clearJobs s) := by
  unfold State.clearJobs
  try dsimp only
  repeat' (first
    | with_reducible assumption
    | with_reducible intro _
    | with_reducible apply endUnit_keeps
    | with_reducible refine Keeps.foldl ?_ ?_ _
    | split
    | with_reducible refine Keeps.of_mk ?_ rfl rfl rfl rfl rfl rfl rfl rfl)

theorem solveEnd_keeps {s0 s : State} (h : Keeps s0 s) (atUs : Nat) :
    Keeps s0 (State.solveEnd s atUs) := by
  unfold State.solveEnd
  try dsimp only
  repeat' (first
    | with_reducible assumption
    | with_reducible intro _
    | with_reducible apply clearJobs_keeps
    | split
    | with_reducible refine Keeps.of_mk ?_ rfl rfl rfl rfl rfl rfl rfl rfl)

theorem solveStall_keeps {s0 s : State} (h : Keeps s0 s) (atUs : Nat) :
    Keeps s0 (State.solveStall s atUs) := by
  unfold State.solveStall
  try dsimp only
  repeat' (first
    | with_reducible assumption
    | with_reducible intro _
    | with_reducible apply solveBit_keeps
    | with_reducible apply solveEnd_keeps
    | split
    | with_reducible refine Keeps.of_mk ?_ rfl rfl rfl rfl rfl rfl rfl rfl)

theorem solveInfeasible_keeps {s0 s : State} (h : Keeps s0 s) (limits : List (Nat × F64)) (atUs : Nat) :
    Keeps s0 (State.solveInfeasible s limits atUs) := by
  unfold State.solveInfeasible
  try dsimp only
  repeat' (first
    | with_reducible assumption
    | with_reducible intro _
    | with_reducible apply solveBit_keeps
    | with_reducible apply solveEnd_keeps
    | split
    | with_reducible refine Keeps.of_mk ?_ rfl rfl rfl rfl rfl rfl rfl rfl)

theorem solveOptimal_keeps {s0 s : State} (h : Keeps s0 s) (atUs : Nat) :
    Keeps s0 (State.solveOptimal s atUs) := by
  unfold State.solveOptimal
  try dsimp only
  repeat' (first
    | with_reducible assumption
    | with_reducible intro _
    | with_reducible apply solveBit_keeps
    | with_reducible apply solveEnd_keeps
    | split
    | with_reducible refine Keeps.of_mk ?_ rfl rfl rfl rfl rfl rfl rfl rfl)

theorem fallBackOn_keeps {s0 s : State} (h : Keeps s0 s) (unit : Option Nat) (reason atUs : Nat) :
    Keeps s0 (State.fallBackOn s unit reason atUs) := by
  unfold State.fallBackOn
  try dsimp only
  repeat' (first
    | with_reducible assumption
    | with_reducible intro _
    | with_reducible apply clearJobs_keeps
    | with_reducible apply solveBit_keeps
    | with_reducible apply emit_keeps
    | with_reducible apply powerUnit_keeps
    | with_reducible apply issue_keeps
    | split
    | with_reducible refine Keeps.of_mk ?_ rfl rfl rfl rfl rfl rfl rfl rfl)

theorem fallBack_keeps {s0 s : State} (h : Keeps s0 s) (reason atUs : Nat) :
    Keeps s0 (State.fallBack s reason atUs) := by
  unfold State.fallBack
  try dsimp only
  repeat' (first
    | with_reducible assumption
    | with_reducible intro _
    | with_reducible apply fallBackOn_keeps
    | split
    | with_reducible refine Keeps.of_mk ?_ rfl rfl rfl rfl rfl rfl rfl rfl)

theorem lostUnit_keeps {s0 s : State} (h : Keeps s0 s) (u atUs : Nat) :
    Keeps s0 (State.lostUnit s u atUs) := by
  unfold State.lostUnit
  try dsimp only
  repeat' (first
    | with_reducible assumption
    | with_reducible intro _
    | with_reducible apply endOffload_keeps
    | with_reducible apply solveStall_keeps
    | with_reducible apply fallBackOn_keeps
    | split
    | with_reducible refine Keeps.of_mk ?_ rfl rfl rfl rfl rfl rfl rfl rfl)

theorem unitFault_keeps {s0 s : State} (h : Keeps s0 s) (u cause atUs : Nat) :
    Keeps s0 (State.unitFault s u cause atUs) := by
  unfold State.unitFault
  try dsimp only
  repeat' (first
    | with_reducible assumption
    | with_reducible intro _
    | with_reducible apply wr_keeps
    | with_reducible apply emit_keeps
    | with_reducible apply powerUnit_keeps
    | with_reducible apply lostUnit_keeps
    | split
    | with_reducible refine Keeps.of_mk ?_ rfl rfl rfl rfl rfl rfl rfl rfl)

theorem countRejection_keeps {s0 s : State} (h : Keeps s0 s) (u atUs : Nat) :
    Keeps s0 (State.countRejection s u atUs) := by
  unfold State.countRejection
  try dsimp only
  repeat' (first
    | with_reducible assumption
    | with_reducible intro _
    | with_reducible apply wr_keeps
    | with_reducible apply solveBit_keeps
    | with_reducible apply unitFault_keeps
    | with_reducible apply iterate_keeps
    | split
    | with_reducible refine Keeps.of_mk ?_ rfl rfl rfl rfl rfl rfl rfl rfl)

theorem iterate_keeps {s0 s : State} (h : Keeps s0 s) (x : Point) (unit atUs : Nat) :
    Keeps s0 (State.iterate s x unit atUs) := by
  unfold State.iterate
  try dsimp only
  repeat' (first
    | with_reducible assumption
    | with_reducible intro _
    | with_reducible apply solveOptimal_keeps
    | with_reducible apply solveInfeasible_keeps
    | with_reducible apply solveBit_keeps
    | with_reducible apply solveEnd_keeps
    | with_reducible apply issue_keeps
    | split
    | with_reducible refine Keeps.of_mk ?_ rfl rfl rfl rfl rfl rfl rfl rfl)

theorem chooseCandidate_keeps {s0 s : State} (h : Keeps s0 s) (c : Nat) :
    Keeps s0 (State.chooseCandidate s c) := by
  unfold State.chooseCandidate
  try dsimp only
  repeat' (first
    | with_reducible assumption
    | with_reducible intro _
    | with_reducible apply wr_keeps
    | split
    | with_reducible refine Keeps.of_mk ?_ rfl rfl rfl rfl rfl rfl rfl rfl)

theorem endBatch_keeps {s0 s : State} (h : Keeps s0 s) (unit atUs : Nat) :
    Keeps s0 (State.endBatch s unit atUs) := by
  unfold State.endBatch
  try dsimp only
  repeat' (first
    | with_reducible assumption
    | with_reducible intro _
    | with_reducible apply solveInfeasible_keeps
    | with_reducible apply chooseCandidate_keeps
    | with_reducible apply solveOptimal_keeps
    | with_reducible apply issue_keeps
    | split
    | with_reducible refine Keeps.of_mk ?_ rfl rfl rfl rfl rfl rfl rfl rfl)

theorem candidateBatch_keeps {s0 s : State} (h : Keeps s0 s) (fs : List Factor) (unit atUs : Nat) :
    Keeps s0 (State.candidateBatch s fs unit atUs) := by
  unfold State.candidateBatch
  try dsimp only
  repeat' (first
    | with_reducible assumption
    | with_reducible intro _
    | with_reducible apply endBatch_keeps
    | with_reducible apply issue_keeps
    | split
    | with_reducible refine Keeps.of_mk ?_ rfl rfl rfl rfl rfl rfl rfl rfl)

theorem candidatesAgain_keeps {s0 s : State} (h : Keeps s0 s) (cs : List Nat) (fs : List Factor) (unit atUs : Nat) :
    Keeps s0 (State.candidatesAgain s cs fs unit atUs) := by
  unfold State.candidatesAgain
  try dsimp only
  repeat' (first
    | with_reducible assumption
    | with_reducible intro _
    | with_reducible apply solveBit_keeps
    | with_reducible apply endBatch_keeps
    | with_reducible apply forward_keeps
    | with_reducible refine Keeps.foldl ?_ ?_ _
    | split
    | with_reducible refine Keeps.of_mk ?_ rfl rfl rfl rfl rfl rfl rfl rfl)

theorem stageDone_keeps {s0 s : State} (h : Keeps s0 s) (k : Nat) (f : Factor) (atUs : Nat) :
    Keeps s0 (State.stageDone s k f atUs) := by
  unfold State.stageDone
  try dsimp only
  repeat' (first
    | with_reducible assumption
    | with_reducible intro _
    | with_reducible apply issue_keeps
    | with_reducible apply forward_keeps
    | split
    | with_reducible refine Keeps.of_mk ?_ rfl rfl rfl rfl rfl rfl rfl rfl)

theorem stageReturned_keeps {s0 s : State} (h : Keeps s0 s) (k : Nat) (again : Bool) (f : Factor) (atUs : Nat) :
    Keeps s0 (State.stageReturned s k again f atUs) := by
  unfold State.stageReturned
  try dsimp only
  repeat' (first
    | with_reducible assumption
    | with_reducible intro _
    | with_reducible apply solveBit_keeps
    | with_reducible apply stageDone_keeps
    | with_reducible apply fallBack_keeps
    | with_reducible apply issue_keeps
    | split
    | with_reducible refine Keeps.of_mk ?_ rfl rfl rfl rfl rfl rfl rfl rfl)

theorem allocated_keeps {s0 s : State} (h : Keeps s0 s) (c : Nat) (x : Point) (unit atUs : Nat) :
    Keeps s0 (State.allocated s c x unit atUs) := by
  unfold State.allocated
  try dsimp only
  repeat' (first
    | with_reducible assumption
    | with_reducible intro _
    | with_reducible apply chooseCandidate_keeps
    | with_reducible apply issue_keeps
    | with_reducible apply solveOptimal_keeps
    | with_reducible apply solveInfeasible_keeps
    | split
    | with_reducible refine Keeps.of_mk ?_ rfl rfl rfl rfl rfl rfl rfl rfl)

theorem acceptJob_keeps {s0 s : State} (h : Keeps s0 s) (o : JobOutcome) (unit atUs : Nat) :
    Keeps s0 (State.acceptJob s o unit atUs) := by
  unfold State.acceptJob
  try dsimp only
  repeat' (first
    | with_reducible assumption
    | with_reducible intro _
    | with_reducible apply candidateBatch_keeps
    | with_reducible apply candidatesAgain_keeps
    | with_reducible apply issue_keeps
    | with_reducible apply stageReturned_keeps
    | with_reducible apply forward_keeps
    | with_reducible apply iterate_keeps
    | with_reducible apply solveStall_keeps
    | with_reducible apply allocated_keeps
    | split
    | with_reducible refine Keeps.of_mk ?_ rfl rfl rfl rfl rfl rfl rfl rfl)

theorem lostJob_keeps {s0 s : State} (h : Keeps s0 s) (overflow : Bool) (atUs : Nat) :
    Keeps s0 (State.lostJob s overflow atUs) := by
  unfold State.lostJob
  try dsimp only
  repeat' (first
    | with_reducible assumption
    | with_reducible intro _
    | with_reducible apply solveStall_keeps
    | with_reducible apply issue_keeps
    | with_reducible apply fallBack_keeps
    | split
    | with_reducible refine Keeps.of_mk ?_ rfl rfl rfl rfl rfl rfl rfl rfl)

theorem noteOverflow_keeps {s0 s : State} (h : Keeps s0 s) (u : Nat) (kind : Option Nat) (overflow nonfinite : Bool) :
    Keeps s0 (State.noteOverflow s u kind overflow nonfinite) := by
  unfold State.noteOverflow
  try dsimp only
  repeat' (first
    | with_reducible assumption
    | with_reducible intro _
    | with_reducible apply wrFlag_keeps
    | with_reducible apply solveBit_keeps
    | with_reducible apply inc_keeps
    | with_reducible apply emit_keeps
    | split
    | with_reducible refine Keeps.of_mk ?_ rfl rfl rfl rfl rfl rfl rfl rfl)

theorem holdResult_keeps {s0 s : State} (h : Keeps s0 s) (u : Nat) (o : JobOutcome) (ecc : Bool) :
    Keeps s0 (State.holdResult s u o ecc) := by
  unfold State.holdResult
  try dsimp only
  repeat' (first
    | with_reducible assumption
    | with_reducible intro _
    | with_reducible apply add_keeps
    | split
    | with_reducible refine Keeps.of_mk ?_ rfl rfl rfl rfl rfl rfl rfl rfl)

theorem solveJob_keeps {s0 s : State} (h : Keeps s0 s) (r : JobResult) :
    Keeps s0 (State.solveJob s r) := by
  unfold State.solveJob
  try dsimp only
  repeat' (first
    | with_reducible assumption
    | with_reducible intro _
    | with_reducible apply noteVerdicts_keeps
    | with_reducible apply countRejection_keeps
    | with_reducible apply lostJob_keeps
    | with_reducible apply noteOverflow_keeps
    | with_reducible apply holdResult_keeps
    | with_reducible apply solveStall_keeps
    | with_reducible apply acceptJob_keeps
    | split
    | with_reducible refine Keeps.of_mk ?_ rfl rfl rfl rfl rfl rfl rfl rfl)

theorem offloadJob_keeps {s0 s : State} (h : Keeps s0 s) (r : JobResult) :
    Keeps s0 (State.offloadJob s r) := by
  unfold State.offloadJob
  try dsimp only
  repeat' (first
    | with_reducible assumption
    | with_reducible intro _
    | with_reducible apply noteVerdicts_keeps
    | with_reducible apply countRejection_keeps
    | with_reducible apply endOffload_keeps
    | with_reducible apply noteOverflow_keeps
    | split
    | with_reducible refine Keeps.of_mk ?_ rfl rfl rfl rfl rfl rfl rfl rfl)

theorem takeJob_keeps {s0 s : State} (h : Keeps s0 s) (r : JobResult) :
    Keeps s0 (State.takeJob s r) := by
  unfold State.takeJob
  try dsimp only
  repeat' (first
    | with_reducible assumption
    | with_reducible intro _
    | with_reducible apply offloadJob_keeps
    | with_reducible apply solveJob_keeps
    | split
    | with_reducible refine Keeps.of_mk ?_ rfl rfl rfl rfl rfl rfl rfl rfl)

theorem execSolverJobComplete_keeps {s : State} (r : JobResult) :
    ∃ t', execSolverJobComplete r s = .next t' ∧ Keeps s t' := by
  unfold execSolverJobComplete
  refine act_keeps fun s h => ?_
  try dsimp only
  repeat' (first
    | with_reducible assumption
    | with_reducible intro _
    | with_reducible apply takeJob_keeps
    | split
    | with_reducible refine Keeps.of_mk ?_ rfl rfl rfl rfl rfl rfl rfl rfl)

theorem abortOffload_keeps {s0 s : State} (h : Keeps s0 s)  :
    Keeps s0 (State.abortOffload s) := by
  unfold State.abortOffload
  try dsimp only
  repeat' (first
    | with_reducible assumption
    | with_reducible intro _
    | with_reducible apply endOffload_keeps
    | split
    | with_reducible refine Keeps.of_mk ?_ rfl rfl rfl rfl rfl rfl rfl rfl)

theorem releaseHeld_keeps {s0 s : State} (h : Keeps s0 s)  :
    Keeps s0 (State.releaseHeld s) := by
  unfold State.releaseHeld
  try dsimp only
  repeat' (first
    | with_reducible assumption
    | with_reducible intro _
    | with_reducible apply takeJob_keeps
    | with_reducible refine Keeps.foldl ?_ ?_ _
    | split
    | with_reducible refine Keeps.of_mk ?_ rfl rfl rfl rfl rfl rfl rfl rfl)

theorem execSolverJobTimeout_keeps {s : State} (u : Fin 4) :
    ∃ t', execSolverJobTimeout u s = .next t' ∧ Keeps s t' := by
  unfold execSolverJobTimeout
  refine act_keeps fun s h => ?_
  try dsimp only
  repeat' (first
    | with_reducible assumption
    | with_reducible intro _
    | with_reducible apply unitFault_keeps
    | split
    | with_reducible refine Keeps.of_mk ?_ rfl rfl rfl rfl rfl rfl rfl rfl)

theorem execUnitTestJob_keeps {s : State} (u : Fin 4) (sigOk : Bool) :
    ∃ t', execUnitTestJob u sigOk s = .next t' ∧ Keeps s t' := by
  unfold execUnitTestJob
  refine act_keeps fun s h => ?_
  try dsimp only
  repeat' (first
    | with_reducible assumption
    | with_reducible intro _
    | with_reducible apply endUnit_keeps
    | with_reducible apply unitFault_keeps
    | with_reducible apply start_keeps
    | split
    | with_reducible refine Keeps.of_mk ?_ rfl rfl rfl rfl rfl rfl rfl rfl)

theorem startTests_keeps {s0 s : State} (h : Keeps s0 s)  :
    Keeps s0 (State.startTests s) := by
  unfold State.startTests
  try dsimp only
  repeat' (first
    | with_reducible assumption
    | with_reducible intro _
    | with_reducible apply startJob_keeps
    | with_reducible refine Keeps.foldl ?_ ?_ _
    | split
    | with_reducible refine Keeps.of_mk ?_ rfl rfl rfl rfl rfl rfl rfl rfl)

theorem abortJob_keeps {s0 s : State} (h : Keeps s0 s) (reached : Bool) :
    Keeps s0 (State.abortJob s reached) := by
  unfold State.abortJob
  try dsimp only
  repeat' (first
    | with_reducible assumption
    | with_reducible intro _
    | with_reducible apply noteOverflow_keeps
    | with_reducible apply solveBit_keeps
    | split
    | with_reducible refine Keeps.of_mk ?_ rfl rfl rfl rfl rfl rfl rfl rfl)

theorem cutSolve_keeps {s0 s : State} (h : Keeps s0 s) (inJob : Option Bool) :
    Keeps s0 (State.cutSolve s inJob) := by
  unfold State.cutSolve
  try dsimp only
  repeat' (first
    | with_reducible assumption
    | with_reducible intro _
    | with_reducible apply abortJob_keeps
    | with_reducible apply solveBit_keeps
    | with_reducible apply clearJobs_keeps
    | with_reducible apply start_keeps
    | split
    | with_reducible refine Keeps.of_mk ?_ rfl rfl rfl rfl rfl rfl rfl rfl)

theorem execSolveDeadline_keeps {s : State} (inJob : Option Bool) :
    ∃ t', execSolveDeadline inJob s = .next t' ∧ Keeps s t' := by
  unfold execSolveDeadline
  refine act_keeps fun s h => ?_
  try dsimp only
  repeat' (first
    | with_reducible assumption
    | with_reducible intro _
    | with_reducible apply cutSolve_keeps
    | with_reducible apply startTests_keeps
    | split
    | with_reducible refine Keeps.of_mk ?_ rfl rfl rfl rfl rfl rfl rfl rfl)

theorem freshSolve_keeps {s0 s : State} (h : Keeps s0 s) (p : Option Problem) (cold : Bool) (opens : List Nat) (sides : Nat) :
    Keeps s0 (State.freshSolve s p cold opens sides) := by
  unfold State.freshSolve
  try dsimp only
  repeat' (first
    | with_reducible assumption
    | with_reducible intro _
    | split
    | with_reducible refine Keeps.of_mk ?_ rfl rfl rfl rfl rfl rfl rfl rfl)

theorem startAllocation_keeps {s0 s : State} (h : Keeps s0 s)  :
    Keeps s0 (State.startAllocation s) := by
  unfold State.startAllocation
  try dsimp only
  repeat' (first
    | with_reducible assumption
    | with_reducible intro _
    | with_reducible apply fallBack_keeps
    | with_reducible apply solveBit_keeps
    | with_reducible apply issue_keeps
    | split
    | with_reducible refine Keeps.of_mk ?_ rfl rfl rfl rfl rfl rfl rfl rfl)

theorem openSolve_keeps {s0 s : State} (h : Keeps s0 s) (p : Option Problem) (cold : Bool) (opens : List Nat) (sides : Nat) :
    Keeps s0 (State.openSolve s p cold opens sides) := by
  unfold State.openSolve
  try dsimp only
  repeat' (first
    | with_reducible assumption
    | with_reducible intro _
    | with_reducible apply freshSolve_keeps
    | with_reducible apply wr_keeps
    | with_reducible apply startAllocation_keeps
    | with_reducible apply issue_keeps
    | split
    | with_reducible refine Keeps.of_mk ?_ rfl rfl rfl rfl rfl rfl rfl rfl)

theorem countBit_keeps {s0 s : State} (h : Keeps s0 s) (b : Nat) (f : Fld) :
    Keeps s0 (State.countBit s b f) := by
  unfold State.countBit
  try dsimp only
  repeat' (first
    | with_reducible assumption
    | with_reducible intro _
    | with_reducible apply inc_keeps
    | split
    | with_reducible refine Keeps.of_mk ?_ rfl rfl rfl rfl rfl rfl rfl rfl)

theorem solveNone_keeps {s0 s : State} (h : Keeps s0 s)  :
    Keeps s0 (State.solveNone s) := by
  unfold State.solveNone
  try dsimp only
  repeat' (first
    | with_reducible assumption
    | with_reducible intro _
    | with_reducible apply wr_keeps
    | split
    | with_reducible refine Keeps.of_mk ?_ rfl rfl rfl rfl rfl rfl rfl rfl)

theorem withdrawFinal_keeps {s0 s : State} (h : Keeps s0 s) (badDuty badPartner : Bool) :
    Keeps s0 (State.withdrawFinal s badDuty badPartner) := by
  unfold State.withdrawFinal
  try dsimp only
  repeat' (first
    | with_reducible assumption
    | with_reducible intro _
    | with_reducible apply noteVerdicts_keeps
    | with_reducible apply countRejection_keeps
    | with_reducible apply solveBit_keeps
    | split
    | with_reducible refine Keeps.of_mk ?_ rfl rfl rfl rfl rfl rfl rfl rfl)

theorem markStale_keeps {s0 s : State} (h : Keeps s0 s) (plan : Bool) :
    Keeps s0 (State.markStale s plan) := by
  unfold State.markStale
  try dsimp only
  repeat' (first
    | with_reducible assumption
    | with_reducible intro _
    | with_reducible apply solveBit_keeps
    | split
    | with_reducible refine Keeps.of_mk ?_ rfl rfl rfl rfl rfl rfl rfl rfl)

theorem countOutcome_keeps {s0 s : State} (h : Keeps s0 s)  :
    Keeps s0 (State.countOutcome s) := by
  unfold State.countOutcome
  try dsimp only
  repeat' (first
    | with_reducible assumption
    | with_reducible intro _
    | with_reducible apply countBit_keeps
    | split
    | with_reducible refine Keeps.of_mk ?_ rfl rfl rfl rfl rfl rfl rfl rfl)

theorem showSolve_keeps {s0 s : State} (h : Keeps s0 s) (plan : Bool) :
    Keeps s0 (State.showSolve s plan) := by
  unfold State.showSolve
  try dsimp only
  repeat' (first
    | with_reducible assumption
    | with_reducible intro _
    | with_reducible apply wr_keeps
    | with_reducible apply inc_keeps
    | split
    | with_reducible refine Keeps.of_mk ?_ rfl rfl rfl rfl rfl rfl rfl rfl)

theorem tellInfeasible_keeps {s0 s : State} (h : Keeps s0 s) (plan : Bool) :
    Keeps s0 (State.tellInfeasible s plan) := by
  unfold State.tellInfeasible
  try dsimp only
  repeat' (first
    | with_reducible assumption
    | with_reducible intro _
    | with_reducible apply wr_keeps
    | with_reducible apply emit_keeps
    | split
    | with_reducible refine Keeps.of_mk ?_ rfl rfl rfl rfl rfl rfl rfl rfl)

theorem closeSolve_keeps {s0 s : State} (h : Keeps s0 s) (plan : Bool) :
    Keeps s0 (State.closeSolve s plan) := by
  unfold State.closeSolve
  try dsimp only
  repeat' (first
    | with_reducible assumption
    | with_reducible intro _
    | with_reducible apply forward_keeps
    | split
    | with_reducible refine Keeps.of_mk ?_ rfl rfl rfl rfl rfl rfl rfl rfl)

theorem keepPlan_keeps {s0 s : State} (h : Keeps s0 s) (plan : Bool) :
    Keeps s0 (State.keepPlan s plan) := by
  unfold State.keepPlan
  try dsimp only
  repeat' (first
    | with_reducible assumption
    | with_reducible intro _
    | split
    | with_reducible refine Keeps.of_mk ?_ rfl rfl rfl rfl rfl rfl rfl rfl)

theorem solveOutcome_keeps {s0 s : State} (h : Keeps s0 s) (badDuty badPartner : Bool) :
    Keeps s0 (State.solveOutcome s badDuty badPartner) := by
  unfold State.solveOutcome
  try dsimp only
  repeat' (first
    | with_reducible assumption
    | with_reducible intro _
    | with_reducible apply solveNone_keeps
    | with_reducible apply withdrawFinal_keeps
    | with_reducible apply markStale_keeps
    | with_reducible apply countOutcome_keeps
    | with_reducible apply showSolve_keeps
    | with_reducible apply tellInfeasible_keeps
    | with_reducible apply closeSolve_keeps
    | with_reducible apply keepPlan_keeps
    | split
    | with_reducible refine Keeps.of_mk ?_ rfl rfl rfl rfl rfl rfl rfl rfl)

theorem execControlDegradedCount_keeps {s : State}  :
    ∃ t', execControlDegradedCount s = .next t' ∧ Keeps s t' := by
  unfold execControlDegradedCount
  refine act_keeps fun s h => ?_
  try dsimp only
  repeat' (first
    | with_reducible assumption
    | with_reducible intro _
    | with_reducible apply wr_keeps
    | with_reducible apply inc_keeps
    | with_reducible apply emit_keeps
    | split
    | with_reducible refine Keeps.of_mk ?_ rfl rfl rfl rfl rfl rfl rfl rfl)

theorem execCmdSolverStatsClear_keeps {s : State} (h : Hdr) :
    ∃ t', execCmdSolverStatsClear h s = .next t' ∧ Keeps s t' := by
  unfold execCmdSolverStatsClear
  refine act_keeps fun s h => ?_
  try dsimp only
  repeat' (first
    | with_reducible assumption
    | with_reducible intro _
    | with_reducible apply reply_keeps
    | with_reducible apply command_keeps
    | with_reducible apply clearStats_keeps
    | split
    | with_reducible refine Keeps.of_mk ?_ rfl rfl rfl rfl rfl rfl rfl rfl)

theorem clearStats_keeps {s0 s : State} (h : Keeps s0 s)  :
    Keeps s0 (State.clearStats s) := by
  unfold State.clearStats
  try dsimp only
  repeat' (first
    | with_reducible assumption
    | with_reducible intro _
    | with_reducible apply wr_keeps
    | with_reducible refine Keeps.foldl ?_ ?_ _
    | split
    | with_reducible refine Keeps.of_mk ?_ rfl rfl rfl rfl rfl rfl rfl rfl)

theorem solverFrame_keeps {s0 s : State} (h : Keeps s0 s)  :
    Keeps s0 (State.solverFrame s) := by
  unfold State.solverFrame
  try dsimp only
  repeat' (first
    | with_reducible assumption
    | with_reducible intro _
    | with_reducible apply clearStats_keeps
    | with_reducible apply wr_keeps
    | with_reducible apply powerUnits_keeps
    | with_reducible refine Keeps.foldl ?_ ?_ _
    | split
    | with_reducible refine Keeps.of_mk ?_ rfl rfl rfl rfl rfl rfl rfl rfl)

end Sys2Proof.Machine
end

