-- ==== Sys2Proof/Laws/KeepsControl.lean ====
section
/-! SUPPORT. What the functions of Machine/Control.lean keep. -/

namespace Sys2Proof.Machine

theorem setMode_keeps {s0 s : State} (h : Keeps s0 s) (new cause : Nat) :
    Keeps s0 (State.setMode s new cause) := by
  unfold State.setMode
  try dsimp only
  repeat' (first
    | with_reducible assumption
    | with_reducible intro _
    | with_reducible apply wr_keeps
    | with_reducible apply emit_keeps
    | split
    | with_reducible refine Keeps.of_mk ?_ rfl rfl rfl rfl rfl rfl rfl rfl)

theorem setSetpoint_keeps {s0 s : State} (h : Keeps s0 s) (lat lon : F64) (heading : F32) (cause : Nat) :
    Keeps s0 (State.setSetpoint s lat lon heading cause) := by
  unfold State.setSetpoint
  try dsimp only
  repeat' (first
    | with_reducible assumption
    | with_reducible intro _
    | with_reducible apply wr_keeps
    | with_reducible apply emit_keeps
    | split
    | with_reducible refine Keeps.of_mk ?_ rfl rfl rfl rfl rfl rfl rfl rfl)

theorem setOut_keeps {s0 s : State} (h : Keeps s0 s) (from_ : Ref) (ws : List (F64 × F64 × F32 × Option F32)) :
    Keeps s0 (State.setOut s from_ ws) := by
  unfold State.setOut
  try dsimp only
  repeat' (first
    | with_reducible assumption
    | with_reducible intro _
    | with_reducible apply wr_keeps
    | split
    | with_reducible refine Keeps.of_mk ?_ rfl rfl rfl rfl rfl rfl rfl rfl)

theorem settle_keeps {s0 s : State} (h : Keeps s0 s)  :
    Keeps s0 (State.settle s) := by
  unfold State.settle
  try dsimp only
  repeat' (first
    | with_reducible assumption
    | with_reducible intro _
    | with_reducible apply wr_keeps
    | split
    | with_reducible refine Keeps.of_mk ?_ rfl rfl rfl rfl rfl rfl rfl rfl)

theorem capture_keeps {s0 s : State} (h : Keeps s0 s) (cause : Nat) :
    Keeps s0 (State.capture s cause) := by
  unfold State.capture
  try dsimp only
  repeat' (first
    | with_reducible assumption
    | with_reducible intro _
    | with_reducible apply setSetpoint_keeps
    | split
    | with_reducible refine Keeps.of_mk ?_ rfl rfl rfl rfl rfl rfl rfl rfl)

theorem execSplitTimeout_keeps {s : State} (g : VGroup) :
    ∃ t', execSplitTimeout g s = .next t' ∧ Keeps s t' := by
  unfold execSplitTimeout
  refine act_keeps fun s h => ?_
  try dsimp only
  repeat' (first
    | with_reducible assumption
    | with_reducible intro _
    | with_reducible apply splitTimedOut_keeps
    | with_reducible apply setMode_keeps
    | split
    | with_reducible refine Keeps.of_mk ?_ rfl rfl rfl rfl rfl rfl rfl rfl)

theorem wakeForMode_keeps {s0 s : State} (h : Keeps s0 s) (m : Nat) :
    Keeps s0 (State.wakeForMode s m) := by
  unfold State.wakeForMode
  try dsimp only
  repeat' (first
    | with_reducible assumption
    | with_reducible intro _
    | split
    | with_reducible refine Keeps.of_mk ?_ rfl rfl rfl rfl rfl rfl rfl rfl)

theorem beginReference_keeps {s0 s : State} (h : Keeps s0 s) (new : Nat) (from_ : Ref) (sp : Option (F64 × F64 × F32)) :
    Keeps s0 (State.beginReference s new from_ sp) := by
  unfold State.beginReference
  try dsimp only
  repeat' (first
    | with_reducible assumption
    | with_reducible intro _
    | with_reducible apply setOut_keeps
    | with_reducible apply settle_keeps
    | split
    | with_reducible refine Keeps.of_mk ?_ rfl rfl rfl rfl rfl rfl rfl rfl)

theorem enterMode_keeps {s0 s : State} (h : Keeps s0 s) (m : Nat) (sp : Option (F64 × F64 × F32)) :
    Keeps s0 (State.enterMode s m sp) := by
  unfold State.enterMode
  try dsimp only
  repeat' (first
    | with_reducible assumption
    | with_reducible intro _
    | with_reducible apply setMode_keeps
    | with_reducible apply setSetpoint_keeps
    | with_reducible apply capture_keeps
    | with_reducible apply beginReference_keeps
    | split
    | with_reducible refine Keeps.of_mk ?_ rfl rfl rfl rfl rfl rfl rfl rfl)

theorem requestMode_keeps {s0 s : State} (h : Keeps s0 s) (m : Nat) (sp : Option (F64 × F64 × F32)) :
    Keeps s0 (State.requestMode s m sp).1 := by
  unfold State.requestMode
  try dsimp only
  repeat' (first
    | with_reducible assumption
    | with_reducible intro _
    | with_reducible apply emit_keeps
    | with_reducible apply enterMode_keeps
    | with_reducible apply wakeForMode_keeps
    | split
    | with_reducible refine Keeps.of_mk ?_ rfl rfl rfl rfl rfl rfl rfl rfl)

theorem requestMode_keeps_of {s0 s a : State} {rb : Bool} (h : Keeps s0 s) (m : Nat) (sp : Option (F64 × F64 × F32)) (e : (State.requestMode s m sp) = (a, rb)) : Keeps s0 a := by
  have k := requestMode_keeps h m sp
  rw [e] at k
  exact k

theorem newSetpoint_keeps {s0 s : State} (h : Keeps s0 s) (lat lon : F64) (heading : F32) :
    Keeps s0 (State.newSetpoint s lat lon heading) := by
  unfold State.newSetpoint
  try dsimp only
  repeat' (first
    | with_reducible assumption
    | with_reducible intro _
    | with_reducible apply setSetpoint_keeps
    | with_reducible apply setOut_keeps
    | split
    | with_reducible refine Keeps.of_mk ?_ rfl rfl rfl rfl rfl rfl rfl rfl)

theorem renewDemand_keeps {s0 s : State} (h : Keeps s0 s) (x y n : F32) :
    Keeps s0 (State.renewDemand s x y n) := by
  unfold State.renewDemand
  try dsimp only
  repeat' (first
    | with_reducible assumption
    | with_reducible intro _
    | with_reducible apply wr_keeps
    | with_reducible apply emit_keeps
    | split
    | with_reducible refine Keeps.of_mk ?_ rfl rfl rfl rfl rfl rfl rfl rfl)

theorem execJoystickTimeout_keeps {s : State}  :
    ∃ t', execJoystickTimeout s = .next t' ∧ Keeps s t' := by
  unfold execJoystickTimeout
  refine act_keeps fun s h => ?_
  try dsimp only
  repeat' (first
    | with_reducible assumption
    | with_reducible intro _
    | with_reducible apply wr_keeps
    | with_reducible apply emit_keeps
    | split
    | with_reducible refine Keeps.of_mk ?_ rfl rfl rfl rfl rfl rfl rfl rfl)

theorem hostRequest_keeps {s0 s : State} (h : Keeps s0 s) (r : CtlRequest) :
    Keeps s0 (State.hostRequest s r).1 := by
  unfold State.hostRequest
  try dsimp only
  repeat' (first
    | with_reducible assumption
    | with_reducible intro _
    | with_reducible apply requestMode_keeps
    | with_reducible refine requestMode_keeps_of ?_ (by with_reducible assumption)
    | with_reducible apply newSetpoint_keeps
    | with_reducible apply renewDemand_keeps
    | split
    | with_reducible refine Keeps.of_mk ?_ rfl rfl rfl rfl rfl rfl rfl rfl)

theorem hostRequest_keeps_of {s0 s a : State} {rb : Nat × Nat} (h : Keeps s0 s) (r : CtlRequest) (e : (State.hostRequest s r) = (a, rb)) : Keeps s0 a := by
  have k := hostRequest_keeps h r
  rw [e] at k
  exact k

theorem queueRequest_keeps {s0 s : State} (h : Keeps s0 s) (h : Hdr) (r : CtlRequest) :
    Keeps s0 (State.queueRequest s h r).1 := by
  unfold State.queueRequest
  try dsimp only
  repeat' (first
    | with_reducible assumption
    | with_reducible intro _
    | split
    | with_reducible refine Keeps.of_mk ?_ rfl rfl rfl rfl rfl rfl rfl rfl)

theorem execCmdCtlMode_keeps {s : State} (h : Hdr) (mode : Byte) :
    ∃ t', execCmdCtlMode h mode s = .next t' ∧ Keeps s t' := by
  unfold execCmdCtlMode
  refine act_keeps fun s h => ?_
  try dsimp only
  repeat' (first
    | with_reducible assumption
    | with_reducible intro _
    | with_reducible apply command_keeps
    | with_reducible apply queueRequest_keeps
    | split
    | with_reducible refine Keeps.of_mk ?_ rfl rfl rfl rfl rfl rfl rfl rfl)

theorem execCmdCtlSetpoint_keeps {s : State} (h : Hdr) (lat lon : F64) (heading : F32) :
    ∃ t', execCmdCtlSetpoint h lat lon heading s = .next t' ∧ Keeps s t' := by
  unfold execCmdCtlSetpoint
  refine act_keeps fun s h => ?_
  try dsimp only
  repeat' (first
    | with_reducible assumption
    | with_reducible intro _
    | with_reducible apply command_keeps
    | with_reducible apply queueRequest_keeps
    | split
    | with_reducible refine Keeps.of_mk ?_ rfl rfl rfl rfl rfl rfl rfl rfl)

theorem execCmdCtlJoystick_keeps {s : State} (h : Hdr) (surge sway yaw : F32) :
    ∃ t', execCmdCtlJoystick h surge sway yaw s = .next t' ∧ Keeps s t' := by
  unfold execCmdCtlJoystick
  refine act_keeps fun s h => ?_
  try dsimp only
  repeat' (first
    | with_reducible assumption
    | with_reducible intro _
    | with_reducible apply command_keeps
    | with_reducible apply queueRequest_keeps
    | split
    | with_reducible refine Keeps.of_mk ?_ rfl rfl rfl rfl rfl rfl rfl rfl)

theorem execCmdCtlManual_keeps {s : State} (h : Hdr) (act_ : Byte) (speed pitch angle : F32) :
    ∃ t', execCmdCtlManual h act_ speed pitch angle s = .next t' ∧ Keeps s t' := by
  unfold execCmdCtlManual
  refine act_keeps fun s h => ?_
  try dsimp only
  repeat' (first
    | with_reducible assumption
    | with_reducible intro _
    | with_reducible apply command_keeps
    | with_reducible apply queueRequest_keeps
    | split
    | with_reducible refine Keeps.of_mk ?_ rfl rfl rfl rfl rfl rfl rfl rfl)

theorem execCmdCtlTrackLoad_keeps {s : State} (h : Hdr) (count : W32) (wps : List (F64 × F64 × F32 × F32)) :
    ∃ t', execCmdCtlTrackLoad h count wps s = .next t' ∧ Keeps s t' := by
  unfold execCmdCtlTrackLoad
  refine act_keeps fun s h => ?_
  try dsimp only
  repeat' (first
    | with_reducible assumption
    | with_reducible intro _
    | with_reducible apply reply_keeps
    | with_reducible apply command_keeps
    | with_reducible apply queueRequest_keeps
    | split
    | with_reducible refine Keeps.of_mk ?_ rfl rfl rfl rfl rfl rfl rfl rfl)

theorem availability_keeps {s0 s : State} (h : Keeps s0 s)  :
    Keeps s0 (State.availability s) := by
  unfold State.availability
  try dsimp only
  repeat' (first
    | with_reducible assumption
    | with_reducible intro _
    | with_reducible apply wr_keeps
    | with_reducible apply emit_keeps
    | with_reducible apply wrFlag_keeps
    | with_reducible apply record_keeps
    | with_reducible refine Keeps.foldl ?_ ?_ _
    | split
    | with_reducible refine Keeps.of_mk ?_ rfl rfl rfl rfl rfl rfl rfl rfl)

theorem recordManual_keeps {s0 s : State} (h : Keeps s0 s)  :
    Keeps s0 (State.recordManual s) := by
  unfold State.recordManual
  try dsimp only
  repeat' (first
    | with_reducible assumption
    | with_reducible intro _
    | with_reducible apply record_keeps
    | with_reducible refine Keeps.foldl ?_ ?_ _
    | split
    | with_reducible refine Keeps.of_mk ?_ rfl rfl rfl rfl rfl rfl rfl rfl)

theorem recordMove_keeps {s0 s : State} (h : Keeps s0 s)  :
    Keeps s0 (State.recordMove s) := by
  unfold State.recordMove
  try dsimp only
  repeat' (first
    | with_reducible assumption
    | with_reducible intro _
    | with_reducible apply newSetpoint_keeps
    | split
    | with_reducible refine Keeps.of_mk ?_ rfl rfl rfl rfl rfl rfl rfl rfl)

theorem logicRequests_keeps {s0 s : State} (h : Keeps s0 s)  :
    Keeps s0 (State.logicRequests s) := by
  unfold State.logicRequests
  try dsimp only
  repeat' (first
    | with_reducible assumption
    | with_reducible intro _
    | with_reducible apply record_keeps
    | with_reducible apply recordManual_keeps
    | with_reducible apply requestMode_keeps
    | with_reducible refine requestMode_keeps_of ?_ (by with_reducible assumption)
    | with_reducible apply recordMove_keeps
    | with_reducible apply renewDemand_keeps
    | split
    | with_reducible refine Keeps.of_mk ?_ rfl rfl rfl rfl rfl rfl rfl rfl)

theorem advanceReference_keeps {s0 s : State} (h : Keeps s0 s)  :
    Keeps s0 (State.advanceReference s) := by
  unfold State.advanceReference
  try dsimp only
  repeat' (first
    | with_reducible assumption
    | with_reducible intro _
    | with_reducible apply setMode_keeps
    | with_reducible apply setSetpoint_keeps
    | with_reducible apply settle_keeps
    | split
    | with_reducible refine Keeps.of_mk ?_ rfl rfl rfl rfl rfl rfl rfl rfl)

theorem feelWind_keeps {s0 s : State} (h : Keeps s0 s)  :
    Keeps s0 (State.feelWind s) := by
  unfold State.feelWind
  try dsimp only
  repeat' (first
    | with_reducible assumption
    | with_reducible intro _
    | with_reducible apply wrFlag_keeps
    | split
    | with_reducible refine Keeps.of_mk ?_ rfl rfl rfl rfl rfl rfl rfl rfl)

theorem leaveDrift_keeps {s0 s : State} (h : Keeps s0 s)  :
    Keeps s0 (State.leaveDrift s) := by
  unfold State.leaveDrift
  try dsimp only
  repeat' (first
    | with_reducible assumption
    | with_reducible intro _
    | with_reducible apply setMode_keeps
    | with_reducible apply setSetpoint_keeps
    | with_reducible apply settle_keeps
    | split
    | with_reducible refine Keeps.of_mk ?_ rfl rfl rfl rfl rfl rfl rfl rfl)

theorem hostRequests_keeps {s0 s : State} (h : Keeps s0 s)  :
    Keeps s0 (State.hostRequests s) := by
  unfold State.hostRequests
  try dsimp only
  repeat' (first
    | with_reducible assumption
    | with_reducible intro _
    | with_reducible apply start_keeps
    | with_reducible apply hostRequest_keeps
    | with_reducible refine hostRequest_keeps_of ?_ (by with_reducible assumption)
    | with_reducible apply respond_keeps
    | with_reducible refine Keeps.foldl ?_ ?_ _
    | split
    | with_reducible refine Keeps.of_mk ?_ rfl rfl rfl rfl rfl rfl rfl rfl)

theorem controlFrame_keeps {s0 s : State} (h : Keeps s0 s)  :
    Keeps s0 (State.controlFrame s) := by
  unfold State.controlFrame
  try dsimp only
  repeat' (first
    | with_reducible assumption
    | with_reducible intro _
    | with_reducible apply availability_keeps
    | with_reducible apply feelWind_keeps
    | with_reducible apply leaveDrift_keeps
    | with_reducible apply advanceReference_keeps
    | with_reducible apply hostRequests_keeps
    | with_reducible apply logicRequests_keeps
    | split
    | with_reducible refine Keeps.of_mk ?_ rfl rfl rfl rfl rfl rfl rfl rfl)

end Sys2Proof.Machine
end

