-- ==== Sys2Proof/Laws/KeepsSetpoints.lean ====
section
/-! SUPPORT. What the functions of Machine/Setpoints.lean keep. -/

namespace Sys2Proof.Machine

theorem noteAbsent_keeps {s0 s : State} (h : Keeps s0 s)  :
    Keeps s0 (State.noteAbsent s) := by
  unfold State.noteAbsent
  try dsimp only
  repeat' (first
    | with_reducible assumption
    | with_reducible intro _
    | with_reducible apply wrFlag_keeps
    | with_reducible apply emit_keeps
    | split
    | with_reducible refine Keeps.of_mk ?_ rfl rfl rfl rfl rfl rfl rfl rfl)

theorem pose_keeps {s0 s : State} (h : Keeps s0 s)  :
    Keeps s0 (State.pose s) := by
  unfold State.pose
  try dsimp only
  repeat' (first
    | with_reducible assumption
    | with_reducible intro _
    | with_reducible apply adaptThrust_keeps
    | with_reducible apply openSolve_keeps
    | with_reducible apply wrFlag_keeps
    | split
    | with_reducible refine Keeps.of_mk ?_ rfl rfl rfl rfl rfl rfl rfl rfl)

theorem execEstimatePublish_keeps {s : State} (corruptDuty corruptPartner : Bool) :
    ∃ t', execEstimatePublish corruptDuty corruptPartner s = .next t' ∧ Keeps s t' := by
  unfold execEstimatePublish
  refine act_keeps fun s h => ?_
  try dsimp only
  repeat' (first
    | with_reducible assumption
    | with_reducible intro _
    | with_reducible apply publishEstimate_keeps
    | with_reducible apply noteVerdicts_keeps
    | with_reducible apply noteAbsent_keeps
    | with_reducible apply pose_keeps
    | split
    | with_reducible refine Keeps.of_mk ?_ rfl rfl rfl rfl rfl rfl rfl rfl)

theorem showBus_keeps {s0 s : State} (h : Keeps s0 s) (b : Nat) (xs : List (SpOut × F32)) :
    Keeps s0 (State.showBus s b xs).1 := by
  unfold State.showBus
  try dsimp only
  repeat' (first
    | with_reducible assumption
    | with_reducible intro _
    | with_reducible apply wr_keeps
    | split
    | with_reducible refine Keeps.of_mk ?_ rfl rfl rfl rfl rfl rfl rfl rfl)

theorem showBus_keeps_of {s0 s a : State} {rb : Bool} (h : Keeps s0 s) (b : Nat) (xs : List (SpOut × F32)) (e : (State.showBus s b xs) = (a, rb)) : Keeps s0 a := by
  have k := showBus_keeps h b xs
  rw [e] at k
  exact k

theorem showScaled_keeps {s0 s : State} (h : Keeps s0 s) (b : Nat) (now : Bool) :
    Keeps s0 (State.showScaled s b now) := by
  unfold State.showScaled
  try dsimp only
  repeat' (first
    | with_reducible assumption
    | with_reducible intro _
    | with_reducible apply emit_keeps
    | with_reducible apply record_keeps
    | split
    | with_reducible refine Keeps.of_mk ?_ rfl rfl rfl rfl rfl rfl rfl rfl)

theorem showBuses_keeps {s0 s : State} (h : Keeps s0 s) (xs : List (SpOut × F32)) : Keeps s0 (s.showBuses xs) := by
  unfold State.showBuses
  generalize List.range _ = l
  refine wrFlag_keeps (Keeps.foldlPair (fun x b hx => ?_) (p := (s, false)) h l) _ _
  exact showBus_keeps hx b xs

theorem showScaling_keeps {s0 s : State} (h : Keeps s0 s) (scaled : List Bool) :
    Keeps s0 (State.showScaling s scaled) := by
  unfold State.showScaling
  try dsimp only
  repeat' (first
    | with_reducible assumption
    | with_reducible intro _
    | with_reducible apply showScaled_keeps
    | with_reducible apply wrFlag_keeps
    | with_reducible apply record_keeps
    | with_reducible refine Keeps.foldl ?_ ?_ _
    | split
    | with_reducible refine Keeps.of_mk ?_ rfl rfl rfl rfl rfl rfl rfl rfl)

theorem putSetpoints_keeps {s0 s : State} (h : Keeps s0 s) (outs : List SpOut) :
    Keeps s0 (State.putSetpoints s outs) := by
  unfold State.putSetpoints
  try dsimp only
  repeat' (first
    | with_reducible assumption
    | with_reducible intro _
    | with_reducible apply wrFlag_keeps
    | with_reducible apply wr_keeps
    | with_reducible apply record_keeps
    | split
    | with_reducible refine Keeps.of_mk ?_ rfl rfl rfl rfl rfl rfl rfl rfl)

theorem publishSetpoints_keeps {s0 s : State} (h : Keeps s0 s)  :
    Keeps s0 (State.publishSetpoints s) := by
  unfold State.publishSetpoints
  try dsimp only
  repeat' (first
    | with_reducible assumption
    | with_reducible intro _
    | with_reducible apply showBuses_keeps
    | with_reducible apply showScaling_keeps
    | with_reducible apply putSetpoints_keeps
    | with_reducible apply record_keeps
    | split
    | with_reducible refine Keeps.of_mk ?_ rfl rfl rfl rfl rfl rfl rfl rfl)

theorem execSetpointPublish_keeps {s : State} (badDuty badPartner : Bool) :
    ∃ t', execSetpointPublish badDuty badPartner s = .next t' ∧ Keeps s t' := by
  unfold execSetpointPublish
  refine act_keeps fun s h => ?_
  try dsimp only
  repeat' (first
    | with_reducible assumption
    | with_reducible intro _
    | with_reducible apply solveOutcome_keeps
    | with_reducible apply publishSetpoints_keeps
    | split
    | with_reducible refine Keeps.of_mk ?_ rfl rfl rfl rfl rfl rfl rfl rfl)

end Sys2Proof.Machine
end

