-- ==== Sys2Proof/Laws/KeepsCan.lean ====
section
/-! SUPPORT. What the functions of Machine/Can.lean keep. -/

namespace Sys2Proof.Machine

theorem wasBusy_keeps {s0 s : State} (h : Keeps s0 s) (c ns : Nat) :
    Keeps s0 (State.wasBusy s c ns) := by
  unfold State.wasBusy
  try dsimp only
  repeat' (first
    | with_reducible assumption
    | with_reducible intro _
    | split
    | with_reducible refine Keeps.of_mk ?_ rfl rfl rfl rfl rfl rfl rfl rfl)

theorem setBusState_keeps {s0 s : State} (h : Keeps s0 s) (c new tec rec : Nat) :
    Keeps s0 (State.setBusState s c new tec rec) := by
  unfold State.setBusState
  try dsimp only
  repeat' (first
    | with_reducible assumption
    | with_reducible intro _
    | with_reducible apply wr_keeps
    | with_reducible apply inc_keeps
    | with_reducible apply emit_keeps
    | split
    | with_reducible refine Keeps.of_mk ?_ rfl rfl rfl rfl rfl rfl rfl rfl)

theorem judgeBus_keeps {s0 s : State} (h : Keeps s0 s) (c tec rec : Nat) :
    Keeps s0 (State.judgeBus s c tec rec) := by
  unfold State.judgeBus
  try dsimp only
  repeat' (first
    | with_reducible assumption
    | with_reducible intro _
    | with_reducible apply setBusState_keeps
    | split
    | with_reducible refine Keeps.of_mk ?_ rfl rfl rfl rfl rfl rfl rfl rfl)

theorem execCanBusError_keeps {s : State} (ch : Fin 8) (e : CanErr) (busyNs : Nat) :
    ∃ t', execCanBusError ch e busyNs s = .next t' ∧ Keeps s t' := by
  unfold execCanBusError
  refine act_keeps fun s h => ?_
  try dsimp only
  repeat' (first
    | with_reducible assumption
    | with_reducible intro _
    | with_reducible apply wasBusy_keeps
    | with_reducible apply judgeBus_keeps
    | split
    | with_reducible refine Keeps.of_mk ?_ rfl rfl rfl rfl rfl rfl rfl rfl)

theorem lessRec_keeps {s0 s : State} (h : Keeps s0 s) (c : Nat) :
    Keeps s0 (State.lessRec s c) := by
  unfold State.lessRec
  try dsimp only
  repeat' (first
    | with_reducible assumption
    | with_reducible intro _
    | with_reducible apply judgeBus_keeps
    | with_reducible apply freeNat_keeps
    | with_reducible refine freeNat_keeps_of ?_ (by with_reducible assumption)
    | split
    | with_reducible refine Keeps.of_mk ?_ rfl rfl rfl rfl rfl rfl rfl rfl)

theorem lessTec_keeps {s0 s : State} (h : Keeps s0 s) (c : Nat) :
    Keeps s0 (State.lessTec s c) := by
  unfold State.lessTec
  try dsimp only
  repeat' (first
    | with_reducible assumption
    | with_reducible intro _
    | with_reducible apply judgeBus_keeps
    | split
    | with_reducible refine Keeps.of_mk ?_ rfl rfl rfl rfl rfl rfl rfl rfl)

theorem execCanBusoffRecovery_keeps {s : State} (ch : Fin 8) :
    ∃ t', execCanBusoffRecovery ch s = .next t' ∧ Keeps s t' := by
  unfold execCanBusoffRecovery
  refine act_keeps fun s h => ?_
  try dsimp only
  repeat' (first
    | with_reducible assumption
    | with_reducible intro _
    | with_reducible apply setBusState_keeps
    | split
    | with_reducible refine Keeps.of_mk ?_ rfl rfl rfl rfl rfl rfl rfl rfl)

theorem execCanTimingResync_keeps {s : State} (ch : Fin 8) :
    ∃ t', execCanTimingResync ch s = .next t' ∧ Keeps s t' := by
  unfold execCanTimingResync
  refine act_keeps fun s h => ?_
  try dsimp only
  repeat' (first
    | with_reducible assumption
    | with_reducible intro _
    | with_reducible apply setBusState_keeps
    | split
    | with_reducible refine Keeps.of_mk ?_ rfl rfl rfl rfl rfl rfl rfl rfl)

theorem canTurn_keeps {s0 s : State} (h : Keeps s0 s) (old : Folio) :
    Keeps s0 (State.canTurn s old) := by
  unfold State.canTurn
  try dsimp only
  repeat' (first
    | with_reducible assumption
    | with_reducible intro _
    | with_reducible apply wr_keeps
    | with_reducible apply setBusState_keeps
    | with_reducible refine Keeps.foldl ?_ ?_ _
    | split
    | with_reducible refine Keeps.of_mk ?_ rfl rfl rfl rfl rfl rfl rfl rfl)

theorem takeFrame_keeps {s0 s : State} (h : Keeps s0 s) (c sof eof : Nat) (f : CanFrame) :
    Keeps s0 (State.takeFrame s c sof eof f) := by
  unfold State.takeFrame
  try dsimp only
  repeat' (first
    | with_reducible assumption
    | with_reducible intro _
    | with_reducible apply inc_keeps
    | split
    | with_reducible refine Keeps.of_mk ?_ rfl rfl rfl rfl rfl rfl rfl rfl)

theorem execCanFrameRx_keeps {s : State} (ch : Fin 8) (f : CanFrame) (sofNs eofNs : Nat) :
    ∃ t', execCanFrameRx ch f sofNs eofNs s = .next t' ∧ Keeps s t' := by
  unfold execCanFrameRx
  refine act_keeps fun s h => ?_
  try dsimp only
  repeat' (first
    | with_reducible assumption
    | with_reducible intro _
    | with_reducible apply put_keeps
    | with_reducible apply wasBusy_keeps
    | with_reducible apply takeFrame_keeps
    | with_reducible apply lessRec_keeps
    | split
    | with_reducible refine Keeps.of_mk ?_ rfl rfl rfl rfl rfl rfl rfl rfl)

theorem fillBuffer_keeps {s0 s : State} (h : Keeps s0 s) (n : Nat) (r : CanRec) :
    Keeps s0 (State.fillBuffer s n r) := by
  unfold State.fillBuffer
  try dsimp only
  repeat' (first
    | with_reducible assumption
    | with_reducible intro _
    | with_reducible apply inc_keeps
    | with_reducible apply emit_keeps
    | split
    | with_reducible refine Keeps.of_mk ?_ rfl rfl rfl rfl rfl rfl rfl rfl)

theorem fillFifo_keeps {s0 s : State} (h : Keeps s0 s) (r : CanRec) :
    Keeps s0 (State.fillFifo s r) := by
  unfold State.fillFifo
  try dsimp only
  repeat' (first
    | with_reducible assumption
    | with_reducible intro _
    | with_reducible apply inc_keeps
    | with_reducible apply record_keeps
    | split
    | with_reducible refine Keeps.of_mk ?_ rfl rfl rfl rfl rfl rfl rfl rfl)

theorem remoteReply_keeps {s0 s : State} (h : Keeps s0 s) (r : CanRec) (eof : Nat) :
    Keeps s0 (State.remoteReply s r eof) := by
  unfold State.remoteReply
  try dsimp only
  repeat' (first
    | with_reducible assumption
    | with_reducible intro _
    | with_reducible apply reply_keeps
    | with_reducible apply inc_keeps
    | split
    | with_reducible refine Keeps.of_mk ?_ rfl rfl rfl rfl rfl rfl rfl rfl)

theorem canDeliver_keeps {s0 s : State} (h : Keeps s0 s) (x : CanRx) :
    Keeps s0 (State.canDeliver s x) := by
  unfold State.canDeliver
  try dsimp only
  repeat' (first
    | with_reducible assumption
    | with_reducible intro _
    | with_reducible apply fillBuffer_keeps
    | with_reducible apply fillFifo_keeps
    | with_reducible apply remoteReply_keeps
    | split
    | with_reducible refine Keeps.of_mk ?_ rfl rfl rfl rfl rfl rfl rfl rfl)

theorem deliverWhere_keeps {s0 s : State} (h : Keeps s0 s) (p : CanRx → Bool) :
    Keeps s0 (State.deliverWhere s p) := by
  unfold State.deliverWhere
  try dsimp only
  repeat' (first
    | with_reducible assumption
    | with_reducible intro _
    | with_reducible apply start_keeps
    | with_reducible apply canDeliver_keeps
    | with_reducible refine Keeps.foldl ?_ ?_ _
    | split
    | with_reducible refine Keeps.of_mk ?_ rfl rfl rfl rfl rfl rfl rfl rfl)

theorem execCanRxDeliver_keeps {s : State} (ch : Fin 8) :
    ∃ t', execCanRxDeliver ch s = .next t' ∧ Keeps s t' := by
  unfold execCanRxDeliver
  refine act_keeps fun s h => ?_
  try dsimp only
  repeat' (first
    | with_reducible assumption
    | with_reducible intro _
    | with_reducible apply deliverWhere_keeps
    | split
    | with_reducible refine Keeps.of_mk ?_ rfl rfl rfl rfl rfl rfl rfl rfl)

theorem countDrop_keeps {s0 s : State} (h : Keeps s0 s) (c : Nat) (k : TxKind) :
    Keeps s0 (State.countDrop s c k) := by
  unfold State.countDrop
  try dsimp only
  repeat' (first
    | with_reducible assumption
    | with_reducible intro _
    | with_reducible apply inc_keeps
    | with_reducible apply command_keeps
    | split
    | with_reducible refine Keeps.of_mk ?_ rfl rfl rfl rfl rfl rfl rfl rfl)

theorem dropTx_keeps {s0 s : State} (h : Keeps s0 s) (c : Nat) (p : TxItem → Bool) :
    Keeps s0 (State.dropTx s c p) := by
  unfold State.dropTx
  try dsimp only
  repeat' (first
    | with_reducible assumption
    | with_reducible intro _
    | with_reducible apply start_keeps
    | with_reducible apply countDrop_keeps
    | with_reducible refine Keeps.foldl ?_ ?_ _
    | split
    | with_reducible refine Keeps.of_mk ?_ rfl rfl rfl rfl rfl rfl rfl rfl)

theorem queueTx_keeps {s0 s : State} (h : Keeps s0 s) (c : Nat) (x : TxItem) :
    Keeps s0 (State.queueTx s c x) := by
  unfold State.queueTx
  try dsimp only
  repeat' (first
    | with_reducible assumption
    | with_reducible intro _
    | with_reducible apply start_keeps
    | split
    | with_reducible refine Keeps.of_mk ?_ rfl rfl rfl rfl rfl rfl rfl rfl)

theorem completeTx_keeps {s0 s : State} (h : Keeps s0 s) (c sof : Nat) (x : TxItem) :
    Keeps s0 (State.completeTx s c sof x) := by
  unfold State.completeTx
  try dsimp only
  repeat' (first
    | with_reducible assumption
    | with_reducible intro _
    | with_reducible apply put_keeps
    | with_reducible apply command_keeps
    | split
    | with_reducible refine Keeps.of_mk ?_ rfl rfl rfl rfl rfl rfl rfl rfl)

theorem execCanFrameTxComplete_keeps {s : State} (ch : Fin 8) (sofNs eofNs : Nat) (done : Bool) :
    ∃ t', execCanFrameTxComplete ch sofNs eofNs done s = .next t' ∧ Keeps s t' := by
  unfold execCanFrameTxComplete
  refine act_keeps fun s h => ?_
  try dsimp only
  repeat' (first
    | with_reducible assumption
    | with_reducible intro _
    | with_reducible apply wasBusy_keeps
    | with_reducible apply completeTx_keeps
    | with_reducible apply lessTec_keeps
    | with_reducible apply start_keeps
    | split
    | with_reducible refine Keeps.of_mk ?_ rfl rfl rfl rfl rfl rfl rfl rfl)

theorem execCanLifetimeEnd_keeps {s : State} (ch : Fin 8) (k : TxDue) :
    ∃ t', execCanLifetimeEnd ch k s = .next t' ∧ Keeps s t' := by
  unfold execCanLifetimeEnd
  refine act_keeps fun s h => ?_
  try dsimp only
  repeat' (first
    | with_reducible assumption
    | with_reducible intro _
    | with_reducible apply dropTx_keeps
    | split
    | with_reducible refine Keeps.of_mk ?_ rfl rfl rfl rfl rfl rfl rfl rfl)

theorem canFrame_keeps {s0 s : State} (h : Keeps s0 s)  :
    Keeps s0 (State.canFrame s) := by
  unfold State.canFrame
  try dsimp only
  repeat' (first
    | with_reducible assumption
    | with_reducible intro _
    | with_reducible apply emit_keeps
    | with_reducible apply wr_keeps
    | with_reducible refine Keeps.foldl ?_ ?_ _
    | split
    | with_reducible refine Keeps.of_mk ?_ rfl rfl rfl rfl rfl rfl rfl rfl)

theorem execCmdCanBufRead_keeps {s : State} (h : Hdr) (buf : W16) :
    ∃ t', execCmdCanBufRead h buf s = .next t' ∧ Keeps s t' := by
  unfold execCmdCanBufRead
  refine act_keeps fun s h => ?_
  try dsimp only
  repeat' (first
    | with_reducible assumption
    | with_reducible intro _
    | with_reducible apply reply_keeps
    | with_reducible apply command_keeps
    | split
    | with_reducible refine Keeps.of_mk ?_ rfl rfl rfl rfl rfl rfl rfl rfl)

theorem execCmdCanFifoRead_keeps {s : State} (h : Hdr) (chan : Byte) (count : W32) :
    ∃ t', execCmdCanFifoRead h chan count s = .next t' ∧ Keeps s t' := by
  unfold execCmdCanFifoRead
  refine act_keeps fun s h => ?_
  try dsimp only
  repeat' (first
    | with_reducible assumption
    | with_reducible intro _
    | with_reducible apply reply_keeps
    | with_reducible apply command_keeps
    | split
    | with_reducible refine Keeps.of_mk ?_ rfl rfl rfl rfl rfl rfl rfl rfl)

end Sys2Proof.Machine
end

