-- ==== Sys2Proof/Laws/KeepsLogic.lean ====
section
/-! SUPPORT. What the functions of Machine/Logic.lean keep. -/

namespace Sys2Proof.Machine

theorem setLogicState_keeps {s0 s : State} (h : Keeps s0 s) (new fault : Nat) (why : Option Nat) :
    Keeps s0 (State.setLogicState s new fault why) := by
  unfold State.setLogicState
  try dsimp only
  repeat' (first
    | with_reducible assumption
    | with_reducible intro _
    | with_reducible apply wr_keeps
    | with_reducible apply emit_keeps
    | split
    | with_reducible refine Keeps.of_mk ?_ rfl rfl rfl rfl rfl rfl rfl rfl)

theorem showProgram_keeps {s0 s : State} (h : Keeps s0 s)  :
    Keeps s0 (State.showProgram s) := by
  unfold State.showProgram
  try dsimp only
  repeat' (first
    | with_reducible assumption
    | with_reducible intro _
    | with_reducible apply wr_keeps
    | with_reducible apply command_keeps
    | split
    | with_reducible refine Keeps.of_mk ?_ rfl rfl rfl rfl rfl rfl rfl rfl)

theorem forceEvent_keeps {s0 s : State} (h : Keeps s0 s) (t : ForceTarget) (what : Nat) :
    Keeps s0 (State.forceEvent s t what) := by
  unfold State.forceEvent
  try dsimp only
  repeat' (first
    | with_reducible assumption
    | with_reducible intro _
    | with_reducible apply emit_keeps
    | split
    | with_reducible refine Keeps.of_mk ?_ rfl rfl rfl rfl rfl rfl rfl rfl)

theorem forceLost_keeps {s0 s : State} (h : Keeps s0 s) (t : ForceTarget) (why : Nat) :
    Keeps s0 (State.forceLost s t why) := by
  unfold State.forceLost
  try dsimp only
  repeat' (first
    | with_reducible assumption
    | with_reducible intro _
    | with_reducible apply emit_keeps
    | split
    | with_reducible refine Keeps.of_mk ?_ rfl rfl rfl rfl rfl rfl rfl rfl)

theorem setForces_keeps {s0 s : State} (h : Keeps s0 s) (fs : List Force) :
    Keeps s0 (State.setForces s fs) := by
  unfold State.setForces
  try dsimp only
  repeat' (first
    | with_reducible assumption
    | with_reducible intro _
    | with_reducible apply wr_keeps
    | split
    | with_reducible refine Keeps.of_mk ?_ rfl rfl rfl rfl rfl rfl rfl rfl)

theorem clearForces_keeps {s0 s : State} (h : Keeps s0 s)  :
    Keeps s0 (State.clearForces s) := by
  unfold State.clearForces
  try dsimp only
  repeat' (first
    | with_reducible assumption
    | with_reducible intro _
    | with_reducible apply forceEvent_keeps
    | with_reducible apply setForces_keeps
    | with_reducible refine Keeps.foldl ?_ ?_ _
    | split
    | with_reducible refine Keeps.of_mk ?_ rfl rfl rfl rfl rfl rfl rfl rfl)

theorem forceOp_keeps {s0 s : State} (h : Keeps s0 s) (op : ForceOp) :
    Keeps s0 (State.forceOp s op) := by
  unfold State.forceOp
  try dsimp only
  repeat' (first
    | with_reducible assumption
    | with_reducible intro _
    | with_reducible apply setForces_keeps
    | with_reducible apply forceEvent_keeps
    | with_reducible apply clearForces_keeps
    | split
    | with_reducible refine Keeps.of_mk ?_ rfl rfl rfl rfl rfl rfl rfl rfl)

theorem writeSym_keeps {s0 s : State} (h : Keeps s0 s) (y : Sym) (val : List Byte) :
    Keeps s0 (State.writeSym s y val) := by
  unfold State.writeSym
  try dsimp only
  repeat' (first
    | with_reducible assumption
    | with_reducible intro _
    | split
    | with_reducible refine Keeps.of_mk ?_ rfl rfl rfl rfl rfl rfl rfl rfl)

theorem forceInputs_keeps {s0 s : State} (h : Keeps s0 s)  :
    Keeps s0 (State.forceInputs s) := by
  unfold State.forceInputs
  try dsimp only
  repeat' (first
    | with_reducible assumption
    | with_reducible intro _
    | with_reducible refine Keeps.foldl ?_ ?_ _
    | split
    | with_reducible refine Keeps.of_mk ?_ rfl rfl rfl rfl rfl rfl rfl rfl)

theorem carrySyms_keeps {s0 s : State} (h : Keeps s0 s) (old new : List Sym) (oldData oldRetain : Mem) :
    Keeps s0 (carrySyms old new oldData oldRetain s) := by
  unfold carrySyms
  try dsimp only
  repeat' (first
    | with_reducible assumption
    | with_reducible intro _
    | with_reducible apply writeSym_keeps
    | with_reducible refine Keeps.foldl ?_ ?_ _
    | split
    | with_reducible refine Keeps.of_mk ?_ rfl rfl rfl rfl rfl rfl rfl rfl)

theorem initialValues_keeps {s0 s : State} (h : Keeps s0 s) (p : ProgInfo) :
    Keeps s0 (State.initialValues s p) := by
  unfold State.initialValues
  try dsimp only
  repeat' (first
    | with_reducible assumption
    | with_reducible intro _
    | with_reducible apply start_keeps
    | split
    | with_reducible refine Keeps.of_mk ?_ rfl rfl rfl rfl rfl rfl rfl rfl)

theorem beginRun_keeps {s0 s : State} (h : Keeps s0 s) (first : Nat) (why : Option Nat) :
    Keeps s0 (State.beginRun s first why) := by
  unfold State.beginRun
  try dsimp only
  repeat' (first
    | with_reducible assumption
    | with_reducible intro _
    | with_reducible apply wr_keeps
    | with_reducible apply setLogicState_keeps
    | split
    | with_reducible refine Keeps.of_mk ?_ rfl rfl rfl rfl rfl rfl rfl rfl)

theorem coldRestart_keeps {s0 s : State} (h : Keeps s0 s) (p : ProgInfo) (why : Option Nat) :
    Keeps s0 (State.coldRestart s p why) := by
  unfold State.coldRestart
  try dsimp only
  repeat' (first
    | with_reducible assumption
    | with_reducible intro _
    | with_reducible apply clearForces_keeps
    | with_reducible apply initialValues_keeps
    | with_reducible apply beginRun_keeps
    | split
    | with_reducible refine Keeps.of_mk ?_ rfl rfl rfl rfl rfl rfl rfl rfl)

theorem warmRestart_keeps {s0 s : State} (h : Keeps s0 s) (p : ProgInfo) (why : Option Nat) :
    Keeps s0 (State.warmRestart s p why) := by
  unfold State.warmRestart
  try dsimp only
  repeat' (first
    | with_reducible assumption
    | with_reducible intro _
    | with_reducible apply coldRestart_keeps
    | with_reducible apply beginRun_keeps
    | with_reducible apply carrySyms_keeps
    | with_reducible apply initialValues_keeps
    | with_reducible apply command_keeps
    | with_reducible refine Keeps.foldl ?_ ?_ _
    | split
    | with_reducible refine Keeps.of_mk ?_ rfl rfl rfl rfl rfl rfl rfl rfl)

theorem quireRetain_keeps {s0 s : State} (h : Keeps s0 s)  :
    Keeps s0 (State.quireRetain s) := by
  unfold State.quireRetain
  try dsimp only
  repeat' (first
    | with_reducible assumption
    | with_reducible intro _
    | split
    | with_reducible refine Keeps.of_mk ?_ rfl rfl rfl rfl rfl rfl rfl rfl)

theorem restartLogic_keeps {s0 s : State} (h : Keeps s0 s) (cold : Bool) :
    Keeps s0 (State.restartLogic s cold) := by
  unfold State.restartLogic
  try dsimp only
  repeat' (first
    | with_reducible assumption
    | with_reducible intro _
    | with_reducible apply coldRestart_keeps
    | with_reducible apply quireRetain_keeps
    | with_reducible apply warmRestart_keeps
    | split
    | with_reducible refine Keeps.of_mk ?_ rfl rfl rfl rfl rfl rfl rfl rfl)

theorem carryForce_keeps {s0 s : State} (h : Keeps s0 s) (p : ProgInfo) (old : Option ProgInfo) (f : Force) :
    Keeps s0 (State.carryForce s p old f).1 := by
  unfold State.carryForce
  try dsimp only
  repeat' (first
    | with_reducible assumption
    | with_reducible intro _
    | with_reducible apply forceLost_keeps
    | split
    | with_reducible refine Keeps.of_mk ?_ rfl rfl rfl rfl rfl rfl rfl rfl)

theorem carryForce_keeps_of {s0 s a : State} {rb : Option Force} (h : Keeps s0 s) (p : ProgInfo) (old : Option ProgInfo) (f : Force) (e : (State.carryForce s p old f) = (a, rb)) : Keeps s0 a := by
  have k := carryForce_keeps h p old f
  rw [e] at k
  exact k

theorem carryForces_keeps {s0 s : State} (h : Keeps s0 s) (p : ProgInfo) (old : Option ProgInfo) :
    Keeps s0 (State.carryForces s p old) := by
  unfold State.carryForces
  try dsimp only
  repeat' (first
    | with_reducible assumption
    | with_reducible intro _
    | with_reducible apply carryForce_keeps
    | with_reducible refine carryForce_keeps_of ?_ (by with_reducible assumption)
    | with_reducible apply setForces_keeps
    | with_reducible refine Keeps.foldl ?_ ?_ _
    | split
    | with_reducible refine Keeps.of_mk ?_ rfl rfl rfl rfl rfl rfl rfl rfl)

theorem swapLogic_keeps {s0 s : State} (h : Keeps s0 s) (c : LogicChange) (p : ProgInfo) :
    Keeps s0 (State.swapLogic s c p) := by
  unfold State.swapLogic
  try dsimp only
  repeat' (first
    | with_reducible assumption
    | with_reducible intro _
    | with_reducible apply wr_keeps
    | with_reducible apply showProgram_keeps
    | with_reducible apply coldRestart_keeps
    | with_reducible apply emit_keeps
    | with_reducible apply carrySyms_keeps
    | with_reducible apply initialValues_keeps
    | with_reducible apply carryForces_keeps
    | with_reducible refine Keeps.foldl ?_ ?_ _
    | split
    | with_reducible refine Keeps.of_mk ?_ rfl rfl rfl rfl rfl rfl rfl rfl)

theorem swapDue_keeps {s0 s : State} (h : Keeps s0 s)  :
    Keeps s0 (State.swapDue s) := by
  unfold State.swapDue
  try dsimp only
  repeat' (first
    | with_reducible assumption
    | with_reducible intro _
    | with_reducible apply swapLogic_keeps
    | split
    | with_reducible refine Keeps.of_mk ?_ rfl rfl rfl rfl rfl rfl rfl rfl)

theorem keepFrameValues_keeps {s0 s : State} (h : Keeps s0 s)  :
    Keeps s0 (State.keepFrameValues s) := by
  unfold State.keepFrameValues
  try dsimp only
  repeat' (first
    | with_reducible assumption
    | with_reducible intro _
    | split
    | with_reducible refine Keeps.of_mk ?_ rfl rfl rfl rfl rfl rfl rfl rfl)

theorem queueMarks_keeps {s0 s : State} (h : Keeps s0 s) (at_ : Nat) :
    Keeps s0 (State.queueMarks s at_) := by
  unfold State.queueMarks
  try dsimp only
  repeat' (first
    | with_reducible assumption
    | with_reducible intro _
    | with_reducible apply queueTx_keeps
    | with_reducible refine Keeps.foldl ?_ ?_ _
    | split
    | with_reducible refine Keeps.of_mk ?_ rfl rfl rfl rfl rfl rfl rfl rfl)

theorem newPeriod_keeps {s0 s : State} (h : Keeps s0 s) (at_ : Nat) :
    Keeps s0 (State.newPeriod s at_) := by
  unfold State.newPeriod
  try dsimp only
  repeat' (first
    | with_reducible assumption
    | with_reducible intro _
    | split
    | with_reducible refine Keeps.of_mk ?_ rfl rfl rfl rfl rfl rfl rfl rfl)

theorem cycleChanges_keeps {s0 s : State} (h : Keeps s0 s)  :
    Keeps s0 (State.cycleChanges s) := by
  unfold State.cycleChanges
  try dsimp only
  repeat' (first
    | with_reducible assumption
    | with_reducible intro _
    | with_reducible apply restartLogic_keeps
    | with_reducible apply swapDue_keeps
    | with_reducible apply start_keeps
    | with_reducible apply forceOp_keeps
    | with_reducible refine Keeps.foldl ?_ ?_ _
    | split
    | with_reducible refine Keeps.of_mk ?_ rfl rfl rfl rfl rfl rfl rfl rfl)

theorem noteRetain_keeps {s0 s : State} (h : Keeps s0 s) (old : Mem) :
    Keeps s0 (State.noteRetain s old) := by
  unfold State.noteRetain
  try dsimp only
  repeat' (first
    | with_reducible assumption
    | with_reducible intro _
    | split
    | with_reducible refine Keeps.of_mk ?_ rfl rfl rfl rfl rfl rfl rfl rfl)

theorem latchInput_keeps {s0 s : State} (h : Keeps s0 s) (at_ : Nat) :
    Keeps s0 (State.latchInput s at_) := by
  unfold State.latchInput
  try dsimp only
  repeat' (first
    | with_reducible assumption
    | with_reducible intro _
    | split
    | with_reducible refine Keeps.of_mk ?_ rfl rfl rfl rfl rfl rfl rfl rfl)

theorem execLogicCycleStart_keeps {s : State}  :
    ∃ t', execLogicCycleStart s = .next t' ∧ Keeps s t' := by
  unfold execLogicCycleStart
  refine act_keeps fun s h => ?_
  try dsimp only
  repeat' (first
    | with_reducible assumption
    | with_reducible intro _
    | with_reducible apply newPeriod_keeps
    | with_reducible apply cycleChanges_keeps
    | with_reducible apply noteRetain_keeps
    | with_reducible apply wr_keeps
    | with_reducible apply latchInput_keeps
    | with_reducible apply queueMarks_keeps
    | split
    | with_reducible refine Keeps.of_mk ?_ rfl rfl rfl rfl rfl rfl rfl rfl)

theorem countMissing_keeps {s0 s : State} (h : Keeps s0 s)  :
    Keeps s0 (State.countMissing s) := by
  unfold State.countMissing
  try dsimp only
  repeat' (first
    | with_reducible assumption
    | with_reducible intro _
    | with_reducible apply inc_keeps
    | with_reducible refine Keeps.foldl ?_ ?_ _
    | split
    | with_reducible refine Keeps.of_mk ?_ rfl rfl rfl rfl rfl rfl rfl rfl)

theorem completeInput_keeps {s0 s : State} (h : Keeps s0 s)  :
    Keeps s0 (State.completeInput s) := by
  unfold State.completeInput
  try dsimp only
  repeat' (first
    | with_reducible assumption
    | with_reducible intro _
    | split
    | with_reducible refine Keeps.of_mk ?_ rfl rfl rfl rfl rfl rfl rfl rfl)

theorem execReplyWindowEnd_keeps {s : State}  :
    ∃ t', execReplyWindowEnd s = .next t' ∧ Keeps s t' := by
  unfold execReplyWindowEnd
  refine act_keeps fun s h => ?_
  try dsimp only
  repeat' (first
    | with_reducible assumption
    | with_reducible intro _
    | with_reducible apply deliverWhere_keeps
    | with_reducible apply countMissing_keeps
    | with_reducible apply completeInput_keeps
    | with_reducible apply forceInputs_keeps
    | split
    | with_reducible refine Keeps.of_mk ?_ rfl rfl rfl rfl rfl rfl rfl rfl)

theorem faultLogic_keeps {s0 s : State} (h : Keeps s0 s) (cause : Nat) :
    Keeps s0 (State.faultLogic s cause) := by
  unfold State.faultLogic
  try dsimp only
  repeat' (first
    | with_reducible assumption
    | with_reducible intro _
    | with_reducible apply setLogicState_keeps
    | split
    | with_reducible refine Keeps.of_mk ?_ rfl rfl rfl rfl rfl rfl rfl rfl)

theorem execLogicOverrun_keeps {s : State} (c : LogicStop) :
    ∃ t', execLogicOverrun c s = .next t' ∧ Keeps s t' := by
  unfold execLogicOverrun
  refine act_keeps fun s h => ?_
  try dsimp only
  repeat' (first
    | with_reducible assumption
    | with_reducible intro _
    | with_reducible apply inc_keeps
    | with_reducible apply faultLogic_keeps
    | split
    | with_reducible refine Keeps.of_mk ?_ rfl rfl rfl rfl rfl rfl rfl rfl)

theorem queueOutputs_keeps {s0 s : State} (h : Keeps s0 s) (at_ : Nat) :
    Keeps s0 (State.queueOutputs s at_) := by
  unfold State.queueOutputs
  try dsimp only
  repeat' (first
    | with_reducible assumption
    | with_reducible intro _
    | with_reducible apply queueTx_keeps
    | with_reducible refine Keeps.foldl ?_ ?_ _
    | split
    | with_reducible refine Keeps.of_mk ?_ rfl rfl rfl rfl rfl rfl rfl rfl)

theorem commitImages_keeps {s0 s : State} (h : Keeps s0 s) (o : LogicOut) :
    Keeps s0 (State.commitImages s o) := by
  unfold State.commitImages
  try dsimp only
  repeat' (first
    | with_reducible assumption
    | with_reducible intro _
    | split
    | with_reducible refine Keeps.of_mk ?_ rfl rfl rfl rfl rfl rfl rfl rfl)

theorem showExec_keeps {s0 s : State} (h : Keeps s0 s) (us : Nat) :
    Keeps s0 (State.showExec s us) := by
  unfold State.showExec
  try dsimp only
  repeat' (first
    | with_reducible assumption
    | with_reducible intro _
    | with_reducible apply wr_keeps
    | split
    | with_reducible refine Keeps.of_mk ?_ rfl rfl rfl rfl rfl rfl rfl rfl)

theorem userEvents_keeps {s0 s : State} (h : Keeps s0 s) (o : LogicOut) :
    Keeps s0 (State.userEvents s o) := by
  unfold State.userEvents
  try dsimp only
  repeat' (first
    | with_reducible assumption
    | with_reducible intro _
    | with_reducible apply queueEvent_keeps
    | with_reducible refine Keeps.foldl ?_ ?_ _
    | with_reducible exact source_allowed _
    | decide
    | split
    | with_reducible refine Keeps.of_mk ?_ rfl rfl rfl rfl rfl rfl rfl rfl)

theorem execLogicCommit_keeps {s : State} (o : LogicOut) :
    ∃ t', execLogicCommit o s = .next t' ∧ Keeps s t' := by
  unfold execLogicCommit
  refine act_keeps fun s h => ?_
  try dsimp only
  repeat' (first
    | with_reducible assumption
    | with_reducible intro _
    | with_reducible apply commitImages_keeps
    | with_reducible apply noteRetain_keeps
    | with_reducible apply showExec_keeps
    | with_reducible apply userEvents_keeps
    | with_reducible apply queueOutputs_keeps
    | split
    | with_reducible refine Keeps.of_mk ?_ rfl rfl rfl rfl rfl rfl rfl rfl)

theorem writePage_keeps {s0 s : State} (h : Keeps s0 s) (p : Nat) :
    Keeps s0 (State.writePage s p) := by
  unfold State.writePage
  try dsimp only
  repeat' (first
    | with_reducible assumption
    | with_reducible intro _
    | split
    | with_reducible refine Keeps.of_mk ?_ rfl rfl rfl rfl rfl rfl rfl rfl)

theorem closeMirror_keeps {s0 s : State} (h : Keeps s0 s)  :
    Keeps s0 (State.closeMirror s) := by
  unfold State.closeMirror
  try dsimp only
  repeat' (first
    | with_reducible assumption
    | with_reducible intro _
    | split
    | with_reducible refine Keeps.of_mk ?_ rfl rfl rfl rfl rfl rfl rfl rfl)

theorem nextPage_keeps {s0 s : State} (h : Keeps s0 s)  :
    Keeps s0 (State.nextPage s) := by
  unfold State.nextPage
  try dsimp only
  repeat' (first
    | with_reducible assumption
    | with_reducible intro _
    | with_reducible apply closeMirror_keeps
    | split
    | with_reducible refine Keeps.of_mk ?_ rfl rfl rfl rfl rfl rfl rfl rfl)

theorem execRetainMirrorWrite_keeps {s : State}  :
    ∃ t', execRetainMirrorWrite s = .next t' ∧ Keeps s t' := by
  unfold execRetainMirrorWrite
  refine act_keeps fun s h => ?_
  try dsimp only
  repeat' (first
    | with_reducible assumption
    | with_reducible intro _
    | with_reducible apply writePage_keeps
    | with_reducible apply nextPage_keeps
    | with_reducible apply closeMirror_keeps
    | with_reducible apply record_keeps
    | split
    | with_reducible refine Keeps.of_mk ?_ rfl rfl rfl rfl rfl rfl rfl rfl)

theorem logicSnapshot_keeps {s0 s : State} (h : Keeps s0 s)  :
    Keeps s0 (State.logicSnapshot s) := by
  unfold State.logicSnapshot
  try dsimp only
  repeat' (first
    | with_reducible assumption
    | with_reducible intro _
    | with_reducible apply record_keeps
    | split
    | with_reducible refine Keeps.of_mk ?_ rfl rfl rfl rfl rfl rfl rfl rfl)

theorem logicTurn_keeps {s0 s : State} (h : Keeps s0 s)  :
    Keeps s0 (State.logicTurn s) := by
  unfold State.logicTurn
  try dsimp only
  repeat' (first
    | with_reducible assumption
    | with_reducible intro _
    | split
    | with_reducible refine Keeps.of_mk ?_ rfl rfl rfl rfl rfl rfl rfl rfl)

theorem stopLogic_keeps {s0 s : State} (h : Keeps s0 s)  :
    Keeps s0 (State.stopLogic s) := by
  unfold State.stopLogic
  try dsimp only
  repeat' (first
    | with_reducible assumption
    | with_reducible intro _
    | with_reducible apply setLogicState_keeps
    | split
    | with_reducible refine Keeps.of_mk ?_ rfl rfl rfl rfl rfl rfl rfl rfl)

theorem execCmdLogicLoad_keeps {s : State} (h : Hdr) (off : W32) (data : List Byte) :
    ∃ t', execCmdLogicLoad h off data s = .next t' ∧ Keeps s t' := by
  unfold execCmdLogicLoad
  refine act_keeps fun s h => ?_
  try dsimp only
  repeat' (first
    | with_reducible assumption
    | with_reducible intro _
    | with_reducible apply reply_keeps
    | with_reducible apply command_keeps
    | with_reducible apply showProgram_keeps
    | split
    | with_reducible refine Keeps.of_mk ?_ rfl rfl rfl rfl rfl rfl rfl rfl)

theorem execCmdLogicChange_keeps {s : State} (h : Hdr) (replace : Byte) :
    ∃ t', execCmdLogicChange h replace s = .next t' ∧ Keeps s t' := by
  unfold execCmdLogicChange
  refine act_keeps fun s h => ?_
  try dsimp only
  repeat' (first
    | with_reducible assumption
    | with_reducible intro _
    | with_reducible apply reply_keeps
    | with_reducible apply command_keeps
    | with_reducible apply wr_keeps
    | split
    | with_reducible refine Keeps.of_mk ?_ rfl rfl rfl rfl rfl rfl rfl rfl)

theorem dropChange_keeps {s0 s : State} (h : Keeps s0 s)  :
    Keeps s0 (State.dropChange s) := by
  unfold State.dropChange
  try dsimp only
  repeat' (first
    | with_reducible assumption
    | with_reducible intro _
    | with_reducible apply wr_keeps
    | with_reducible apply start_keeps
    | split
    | with_reducible refine Keeps.of_mk ?_ rfl rfl rfl rfl rfl rfl rfl rfl)

theorem takeProgram_keeps {s0 s : State} (h : Keeps s0 s) (c : LogicChange) (i : ProgInfo) :
    Keeps s0 (State.takeProgram s c i) := by
  unfold State.takeProgram
  try dsimp only
  repeat' (first
    | with_reducible assumption
    | with_reducible intro _
    | with_reducible apply showProgram_keeps
    | with_reducible apply respond_keeps
    | split
    | with_reducible refine Keeps.of_mk ?_ rfl rfl rfl rfl rfl rfl rfl rfl)

theorem execLogicValidationDone_keeps {s : State} (i : ProgInfo) :
    ∃ t', execLogicValidationDone i s = .next t' ∧ Keeps s t' := by
  unfold execLogicValidationDone
  refine act_keeps fun s h => ?_
  try dsimp only
  repeat' (first
    | with_reducible assumption
    | with_reducible intro _
    | with_reducible apply dropChange_keeps
    | with_reducible apply respond_keeps
    | with_reducible apply takeProgram_keeps
    | with_reducible apply start_keeps
    | with_reducible apply command_keeps
    | split
    | with_reducible refine Keeps.of_mk ?_ rfl rfl rfl rfl rfl rfl rfl rfl)

theorem abandonChange_keeps {s0 s : State} (h : Keeps s0 s)  :
    Keeps s0 (State.abandonChange s) := by
  unfold State.abandonChange
  try dsimp only
  repeat' (first
    | with_reducible assumption
    | with_reducible intro _
    | with_reducible apply dropChange_keeps
    | with_reducible apply emit_keeps
    | with_reducible apply respond_keeps
    | split
    | with_reducible refine Keeps.of_mk ?_ rfl rfl rfl rfl rfl rfl rfl rfl)

theorem execCmdLogicStart_keeps {s : State} (h : Hdr) (cold : Byte) :
    ∃ t', execCmdLogicStart h cold s = .next t' ∧ Keeps s t' := by
  unfold execCmdLogicStart
  refine act_keeps fun s h => ?_
  try dsimp only
  repeat' (first
    | with_reducible assumption
    | with_reducible intro _
    | with_reducible apply reply_keeps
    | with_reducible apply command_keeps
    | with_reducible apply abandonChange_keeps
    | split
    | with_reducible refine Keeps.of_mk ?_ rfl rfl rfl rfl rfl rfl rfl rfl)

theorem execCmdLogicStop_keeps {s : State} (h : Hdr) :
    ∃ t', execCmdLogicStop h s = .next t' ∧ Keeps s t' := by
  unfold execCmdLogicStop
  refine act_keeps fun s h => ?_
  try dsimp only
  repeat' (first
    | with_reducible assumption
    | with_reducible intro _
    | with_reducible apply reply_keeps
    | with_reducible apply command_keeps
    | with_reducible apply stopLogic_keeps
    | split
    | with_reducible refine Keeps.of_mk ?_ rfl rfl rfl rfl rfl rfl rfl rfl)

theorem execCmdLogicForce_keeps {s : State} (h : Hdr) (t : ForceTarget) (typ : Byte) (val : List Byte) :
    ∃ t', execCmdLogicForce h t typ val s = .next t' ∧ Keeps s t' := by
  unfold execCmdLogicForce
  refine act_keeps fun s h => ?_
  try dsimp only
  repeat' (first
    | with_reducible assumption
    | with_reducible intro _
    | with_reducible apply reply_keeps
    | with_reducible apply command_keeps
    | split
    | with_reducible refine Keeps.of_mk ?_ rfl rfl rfl rfl rfl rfl rfl rfl)

theorem execCmdLogicUnforce_keeps {s : State} (h : Hdr) (t : Option ForceTarget) :
    ∃ t', execCmdLogicUnforce h t s = .next t' ∧ Keeps s t' := by
  unfold execCmdLogicUnforce
  refine act_keeps fun s h => ?_
  try dsimp only
  repeat' (first
    | with_reducible assumption
    | with_reducible intro _
    | with_reducible apply reply_keeps
    | with_reducible apply command_keeps
    | split
    | with_reducible refine Keeps.of_mk ?_ rfl rfl rfl rfl rfl rfl rfl rfl)

theorem execCmdLogicReport_keeps {s : State} (h : Hdr) (first : W32) :
    ∃ t', execCmdLogicReport h first s = .next t' ∧ Keeps s t' := by
  unfold execCmdLogicReport
  refine act_keeps fun s h => ?_
  try dsimp only
  repeat' (first
    | with_reducible assumption
    | with_reducible intro _
    | with_reducible apply reply_keeps
    | with_reducible apply command_keeps
    | with_reducible refine Keeps.foldl ?_ ?_ _
    | split
    | with_reducible refine Keeps.of_mk ?_ rfl rfl rfl rfl rfl rfl rfl rfl)

theorem execCmdLogicVarRead_keeps {s : State} (h : Hdr) (path : List Byte) :
    ∃ t', execCmdLogicVarRead h path s = .next t' ∧ Keeps s t' := by
  unfold execCmdLogicVarRead
  refine act_keeps fun s h => ?_
  try dsimp only
  repeat' (first
    | with_reducible assumption
    | with_reducible intro _
    | with_reducible apply reply_keeps
    | with_reducible apply command_keeps
    | split
    | with_reducible refine Keeps.of_mk ?_ rfl rfl rfl rfl rfl rfl rfl rfl)

end Sys2Proof.Machine
end

