-- ==== Sys2Proof/Laws/KeepsLoops.lean ====
section
/-! SUPPORT. What the functions of Machine/Loops.lean keep. -/

namespace Sys2Proof.Machine

theorem setLoop_keeps {s0 s : State} (h : Keeps s0 s) (l : Nat) (r : LoopRt) :
    Keeps s0 (State.setLoop s l r) := by
  unfold State.setLoop
  try dsimp only
  repeat' (first
    | with_reducible assumption
    | with_reducible intro _
    | split
    | with_reducible refine Keeps.of_mk ?_ rfl rfl rfl rfl rfl rfl rfl rfl)

theorem noteTestEnd_keeps {s0 s : State} (h : Keeps s0 s)  :
    Keeps s0 (State.noteTestEnd s) := by
  unfold State.noteTestEnd
  try dsimp only
  repeat' (first
    | with_reducible assumption
    | with_reducible intro _
    | split
    | with_reducible refine Keeps.of_mk ?_ rfl rfl rfl rfl rfl rfl rfl rfl)

theorem commitLoop_keeps {s0 s : State} (h : Keeps s0 s) (sels : List (Nat × F32 × Nat)) (t : LoopTick) :
    Keeps s0 (State.commitLoop s sels t) := by
  unfold State.commitLoop
  try dsimp only
  repeat' (first
    | with_reducible assumption
    | with_reducible intro _
    | with_reducible apply setLoop_keeps
    | with_reducible apply inc_keeps
    | with_reducible apply wrFlag_keeps
    | with_reducible apply wr_keeps
    | split
    | with_reducible refine Keeps.of_mk ?_ rfl rfl rfl rfl rfl rfl rfl rfl)

theorem captureSample_keeps {s0 s : State} (h : Keeps s0 s) (ts : List LoopTick) :
    Keeps s0 (State.captureSample s ts) := by
  unfold State.captureSample
  try dsimp only
  repeat' (first
    | with_reducible assumption
    | with_reducible intro _
    | with_reducible apply wr_keeps
    | with_reducible refine Keeps.foldl ?_ ?_ _
    | split
    | with_reducible refine Keeps.of_mk ?_ rfl rfl rfl rfl rfl rfl rfl rfl)

theorem advanceTest_keeps {s0 s : State} (h : Keeps s0 s)  :
    Keeps s0 (State.advanceTest s) := by
  unfold State.advanceTest
  try dsimp only
  repeat' (first
    | with_reducible assumption
    | with_reducible intro _
    | split
    | with_reducible refine Keeps.of_mk ?_ rfl rfl rfl rfl rfl rfl rfl rfl)

theorem keepLoops_keeps {s0 s : State} (h : Keeps s0 s)  :
    Keeps s0 (State.keepLoops s) := by
  unfold State.keepLoops
  try dsimp only
  repeat' (first
    | with_reducible assumption
    | with_reducible intro _
    | with_reducible apply record_keeps
    | with_reducible refine Keeps.foldl ?_ ?_ _
    | split
    | with_reducible refine Keeps.of_mk ?_ rfl rfl rfl rfl rfl rfl rfl rfl)

theorem endAbsent_keeps {s0 s : State} (h : Keeps s0 s)  :
    Keeps s0 (State.endAbsent s) := by
  unfold State.endAbsent
  try dsimp only
  repeat' (first
    | with_reducible assumption
    | with_reducible intro _
    | split
    | with_reducible refine Keeps.of_mk ?_ rfl rfl rfl rfl rfl rfl rfl rfl)

theorem tickLoops_keeps {s0 s : State} (h : Keeps s0 s)  :
    Keeps s0 (State.tickLoops s) := by
  unfold State.tickLoops
  try dsimp only
  repeat' (first
    | with_reducible assumption
    | with_reducible intro _
    | with_reducible apply noteTestEnd_keeps
    | with_reducible apply wr_keeps
    | with_reducible apply commitLoop_keeps
    | with_reducible apply inc_keeps
    | with_reducible apply captureSample_keeps
    | with_reducible apply advanceTest_keeps
    | with_reducible apply keepLoops_keeps
    | with_reducible apply endAbsent_keeps
    | with_reducible refine Keeps.foldl ?_ ?_ _
    | split
    | with_reducible refine Keeps.of_mk ?_ rfl rfl rfl rfl rfl rfl rfl rfl)

theorem driveAnalog_keeps {s0 s : State} (h : Keeps s0 s) (hold : Bool) (n : Nat) :
    Keeps s0 (State.driveAnalog s hold n) := by
  unfold State.driveAnalog
  try dsimp only
  repeat' (first
    | with_reducible assumption
    | with_reducible intro _
    | with_reducible apply put_keeps
    | with_reducible apply wrFlag_keeps
    | with_reducible apply command_keeps
    | split
    | with_reducible refine Keeps.of_mk ?_ rfl rfl rfl rfl rfl rfl rfl rfl)

theorem driveCommand_keeps {s0 s : State} (h : Keeps s0 s) (hold : Bool) (tick : Nat) (i : Fin 32) :
    Keeps s0 (State.driveCommand s hold tick i) := by
  unfold State.driveCommand
  try dsimp only
  repeat' (first
    | with_reducible assumption
    | with_reducible intro _
    | with_reducible apply queueTx_keeps
    | with_reducible apply command_keeps
    | split
    | with_reducible refine Keeps.of_mk ?_ rfl rfl rfl rfl rfl rfl rfl rfl)

theorem foldDigest_keeps {s0 s : State} (h : Keeps s0 s)  :
    Keeps s0 (State.foldDigest s) := by
  unfold State.foldDigest
  try dsimp only
  repeat' (first
    | with_reducible assumption
    | with_reducible intro _
    | with_reducible apply command_keeps
    | split
    | with_reducible refine Keeps.of_mk ?_ rfl rfl rfl rfl rfl rfl rfl rfl)

theorem driveOutputs_keeps {s0 s : State} (h : Keeps s0 s) (tick : Nat) :
    Keeps s0 (State.driveOutputs s tick) := by
  unfold State.driveOutputs
  try dsimp only
  repeat' (first
    | with_reducible assumption
    | with_reducible intro _
    | with_reducible apply wr_keeps
    | with_reducible apply driveAnalog_keeps
    | with_reducible apply driveCommand_keeps
    | with_reducible apply wrFlag_keeps
    | with_reducible apply inc_keeps
    | with_reducible refine Keeps.foldl ?_ ?_ _
    | split
    | with_reducible refine Keeps.of_mk ?_ rfl rfl rfl rfl rfl rfl rfl rfl)

theorem loopEvent_keeps {s0 s : State} (h : Keeps s0 s) (l clear : Nat) :
    Keeps s0 (State.loopEvent s l clear) := by
  unfold State.loopEvent
  try dsimp only
  repeat' (first
    | with_reducible assumption
    | with_reducible intro _
    | with_reducible apply emit_keeps
    | split
    | with_reducible refine Keeps.of_mk ?_ rfl rfl rfl rfl rfl rfl rfl rfl)

theorem execLoopFaultCount_keeps {s : State} (l : Fin 128) :
    ∃ t', execLoopFaultCount l s = .next t' ∧ Keeps s t' := by
  unfold execLoopFaultCount
  refine act_keeps fun s h => ?_
  try dsimp only
  repeat' (first
    | with_reducible assumption
    | with_reducible intro _
    | with_reducible apply setLoop_keeps
    | with_reducible apply wr_keeps
    | with_reducible apply loopEvent_keeps
    | split
    | with_reducible refine Keeps.of_mk ?_ rfl rfl rfl rfl rfl rfl rfl rfl)

theorem execLoopRecovery_keeps {s : State} (l : Fin 128) :
    ∃ t', execLoopRecovery l s = .next t' ∧ Keeps s t' := by
  unfold execLoopRecovery
  refine act_keeps fun s h => ?_
  try dsimp only
  repeat' (first
    | with_reducible assumption
    | with_reducible intro _
    | with_reducible apply setLoop_keeps
    | with_reducible apply wr_keeps
    | with_reducible apply loopEvent_keeps
    | with_reducible apply record_keeps
    | split
    | with_reducible refine Keeps.of_mk ?_ rfl rfl rfl rfl rfl rfl rfl rfl)

theorem execApplyTick_keeps {s : State} (intact : Bool) :
    ∃ t', execApplyTick intact s = .next t' ∧ Keeps s t' := by
  unfold execApplyTick
  refine act_keeps fun s h => ?_
  try dsimp only
  repeat' (first
    | with_reducible assumption
    | with_reducible intro _
    | with_reducible apply record_keeps
    | with_reducible apply wr_keeps
    | with_reducible apply emit_keeps
    | split
    | with_reducible refine Keeps.of_mk ?_ rfl rfl rfl rfl rfl rfl rfl rfl)

theorem execSpHoldExpiry_keeps {s : State}  :
    ∃ t', execSpHoldExpiry s = .next t' ∧ Keeps s t' := by
  unfold execSpHoldExpiry
  refine act_keeps fun s h => ?_
  try dsimp only
  repeat' (first
    | with_reducible assumption
    | with_reducible intro _
    | with_reducible apply record_keeps
    | split
    | with_reducible refine Keeps.of_mk ?_ rfl rfl rfl rfl rfl rfl rfl rfl)

theorem execCmdLoopTest_keeps {s : State} (h : Hdr) (loop point kind : Byte) (amp : F32) (hold : Byte) (f0 f1 : F32) (dur : W32) (decim : Byte) :
    ∃ t', execCmdLoopTest h loop point kind amp hold f0 f1 dur decim s = .next t' ∧ Keeps s t' := by
  unfold execCmdLoopTest
  refine act_keeps fun s h => ?_
  try dsimp only
  repeat' (first
    | with_reducible assumption
    | with_reducible intro _
    | with_reducible apply reply_keeps
    | with_reducible apply command_keeps
    | with_reducible apply capture_keeps
    | split
    | with_reducible refine Keeps.of_mk ?_ rfl rfl rfl rfl rfl rfl rfl rfl)

theorem beginTest_keeps {s0 s : State} (h : Keeps s0 s) (t : LoopTest) :
    Keeps s0 (State.beginTest s t) := by
  unfold State.beginTest
  try dsimp only
  repeat' (first
    | with_reducible assumption
    | with_reducible intro _
    | with_reducible apply wr_keeps
    | with_reducible apply emit_keeps
    | split
    | with_reducible refine Keeps.of_mk ?_ rfl rfl rfl rfl rfl rfl rfl rfl)

theorem execLoopTestStart_keeps {s : State}  :
    ∃ t', execLoopTestStart s = .next t' ∧ Keeps s t' := by
  unfold execLoopTestStart
  refine act_keeps fun s h => ?_
  try dsimp only
  repeat' (first
    | with_reducible assumption
    | with_reducible intro _
    | with_reducible apply beginTest_keeps
    | split
    | with_reducible refine Keeps.of_mk ?_ rfl rfl rfl rfl rfl rfl rfl rfl)

theorem finishTest_keeps {s0 s : State} (h : Keeps s0 s) (t : LoopTest) (why : Nat) :
    Keeps s0 (State.finishTest s t why) := by
  unfold State.finishTest
  try dsimp only
  repeat' (first
    | with_reducible assumption
    | with_reducible intro _
    | with_reducible apply wr_keeps
    | with_reducible apply emit_keeps
    | split
    | with_reducible refine Keeps.of_mk ?_ rfl rfl rfl rfl rfl rfl rfl rfl)

theorem execLoopTestEnd_keeps {s : State}  :
    ∃ t', execLoopTestEnd s = .next t' ∧ Keeps s t' := by
  unfold execLoopTestEnd
  refine act_keeps fun s h => ?_
  try dsimp only
  repeat' (first
    | with_reducible assumption
    | with_reducible intro _
    | with_reducible apply finishTest_keeps
    | split
    | with_reducible refine Keeps.of_mk ?_ rfl rfl rfl rfl rfl rfl rfl rfl)

theorem execCmdLoopTestStop_keeps {s : State} (h : Hdr) :
    ∃ t', execCmdLoopTestStop h s = .next t' ∧ Keeps s t' := by
  unfold execCmdLoopTestStop
  refine act_keeps fun s h => ?_
  try dsimp only
  repeat' (first
    | with_reducible assumption
    | with_reducible intro _
    | with_reducible apply reply_keeps
    | with_reducible apply command_keeps
    | split
    | with_reducible refine Keeps.of_mk ?_ rfl rfl rfl rfl rfl rfl rfl rfl)

theorem execCmdLoopCaptureRead_keeps {s : State} (h : Hdr) (first : W32) (count : W32) :
    ∃ t', execCmdLoopCaptureRead h first count s = .next t' ∧ Keeps s t' := by
  unfold execCmdLoopCaptureRead
  refine act_keeps fun s h => ?_
  try dsimp only
  repeat' (first
    | with_reducible assumption
    | with_reducible intro _
    | with_reducible apply reply_keeps
    | with_reducible apply command_keeps
    | split
    | with_reducible refine Keeps.of_mk ?_ rfl rfl rfl rfl rfl rfl rfl rfl)

theorem loopFrame_keeps {s0 s : State} (h : Keeps s0 s)  :
    Keeps s0 (State.loopFrame s) := by
  unfold State.loopFrame
  try dsimp only
  repeat' (first
    | with_reducible assumption
    | with_reducible intro _
    | with_reducible apply wrFlag_keeps
    | with_reducible apply wr_keeps
    | with_reducible refine Keeps.foldl ?_ ?_ _
    | split
    | with_reducible refine Keeps.of_mk ?_ rfl rfl rfl rfl rfl rfl rfl rfl)

theorem loopTurnOne_keeps {s0 s : State} (h : Keeps s0 s) (old : Folio) (l : Nat) :
    Keeps s0 (State.loopTurnOne s old l) := by
  unfold State.loopTurnOne
  try dsimp only
  repeat' (first
    | with_reducible assumption
    | with_reducible intro _
    | with_reducible apply setLoop_keeps
    | with_reducible apply start_keeps
    | with_reducible apply wr_keeps
    | with_reducible refine Keeps.foldl ?_ ?_ _
    | split
    | with_reducible refine Keeps.of_mk ?_ rfl rfl rfl rfl rfl rfl rfl rfl)

theorem loopTurn_keeps {s0 s : State} (h : Keeps s0 s) (old : Folio) :
    Keeps s0 (State.loopTurn s old) := by
  unfold State.loopTurn
  try dsimp only
  repeat' (first
    | with_reducible assumption
    | with_reducible intro _
    | with_reducible apply loopTurnOne_keeps
    | with_reducible apply wr_keeps
    | with_reducible refine Keeps.foldl ?_ ?_ _
    | split
    | with_reducible refine Keeps.of_mk ?_ rfl rfl rfl rfl rfl rfl rfl rfl)

end Sys2Proof.Machine
end

