-- ==== Sys2Proof/Laws/KeepsSpine.lean ====
section
/-! SUPPORT. What the functions of Machine/Spine.lean keep. -/

namespace Sys2Proof.Machine

/-- The cells of other keys stay. -/
theorem lookup_without {α : Type} (k n : Nat) (cells : List (Nat × α)) :
    lookupCell n (cells.filter fun c => c.1 != k) = if n = k then none else lookupCell n cells := by
  induction cells with
  | nil => simp [lookupCell]
  | cons c rest ih =>
    obtain ⟨a, x⟩ := c
    by_cases ha : a = k
    · subst ha
      by_cases hn : n = a
      · subst hn; simpa using ih
      · simp [lookupCell, ih, hn, Ne.symm hn]
    · by_cases hn : n = k
      · subst hn; simp [lookupCell, ih, ha]
      · simp [lookupCell, ih, ha, hn]

theorem rejectMessage_keeps {s0 s t : State} (hs : Keeps s0 s) (ht : Keeps s0 t) (k : Fin 4) (slot : Byte) (c : W64)
    (tag m : List Byte) (ports : UdpPorts) : Keeps s0 (s.rejectMessage t k slot c tag m ports) := by
  unfold State.rejectMessage
  dsimp only
  split
  · exact inc_keeps ht _
  · split
    · exact spineCommand_keeps ht _ _ _ fun _ hx => hx
    · split
      · exact inc_keeps ht _
      · exact spineCommand_keeps ht _ _ _ fun _ hx => hx
      · exact hs

theorem execHeartbeatTx_keeps {s : State}  :
    ∃ t', execHeartbeatTx s = .next t' ∧ Keeps s t' := by
  unfold execHeartbeatTx
  refine act_keeps fun s h => ?_
  try dsimp only
  repeat' (first
    | with_reducible assumption
    | with_reducible intro _
    | with_reducible apply sendHeartbeat_keeps
    | split
    | with_reducible refine Keeps.of_mk ?_ rfl rfl rfl rfl rfl rfl rfl rfl)

theorem heardOn_keeps {s0 s : State} (h : Keeps s0 s) (p port : Nat) :
    Keeps s0 (State.heardOn s p port) := by
  unfold State.heardOn
  try dsimp only
  repeat' (first
    | with_reducible assumption
    | with_reducible intro _
    | split
    | with_reducible refine Keeps.of_mk ?_ rfl rfl rfl rfl rfl rfl rfl rfl)

theorem heardPartner_keeps {s0 s : State} (h : Keeps s0 s) (p frame epoch atUs : Nat) :
    Keeps s0 (State.heardPartner s p frame epoch atUs) := by
  unfold State.heardPartner
  try dsimp only
  repeat' (first
    | with_reducible assumption
    | with_reducible intro _
    | split
    | with_reducible refine Keeps.of_mk ?_ rfl rfl rfl rfl rfl rfl rfl rfl)

theorem takeHeartbeat_keeps {s0 s : State} (h : Keeps s0 s) (hb : Heartbeat) (p : Nat) :
    Keeps s0 (State.takeHeartbeat s hb p) := by
  unfold State.takeHeartbeat
  try dsimp only
  repeat' (first
    | with_reducible assumption
    | with_reducible intro _
    | with_reducible apply heardPartner_keeps
    | with_reducible apply heardOn_keeps
    | with_reducible apply authReject_keeps
    | split
    | with_reducible refine Keeps.of_mk ?_ rfl rfl rfl rfl rfl rfl rfl rfl)

theorem execHeartbeatRx_keeps {s : State} (hb : Heartbeat) :
    ∃ t', execHeartbeatRx hb s = .next t' ∧ Keeps s t' := by
  unfold execHeartbeatRx
  refine act_keeps fun s h => ?_
  try dsimp only
  repeat' (first
    | with_reducible assumption
    | with_reducible intro _
    | with_reducible apply authReject_keeps
    | with_reducible apply inc_keeps
    | with_reducible apply takeHeartbeat_keeps
    | split
    | with_reducible refine Keeps.of_mk ?_ rfl rfl rfl rfl rfl rfl rfl rfl)

theorem setPartner_keeps {s0 s : State} (h : Keeps s0 s) (p state single grid : Nat) :
    Keeps s0 (State.setPartner s p state single grid) := by
  unfold State.setPartner
  try dsimp only
  repeat' (first
    | with_reducible assumption
    | with_reducible intro _
    | with_reducible apply wr_keeps
    | with_reducible apply emit_keeps
    | split
    | with_reducible refine Keeps.of_mk ?_ rfl rfl rfl rfl rfl rfl rfl rfl)

theorem execPartnerLost_keeps {s : State} (p : Fin 3) :
    ∃ t', execPartnerLost p s = .next t' ∧ Keeps s t' := by
  unfold execPartnerLost
  refine act_keeps fun s h => ?_
  try dsimp only
  repeat' (first
    | with_reducible assumption
    | with_reducible intro _
    | with_reducible apply setPartner_keeps
    | split
    | with_reducible refine Keeps.of_mk ?_ rfl rfl rfl rfl rfl rfl rfl rfl)

theorem judgePartner_keeps {s0 s : State} (h : Keeps s0 s) (p : Nat) :
    Keeps s0 (State.judgePartner s p) := by
  unfold State.judgePartner
  try dsimp only
  repeat' (first
    | with_reducible assumption
    | with_reducible intro _
    | with_reducible apply setPartner_keeps
    | split
    | with_reducible refine Keeps.of_mk ?_ rfl rfl rfl rfl rfl rfl rfl rfl)

theorem spineFrame_keeps {s0 s : State} (h : Keeps s0 s)  :
    Keeps s0 (State.spineFrame s) := by
  unfold State.spineFrame
  try dsimp only
  repeat' (first
    | with_reducible assumption
    | with_reducible intro _
    | with_reducible apply judgePartner_keeps
    | with_reducible refine Keeps.foldl ?_ ?_ _
    | split
    | with_reducible refine Keeps.of_mk ?_ rfl rfl rfl rfl rfl rfl rfl rfl)

theorem dropPath_keeps {s0 s : State} (h : Keeps s0 s) (q : Nat) :
    Keeps s0 (State.dropPath s q) := by
  unfold State.dropPath
  try dsimp only
  repeat' (first
    | with_reducible assumption
    | with_reducible intro _
    | with_reducible refine Keeps.foldl ?_ ?_ _
    | split
    | with_reducible refine Keeps.of_mk ?_ rfl rfl rfl rfl rfl rfl rfl rfl)

theorem setLink_keeps {s0 s : State} (h : Keeps s0 s) (q new : Nat) :
    Keeps s0 (State.setLink s q new) := by
  unfold State.setLink
  try dsimp only
  repeat' (first
    | with_reducible assumption
    | with_reducible intro _
    | with_reducible apply wr_keeps
    | with_reducible apply dropPath_keeps
    | with_reducible apply joinGroups_keeps
    | with_reducible apply emit_keeps
    | split
    | with_reducible refine Keeps.of_mk ?_ rfl rfl rfl rfl rfl rfl rfl rfl)

theorem execSpineLinkChange_keeps {s : State} (port : Fin 8) (speed : Fin 3) :
    ∃ t', execSpineLinkChange port speed s = .next t' ∧ Keeps s t' := by
  unfold execSpineLinkChange
  refine act_keeps fun s h => ?_
  try dsimp only
  repeat' (first
    | with_reducible assumption
    | with_reducible intro _
    | with_reducible apply setLink_keeps
    | split
    | with_reducible refine Keeps.of_mk ?_ rfl rfl rfl rfl rfl rfl rfl rfl)

theorem forgetHost_keeps {s0 s : State} (h : Keeps s0 s) (k : Nat) : Keeps s0 (s.forgetHost k) := by
  refine ⟨h.pending, fun x => ?_⟩
  have y := h.sound x
  refine ⟨y.regs, y.mailboxes, y.queue, fun n => ?_, y.faultLog, y.inputPower, y.commits⟩
  have r := y.responses n
  simp only [State.forgetHost, Store.get, lookup_without] at r ⊢
  by_cases e : n = k
  · simp [e, noKept]
  · simpa [e] using r

theorem spineTurn_keeps {s0 s : State} (h : Keeps s0 s) (old : Folio) :
    Keeps s0 (State.spineTurn s old) := by
  unfold State.spineTurn
  try dsimp only
  repeat' (first
    | with_reducible assumption
    | with_reducible intro _
    | with_reducible apply setLink_keeps
    | with_reducible apply forgetHost_keeps
    | with_reducible apply setPartner_keeps
    | with_reducible refine Keeps.foldl ?_ ?_ _
    | split
    | with_reducible refine Keeps.of_mk ?_ rfl rfl rfl rfl rfl rfl rfl rfl)

theorem execSupervisionTx_keeps {s : State}  :
    ∃ t', execSupervisionTx s = .next t' ∧ Keeps s t' := by
  unfold execSupervisionTx
  refine act_keeps fun s h => ?_
  try dsimp only
  repeat' (first
    | with_reducible assumption
    | with_reducible intro _
    | with_reducible apply put_keeps
    | split
    | with_reducible refine Keeps.of_mk ?_ rfl rfl rfl rfl rfl rfl rfl rfl)

theorem execSupervisionRx_keeps {s : State} (src : BitVec 48) (port : Fin 2) :
    ∃ t', execSupervisionRx src port s = .next t' ∧ Keeps s t' := by
  unfold execSupervisionRx
  refine act_keeps fun s h => ?_
  try dsimp only
  repeat' (first
    | with_reducible assumption
    | with_reducible intro _
    | split
    | with_reducible refine Keeps.of_mk ?_ rfl rfl rfl rfl rfl rfl rfl rfl)

theorem execMacAgeExpiry_keeps {s : State} (mac : BitVec 48) :
    ∃ t', execMacAgeExpiry mac s = .next t' ∧ Keeps s t' := by
  unfold execMacAgeExpiry
  refine act_keeps fun s h => ?_
  try dsimp only
  repeat' (first
    | with_reducible assumption
    | with_reducible intro _
    | split
    | with_reducible refine Keeps.of_mk ?_ rfl rfl rfl rfl rfl rfl rfl rfl)

theorem execPrpEntryForget_keeps {s : State} (src : BitVec 48) (seq : W16) :
    ∃ t', execPrpEntryForget src seq s = .next t' ∧ Keeps s t' := by
  unfold execPrpEntryForget
  refine act_keeps fun s h => ?_
  try dsimp only
  repeat' (first
    | with_reducible assumption
    | with_reducible intro _
    | split
    | with_reducible refine Keeps.of_mk ?_ rfl rfl rfl rfl rfl rfl rfl rfl)

theorem execReassemblyTimeout_keeps {s : State} (ident : W16) :
    ∃ t', execReassemblyTimeout ident s = .next t' ∧ Keeps s t' := by
  unfold execReassemblyTimeout
  refine act_keeps fun s h => ?_
  try dsimp only
  repeat' (first
    | with_reducible assumption
    | with_reducible intro _
    | split
    | with_reducible refine Keeps.of_mk ?_ rfl rfl rfl rfl rfl rfl rfl rfl)

theorem countPort_keeps {s0 s : State} (h : Keeps s0 s) (q c : Nat) :
    Keeps s0 (State.countPort s q c) := by
  unfold State.countPort
  try dsimp only
  repeat' (first
    | with_reducible assumption
    | with_reducible intro _
    | with_reducible apply inc_keeps
    | split
    | with_reducible refine Keeps.of_mk ?_ rfl rfl rfl rfl rfl rfl rfl rfl)

theorem learn_keeps {s0 s : State} (h : Keeps s0 s) (q : Nat) (m : BitVec 48) :
    Keeps s0 (State.learn s q m) := by
  unfold State.learn
  try dsimp only
  repeat' (first
    | with_reducible assumption
    | with_reducible intro _
    | split
    | with_reducible refine Keeps.of_mk ?_ rfl rfl rfl rfl rfl rfl rfl rfl)

theorem proxy_keeps {s0 s : State} (h : Keeps s0 s) (ps : List Nat) (f : EthFrame) :
    Keeps s0 (State.proxy s ps f).1 := by
  unfold State.proxy
  try dsimp only
  repeat' (first
    | with_reducible assumption
    | with_reducible intro _
    | split
    | with_reducible refine Keeps.of_mk ?_ rfl rfl rfl rfl rfl rfl rfl rfl)

theorem proxy_keeps_of {s0 s a : State} {rb : EthFrame} (h : Keeps s0 s) (ps : List Nat) (f : EthFrame) (e : (State.proxy s ps f) = (a, rb)) : Keeps s0 a := by
  have k := proxy_keeps h ps f
  rw [e] at k
  exact k

theorem internalFrame_keeps {s0 s : State} (h : Keeps s0 s) (f : EthFrame) :
    Keeps s0 (State.internalFrame s f) := by
  unfold State.internalFrame
  try dsimp only
  repeat' (first
    | with_reducible assumption
    | with_reducible intro _
    | split
    | with_reducible refine Keeps.of_mk ?_ rfl rfl rfl rfl rfl rfl rfl rfl)

theorem answerAsk_keeps {s0 s : State} (h : Keeps s0 s) (q : Nat) (f : EthFrame) :
    Keeps s0 (State.answerAsk s q f) := by
  unfold State.answerAsk
  try dsimp only
  repeat' (first
    | with_reducible assumption
    | with_reducible intro _
    | with_reducible apply put_keeps
    | with_reducible apply ring_keeps
    | split
    | with_reducible refine Keeps.of_mk ?_ rfl rfl rfl rfl rfl rfl rfl rfl)

theorem noteFrame_keeps {s0 s : State} (h : Keeps s0 s) (q : Nat) (f : EthFrame) :
    Keeps s0 (State.noteFrame s q f) := by
  unfold State.noteFrame
  try dsimp only
  repeat' (first
    | with_reducible assumption
    | with_reducible intro _
    | split
    | with_reducible refine Keeps.of_mk ?_ rfl rfl rfl rfl rfl rfl rfl rfl)

theorem answerGet_keeps {s0 s : State} (h : Keeps s0 s) (q : Nat) (f : EthFrame) :
    Keeps s0 (State.answerGet s q f) := by
  unfold State.answerGet
  try dsimp only
  repeat' (first
    | with_reducible assumption
    | with_reducible intro _
    | with_reducible apply put_keeps
    | split
    | with_reducible refine Keeps.of_mk ?_ rfl rfl rfl rfl rfl rfl rfl rfl)

theorem sendFrame_keeps {s0 s : State} (h : Keeps s0 s) (q v : Nat) (f : EthFrame) (p : Nat) :
    Keeps s0 (State.sendFrame s q v f p) := by
  unfold State.sendFrame
  try dsimp only
  repeat' (first
    | with_reducible assumption
    | with_reducible intro _
    | with_reducible apply countPort_keeps
    | with_reducible apply internalFrame_keeps
    | with_reducible apply answerAsk_keeps
    | with_reducible apply put_keeps
    | with_reducible apply ingress_keeps
    | split
    | with_reducible refine Keeps.of_mk ?_ rfl rfl rfl rfl rfl rfl rfl rfl)

theorem forward_keeps {s0 s : State} (h : Keeps s0 s) (q v : Nat) (f : EthFrame) :
    Keeps s0 (State.forward s q v f) := by
  unfold State.forward
  try dsimp only
  repeat' (first
    | with_reducible assumption
    | with_reducible intro _
    | with_reducible apply noteFrame_keeps
    | with_reducible apply learn_keeps
    | with_reducible apply answerGet_keeps
    | with_reducible apply proxy_keeps
    | with_reducible refine proxy_keeps_of ?_ (by with_reducible assumption)
    | with_reducible apply sendFrame_keeps
    | with_reducible refine Keeps.foldl ?_ ?_ _
    | split
    | with_reducible refine Keeps.of_mk ?_ rfl rfl rfl rfl rfl rfl rfl rfl)

theorem forwardLimited_keeps {s0 s : State} (h : Keeps s0 s) (q v : Nat) (f : EthFrame) :
    Keeps s0 (State.forwardLimited s q v f) := by
  unfold State.forwardLimited
  try dsimp only
  repeat' (first
    | with_reducible assumption
    | with_reducible intro _
    | with_reducible apply countPort_keeps
    | with_reducible apply forward_keeps
    | split
    | with_reducible refine Keeps.of_mk ?_ rfl rfl rfl rfl rfl rfl rfl rfl)

theorem forwardVlan_keeps {s0 s : State} (h : Keeps s0 s) (q : Nat) (f : EthFrame) :
    Keeps s0 (State.forwardVlan s q f) := by
  unfold State.forwardVlan
  try dsimp only
  repeat' (first
    | with_reducible assumption
    | with_reducible intro _
    | with_reducible apply countPort_keeps
    | with_reducible apply forwardLimited_keeps
    | with_reducible apply ring_keeps
    | split
    | with_reducible refine Keeps.of_mk ?_ rfl rfl rfl rfl rfl rfl rfl rfl)

theorem ingress_keeps {s0 s : State} (h : Keeps s0 s) (q : Nat) (f : EthFrame) :
    Keeps s0 (State.ingress s q f) := by
  unfold State.ingress
  try dsimp only
  repeat' (first
    | with_reducible assumption
    | with_reducible intro _
    | with_reducible apply countPort_keeps
    | with_reducible apply forwardVlan_keeps
    | split
    | with_reducible refine Keeps.of_mk ?_ rfl rfl rfl rfl rfl rfl rfl rfl)

theorem execSpineFrameForward_keeps {s : State} (port : Fin 9) (f : EthFrame) :
    ∃ t', execSpineFrameForward port f s = .next t' ∧ Keeps s t' := by
  unfold execSpineFrameForward
  refine act_keeps fun s h => ?_
  try dsimp only
  repeat' (first
    | with_reducible assumption
    | with_reducible intro _
    | with_reducible apply countPort_keeps
    | with_reducible apply ingress_keeps
    | split
    | with_reducible refine Keeps.of_mk ?_ rfl rfl rfl rfl rfl rfl rfl rfl)

theorem setKey_keeps {s0 s : State} (h : Keeps s0 s) (k : Nat) (key : List Byte) :
    Keeps s0 (State.setKey s k key) := by
  unfold State.setKey
  try dsimp only
  repeat' (first
    | with_reducible assumption
    | with_reducible intro _
    | with_reducible apply wr_keeps
    | split
    | with_reducible refine Keeps.of_mk ?_ rfl rfl rfl rfl rfl rfl rfl rfl)

theorem execCmdSpineKey_keeps {s : State} (h : Hdr) (slot : Byte) (key : Option (List Byte)) :
    ∃ t', execCmdSpineKey h slot key s = .next t' ∧ Keeps s t' := by
  unfold execCmdSpineKey
  refine act_keeps fun s h => ?_
  try dsimp only
  repeat' (first
    | with_reducible assumption
    | with_reducible intro _
    | with_reducible apply reply_keeps
    | with_reducible apply command_keeps
    | with_reducible apply setKey_keeps
    | split
    | with_reducible refine Keeps.of_mk ?_ rfl rfl rfl rfl rfl rfl rfl rfl)

theorem execPlezenMessageReject_keeps {s : State} (addr : UdpFrom) (bytes : List Byte) :
    ∃ t', execPlezenMessageReject addr bytes s = .next t' ∧ Keeps s t' := by
  refine act_keeps fun s h => ?_
  dsimp only
  generalize (List.finRange 4).find? _ = k
  by_cases hr : s.ready = false ∨ s.cfg F.spineIpAddr = 0 ∨ addr.ports.dst.toNat ≠ s.cfg F.spinePlezenPort
  · rw [if_pos hr]; exact h
  rw [if_neg hr]
  cases k with
  | none => exact authReject_keeps h _ _
  | some k =>
    dsimp only
    by_cases hl : bytes.length < 28
    · rw [if_pos hl]; exact authReject_keeps h _ _
    · rw [if_neg hl]
      generalize State.authFault _ _ _ _ _ _ = r
      cases r with
      | some r => exact authReject_keeps h _ _
      | none => exact rejectMessage_keeps h (acceptFrom_keeps h _ _) _ _ _ _ _ _

end Sys2Proof.Machine
end

