-- ==== Sys2Proof/Laws/KeepsJournal.lean ====
section
/-! SUPPORT. What the functions of Machine/Journal.lean keep. -/

namespace Sys2Proof.Machine

theorem checkSaturated_keeps {s0 s : State} (h : Keeps s0 s) (id : Nat) :
    Keeps s0 (State.checkSaturated s id) := by
  unfold State.checkSaturated
  try dsimp only
  repeat' (first
    | with_reducible assumption
    | with_reducible intro _
    | with_reducible apply wrFlag_keeps
    | with_reducible apply emit_keeps
    | split
    | with_reducible refine Keeps.of_mk ?_ rfl rfl rfl rfl rfl rfl rfl rfl)

theorem accrue_keeps {s0 s : State} (h : Keeps s0 s) (id n : Nat) :
    Keeps s0 (State.accrue s id n) := by
  unfold State.accrue
  try dsimp only
  repeat' (first
    | with_reducible assumption
    | with_reducible intro _
    | with_reducible apply checkSaturated_keeps
    | split
    | with_reducible refine Keeps.of_mk ?_ rfl rfl rfl rfl rfl rfl rfl rfl)

theorem showOldest_keeps {s0 s : State} (h : Keeps s0 s)  :
    Keeps s0 (State.showOldest s) := by
  unfold State.showOldest
  try dsimp only
  repeat' (first
    | with_reducible assumption
    | with_reducible intro _
    | with_reducible apply wr_keeps
    | split
    | with_reducible refine Keeps.of_mk ?_ rfl rfl rfl rfl rfl rfl rfl rfl)

theorem retireBlock_keeps {s0 s : State} (h : Keeps s0 s) (b : Nat) :
    Keeps s0 (State.retireBlock s b) := by
  unfold State.retireBlock
  try dsimp only
  repeat' (first
    | with_reducible assumption
    | with_reducible intro _
    | with_reducible apply add_keeps
    | split
    | with_reducible refine Keeps.of_mk ?_ rfl rfl rfl rfl rfl rfl rfl rfl)

theorem checkWear_keeps {s0 s : State} (h : Keeps s0 s)  :
    Keeps s0 (State.checkWear s) := by
  unfold State.checkWear
  try dsimp only
  repeat' (first
    | with_reducible assumption
    | with_reducible intro _
    | with_reducible apply emit_keeps
    | split
    | with_reducible refine Keeps.of_mk ?_ rfl rfl rfl rfl rfl rfl rfl rfl)

theorem losePage_keeps {s0 s : State} (h : Keeps s0 s) (seq : Nat) :
    Keeps s0 (State.losePage s seq) := by
  unfold State.losePage
  try dsimp only
  repeat' (first
    | with_reducible assumption
    | with_reducible intro _
    | with_reducible apply retireBlock_keeps
    | with_reducible apply checkWear_keeps
    | with_reducible apply showOldest_keeps
    | split
    | with_reducible refine Keeps.of_mk ?_ rfl rfl rfl rfl rfl rfl rfl rfl)

theorem freeOldest_keeps {s0 s : State} (h : Keeps s0 s)  :
    Keeps s0 (State.freeOldest s) := by
  unfold State.freeOldest
  try dsimp only
  repeat' (first
    | with_reducible assumption
    | with_reducible intro _
    | split
    | with_reducible refine Keeps.of_mk ?_ rfl rfl rfl rfl rfl rfl rfl rfl)

theorem countErase_keeps {s0 s : State} (h : Keeps s0 s) (b : Nat) :
    Keeps s0 (State.countErase s b) := by
  unfold State.countErase
  try dsimp only
  repeat' (first
    | with_reducible assumption
    | with_reducible intro _
    | with_reducible apply accrue_keeps
    | with_reducible apply wr_keeps
    | split
    | with_reducible refine Keeps.of_mk ?_ rfl rfl rfl rfl rfl rfl rfl rfl)

theorem newBlock_keeps {s0 s : State} (h : Keeps s0 s)  :
    Keeps s0 (State.newBlock s) := by
  unfold State.newBlock
  try dsimp only
  repeat' (first
    | with_reducible assumption
    | with_reducible intro _
    | with_reducible apply freeOldest_keeps
    | with_reducible apply countErase_keeps
    | split
    | with_reducible refine Keeps.of_mk ?_ rfl rfl rfl rfl rfl rfl rfl rfl)

theorem openBlock_keeps {s0 s : State} (h : Keeps s0 s)  :
    Keeps s0 (State.openBlock s) := by
  unfold State.openBlock
  try dsimp only
  repeat' (first
    | with_reducible assumption
    | with_reducible intro _
    | with_reducible apply newBlock_keeps
    | split
    | with_reducible refine Keeps.of_mk ?_ rfl rfl rfl rfl rfl rfl rfl rfl)

theorem addPage_keeps {s0 s : State} (h : Keeps s0 s) (at_ : Nat) (compressed resetMark : Bool) (body : List Byte) :
    Keeps s0 (State.addPage s at_ compressed resetMark body) := by
  unfold State.addPage
  try dsimp only
  repeat' (first
    | with_reducible assumption
    | with_reducible intro _
    | with_reducible apply openBlock_keeps
    | with_reducible apply nextPage_keeps
    | with_reducible apply showOldest_keeps
    | split
    | with_reducible refine Keeps.of_mk ?_ rfl rfl rfl rfl rfl rfl rfl rfl)

end Sys2Proof.Machine
end

