-- ==== Sys2Proof/Laws/KeepsReset.lean ====
section
/-! SUPPORT. What the functions of Machine/Reset.lean keep. -/

namespace Sys2Proof.Machine

theorem fold_wf {f : Regs → Nat → Regs} (hf : ∀ (r : Regs) n, r.wf = true → (f r n).wf = true) :
    ∀ (l : List Nat) (r : Regs), r.wf = true → (l.foldl f r).wf = true
  | [], _, h => h
  | n :: rest, r, h => fold_wf hf rest (f r n) (hf r n h)

theorem groups_wf {r : Regs} (h : r.wf = true) : (startGroups r).wf = true :=
  fold_wf (fun _ _ h => Store.set_wf (Store.set_wf h _ _) _ _) (List.range 8) r h

theorem emptyRegs_wf : (Store.mk [] : Regs).wf = true := rfl

theorem resetRegs_wf : State.reset.regs.wf = true := Store.set_wf (groups_wf emptyRegs_wf) _ _

theorem keptRegs_wf (s : State) (kind : ResetKind) : (s.keptRegs kind).wf = true := by
  unfold State.keptRegs
  dsimp only
  split
  · exact Store.setAll_wf (Store.set_wf emptyRegs_wf _ _) _
  · exact Store.setAll_wf resetRegs_wf _

theorem afterReset_keeps {s0 s : State} (h : Keeps s0 s) (kind : ResetKind) (cause : Nat) :
    Keeps s0 (s.afterReset kind cause) := by
  refine ⟨h.pending, fun x => ?_⟩
  have y := h.sound x
  refine ⟨keptRegs_wf s kind, ⟨rfl, fun n => rfl⟩, noEvents_allowed, fun n => Nat.zero_le _, ?_, Nat.zero_le _, y.commits⟩
  show (s.keptFault kind).ring.length ≤ 64
  unfold State.keptFault
  split
  · exact y.faultLog
  · exact Nat.zero_le _

theorem doReset_keeps {s0 s : State} (h : Keeps s0 s) (kind : ResetKind) (cause : Nat) :
    Keeps s0 (State.doReset s kind cause) := by
  unfold State.doReset
  try dsimp only
  repeat' (first
    | with_reducible assumption
    | with_reducible intro _
    | with_reducible apply afterReset_keeps
    | with_reducible apply wr_keeps
    | with_reducible apply wrFlag_keeps
    | split
    | with_reducible refine Keeps.of_mk ?_ rfl rfl rfl rfl rfl rfl rfl rfl)

theorem deviceReset_keeps {s0 s : State} (h : Keeps s0 s) (cause : Nat) :
    Keeps s0 (State.deviceReset s cause) := by
  unfold State.deviceReset
  try dsimp only
  repeat' (first
    | with_reducible assumption
    | with_reducible intro _
    | with_reducible apply doReset_keeps
    | with_reducible apply record_keeps
    | split
    | with_reducible refine Keeps.of_mk ?_ rfl rfl rfl rfl rfl rfl rfl rfl)

theorem fatalReset_keeps {s0 s : State} (h : Keeps s0 s)  :
    Keeps s0 (State.fatalReset s) := by
  unfold State.fatalReset
  try dsimp only
  repeat' (first
    | with_reducible assumption
    | with_reducible intro _
    | with_reducible apply ring_keeps
    | with_reducible apply addPage_keeps
    | with_reducible apply deviceReset_keeps
    | split
    | with_reducible refine Keeps.of_mk ?_ rfl rfl rfl rfl rfl rfl rfl rfl)

end Sys2Proof.Machine
end

