-- ==== Sys2Proof/Laws/KeepsLanes.lean ====
section
/-! SUPPORT. What the functions of Machine/Lanes.lean keep. -/

namespace Sys2Proof.Machine

theorem freshCapture_keeps {s0 s : State} (h : Keeps s0 s) (n : Nat) (joined : Bool) :
    Keeps s0 (State.freshCapture s n joined) := by
  unfold State.freshCapture
  try dsimp only
  repeat' (first
    | with_reducible assumption
    | with_reducible intro _
    | with_reducible apply capture_keeps
    | split
    | with_reducible refine Keeps.of_mk ?_ rfl rfl rfl rfl rfl rfl rfl rfl)

theorem showCapture_keeps {s0 s : State} (h : Keeps s0 s) (n : Nat) :
    Keeps s0 (State.showCapture s n) := by
  unfold State.showCapture
  try dsimp only
  repeat' (first
    | with_reducible assumption
    | with_reducible intro _
    | with_reducible apply wr_keeps
    | with_reducible apply wrFlag_keeps
    | with_reducible apply put_keeps
    | with_reducible apply capture_keeps
    | split
    | with_reducible refine Keeps.of_mk ?_ rfl rfl rfl rfl rfl rfl rfl rfl)

theorem setLane_keeps {s0 s : State} (h : Keeps s0 s) (n st : Nat) :
    Keeps s0 (State.setLane s n st) := by
  unfold State.setLane
  try dsimp only
  repeat' (first
    | with_reducible assumption
    | with_reducible intro _
    | with_reducible apply wr_keeps
    | with_reducible apply showCapture_keeps
    | with_reducible apply freshCapture_keeps
    | with_reducible apply accrue_keeps
    | split
    | with_reducible refine Keeps.of_mk ?_ rfl rfl rfl rfl rfl rfl rfl rfl)

theorem showRoles_keeps {s0 s : State} (h : Keeps s0 s) (cause : Nat) :
    Keeps s0 (State.showRoles s cause) := by
  unfold State.showRoles
  try dsimp only
  repeat' (first
    | with_reducible assumption
    | with_reducible intro _
    | with_reducible apply wrFlag_keeps
    | with_reducible apply wr_keeps
    | with_reducible apply emit_keeps
    | split
    | with_reducible refine Keeps.of_mk ?_ rfl rfl rfl rfl rfl rfl rfl rfl)

theorem wakeStandby_keeps {s0 s : State} (h : Keeps s0 s) (rotation : Bool) :
    Keeps s0 (State.wakeStandby s rotation) := by
  unfold State.wakeStandby
  try dsimp only
  repeat' (first
    | with_reducible assumption
    | with_reducible intro _
    | with_reducible apply setLane_keeps
    | split
    | with_reducible refine Keeps.of_mk ?_ rfl rfl rfl rfl rfl rfl rfl rfl)

theorem endRotation_keeps {s0 s : State} (h : Keeps s0 s) (outcome reason : Nat) :
    Keeps s0 (State.endRotation s outcome reason) := by
  unfold State.endRotation
  try dsimp only
  repeat' (first
    | with_reducible assumption
    | with_reducible intro _
    | with_reducible apply wrFlag_keeps
    | with_reducible apply emit_keeps
    | split
    | with_reducible refine Keeps.of_mk ?_ rfl rfl rfl rfl rfl rfl rfl rfl)

theorem injectEvent_keeps {s0 s : State} (h : Keeps s0 s) (i : Inject) (result : Nat) :
    Keeps s0 (State.injectEvent s i result) := by
  unfold State.injectEvent
  try dsimp only
  repeat' (first
    | with_reducible assumption
    | with_reducible intro _
    | with_reducible apply emit_keeps
    | with_reducible apply place_keeps
    | with_reducible exact source_allowed _
    | decide
    | split
    | with_reducible refine Keeps.of_mk ?_ rfl rfl rfl rfl rfl rfl rfl rfl)

theorem voidInjects_keeps {s0 s : State} (h : Keeps s0 s) (p : Inject → Bool) :
    Keeps s0 (State.voidInjects s p) := by
  unfold State.voidInjects
  try dsimp only
  repeat' (first
    | with_reducible assumption
    | with_reducible intro _
    | with_reducible apply injectEvent_keeps
    | with_reducible apply wrFlag_keeps
    | with_reducible refine Keeps.foldl ?_ ?_ _
    | split
    | with_reducible refine Keeps.of_mk ?_ rfl rfl rfl rfl rfl rfl rfl rfl)

theorem silenceFor_keeps {s0 s : State} (h : Keeps s0 s) (n cause : Nat) (test : List Byte) (gapUs : Nat) :
    Keeps s0 (State.silenceFor s n cause test gapUs) := by
  unfold State.silenceFor
  try dsimp only
  repeat' (first
    | with_reducible assumption
    | with_reducible intro _
    | with_reducible apply setLane_keeps
    | with_reducible apply inc_keeps
    | with_reducible apply voidInjects_keeps
    | with_reducible apply place_keeps
    | with_reducible apply emit_keeps
    | with_reducible exact source_allowed _
    | decide
    | split
    | with_reducible refine Keeps.of_mk ?_ rfl rfl rfl rfl rfl rfl rfl rfl)

theorem silence_keeps {s0 s : State} (h : Keeps s0 s) (n cause gapUs : Nat) :
    Keeps s0 (State.silence s n cause gapUs) := by
  unfold State.silence
  try dsimp only
  repeat' (first
    | with_reducible assumption
    | with_reducible intro _
    | with_reducible apply silenceFor_keeps
    | split
    | with_reducible refine Keeps.of_mk ?_ rfl rfl rfl rfl rfl rfl rfl rfl)

theorem failLane_keeps {s0 s : State} (h : Keeps s0 s) (n cause : Nat) :
    Keeps s0 (State.failLane s n cause) := by
  unfold State.failLane
  try dsimp only
  repeat' (first
    | with_reducible assumption
    | with_reducible intro _
    | with_reducible apply setLane_keeps
    | with_reducible apply emit_keeps
    | with_reducible apply place_keeps
    | with_reducible exact source_allowed _
    | decide
    | split
    | with_reducible refine Keeps.of_mk ?_ rfl rfl rfl rfl rfl rfl rfl rfl)

theorem fillPartner_keeps {s0 s : State} (h : Keeps s0 s)  :
    Keeps s0 (State.fillPartner s) := by
  unfold State.fillPartner
  try dsimp only
  repeat' (first
    | with_reducible assumption
    | with_reducible intro _
    | with_reducible apply endRotation_keeps
    | with_reducible apply setLane_keeps
    | with_reducible apply wakeStandby_keeps
    | with_reducible apply place_keeps
    | with_reducible exact source_allowed _
    | decide
    | split
    | with_reducible refine Keeps.of_mk ?_ rfl rfl rfl rfl rfl rfl rfl rfl)

theorem wakeReplacement_keeps {s0 s : State} (h : Keeps s0 s)  :
    Keeps s0 (State.wakeReplacement s) := by
  unfold State.wakeReplacement
  try dsimp only
  repeat' (first
    | with_reducible assumption
    | with_reducible intro _
    | with_reducible apply endRotation_keeps
    | with_reducible apply wakeStandby_keeps
    | with_reducible apply place_keeps
    | with_reducible exact source_allowed _
    | decide
    | split
    | with_reducible refine Keeps.of_mk ?_ rfl rfl rfl rfl rfl rfl rfl rfl)

theorem ownerChanged_keeps {s0 s : State} (h : Keeps s0 s)  :
    Keeps s0 (State.ownerChanged s) := by
  unfold State.ownerChanged
  try dsimp only
  repeat' (first
    | with_reducible assumption
    | with_reducible intro _
    | with_reducible apply place_keeps
    | with_reducible exact source_allowed _
    | decide
    | split
    | with_reducible refine Keeps.of_mk ?_ rfl rfl rfl rfl rfl rfl rfl rfl)

theorem promote_keeps {s0 s : State} (h : Keeps s0 s)  :
    Keeps s0 (State.promote s) := by
  unfold State.promote
  try dsimp only
  repeat' (first
    | with_reducible assumption
    | with_reducible intro _
    | with_reducible apply setLane_keeps
    | with_reducible apply ownerChanged_keeps
    | with_reducible apply fillPartner_keeps
    | with_reducible apply showRoles_keeps
    | with_reducible apply endRotation_keeps
    | with_reducible apply wakeStandby_keeps
    | split
    | with_reducible refine Keeps.of_mk ?_ rfl rfl rfl rfl rfl rfl rfl rfl)

theorem holdTick_keeps {s0 s : State} (h : Keeps s0 s)  :
    Keeps s0 (State.holdTick s) := by
  unfold State.holdTick
  try dsimp only
  repeat' (first
    | with_reducible assumption
    | with_reducible intro _
    | with_reducible apply wrFlag_keeps
    | with_reducible apply inc_keeps
    | with_reducible apply selector_keeps
    | split
    | with_reducible refine Keeps.of_mk ?_ rfl rfl rfl rfl rfl rfl rfl rfl)

theorem endHold_keeps {s0 s : State} (h : Keeps s0 s)  :
    Keeps s0 (State.endHold s) := by
  unfold State.endHold
  try dsimp only
  repeat' (first
    | with_reducible assumption
    | with_reducible intro _
    | with_reducible apply wrFlag_keeps
    | with_reducible apply wr_keeps
    | with_reducible apply flushWaiting_keeps
    | split
    | with_reducible refine Keeps.of_mk ?_ rfl rfl rfl rfl rfl rfl rfl rfl)

theorem orderRapid_keeps {s0 s : State} (h : Keeps s0 s)  :
    Keeps s0 (State.orderRapid s) := by
  unfold State.orderRapid
  try dsimp only
  repeat' (first
    | with_reducible assumption
    | with_reducible intro _
    | with_reducible apply holdTick_keeps
    | split
    | with_reducible refine Keeps.of_mk ?_ rfl rfl rfl rfl rfl rfl rfl rfl)

theorem compareThree_keeps {s0 s : State} (h : Keeps s0 s) (d : Differs) (j : Nat) :
    Keeps s0 (State.compareThree s d j) := by
  unfold State.compareThree
  try dsimp only
  repeat' (first
    | with_reducible assumption
    | with_reducible intro _
    | with_reducible apply silence_keeps
    | with_reducible apply endRotation_keeps
    | with_reducible apply showRoles_keeps
    | with_reducible apply fillPartner_keeps
    | with_reducible apply promote_keeps
    | with_reducible apply holdTick_keeps
    | with_reducible apply orderRapid_keeps
    | split
    | with_reducible refine Keeps.of_mk ?_ rfl rfl rfl rfl rfl rfl rfl rfl)

theorem compareTick_keeps {s0 s : State} (h : Keeps s0 s) (d : Differs) :
    Keeps s0 (State.compareTick s d) := by
  unfold State.compareTick
  try dsimp only
  repeat' (first
    | with_reducible assumption
    | with_reducible intro _
    | with_reducible apply compareThree_keeps
    | with_reducible apply orderRapid_keeps
    | with_reducible apply selector_keeps
    | split
    | with_reducible refine Keeps.of_mk ?_ rfl rfl rfl rfl rfl rfl rfl rfl)

theorem selector_keeps {s0 s : State} (h : Keeps s0 s) (d : Differs) :
    Keeps s0 (State.selector s d) := by
  unfold State.selector
  try dsimp only
  repeat' (first
    | with_reducible assumption
    | with_reducible intro _
    | with_reducible apply foldDigest_keeps
    | with_reducible apply holdTick_keeps
    | with_reducible apply endHold_keeps
    | with_reducible apply compareTick_keeps
    | split
    | with_reducible refine Keeps.of_mk ?_ rfl rfl rfl rfl rfl rfl rfl rfl)

theorem dutyFault_keeps {s0 s : State} (h : Keeps s0 s) (n : Nat) (after : Bool) :
    Keeps s0 (State.dutyFault s n after) := by
  unfold State.dutyFault
  try dsimp only
  repeat' (first
    | with_reducible assumption
    | with_reducible intro _
    | with_reducible apply silence_keeps
    | with_reducible apply promote_keeps
    | with_reducible apply wakeReplacement_keeps
    | with_reducible apply showRoles_keeps
    | split
    | with_reducible refine Keeps.of_mk ?_ rfl rfl rfl rfl rfl rfl rfl rfl)

theorem abandonFor_keeps {s0 s : State} (h : Keeps s0 s) (n : Nat) (reason : List Byte) :
    Keeps s0 (State.abandonFor s n reason) := by
  unfold State.abandonFor
  try dsimp only
  repeat' (first
    | with_reducible assumption
    | with_reducible intro _
    | with_reducible apply emit_keeps
    | split
    | with_reducible refine Keeps.of_mk ?_ rfl rfl rfl rfl rfl rfl rfl rfl)

theorem cutJoin_keeps {s0 s : State} (h : Keeps s0 s) (n : Nat) :
    Keeps s0 (State.cutJoin s n) := by
  unfold State.cutJoin
  try dsimp only
  repeat' (first
    | with_reducible assumption
    | with_reducible intro _
    | with_reducible apply abandonFor_keeps
    | split
    | with_reducible refine Keeps.of_mk ?_ rfl rfl rfl rfl rfl rfl rfl rfl)

theorem laneFault_keeps {s0 s : State} (h : Keeps s0 s) (n : Nat) (after : Bool) :
    Keeps s0 (State.laneFault s n after) := by
  unfold State.laneFault
  try dsimp only
  repeat' (first
    | with_reducible assumption
    | with_reducible intro _
    | with_reducible apply fatalReset_keeps
    | with_reducible apply dutyFault_keeps
    | with_reducible apply promote_keeps
    | with_reducible apply silence_keeps
    | with_reducible apply showRoles_keeps
    | with_reducible apply fillPartner_keeps
    | with_reducible apply cutJoin_keeps
    | with_reducible apply endRotation_keeps
    | split
    | with_reducible refine Keeps.of_mk ?_ rfl rfl rfl rfl rfl rfl rfl rfl)

theorem endRapid_keeps {s0 s : State} (h : Keeps s0 s) (byRule : Bool) :
    Keeps s0 (State.endRapid s byRule) := by
  unfold State.endRapid
  try dsimp only
  repeat' (first
    | with_reducible assumption
    | with_reducible intro _
    | with_reducible apply wrFlag_keeps
    | with_reducible apply inc_keeps
    | split
    | with_reducible refine Keeps.of_mk ?_ rfl rfl rfl rfl rfl rfl rfl rfl)

theorem verdict_keeps {s0 s : State} (h : Keeps s0 s) (duty partner : RapidReport) :
    Keeps s0 (State.verdict s duty partner) := by
  unfold State.verdict
  try dsimp only
  repeat' (first
    | with_reducible assumption
    | with_reducible intro _
    | with_reducible apply endRapid_keeps
    | with_reducible apply silenceFor_keeps
    | with_reducible apply setLane_keeps
    | with_reducible apply ownerChanged_keeps
    | with_reducible apply fillPartner_keeps
    | with_reducible apply showRoles_keeps
    | split
    | with_reducible refine Keeps.of_mk ?_ rfl rfl rfl rfl rfl rfl rfl rfl)

theorem execRapidCheckVerdict_keeps {s : State} (duty partner : RapidReport) :
    ∃ t', execRapidCheckVerdict duty partner s = .next t' ∧ Keeps s t' := by
  unfold execRapidCheckVerdict
  refine act_keeps fun s h => ?_
  try dsimp only
  repeat' (first
    | with_reducible assumption
    | with_reducible intro _
    | with_reducible apply verdict_keeps
    | split
    | with_reducible refine Keeps.of_mk ?_ rfl rfl rfl rfl rfl rfl rfl rfl)

theorem lateVerdict_keeps {s0 s : State} (h : Keeps s0 s)  :
    Keeps s0 (State.lateVerdict s) := by
  unfold State.lateVerdict
  try dsimp only
  repeat' (first
    | with_reducible assumption
    | with_reducible intro _
    | with_reducible apply verdict_keeps
    | split
    | with_reducible refine Keeps.of_mk ?_ rfl rfl rfl rfl rfl rfl rfl rfl)

theorem execQuireWrite_keeps {s : State}  :
    ∃ t', execQuireWrite s = .next t' ∧ Keeps s t' := by
  unfold execQuireWrite
  refine act_keeps fun s h => ?_
  try dsimp only
  repeat' (first
    | with_reducible assumption
    | with_reducible intro _
    | split
    | with_reducible refine Keeps.of_mk ?_ rfl rfl rfl rfl rfl rfl rfl rfl)

theorem commitQuire_keeps {s0 s : State} (h : Keeps s0 s) (bytes : Nat) (x : Checkpoint) (word : W64) :
    Keeps s0 (State.commitQuire s bytes x word) := by
  unfold State.commitQuire
  try dsimp only
  repeat' (first
    | with_reducible assumption
    | with_reducible intro _
    | with_reducible apply wr_keeps
    | split
    | with_reducible refine Keeps.of_mk ?_ rfl rfl rfl rfl rfl rfl rfl rfl)

theorem retireLane_keeps {s0 s : State} (h : Keeps s0 s)  :
    Keeps s0 (State.retireLane s) := by
  unfold State.retireLane
  try dsimp only
  repeat' (first
    | with_reducible assumption
    | with_reducible intro _
    | with_reducible apply wr_keeps
    | split
    | with_reducible refine Keeps.of_mk ?_ rfl rfl rfl rfl rfl rfl rfl rfl)

theorem execQuireCommit_keeps {s : State} (d : Differs) :
    ∃ t', execQuireCommit d s = .next t' ∧ Keeps s t' := by
  unfold execQuireCommit
  refine act_keeps fun s h => ?_
  try dsimp only
  repeat' (first
    | with_reducible assumption
    | with_reducible intro _
    | with_reducible apply retireLane_keeps
    | with_reducible apply commitQuire_keeps
    | split
    | with_reducible refine Keeps.of_mk ?_ rfl rfl rfl rfl rfl rfl rfl rfl)

theorem abandonQuire_keeps {s0 s : State} (h : Keeps s0 s)  :
    Keeps s0 (State.abandonQuire s) := by
  unfold State.abandonQuire
  try dsimp only
  repeat' (first
    | with_reducible assumption
    | with_reducible intro _
    | with_reducible apply wrFlag_keeps
    | with_reducible apply inc_keeps
    | with_reducible apply emit_keeps
    | split
    | with_reducible refine Keeps.of_mk ?_ rfl rfl rfl rfl rfl rfl rfl rfl)

theorem restoreLane_keeps {s0 s : State} (h : Keeps s0 s) (q0 q1 : Bool) :
    Keeps s0 (State.restoreLane s q0 q1) := by
  unfold State.restoreLane
  try dsimp only
  repeat' (first
    | with_reducible assumption
    | with_reducible intro _
    | with_reducible apply emit_keeps
    | split
    | with_reducible refine Keeps.of_mk ?_ rfl rfl rfl rfl rfl rfl rfl rfl)

theorem restoreFresh_keeps {s0 s : State} (h : Keeps s0 s) (q0 q1 : Bool) :
    Keeps s0 (State.restoreFresh s q0 q1) := by
  unfold State.restoreFresh
  try dsimp only
  repeat' (first
    | with_reducible assumption
    | with_reducible intro _
    | with_reducible apply restoreLane_keeps
    | split
    | with_reducible refine Keeps.of_mk ?_ rfl rfl rfl rfl rfl rfl rfl rfl)

theorem execStandbyWakeComplete_keeps {s : State} (quickOk fullOk : Bool) (q0 q1 : Bool) :
    ∃ t', execStandbyWakeComplete quickOk fullOk q0 q1 s = .next t' ∧ Keeps s t' := by
  unfold execStandbyWakeComplete
  refine act_keeps fun s h => ?_
  try dsimp only
  repeat' (first
    | with_reducible assumption
    | with_reducible intro _
    | with_reducible apply inc_keeps
    | with_reducible apply setLane_keeps
    | with_reducible apply restoreFresh_keeps
    | with_reducible apply endRotation_keeps
    | with_reducible apply failLane_keeps
    | with_reducible apply showRoles_keeps
    | split
    | with_reducible refine Keeps.of_mk ?_ rfl rfl rfl rfl rfl rfl rfl rfl)

theorem abandonJoin_keeps {s0 s : State} (h : Keeps s0 s) (n reason : Nat) :
    Keeps s0 (State.abandonJoin s n reason) := by
  unfold State.abandonJoin
  try dsimp only
  repeat' (first
    | with_reducible assumption
    | with_reducible intro _
    | with_reducible apply abandonFor_keeps
    | split
    | with_reducible refine Keeps.of_mk ?_ rfl rfl rfl rfl rfl rfl rfl rfl)

theorem execLaneReplayLive_keeps {s : State} (chainOk : Bool) :
    ∃ t', execLaneReplayLive chainOk s = .next t' ∧ Keeps s t' := by
  unfold execLaneReplayLive
  refine act_keeps fun s h => ?_
  try dsimp only
  repeat' (first
    | with_reducible assumption
    | with_reducible intro _
    | with_reducible apply endRotation_keeps
    | with_reducible apply silence_keeps
    | with_reducible apply abandonJoin_keeps
    | with_reducible apply showRoles_keeps
    | split
    | with_reducible refine Keeps.of_mk ?_ rfl rfl rfl rfl rfl rfl rfl rfl)

theorem restartJoin_keeps {s0 s : State} (h : Keeps s0 s)  :
    Keeps s0 (State.restartJoin s) := by
  unfold State.restartJoin
  try dsimp only
  repeat' (first
    | with_reducible assumption
    | with_reducible intro _
    | with_reducible apply abandonJoin_keeps
    | split
    | with_reducible refine Keeps.of_mk ?_ rfl rfl rfl rfl rfl rfl rfl rfl)

theorem joinLane_keeps {s0 s : State} (h : Keeps s0 s)  :
    Keeps s0 (State.joinLane s) := by
  unfold State.joinLane
  try dsimp only
  repeat' (first
    | with_reducible assumption
    | with_reducible intro _
    | with_reducible apply freshCapture_keeps
    | with_reducible apply wr_keeps
    | with_reducible apply endRotation_keeps
    | with_reducible apply setLane_keeps
    | with_reducible apply wrFlag_keeps
    | with_reducible apply emit_keeps
    | with_reducible apply showRoles_keeps
    | split
    | with_reducible refine Keeps.of_mk ?_ rfl rfl rfl rfl rfl rfl rfl rfl)

theorem execLaneSelfTestComplete_keeps {s : State} (l : Lane) (ok : Bool) :
    ∃ t', execLaneSelfTestComplete l ok s = .next t' ∧ Keeps s t' := by
  unfold execLaneSelfTestComplete
  refine act_keeps fun s h => ?_
  try dsimp only
  repeat' (first
    | with_reducible assumption
    | with_reducible intro _
    | with_reducible apply promote_keeps
    | with_reducible apply wr_keeps
    | with_reducible apply inc_keeps
    | with_reducible apply failLane_keeps
    | with_reducible apply showRoles_keeps
    | with_reducible apply setLane_keeps
    | with_reducible apply wakeStandby_keeps
    | with_reducible apply start_keeps
    | split
    | with_reducible refine Keeps.of_mk ?_ rfl rfl rfl rfl rfl rfl rfl rfl)

theorem execRotationWake_keeps {s : State}  :
    ∃ t', execRotationWake s = .next t' ∧ Keeps s t' := by
  unfold execRotationWake
  refine act_keeps fun s h => ?_
  try dsimp only
  repeat' (first
    | with_reducible assumption
    | with_reducible intro _
    | with_reducible apply wrFlag_keeps
    | with_reducible apply emit_keeps
    | with_reducible apply wakeStandby_keeps
    | split
    | with_reducible refine Keeps.of_mk ?_ rfl rfl rfl rfl rfl rfl rfl rfl)

theorem recordRoles_keeps {s0 s : State} (h : Keeps s0 s) (d p : Nat) :
    Keeps s0 (State.recordRoles s d p) := by
  unfold State.recordRoles
  try dsimp only
  repeat' (first
    | with_reducible assumption
    | with_reducible intro _
    | split
    | with_reducible refine Keeps.of_mk ?_ rfl rfl rfl rfl rfl rfl rfl rfl)

theorem handOver_keeps {s0 s : State} (h : Keeps s0 s) (d p j : Nat) :
    Keeps s0 (State.handOver s d p j) := by
  unfold State.handOver
  try dsimp only
  repeat' (first
    | with_reducible assumption
    | with_reducible intro _
    | with_reducible apply setLane_keeps
    | with_reducible apply wr_keeps
    | with_reducible apply wrFlag_keeps
    | with_reducible apply recordRoles_keeps
    | with_reducible apply showRoles_keeps
    | with_reducible apply emit_keeps
    | split
    | with_reducible refine Keeps.of_mk ?_ rfl rfl rfl rfl rfl rfl rfl rfl)

theorem postponeRotation_keeps {s0 s : State} (h : Keeps s0 s) (n reason : Nat) :
    Keeps s0 (State.postponeRotation s n reason) := by
  unfold State.postponeRotation
  try dsimp only
  repeat' (first
    | with_reducible assumption
    | with_reducible intro _
    | with_reducible apply cutJoin_keeps
    | with_reducible apply endRotation_keeps
    | with_reducible apply setLane_keeps
    | with_reducible apply wrFlag_keeps
    | with_reducible apply showRoles_keeps
    | split
    | with_reducible refine Keeps.of_mk ?_ rfl rfl rfl rfl rfl rfl rfl rfl)

theorem execRotationHandover_keeps {s : State}  :
    ∃ t', execRotationHandover s = .next t' ∧ Keeps s t' := by
  unfold execRotationHandover
  refine act_keeps fun s h => ?_
  try dsimp only
  repeat' (first
    | with_reducible assumption
    | with_reducible intro _
    | with_reducible apply postponeRotation_keeps
    | with_reducible apply handOver_keeps
    | split
    | with_reducible refine Keeps.of_mk ?_ rfl rfl rfl rfl rfl rfl rfl rfl)

theorem budgetRotation_keeps {s0 s : State} (h : Keeps s0 s)  :
    Keeps s0 (State.budgetRotation s) := by
  unfold State.budgetRotation
  try dsimp only
  repeat' (first
    | with_reducible assumption
    | with_reducible intro _
    | with_reducible apply postponeRotation_keeps
    | split
    | with_reducible refine Keeps.of_mk ?_ rfl rfl rfl rfl rfl rfl rfl rfl)

theorem execCmdLaneRotate_keeps {s : State} (h : Hdr) :
    ∃ t', execCmdLaneRotate h s = .next t' ∧ Keeps s t' := by
  unfold execCmdLaneRotate
  refine act_keeps fun s h => ?_
  try dsimp only
  repeat' (first
    | with_reducible assumption
    | with_reducible intro _
    | with_reducible apply command_keeps
    | split
    | with_reducible refine Keeps.of_mk ?_ rfl rfl rfl rfl rfl rfl rfl rfl)

theorem rotateRequests_keeps {s0 s : State} (h : Keeps s0 s)  :
    Keeps s0 (State.rotateRequests s) := by
  unfold State.rotateRequests
  try dsimp only
  repeat' (first
    | with_reducible assumption
    | with_reducible intro _
    | with_reducible apply start_keeps
    | with_reducible apply respond_keeps
    | with_reducible refine Keeps.foldl ?_ ?_ _
    | split
    | with_reducible refine Keeps.of_mk ?_ rfl rfl rfl rfl rfl rfl rfl rfl)

theorem laneFrame_keeps {s0 s : State} (h : Keeps s0 s) (temps : List Int) :
    Keeps s0 (State.laneFrame s temps) := by
  unfold State.laneFrame
  try dsimp only
  repeat' (first
    | with_reducible assumption
    | with_reducible intro _
    | with_reducible apply rotateRequests_keeps
    | with_reducible apply wr_keeps
    | with_reducible apply wrInt_keeps
    | with_reducible apply inc_keeps
    | with_reducible refine Keeps.foldl ?_ ?_ _
    | split
    | with_reducible refine Keeps.of_mk ?_ rfl rfl rfl rfl rfl rfl rfl rfl)

end Sys2Proof.Machine
end

