-- ==== Sys2Proof/Laws/KeepsFaults.lean ====
section
/-! SUPPORT. What the functions of Machine/Faults.lean keep. -/

namespace Sys2Proof.Machine

theorem reportHw_keeps {s0 s : State} (h : Keeps s0 s) (e : HwError) (cls : Nat) (injected : Bool) :
    Keeps s0 (State.reportHw s e cls injected) := by
  unfold State.reportHw
  try dsimp only
  repeat' (first
    | with_reducible assumption
    | with_reducible intro _
    | with_reducible apply inc_keeps
    | with_reducible apply accrue_keeps
    | with_reducible apply logFault_keeps
    | with_reducible apply place_keeps
    | with_reducible apply ring_keeps
    | with_reducible apply queueEvent_keeps
    | with_reducible exact source_allowed _
    | decide
    | split
    | with_reducible refine Keeps.of_mk ?_ rfl rfl rfl rfl rfl rfl rfl rfl)

theorem journalLost_keeps {s0 s : State} (h : Keeps s0 s)  :
    Keeps s0 (State.journalLost s) := by
  unfold State.journalLost
  try dsimp only
  repeat' (first
    | with_reducible assumption
    | with_reducible intro _
    | with_reducible apply emit_keeps
    | split
    | with_reducible refine Keeps.of_mk ?_ rfl rfl rfl rfl rfl rfl rfl rfl)

theorem quireLost_keeps {s0 s : State} (h : Keeps s0 s)  :
    Keeps s0 (State.quireLost s) := by
  unfold State.quireLost
  try dsimp only
  repeat' (first
    | with_reducible assumption
    | with_reducible intro _
    | with_reducible apply emit_keeps
    | split
    | with_reducible refine Keeps.of_mk ?_ rfl rfl rfl rfl rfl rfl rfl rfl)

theorem discardEntry_keeps {s0 s : State} (h : Keeps s0 s) (i : Nat) :
    Keeps s0 (State.discardEntry s i) := by
  unfold State.discardEntry
  try dsimp only
  repeat' (first
    | with_reducible assumption
    | with_reducible intro _
    | split
    | with_reducible refine Keeps.of_mk ?_ rfl rfl rfl rfl rfl rfl rfl rfl)

theorem discardUpdates_keeps {s0 s : State} (h : Keeps s0 s)  :
    Keeps s0 (State.discardUpdates s) := by
  unfold State.discardUpdates
  try dsimp only
  repeat' (first
    | with_reducible assumption
    | with_reducible intro _
    | with_reducible apply emit_keeps
    | split
    | with_reducible refine Keeps.of_mk ?_ rfl rfl rfl rfl rfl rfl rfl rfl)

theorem pathHeld_keeps {s0 s : State} (h : Keeps s0 s)  :
    Keeps s0 (State.pathHeld s) := by
  unfold State.pathHeld
  try dsimp only
  repeat' (first
    | with_reducible assumption
    | with_reducible intro _
    | split
    | with_reducible refine Keeps.of_mk ?_ rfl rfl rfl rfl rfl rfl rfl rfl)

theorem discardFrame_keeps {s0 s : State} (h : Keeps s0 s) (ch : Fin 8) :
    Keeps s0 (State.discardFrame s ch) := by
  unfold State.discardFrame
  try dsimp only
  repeat' (first
    | with_reducible assumption
    | with_reducible intro _
    | with_reducible apply inc_keeps
    | with_reducible apply command_keeps
    | split
    | with_reducible refine Keeps.of_mk ?_ rfl rfl rfl rfl rfl rfl rfl rfl)

theorem transferAbsent_keeps {s0 s : State} (h : Keeps s0 s) (x : Transfer) :
    Keeps s0 (State.transferAbsent s x) := by
  unfold State.transferAbsent
  try dsimp only
  repeat' (first
    | with_reducible assumption
    | with_reducible intro _
    | with_reducible apply endOffload_keeps
    | with_reducible apply lostJob_keeps
    | (with_reducible refine setMailbox_keeps ?_ _ _ fun m => ?_; rotate_left; exact m)
    | split
    | with_reducible refine Keeps.of_mk ?_ rfl rfl rfl rfl rfl rfl rfl rfl)

theorem transferFailed_keeps {s0 s : State} (h : Keeps s0 s) (x : Transfer) :
    Keeps s0 (State.transferFailed s x) := by
  unfold State.transferFailed
  try dsimp only
  repeat' (first
    | with_reducible assumption
    | with_reducible intro _
    | with_reducible apply transferAbsent_keeps
    | with_reducible apply record_keeps
    | split
    | with_reducible refine Keeps.of_mk ?_ rfl rfl rfl rfl rfl rfl rfl rfl)

theorem contain_keeps {s0 s : State} (h : Keeps s0 s) (e : HwError) :
    Keeps s0 (State.contain s e) := by
  unfold State.contain
  try dsimp only
  repeat' (first
    | with_reducible assumption
    | with_reducible intro _
    | with_reducible apply ring_keeps
    | with_reducible apply wr_keeps
    | with_reducible apply journalLost_keeps
    | with_reducible apply quireLost_keeps
    | with_reducible apply losePage_keeps
    | with_reducible apply discardEntry_keeps
    | with_reducible apply discardUpdates_keeps
    | with_reducible apply unitFault_keeps
    | with_reducible apply place_keeps
    | with_reducible apply discardFrame_keeps
    | with_reducible apply transferFailed_keeps
    | with_reducible apply pathHeld_keeps
    | with_reducible apply corrected_keeps
    | with_reducible exact source_allowed _
    | decide
    | split
    | with_reducible refine Keeps.of_mk ?_ rfl rfl rfl rfl rfl rfl rfl rfl)

theorem corrected_keeps {s0 s : State} (h : Keeps s0 s) (e : HwError) :
    Keeps s0 (State.corrected s e) := by
  unfold State.corrected
  try dsimp only
  repeat' (first
    | with_reducible assumption
    | with_reducible intro _
    | with_reducible apply inc_keeps
    | with_reducible apply place_keeps
    | with_reducible exact source_allowed _
    | decide
    | split
    | with_reducible refine Keeps.of_mk ?_ rfl rfl rfl rfl rfl rfl rfl rfl)

theorem fatalLane_keeps {s0 s : State} (h : Keeps s0 s) (k n : Nat) (after : Bool) :
    Keeps s0 (State.fatalLane s k n after) := by
  unfold State.fatalLane
  try dsimp only
  repeat' (first
    | with_reducible assumption
    | with_reducible intro _
    | with_reducible apply inc_keeps
    | with_reducible apply wr_keeps
    | with_reducible apply laneFault_keeps
    | split
    | with_reducible refine Keeps.of_mk ?_ rfl rfl rfl rfl rfl rfl rfl rfl)

theorem hwError_keeps {s0 s : State} (h : Keeps s0 s) (e : HwError) :
    Keeps s0 (State.hwError s e) := by
  unfold State.hwError
  try dsimp only
  repeat' (first
    | with_reducible assumption
    | with_reducible intro _
    | with_reducible apply reportHw_keeps
    | with_reducible apply wrFlag_keeps
    | with_reducible apply injectEvent_keeps
    | with_reducible apply fatalReset_keeps
    | with_reducible apply corrected_keeps
    | with_reducible apply contain_keeps
    | with_reducible apply fatalLane_keeps
    | with_reducible apply place_keeps
    | with_reducible exact source_allowed _
    | decide
    | split
    | with_reducible refine Keeps.of_mk ?_ rfl rfl rfl rfl rfl rfl rfl rfl)

theorem execHwErrorReport_keeps {s : State} (e : HwError) :
    ∃ t', execHwErrorReport e s = .next t' ∧ Keeps s t' := by
  unfold execHwErrorReport
  refine act_keeps fun s h => ?_
  try dsimp only
  repeat' (first
    | with_reducible assumption
    | with_reducible intro _
    | with_reducible apply hwError_keeps
    | split
    | with_reducible refine Keeps.of_mk ?_ rfl rfl rfl rfl rfl rfl rfl rfl)

theorem selfFault_keeps {s0 s : State} (h : Keeps s0 s) (n : Nat) (after : Bool) :
    Keeps s0 (State.selfFault s n after) := by
  unfold State.selfFault
  try dsimp only
  repeat' (first
    | with_reducible assumption
    | with_reducible intro _
    | with_reducible apply freeNat_keeps
    | with_reducible refine freeNat_keeps_of ?_ (by with_reducible assumption)
    | with_reducible apply logFault_keeps
    | with_reducible apply accrue_keeps
    | with_reducible apply wr_keeps
    | with_reducible apply laneFault_keeps
    | with_reducible apply start_keeps
    | split
    | with_reducible refine Keeps.of_mk ?_ rfl rfl rfl rfl rfl rfl rfl rfl)

theorem execSelfDetectedFault_keeps {s : State} (l : Lane) (k : Option (Fin 2)) (us : Fin 125) :
    ∃ t', execSelfDetectedFault l k us s = .next t' ∧ Keeps s t' := by
  unfold execSelfDetectedFault
  refine act_keeps fun s h => ?_
  try dsimp only
  repeat' (first
    | with_reducible assumption
    | with_reducible intro _
    | with_reducible apply reportHw_keeps
    | with_reducible apply fatalLane_keeps
    | with_reducible apply selfFault_keeps
    | split
    | with_reducible refine Keeps.of_mk ?_ rfl rfl rfl rfl rfl rfl rfl rfl)

theorem execSelfTestSlice_keeps {s : State} (l : Lane) (ok : SliceResult) (eccCorrected : Bool) :
    ∃ t', execSelfTestSlice l ok eccCorrected s = .next t' ∧ Keeps s t' := by
  unfold execSelfTestSlice
  refine act_keeps fun s h => ?_
  try dsimp only
  repeat' (first
    | with_reducible assumption
    | with_reducible intro _
    | with_reducible apply inc_keeps
    | with_reducible apply hwError_keeps
    | with_reducible apply selfFault_keeps
    | split
    | with_reducible refine Keeps.of_mk ?_ rfl rfl rfl rfl rfl rfl rfl rfl)

theorem minuteEnd_keeps {s0 s : State} (h : Keeps s0 s) (k : Nat) :
    Keeps s0 (State.minuteEnd s k) := by
  unfold State.minuteEnd
  try dsimp only
  repeat' (first
    | with_reducible assumption
    | with_reducible intro _
    | with_reducible apply emit_keeps
    | with_reducible refine Keeps.foldl ?_ ?_ _
    | split
    | with_reducible refine Keeps.of_mk ?_ rfl rfl rfl rfl rfl rfl rfl rfl)

theorem execCorrectedRateMinute_keeps {s : State}  :
    ∃ t', execCorrectedRateMinute s = .next t' ∧ Keeps s t' := by
  unfold execCorrectedRateMinute
  refine act_keeps fun s h => ?_
  try dsimp only
  repeat' (first
    | with_reducible assumption
    | with_reducible intro _
    | with_reducible apply minuteEnd_keeps
    | with_reducible refine Keeps.foldl ?_ ?_ _
    | split
    | with_reducible refine Keeps.of_mk ?_ rfl rfl rfl rfl rfl rfl rfl rfl)

theorem execEscalateWindowEnd_keeps {s : State} (src : Fin 256) :
    ∃ t', execEscalateWindowEnd src s = .next t' ∧ Keeps s t' := by
  unfold execEscalateWindowEnd
  refine act_keeps fun s h => ?_
  try dsimp only
  repeat' (first
    | with_reducible assumption
    | with_reducible intro _
    | split
    | with_reducible refine Keeps.of_mk ?_ rfl rfl rfl rfl rfl rfl rfl rfl)

theorem severityTurn_keeps {s0 s : State} (h : Keeps s0 s) (old : Folio) :
    Keeps s0 (State.severityTurn s old) := by
  unfold State.severityTurn
  try dsimp only
  repeat' (first
    | with_reducible assumption
    | with_reducible intro _
    | with_reducible refine Keeps.foldl ?_ ?_ _
    | split
    | with_reducible refine Keeps.of_mk ?_ rfl rfl rfl rfl rfl rfl rfl rfl)

theorem execCmdFaultInject_keeps {s : State} (h : Hdr) (checker place double : Byte) :
    ∃ t', execCmdFaultInject h checker place double s = .next t' ∧ Keeps s t' := by
  unfold execCmdFaultInject
  refine act_keeps fun s h => ?_
  try dsimp only
  repeat' (first
    | with_reducible assumption
    | with_reducible intro _
    | with_reducible apply reply_keeps
    | with_reducible apply place_keeps
    | with_reducible apply command_keeps
    | with_reducible apply wrFlag_keeps
    | with_reducible apply injectEvent_keeps
    | with_reducible exact source_allowed _
    | decide
    | split
    | with_reducible refine Keeps.of_mk ?_ rfl rfl rfl rfl rfl rfl rfl rfl)

theorem execInjectExpiry_keeps {s : State} (k : Fin 15) :
    ∃ t', execInjectExpiry k s = .next t' ∧ Keeps s t' := by
  unfold execInjectExpiry
  refine act_keeps fun s h => ?_
  try dsimp only
  repeat' (first
    | with_reducible assumption
    | with_reducible intro _
    | with_reducible apply voidInjects_keeps
    | split
    | with_reducible refine Keeps.of_mk ?_ rfl rfl rfl rfl rfl rfl rfl rfl)

theorem execCmdFaultLogRead_keeps {s : State} (h : Hdr) (first count : W32) :
    ∃ t', execCmdFaultLogRead h first count s = .next t' ∧ Keeps s t' := by
  unfold execCmdFaultLogRead
  refine act_keeps fun s h => ?_
  try dsimp only
  repeat' (first
    | with_reducible assumption
    | with_reducible intro _
    | with_reducible apply reply_keeps
    | with_reducible apply command_keeps
    | with_reducible apply ring_keeps
    | split
    | with_reducible refine Keeps.of_mk ?_ rfl rfl rfl rfl rfl rfl rfl rfl)

end Sys2Proof.Machine
end

