-- ==== Sys2Proof/Laws/KeepsSafetyMonitor.lean ====
section
/-! SUPPORT. What the functions of Machine/SafetyMonitor.lean keep. -/

namespace Sys2Proof.Machine

theorem putGroup_keeps {s0 s : State} (h : Keeps s0 s) (g st cause : Nat) :
    Keeps s0 (State.putGroup s g st cause) := by
  unfold State.putGroup
  try dsimp only
  repeat' (first
    | with_reducible assumption
    | with_reducible intro _
    | with_reducible apply wr_keeps
    | with_reducible apply emit_keeps
    | split
    | with_reducible refine Keeps.of_mk ?_ rfl rfl rfl rfl rfl rfl rfl rfl)

theorem switchOutput_keeps {s0 s : State} (h : Keeps s0 s) (o : Nat) (on : Bool) :
    Keeps s0 (State.switchOutput s o on) := by
  unfold State.switchOutput
  try dsimp only
  repeat' (first
    | with_reducible assumption
    | with_reducible intro _
    | with_reducible apply wrFlag_keeps
    | with_reducible apply put_keeps
    | split
    | with_reducible refine Keeps.of_mk ?_ rfl rfl rfl rfl rfl rfl rfl rfl)

theorem switchGroup_keeps {s0 s : State} (h : Keeps s0 s) (g : Nat) (on : Bool) :
    Keeps s0 (State.switchGroup s g on) := by
  unfold State.switchGroup
  try dsimp only
  repeat' (first
    | with_reducible assumption
    | with_reducible intro _
    | with_reducible apply switchOutput_keeps
    | with_reducible refine Keeps.foldl ?_ ?_ _
    | split
    | with_reducible refine Keeps.of_mk ?_ rfl rfl rfl rfl rfl rfl rfl rfl)

theorem keepGroup_keeps {s0 s : State} (h : Keeps s0 s) (g : Nat) (x : SafeGroup) :
    Keeps s0 (State.keepGroup s g x) := by
  unfold State.keepGroup
  try dsimp only
  repeat' (first
    | with_reducible assumption
    | with_reducible intro _
    | split
    | with_reducible refine Keeps.of_mk ?_ rfl rfl rfl rfl rfl rfl rfl rfl)

theorem voidChallenge_keeps {s0 s : State} (h : Keeps s0 s)  :
    Keeps s0 (State.voidChallenge s) := by
  unfold State.voidChallenge
  try dsimp only
  repeat' (first
    | with_reducible assumption
    | with_reducible intro _
    | with_reducible apply wr_keeps
    | split
    | with_reducible refine Keeps.of_mk ?_ rfl rfl rfl rfl rfl rfl rfl rfl)

theorem tripGroup_keeps {s0 s : State} (h : Keeps s0 s) (g cause : Nat) :
    Keeps s0 (State.tripGroup s g cause) := by
  unfold State.tripGroup
  try dsimp only
  repeat' (first
    | with_reducible assumption
    | with_reducible intro _
    | with_reducible apply voidChallenge_keeps
    | with_reducible apply switchGroup_keeps
    | with_reducible apply keepGroup_keeps
    | with_reducible apply inc_keeps
    | with_reducible apply accrue_keeps
    | with_reducible apply putGroup_keeps
    | split
    | with_reducible refine Keeps.of_mk ?_ rfl rfl rfl rfl rfl rfl rfl rfl)

theorem startGroup_keeps {s0 s : State} (h : Keeps s0 s) (g : Nat) :
    Keeps s0 (State.startGroup s g) := by
  unfold State.startGroup
  try dsimp only
  repeat' (first
    | with_reducible assumption
    | with_reducible intro _
    | with_reducible apply putGroup_keeps
    | split
    | with_reducible refine Keeps.of_mk ?_ rfl rfl rfl rfl rfl rfl rfl rfl)

theorem readSection_keeps {s0 s : State} (h : Keeps s0 s) (x : Folio) :
    Keeps s0 (State.readSection s x) := by
  unfold State.readSection
  try dsimp only
  repeat' (first
    | with_reducible assumption
    | with_reducible intro _
    | with_reducible apply wr_keeps
    | with_reducible apply startGroup_keeps
    | with_reducible apply record_keeps
    | with_reducible refine Keeps.foldl ?_ ?_ _
    | split
    | with_reducible refine Keeps.of_mk ?_ rfl rfl rfl rfl rfl rfl rfl rfl)

theorem execSafetySelftestEnd_keeps {s : State}  :
    ∃ t', execSafetySelftestEnd s = .next t' ∧ Keeps s t' := by
  unfold execSafetySelftestEnd
  refine act_keeps fun s h => ?_
  try dsimp only
  repeat' (first
    | with_reducible assumption
    | with_reducible intro _
    | with_reducible apply readSection_keeps
    | split
    | with_reducible refine Keeps.of_mk ?_ rfl rfl rfl rfl rfl rfl rfl rfl)

theorem execSafeInputEdge_keeps {s : State} (inp : Fin 16) (high : Bool) :
    ∃ t', execSafeInputEdge inp high s = .next t' ∧ Keeps s t' := by
  unfold execSafeInputEdge
  refine act_keeps fun s h => ?_
  try dsimp only
  repeat' (first
    | with_reducible assumption
    | with_reducible intro _
    | with_reducible apply pulse_keeps
    | split
    | with_reducible refine Keeps.of_mk ?_ rfl rfl rfl rfl rfl rfl rfl rfl)

theorem resetPulse_keeps {s0 s : State} (h : Keeps s0 s) (mask : Nat) :
    Keeps s0 (State.resetPulse s mask) := by
  unfold State.resetPulse
  try dsimp only
  repeat' (first
    | with_reducible assumption
    | with_reducible intro _
    | with_reducible apply putGroup_keeps
    | with_reducible apply wr_keeps
    | with_reducible apply keepGroup_keeps
    | with_reducible refine Keeps.foldl ?_ ?_ _
    | split
    | with_reducible refine Keeps.of_mk ?_ rfl rfl rfl rfl rfl rfl rfl rfl)

theorem showCommissioning_keeps {s0 s : State} (h : Keeps s0 s)  :
    Keeps s0 (State.showCommissioning s) := by
  unfold State.showCommissioning
  try dsimp only
  repeat' (first
    | with_reducible assumption
    | with_reducible intro _
    | with_reducible apply wrFlag_keeps
    | split
    | with_reducible refine Keeps.of_mk ?_ rfl rfl rfl rfl rfl rfl rfl rfl)

theorem setPair_keeps {s0 s : State} (h : Keeps s0 s) (p st : Nat) :
    Keeps s0 (State.setPair s p st) := by
  unfold State.setPair
  try dsimp only
  repeat' (first
    | with_reducible assumption
    | with_reducible intro _
    | with_reducible apply wr_keeps
    | with_reducible apply emit_keeps
    | with_reducible apply showCommissioning_keeps
    | with_reducible apply resetPulse_keeps
    | with_reducible apply inc_keeps
    | split
    | with_reducible refine Keeps.of_mk ?_ rfl rfl rfl rfl rfl rfl rfl rfl)

theorem execSafePairFilterExpiry_keeps {s : State} (p : Fin 8) :
    ∃ t', execSafePairFilterExpiry p s = .next t' ∧ Keeps s t' := by
  unfold execSafePairFilterExpiry
  refine act_keeps fun s h => ?_
  try dsimp only
  repeat' (first
    | with_reducible assumption
    | with_reducible intro _
    | with_reducible apply setPair_keeps
    | split
    | with_reducible refine Keeps.of_mk ?_ rfl rfl rfl rfl rfl rfl rfl rfl)

theorem execSafePairDiscrepancy_keeps {s : State} (p : Fin 8) :
    ∃ t', execSafePairDiscrepancy p s = .next t' ∧ Keeps s t' := by
  unfold execSafePairDiscrepancy
  refine act_keeps fun s h => ?_
  try dsimp only
  repeat' (first
    | with_reducible assumption
    | with_reducible intro _
    | with_reducible apply setPair_keeps
    | split
    | with_reducible refine Keeps.of_mk ?_ rfl rfl rfl rfl rfl rfl rfl rfl)

theorem encEvent_keeps {s0 s : State} (h : Keeps s0 s) (e : Nat) :
    Keeps s0 (State.encEvent s e) := by
  unfold State.encEvent
  try dsimp only
  repeat' (first
    | with_reducible assumption
    | with_reducible intro _
    | with_reducible apply emit_keeps
    | split
    | with_reducible refine Keeps.of_mk ?_ rfl rfl rfl rfl rfl rfl rfl rfl)

theorem encPosition_keeps {s0 s : State} (h : Keeps s0 s) (e : Nat) (count : Int) :
    Keeps s0 (State.encPosition s e count) := by
  unfold State.encPosition
  try dsimp only
  repeat' (first
    | with_reducible assumption
    | with_reducible intro _
    | with_reducible apply wr_keeps
    | split
    | with_reducible refine Keeps.of_mk ?_ rfl rfl rfl rfl rfl rfl rfl rfl)

theorem latchEncoder_keeps {s0 s : State} (h : Keeps s0 s) (e : Nat) (l : EncLatch) :
    Keeps s0 (State.latchEncoder s e l) := by
  unfold State.latchEncoder
  try dsimp only
  repeat' (first
    | with_reducible assumption
    | with_reducible intro _
    | with_reducible apply wrInt_keeps
    | with_reducible apply encPosition_keeps
    | with_reducible apply wrFlag_keeps
    | with_reducible apply encEvent_keeps
    | split
    | with_reducible refine Keeps.of_mk ?_ rfl rfl rfl rfl rfl rfl rfl rfl)

theorem execEncoderLatch_keeps {s : State} (xs : List EncLatch) :
    ∃ t', execEncoderLatch xs s = .next t' ∧ Keeps s t' := by
  unfold execEncoderLatch
  refine act_keeps fun s h => ?_
  try dsimp only
  repeat' (first
    | with_reducible assumption
    | with_reducible intro _
    | with_reducible apply latchEncoder_keeps
    | with_reducible apply start_keeps
    | with_reducible refine Keeps.foldl ?_ ?_ _
    | split
    | with_reducible refine Keeps.of_mk ?_ rfl rfl rfl rfl rfl rfl rfl rfl)

theorem execEncoderIndex_keeps {s : State} (e : Fin 8) :
    ∃ t', execEncoderIndex e s = .next t' ∧ Keeps s t' := by
  unfold execEncoderIndex
  refine act_keeps fun s h => ?_
  try dsimp only
  repeat' (first
    | with_reducible assumption
    | with_reducible intro _
    | with_reducible apply wrFlag_keeps
    | with_reducible apply encPosition_keeps
    | with_reducible apply encEvent_keeps
    | split
    | with_reducible refine Keeps.of_mk ?_ rfl rfl rfl rfl rfl rfl rfl rfl)

theorem execEncoderRecovery_keeps {s : State} (e : Fin 8) :
    ∃ t', execEncoderRecovery e s = .next t' ∧ Keeps s t' := by
  unfold execEncoderRecovery
  refine act_keeps fun s h => ?_
  try dsimp only
  repeat' (first
    | with_reducible assumption
    | with_reducible intro _
    | with_reducible apply wrFlag_keeps
    | with_reducible apply encEvent_keeps
    | split
    | with_reducible refine Keeps.of_mk ?_ rfl rfl rfl rfl rfl rfl rfl rfl)

theorem cycleGroup_keeps {s0 s : State} (h : Keeps s0 s) (g : Nat) :
    Keeps s0 (State.cycleGroup s g) := by
  unfold State.cycleGroup
  try dsimp only
  repeat' (first
    | with_reducible assumption
    | with_reducible intro _
    | with_reducible apply keepGroup_keeps
    | with_reducible apply wrFlag_keeps
    | with_reducible apply tripGroup_keeps
    | with_reducible apply start_keeps
    | with_reducible apply pulse_keeps
    | split
    | with_reducible refine Keeps.of_mk ?_ rfl rfl rfl rfl rfl rfl rfl rfl)

theorem outputFault_keeps {s0 s : State} (h : Keeps s0 s) (o : Nat) (switch : List Byte) :
    Keeps s0 (State.outputFault s o switch) := by
  unfold State.outputFault
  try dsimp only
  repeat' (first
    | with_reducible assumption
    | with_reducible intro _
    | with_reducible apply wrFlag_keeps
    | with_reducible apply emit_keeps
    | split
    | with_reducible refine Keeps.of_mk ?_ rfl rfl rfl rfl rfl rfl rfl rfl)

theorem judgeOutputs_keeps {s0 s : State} (h : Keeps s0 s) (x : SafetyIn) :
    Keeps s0 (State.judgeOutputs s x) := by
  unfold State.judgeOutputs
  try dsimp only
  repeat' (first
    | with_reducible assumption
    | with_reducible intro _
    | with_reducible apply outputFault_keeps
    | with_reducible refine Keeps.foldl ?_ ?_ _
    | split
    | with_reducible refine Keeps.of_mk ?_ rfl rfl rfl rfl rfl rfl rfl rfl)

theorem answerAck_keeps {s0 s : State} (h : Keeps s0 s) (a : AckReq) :
    Keeps s0 (State.answerAck s a) := by
  unfold State.answerAck
  try dsimp only
  repeat' (first
    | with_reducible assumption
    | with_reducible intro _
    | with_reducible apply voidChallenge_keeps
    | with_reducible apply switchGroup_keeps
    | with_reducible apply putGroup_keeps
    | with_reducible apply respond_keeps
    | with_reducible refine Keeps.foldl ?_ ?_ _
    | split
    | with_reducible refine Keeps.of_mk ?_ rfl rfl rfl rfl rfl rfl rfl rfl)

theorem safetyFault_keeps {s0 s : State} (h : Keeps s0 s) (test : Nat) :
    Keeps s0 (State.safetyFault s test) := by
  unfold State.safetyFault
  try dsimp only
  repeat' (first
    | with_reducible assumption
    | with_reducible intro _
    | with_reducible apply wrFlag_keeps
    | with_reducible apply voidChallenge_keeps
    | with_reducible apply switchOutput_keeps
    | with_reducible apply putGroup_keeps
    | with_reducible apply emit_keeps
    | with_reducible refine Keeps.foldl ?_ ?_ _
    | split
    | with_reducible refine Keeps.of_mk ?_ rfl rfl rfl rfl rfl rfl rfl rfl)

theorem evaluate_keeps {s0 s : State} (h : Keeps s0 s) (x : SafetyIn) :
    Keeps s0 (State.evaluate s x) := by
  unfold State.evaluate
  try dsimp only
  repeat' (first
    | with_reducible assumption
    | with_reducible intro _
    | with_reducible apply judgeOutputs_keeps
    | with_reducible apply cycleGroup_keeps
    | with_reducible apply start_keeps
    | with_reducible apply answerAck_keeps
    | with_reducible refine Keeps.foldl ?_ ?_ _
    | split
    | with_reducible refine Keeps.of_mk ?_ rfl rfl rfl rfl rfl rfl rfl rfl)

theorem execSafetyCycle_keeps {s : State} (x : SafetyIn) :
    ∃ t', execSafetyCycle x s = .next t' ∧ Keeps s t' := by
  unfold execSafetyCycle
  refine act_keeps fun s h => ?_
  try dsimp only
  repeat' (first
    | with_reducible assumption
    | with_reducible intro _
    | with_reducible apply safetyFault_keeps
    | with_reducible apply evaluate_keeps
    | split
    | with_reducible refine Keeps.of_mk ?_ rfl rfl rfl rfl rfl rfl rfl rfl)

theorem execOutputFaultClear_keeps {s : State} (o : Fin 8) :
    ∃ t', execOutputFaultClear o s = .next t' ∧ Keeps s t' := by
  unfold execOutputFaultClear
  refine act_keeps fun s h => ?_
  try dsimp only
  repeat' (first
    | with_reducible assumption
    | with_reducible intro _
    | with_reducible apply wrFlag_keeps
    | with_reducible apply wr_keeps
    | with_reducible apply emit_keeps
    | with_reducible apply pulse_keeps
    | split
    | with_reducible refine Keeps.of_mk ?_ rfl rfl rfl rfl rfl rfl rfl rfl)

theorem pulse_keeps {s0 s : State} (h : Keeps s0 s) (n : Nat) :
    Keeps s0 (State.pulse s n) := by
  unfold State.pulse
  try dsimp only
  repeat' (first
    | with_reducible assumption
    | with_reducible intro _
    | split
    | with_reducible refine Keeps.of_mk ?_ rfl rfl rfl rfl rfl rfl rfl rfl)

theorem execOffPulse_keeps {s : State} (o : Fin 8) (low high supply : Nat) :
    ∃ t', execOffPulse o low high supply s = .next t' ∧ Keeps s t' := by
  unfold execOffPulse
  refine act_keeps fun s h => ?_
  try dsimp only
  repeat' (first
    | with_reducible assumption
    | with_reducible intro _
    | with_reducible apply pulse_keeps
    | with_reducible apply wr_keeps
    | with_reducible apply outputFault_keeps
    | split
    | with_reducible refine Keeps.of_mk ?_ rfl rfl rfl rfl rfl rfl rfl rfl)

theorem execAckWindowExpiry_keeps {s : State}  :
    ∃ t', execAckWindowExpiry s = .next t' ∧ Keeps s t' := by
  unfold execAckWindowExpiry
  refine act_keeps fun s h => ?_
  try dsimp only
  repeat' (first
    | with_reducible assumption
    | with_reducible intro _
    | with_reducible apply putGroup_keeps
    | with_reducible apply voidChallenge_keeps
    | with_reducible refine Keeps.foldl ?_ ?_ _
    | split
    | with_reducible refine Keeps.of_mk ?_ rfl rfl rfl rfl rfl rfl rfl rfl)

theorem execCmdSafeAck_keeps {s : State} (h : Hdr) (mask : Byte) (challenge : W32) (tag : List Byte) :
    ∃ t', execCmdSafeAck h mask challenge tag s = .next t' ∧ Keeps s t' := by
  unfold execCmdSafeAck
  refine act_keeps fun s h => ?_
  try dsimp only
  repeat' (first
    | with_reducible assumption
    | with_reducible intro _
    | with_reducible apply reply_keeps
    | with_reducible apply command_keeps
    | split
    | with_reducible refine Keeps.of_mk ?_ rfl rfl rfl rfl rfl rfl rfl rfl)

theorem confirm_keeps {s0 s : State} (h : Keeps s0 s) (c : W32) :
    Keeps s0 (State.confirm s c) := by
  unfold State.confirm
  try dsimp only
  repeat' (first
    | with_reducible assumption
    | with_reducible intro _
    | with_reducible apply wr_keeps
    | split
    | with_reducible refine Keeps.of_mk ?_ rfl rfl rfl rfl rfl rfl rfl rfl)

theorem execCmdSafeConfirm_keeps {s : State} (h : Hdr) (colophon_ : W32) :
    ∃ t', execCmdSafeConfirm h colophon_ s = .next t' ∧ Keeps s t' := by
  unfold execCmdSafeConfirm
  refine act_keeps fun s h => ?_
  try dsimp only
  repeat' (first
    | with_reducible assumption
    | with_reducible intro _
    | with_reducible apply reply_keeps
    | with_reducible apply command_keeps
    | with_reducible apply confirm_keeps
    | split
    | with_reducible refine Keeps.of_mk ?_ rfl rfl rfl rfl rfl rfl rfl rfl)

theorem setSafeKey_keeps {s0 s : State} (h : Keeps s0 s) (key : List Byte) :
    Keeps s0 (State.setSafeKey s key) := by
  unfold State.setSafeKey
  try dsimp only
  repeat' (first
    | with_reducible assumption
    | with_reducible intro _
    | with_reducible apply wrFlag_keeps
    | with_reducible apply wr_keeps
    | split
    | with_reducible refine Keeps.of_mk ?_ rfl rfl rfl rfl rfl rfl rfl rfl)

theorem execCmdSafeKey_keeps {s : State} (h : Hdr) (key : List Byte) :
    ∃ t', execCmdSafeKey h key s = .next t' ∧ Keeps s t' := by
  unfold execCmdSafeKey
  refine act_keeps fun s h => ?_
  try dsimp only
  repeat' (first
    | with_reducible assumption
    | with_reducible intro _
    | with_reducible apply reply_keeps
    | with_reducible apply command_keeps
    | with_reducible apply setSafeKey_keeps
    | split
    | with_reducible refine Keeps.of_mk ?_ rfl rfl rfl rfl rfl rfl rfl rfl)

theorem configGroup_keeps {s0 s : State} (h : Keeps s0 s) (g : Nat) :
    Keeps s0 (State.configGroup s g) := by
  unfold State.configGroup
  try dsimp only
  repeat' (first
    | with_reducible assumption
    | with_reducible intro _
    | with_reducible apply keepGroup_keeps
    | with_reducible apply tripGroup_keeps
    | with_reducible apply switchGroup_keeps
    | with_reducible apply putGroup_keeps
    | split
    | with_reducible refine Keeps.of_mk ?_ rfl rfl rfl rfl rfl rfl rfl rfl)

theorem safetyTurn_keeps {s0 s : State} (h : Keeps s0 s)  :
    Keeps s0 (State.safetyTurn s) := by
  unfold State.safetyTurn
  try dsimp only
  repeat' (first
    | with_reducible assumption
    | with_reducible intro _
    | with_reducible apply switchOutput_keeps
    | with_reducible apply configGroup_keeps
    | with_reducible apply showCommissioning_keeps
    | with_reducible refine Keeps.foldl ?_ ?_ _
    | split
    | with_reducible refine Keeps.of_mk ?_ rfl rfl rfl rfl rfl rfl rfl rfl)

end Sys2Proof.Machine
end

