-- ==== Sys2Proof/Laws/KeepsFolios.lean ====
section
/-! SUPPORT. What the functions of Machine/Folios.lean keep. -/

namespace Sys2Proof.Machine

theorem clearWritten_keeps {s0 s : State} (h : Keeps s0 s) (k : Nat) : Keeps s0 { s with regs := s.regs.set k 0 } :=
  h.of_regs fun w => Store.set_wf w _ _

theorem execCmdParamRead_keeps {s : State} (h : Hdr) (count : W16) (items : List (W16 × W16)) :
    ∃ t', execCmdParamRead h count items s = .next t' ∧ Keeps s t' := by
  unfold execCmdParamRead
  refine act_keeps fun s h => ?_
  try dsimp only
  repeat' (first
    | with_reducible assumption
    | with_reducible intro _
    | with_reducible apply reply_keeps
    | with_reducible apply command_keeps
    | split
    | with_reducible refine Keeps.of_mk ?_ rfl rfl rfl rfl rfl rfl rfl rfl)

theorem writeItem_keeps {s0 s : State} (h : Keeps s0 s) (id elem v : Nat) :
    Keeps s0 (State.writeItem s id elem v) := by
  unfold State.writeItem
  try dsimp only
  repeat' (first
    | with_reducible assumption
    | with_reducible intro _
    | with_reducible apply setFolio_keeps
    | with_reducible apply wr_keeps
    | with_reducible refine Keeps.foldl ?_ ?_ _
    | split
    | with_reducible apply clearWritten_keeps
    | with_reducible refine Keeps.of_mk ?_ rfl rfl rfl rfl rfl rfl rfl rfl)

theorem execCmdParamWrite_keeps {s : State} (h : Hdr) (count : W16) (items : List (W16 × W16 × W64)) :
    ∃ t', execCmdParamWrite h count items s = .next t' ∧ Keeps s t' := by
  unfold execCmdParamWrite
  refine act_keeps fun s h => ?_
  try dsimp only
  repeat' (first
    | with_reducible assumption
    | with_reducible intro _
    | with_reducible apply reply_keeps
    | with_reducible apply command_keeps
    | with_reducible apply writeItem_keeps
    | with_reducible refine Keeps.foldl ?_ ?_ _
    | split
    | with_reducible refine Keeps.of_mk ?_ rfl rfl rfl rfl rfl rfl rfl rfl)

theorem execCmdFolioSection_keeps {s : State} (h : Hdr) (sec : Byte) (off : W32) (data : List Byte) :
    ∃ t', execCmdFolioSection h sec off data s = .next t' ∧ Keeps s t' := by
  unfold execCmdFolioSection
  refine act_keeps fun s h => ?_
  try dsimp only
  repeat' (first
    | with_reducible assumption
    | with_reducible intro _
    | with_reducible apply reply_keeps
    | with_reducible apply command_keeps
    | with_reducible apply setFolio_keeps
    | with_reducible apply wr_keeps
    | split
    | with_reducible refine Keeps.of_mk ?_ rfl rfl rfl rfl rfl rfl rfl rfl)

theorem execCmdFolioTurn_keeps {s : State} (h : Hdr) :
    ∃ t', execCmdFolioTurn h s = .next t' ∧ Keeps s t' := by
  unfold execCmdFolioTurn
  refine act_keeps fun s h => ?_
  try dsimp only
  repeat' (first
    | with_reducible assumption
    | with_reducible intro _
    | with_reducible apply reply_keeps
    | with_reducible apply command_keeps
    | split
    | with_reducible refine Keeps.of_mk ?_ rfl rfl rfl rfl rfl rfl rfl rfl)

theorem execCmdFolioDiscard_keeps {s : State} (h : Hdr) :
    ∃ t', execCmdFolioDiscard h s = .next t' ∧ Keeps s t' := by
  unfold execCmdFolioDiscard
  refine act_keeps fun s h => ?_
  try dsimp only
  repeat' (first
    | with_reducible assumption
    | with_reducible intro _
    | with_reducible apply reply_keeps
    | with_reducible apply command_keeps
    | with_reducible apply wr_keeps
    | split
    | with_reducible refine Keeps.of_mk ?_ rfl rfl rfl rfl rfl rfl rfl rfl)

theorem folioIrq_keeps {s0 s : State} (h : Keeps s0 s)  :
    Keeps s0 (State.folioIrq s) := by
  unfold State.folioIrq
  try dsimp only
  repeat' (first
    | with_reducible assumption
    | with_reducible intro _
    | split
    | with_reducible refine Keeps.of_mk ?_ rfl rfl rfl rfl rfl rfl rfl rfl)

theorem refuseTurn_keeps {s0 s : State} (h : Keeps s0 s) (res : Nat) (fail : Option (Nat × Nat)) :
    Keeps s0 (State.refuseTurn s res fail) := by
  unfold State.refuseTurn
  try dsimp only
  repeat' (first
    | with_reducible assumption
    | with_reducible intro _
    | with_reducible apply wr_keeps
    | with_reducible apply folioIrq_keeps
    | with_reducible apply emit_keeps
    | with_reducible apply respond_keeps
    | with_reducible apply record_keeps
    | split
    | with_reducible refine Keeps.of_mk ?_ rfl rfl rfl rfl rfl rfl rfl rfl)

theorem execFolioValidated_keeps {s : State}  :
    ∃ t', execFolioValidated s = .next t' ∧ Keeps s t' := by
  unfold execFolioValidated
  refine act_keeps fun s h => ?_
  try dsimp only
  repeat' (first
    | with_reducible assumption
    | with_reducible intro _
    | with_reducible apply refuseTurn_keeps
    | with_reducible apply wr_keeps
    | with_reducible apply record_keeps
    | split
    | with_reducible refine Keeps.of_mk ?_ rfl rfl rfl rfl rfl rfl rfl rfl)

theorem writeCommit_keeps {s0 s : State} (h : Keeps s0 s) (n : Nat) (crc : W32) : Keeps s0 (s.writeCommit n crc) := by
  refine ⟨h.pending, fun x => ?_⟩
  have y := h.sound x
  exact ⟨y.regs, y.mailboxes, y.queue, y.responses, y.faultLog, y.inputPower, by simp [State.writeCommit]; omega⟩

theorem execFolioCommit_keeps {s : State}  :
    ∃ t', execFolioCommit s = .next t' ∧ Keeps s t' := by
  unfold execFolioCommit
  refine act_keeps fun s h => ?_
  try dsimp only
  repeat' (first
    | with_reducible assumption
    | with_reducible intro _
    | with_reducible apply writeCommit_keeps
    | with_reducible apply wr_keeps
    | with_reducible apply respond_keeps
    | split
    | with_reducible refine Keeps.of_mk ?_ rfl rfl rfl rfl rfl rfl rfl rfl)

theorem turnEvent_keeps {s0 s : State} (h : Keeps s0 s)  :
    Keeps s0 (State.turnEvent s) := by
  unfold State.turnEvent
  try dsimp only
  repeat' (first
    | with_reducible assumption
    | with_reducible intro _
    | with_reducible apply emit_keeps
    | split
    | with_reducible refine Keeps.of_mk ?_ rfl rfl rfl rfl rfl rfl rfl rfl)

theorem swapFolios_keeps {s0 s : State} (h : Keeps s0 s) (n : Nat) (crc : W32) :
    Keeps s0 (State.swapFolios s n crc) := by
  unfold State.swapFolios
  try dsimp only
  repeat' (first
    | with_reducible assumption
    | with_reducible intro _
    | with_reducible apply wr_keeps
    | with_reducible apply inc_keeps
    | with_reducible apply folioIrq_keeps
    | with_reducible apply turnEvent_keeps
    | split
    | with_reducible refine Keeps.of_mk ?_ rfl rfl rfl rfl rfl rfl rfl rfl)

theorem execShadowSyncComplete_keeps {s : State}  :
    ∃ t', execShadowSyncComplete s = .next t' ∧ Keeps s t' := by
  unfold execShadowSyncComplete
  refine act_keeps fun s h => ?_
  try dsimp only
  repeat' (first
    | with_reducible assumption
    | with_reducible intro _
    | with_reducible apply setFolio_keeps
    | with_reducible apply wr_keeps
    | with_reducible apply turnEvent_keeps
    | split
    | with_reducible refine Keeps.of_mk ?_ rfl rfl rfl rfl rfl rfl rfl rfl)

end Sys2Proof.Machine
end

