-- ==== Sys2Proof/Laws/KeepsPower.lean ====
section
/-! SUPPORT. What the functions of Machine/Power.lean keep. -/

namespace Sys2Proof.Machine

/-- A command that acts powered or not keeps what its effect keeps. -/
theorem always_keeps {s : State} {f : State → State} (h : ∀ x : State, Keeps s x → Keeps s (f x)) :
    ∃ t', always f s = .next t' ∧ Keeps s t' :=
  ⟨_, rfl, h _ ((Keeps.refl s).of_eq rfl rfl rfl rfl rfl rfl rfl rfl)⟩

theorem countMram_keeps {s0 s : State} (h : Keeps s0 s) (id : Nat) :
    Keeps s0 (State.countMram s id) := by
  unfold State.countMram
  try dsimp only
  repeat' (first
    | with_reducible assumption
    | with_reducible intro _
    | with_reducible apply checkSaturated_keeps
    | split
    | with_reducible refine Keeps.of_mk ?_ rfl rfl rfl rfl rfl rfl rfl rfl)

theorem execPowerOn_keeps {s : State} (offNs : Nat) :
    ∃ t', execPowerOn offNs s = .next t' ∧ Keeps s t' := by
  unfold execPowerOn
  refine always_keeps fun s h => ?_
  try dsimp only
  repeat' (first
    | with_reducible assumption
    | with_reducible intro _
    | with_reducible apply countMram_keeps
    | with_reducible apply doReset_keeps
    | split
    | with_reducible refine Keeps.of_mk ?_ rfl rfl rfl rfl rfl rfl rfl rfl)

theorem execRstN_keeps {s : State} (lowNs : Nat) :
    ∃ t', execRstN lowNs s = .next t' ∧ Keeps s t' := by
  unfold execRstN
  refine act_keeps fun s h => ?_
  try dsimp only
  repeat' (first
    | with_reducible assumption
    | with_reducible intro _
    | with_reducible apply doReset_keeps
    | split
    | with_reducible refine Keeps.of_mk ?_ rfl rfl rfl rfl rfl rfl rfl rfl)

theorem execConvertersStop_keeps {s : State}  :
    ∃ t', execConvertersStop s = .next t' ∧ Keeps s t' := by
  unfold execConvertersStop
  refine act_keeps fun s h => ?_
  try dsimp only
  repeat' (first
    | with_reducible assumption
    | with_reducible intro _
    | split
    | with_reducible refine Keeps.of_mk ?_ rfl rfl rfl rfl rfl rfl rfl rfl)

theorem execVbatLoss_keeps {s : State}  :
    ∃ t', execVbatLoss s = .next t' ∧ Keeps s t' := by
  unfold execVbatLoss
  refine always_keeps fun s h => ?_
  try dsimp only
  repeat' (first
    | with_reducible assumption
    | with_reducible intro _
    | split
    | with_reducible refine Keeps.of_mk ?_ rfl rfl rfl rfl rfl rfl rfl rfl)

theorem execFeedChange_keeps {s : State} (f : Feed) (cls : Nat) :
    ∃ t', execFeedChange f cls s = .next t' ∧ Keeps s t' := by
  unfold execFeedChange
  refine always_keeps fun s h => ?_
  try dsimp only
  repeat' (first
    | with_reducible assumption
    | with_reducible intro _
    | split
    | with_reducible refine Keeps.of_mk ?_ rfl rfl rfl rfl rfl rfl rfl rfl)

theorem guardEvent_keeps {s0 s : State} (h : Keeps s0 s) (release seq ns : Nat) :
    Keeps s0 (State.guardEvent s release seq ns) := by
  unfold State.guardEvent
  try dsimp only
  repeat' (first
    | with_reducible assumption
    | with_reducible intro _
    | with_reducible apply emit_keeps
    | split
    | with_reducible refine Keeps.of_mk ?_ rfl rfl rfl rfl rfl rfl rfl rfl)

theorem showTrip_keeps {s0 s : State} (h : Keeps s0 s) (c : GuardCause) :
    Keeps s0 (State.showTrip s c) := by
  unfold State.showTrip
  try dsimp only
  repeat' (first
    | with_reducible assumption
    | with_reducible intro _
    | with_reducible apply wr_keeps
    | with_reducible apply inc_keeps
    | with_reducible apply countMram_keeps
    | split
    | with_reducible refine Keeps.of_mk ?_ rfl rfl rfl rfl rfl rfl rfl rfl)

theorem tripGuard_keeps {s0 s : State} (h : Keeps s0 s) (c : GuardCause) (e : Endpaper) :
    Keeps s0 (State.tripGuard s c e) := by
  unfold State.tripGuard
  try dsimp only
  repeat' (first
    | with_reducible assumption
    | with_reducible intro _
    | with_reducible apply showTrip_keeps
    | with_reducible apply refuseTurn_keeps
    | with_reducible apply guardEvent_keeps
    | split
    | with_reducible refine Keeps.of_mk ?_ rfl rfl rfl rfl rfl rfl rfl rfl)

theorem execWriteGuardTrip_keeps {s : State} (c : GuardCause) :
    ∃ t', execWriteGuardTrip c s = .next t' ∧ Keeps s t' := by
  unfold execWriteGuardTrip
  refine act_keeps fun s h => ?_
  try dsimp only
  repeat' (first
    | with_reducible assumption
    | with_reducible intro _
    | with_reducible apply showTrip_keeps
    | with_reducible apply guardEvent_keeps
    | with_reducible apply tripGuard_keeps
    | split
    | with_reducible refine Keeps.of_mk ?_ rfl rfl rfl rfl rfl rfl rfl rfl)

theorem storeEndpaper_keeps {s0 s : State} (h : Keeps s0 s) (e : Endpaper) :
    Keeps s0 (State.storeEndpaper s e) := by
  unfold State.storeEndpaper
  try dsimp only
  repeat' (first
    | with_reducible assumption
    | with_reducible intro _
    | with_reducible apply wr_keeps
    | split
    | with_reducible refine Keeps.of_mk ?_ rfl rfl rfl rfl rfl rfl rfl rfl)

theorem execEndpaperComplete_keeps {s : State}  :
    ∃ t', execEndpaperComplete s = .next t' ∧ Keeps s t' := by
  unfold execEndpaperComplete
  refine act_keeps fun s h => ?_
  try dsimp only
  repeat' (first
    | with_reducible assumption
    | with_reducible intro _
    | with_reducible apply storeEndpaper_keeps
    | with_reducible apply doReset_keeps
    | split
    | with_reducible refine Keeps.of_mk ?_ rfl rfl rfl rfl rfl rfl rfl rfl)

theorem execWriteGuardRelease_keeps {s : State}  :
    ∃ t', execWriteGuardRelease s = .next t' ∧ Keeps s t' := by
  unfold execWriteGuardRelease
  refine act_keeps fun s h => ?_
  try dsimp only
  repeat' (first
    | with_reducible assumption
    | with_reducible intro _
    | with_reducible apply wr_keeps
    | with_reducible apply guardEvent_keeps
    | split
    | with_reducible refine Keeps.of_mk ?_ rfl rfl rfl rfl rfl rfl rfl rfl)

theorem latchPower_keeps {s0 s : State} (h : Keeps s0 s) (base die : Int) (power : Nat) :
    Keeps s0 (s.latchPower base die power) := by
  refine ⟨h.pending, fun x => ?_⟩
  have y := h.sound x
  exact ⟨y.regs, y.mailboxes, y.queue, y.responses, y.faultLog, by simp [State.latchPower]; omega, y.commits⟩

theorem execGovernorLatch_keeps {s : State} (base : Int) (dies : List Int) (power : Nat) :
    ∃ t', execGovernorLatch base dies power s = .next t' ∧ Keeps s t' := by
  unfold execGovernorLatch
  refine act_keeps fun s h => ?_
  try dsimp only
  repeat' (first
    | with_reducible assumption
    | with_reducible intro _
    | with_reducible apply latchPower_keeps
    | split
    | with_reducible refine Keeps.of_mk ?_ rfl rfl rfl rfl rfl rfl rfl rfl)

theorem execUpstepHoldExpiry_keeps {s : State}  :
    ∃ t', execUpstepHoldExpiry s = .next t' ∧ Keeps s t' := by
  unfold execUpstepHoldExpiry
  refine act_keeps fun s h => ?_
  try dsimp only
  repeat' (first
    | with_reducible assumption
    | with_reducible intro _
    | split
    | with_reducible refine Keeps.of_mk ?_ rfl rfl rfl rfl rfl rfl rfl rfl)

theorem execCmdBudgetCap_keeps {s : State} (h : Hdr) (code : Byte) :
    ∃ t', execCmdBudgetCap h code s = .next t' ∧ Keeps s t' := by
  unfold execCmdBudgetCap
  refine act_keeps fun s h => ?_
  try dsimp only
  repeat' (first
    | with_reducible assumption
    | with_reducible intro _
    | with_reducible apply reply_keeps
    | with_reducible apply command_keeps
    | split
    | with_reducible refine Keeps.of_mk ?_ rfl rfl rfl rfl rfl rfl rfl rfl)

theorem showFeed_keeps {s0 s : State} (h : Keeps s0 s) (f : Fld) (feed new capacity : Nat) :
    Keeps s0 (State.showFeed s f feed new capacity) := by
  unfold State.showFeed
  try dsimp only
  repeat' (first
    | with_reducible assumption
    | with_reducible intro _
    | with_reducible apply wr_keeps
    | with_reducible apply emit_keeps
    | split
    | with_reducible refine Keeps.of_mk ?_ rfl rfl rfl rfl rfl rfl rfl rfl)

theorem showFeeds_keeps {s0 s : State} (h : Keeps s0 s) (feeds : List Nat) :
    Keeps s0 (State.showFeeds s feeds) := by
  unfold State.showFeeds
  try dsimp only
  repeat' (first
    | with_reducible assumption
    | with_reducible intro _
    | with_reducible apply wr_keeps
    | with_reducible apply showFeed_keeps
    | split
    | with_reducible refine Keeps.of_mk ?_ rfl rfl rfl rfl rfl rfl rfl rfl)

theorem thermalEvents_keeps {s0 s : State} (h : Keeps s0 s) (sensor old new : Nat) (temp : Int) :
    Keeps s0 (State.thermalEvents s sensor old new temp) := by
  unfold State.thermalEvents
  try dsimp only
  repeat' (first
    | with_reducible assumption
    | with_reducible intro _
    | with_reducible apply emit_keeps
    | with_reducible apply start_keeps
    | with_reducible refine Keeps.foldl ?_ ?_ _
    | split
    | with_reducible refine Keeps.of_mk ?_ rfl rfl rfl rfl rfl rfl rfl rfl)

theorem applyBudget_keeps {s0 s : State} (h : Keeps s0 s) (turned : Bool) :
    Keeps s0 (State.applyBudget s turned) := by
  unfold State.applyBudget
  try dsimp only
  repeat' (first
    | with_reducible assumption
    | with_reducible intro _
    | with_reducible apply showFeeds_keeps
    | with_reducible apply thermalEvents_keeps
    | with_reducible apply wr_keeps
    | with_reducible apply wrInt_keeps
    | with_reducible apply emit_keeps
    | with_reducible apply powerRx_keeps
    | split
    | with_reducible refine Keeps.of_mk ?_ rfl rfl rfl rfl rfl rfl rfl rfl)

theorem powerFrame_keeps {s0 s : State} (h : Keeps s0 s) (i : FrameIn) :
    Keeps s0 (State.powerFrame s i) := by
  unfold State.powerFrame
  try dsimp only
  repeat' (first
    | with_reducible assumption
    | with_reducible intro _
    | with_reducible apply wr_keeps
    | with_reducible refine Keeps.foldl ?_ ?_ _
    | split
    | with_reducible refine Keeps.of_mk ?_ rfl rfl rfl rfl rfl rfl rfl rfl)

end Sys2Proof.Machine
end

