-- ==== Sys2Proof/Laws/KeepsHost.lean ====
section
/-! SUPPORT. What the functions of Machine/Host.lean keep. -/

namespace Sys2Proof.Machine

theorem latchMirrors_keeps {s0 s : State} (h : Keeps s0 s)  :
    Keeps s0 (State.latchMirrors s) := by
  unfold State.latchMirrors
  try dsimp only
  repeat' (first
    | with_reducible assumption
    | with_reducible intro _
    | split
    | with_reducible refine Keeps.of_mk ?_ rfl rfl rfl rfl rfl rfl rfl rfl)

theorem countLink_keeps {s0 s : State} (h : Keeps s0 s)  :
    Keeps s0 (State.countLink s) := by
  unfold State.countLink
  try dsimp only
  repeat' (first
    | with_reducible assumption
    | with_reducible intro _
    | split
    | with_reducible refine Keeps.of_mk ?_ rfl rfl rfl rfl rfl rfl rfl rfl)

theorem linkError_keeps {s0 s : State} (h : Keeps s0 s)  :
    Keeps s0 (State.linkError s) := by
  unfold State.linkError
  try dsimp only
  repeat' (first
    | with_reducible assumption
    | with_reducible intro _
    | with_reducible apply countLink_keeps
    | with_reducible apply put_keeps
    | split
    | with_reducible refine Keeps.of_mk ?_ rfl rfl rfl rfl rfl rfl rfl rfl)

theorem spiRead_keeps {s0 s : State} (h : Keeps s0 s) (opcode addr : Nat) (data : List Byte) :
    Keeps s0 (State.spiRead s opcode addr data) := by
  unfold State.spiRead
  try dsimp only
  repeat' (first
    | with_reducible assumption
    | with_reducible intro _
    | with_reducible apply put_keeps
    | split
    | with_reducible refine Keeps.of_mk ?_ rfl rfl rfl rfl rfl rfl rfl rfl)

theorem execMailboxWrite_keeps {s : State} (n : Fin 8) (off : Nat) (data : List Byte) (crc : Option W32) :
    ∃ t', execMailboxWrite n off data crc s = .next t' ∧ Keeps s t' := by
  unfold execMailboxWrite
  refine act_keeps fun s h => ?_
  dsimp only
  split
  · exact linkError_keeps h
  · exact setMailbox_keeps h _ _ fun m => writeBytes_wf m _ _

theorem execMailboxRead_keeps {s : State} (n : Fin 8) (off : Nat) (len : Option Nat) :
    ∃ t', execMailboxRead n off len s = .next t' ∧ Keeps s t' := by
  unfold execMailboxRead
  refine act_keeps fun s h => ?_
  try dsimp only
  repeat' (first
    | with_reducible assumption
    | with_reducible intro _
    | with_reducible apply linkError_keeps
    | with_reducible apply spiRead_keeps
    | split
    | with_reducible refine Keeps.of_mk ?_ rfl rfl rfl rfl rfl rfl rfl rfl)

theorem execEventRead_keeps {s : State} (k : Option Nat) :
    ∃ t', execEventRead k s = .next t' ∧ Keeps s t' := by
  unfold execEventRead
  refine act_keeps fun s h => ?_
  try dsimp only
  repeat' (first
    | with_reducible assumption
    | with_reducible intro _
    | with_reducible apply linkError_keeps
    | with_reducible apply spiRead_keeps
    | split
    | with_reducible refine Keeps.of_mk ?_ rfl rfl rfl rfl rfl rfl rfl rfl)

theorem freeMailbox_keeps {s0 s : State} (h : Keeps s0 s) (n : Nat) :
    Keeps s0 (State.freeMailbox s n) := by
  unfold State.freeMailbox
  try dsimp only
  repeat' (first
    | with_reducible assumption
    | with_reducible intro _
    | (with_reducible refine setMailbox_keeps ?_ _ _ fun m => ?_; rotate_left; exact m)
    | split
    | with_reducible refine Keeps.of_mk ?_ rfl rfl rfl rfl rfl rfl rfl rfl)

theorem clearIrq_keeps {s0 s : State} (h : Keeps s0 s) (bits : Nat) :
    Keeps s0 (State.clearIrq s bits) := by
  unfold State.clearIrq
  try dsimp only
  repeat' (first
    | with_reducible assumption
    | with_reducible intro _
    | with_reducible apply freeMailbox_keeps
    | with_reducible refine Keeps.foldl ?_ ?_ _
    | split
    | with_reducible refine Keeps.of_mk ?_ rfl rfl rfl rfl rfl rfl rfl rfl)

theorem execHostIrqStatusClear_keeps {s : State} (bits : W32) :
    ∃ t', execHostIrqStatusClear bits s = .next t' ∧ Keeps s t' := by
  unfold execHostIrqStatusClear
  refine act_keeps fun s h => ?_
  try dsimp only
  repeat' (first
    | with_reducible assumption
    | with_reducible intro _
    | with_reducible apply clearIrq_keeps
    | split
    | with_reducible refine Keeps.of_mk ?_ rfl rfl rfl rfl rfl rfl rfl rfl)

theorem ring_keeps {s0 s : State} (h : Keeps s0 s) (bits : Nat) :
    Keeps s0 (State.ring s bits) := by
  unfold State.ring
  try dsimp only
  repeat' (first
    | with_reducible assumption
    | with_reducible intro _
    | with_reducible apply countLink_keeps
    | with_reducible refine Keeps.foldl ?_ ?_ _
    | (with_reducible refine setMailbox_keeps ?_ _ _ fun m => ?_; rotate_left; exact m)
    | split
    | with_reducible refine Keeps.of_mk ?_ rfl rfl rfl rfl rfl rfl rfl rfl)

theorem execMbxDoorbell_keeps {s : State} (bits : Byte) :
    ∃ t', execMbxDoorbell bits s = .next t' ∧ Keeps s t' := by
  unfold execMbxDoorbell
  refine act_keeps fun s h => ?_
  try dsimp only
  repeat' (first
    | with_reducible assumption
    | with_reducible intro _
    | with_reducible apply ring_keeps
    | split
    | with_reducible refine Keeps.of_mk ?_ rfl rfl rfl rfl rfl rfl rfl rfl)

theorem ackEvents_keeps {s0 s : State} (h : Keeps s0 s) (seq : Nat) : Keeps s0 (s.ackEvents seq) :=
  h.of_queue fun hq => filter_allowed hq _

theorem execEvqAck_keeps {s : State} (seq : W32) :
    ∃ t', execEvqAck seq s = .next t' ∧ Keeps s t' := by
  unfold execEvqAck
  refine act_keeps fun s h => ?_
  try dsimp only
  repeat' (first
    | with_reducible assumption
    | with_reducible intro _
    | with_reducible apply ackEvents_keeps
    | with_reducible apply command_keeps
    | split
    | with_reducible refine Keeps.of_mk ?_ rfl rfl rfl rfl rfl rfl rfl rfl)

theorem pendReset_keeps {s0 s : State} (h : Keeps s0 s)  :
    Keeps s0 (State.pendReset s) := by
  unfold State.pendReset
  try dsimp only
  repeat' (first
    | with_reducible assumption
    | with_reducible intro _
    | split
    | with_reducible refine Keeps.of_mk ?_ rfl rfl rfl rfl rfl rfl rfl rfl)

theorem requestReset_keeps {s0 s : State} (h : Keeps s0 s) (v : Nat) :
    Keeps s0 (State.requestReset s v) := by
  unfold State.requestReset
  try dsimp only
  repeat' (first
    | with_reducible assumption
    | with_reducible intro _
    | with_reducible apply pendReset_keeps
    | split
    | with_reducible refine Keeps.of_mk ?_ rfl rfl rfl rfl rfl rfl rfl rfl)

theorem execResetRequest_keeps {s : State} (v : W32) :
    ∃ t', execResetRequest v s = .next t' ∧ Keeps s t' := by
  unfold execResetRequest
  refine act_keeps fun s h => ?_
  try dsimp only
  repeat' (first
    | with_reducible assumption
    | with_reducible intro _
    | with_reducible apply requestReset_keeps
    | split
    | with_reducible refine Keeps.of_mk ?_ rfl rfl rfl rfl rfl rfl rfl rfl)

theorem writeDirect_keeps {s0 s : State} (h : Keeps s0 s) (off : Nat) (v : W32) :
    Keeps s0 (State.writeDirect s off v) := by
  unfold State.writeDirect
  try dsimp only
  repeat' (first
    | with_reducible assumption
    | with_reducible intro _
    | with_reducible apply clearIrq_keeps
    | with_reducible apply ring_keeps
    | with_reducible apply ackEvents_keeps
    | with_reducible apply requestReset_keeps
    | split
    | with_reducible refine Keeps.of_mk ?_ rfl rfl rfl rfl rfl rfl rfl rfl)

theorem writeDirects_keeps {s0 s : State} (h : Keeps s0 s) (off : Nat) (vals : List W32) :
    Keeps s0 (s.writeDirects off vals) := by
  induction vals generalizing s off with
  | nil => exact h
  | cons v rest ih => exact ih (writeDirect_keeps h _ _) _

theorem execRegisterWrite_keeps {s : State} (off : Nat) (vals : List W32) (crc : Option W32) :
    ∃ t', execRegisterWrite off vals crc s = .next t' ∧ Keeps s t' := by
  unfold execRegisterWrite
  refine act_keeps fun s h => ?_
  try dsimp only
  repeat' (first
    | with_reducible assumption
    | with_reducible intro _
    | with_reducible apply linkError_keeps
    | with_reducible apply writeDirects_keeps
    | split
    | with_reducible refine Keeps.of_mk ?_ rfl rfl rfl rfl rfl rfl rfl rfl)

theorem latchTime_keeps {s0 s : State} (h : Keeps s0 s) (t : Nat) :
    Keeps s0 (State.latchTime s t) := by
  unfold State.latchTime
  try dsimp only
  repeat' (first
    | with_reducible assumption
    | with_reducible intro _
    | split
    | with_reducible refine Keeps.of_mk ?_ rfl rfl rfl rfl rfl rfl rfl rfl)

theorem execStSecLoRead_keeps {s : State} (off : Nat) (count : Option Nat) (subNs : Nat) :
    ∃ t', execStSecLoRead off count subNs s = .next t' ∧ Keeps s t' := by
  unfold execStSecLoRead
  refine act_keeps fun s h => ?_
  try dsimp only
  repeat' (first
    | with_reducible assumption
    | with_reducible intro _
    | with_reducible apply linkError_keeps
    | with_reducible apply latchTime_keeps
    | with_reducible apply spiRead_keeps
    | with_reducible apply command_keeps
    | split
    | with_reducible refine Keeps.of_mk ?_ rfl rfl rfl rfl rfl rfl rfl rfl)

theorem rejectMailbox_keeps {s0 s : State} (h : Keeps s0 s) (n : Nat) :
    Keeps s0 (State.rejectMailbox s n) := by
  unfold State.rejectMailbox
  try dsimp only
  repeat' (first
    | with_reducible assumption
    | with_reducible intro _
    | with_reducible apply command_keeps
    | (with_reducible refine setMailbox_keeps ?_ _ _ fun m => ?_; rotate_left; exact m)
    | split
    | with_reducible refine Keeps.of_mk ?_ rfl rfl rfl rfl rfl rfl rfl rfl)

theorem takeCommand_keeps {s0 s : State} (h : Keeps s0 s) (n : Nat) :
    Keeps s0 (State.takeCommand s n) := by
  unfold State.takeCommand
  try dsimp only
  repeat' (first
    | with_reducible assumption
    | with_reducible intro _
    | with_reducible apply respond_keeps
    | with_reducible apply rejectMailbox_keeps
    | with_reducible apply command_keeps
    | (with_reducible refine setMailbox_keeps ?_ _ _ fun m => ?_; rotate_left; exact m)
    | split
    | with_reducible refine Keeps.of_mk ?_ rfl rfl rfl rfl rfl rfl rfl rfl)

theorem takeMailbox_keeps {s0 s : State} (h : Keeps s0 s) (n : Nat) :
    Keeps s0 (State.takeMailbox s n) := by
  unfold State.takeMailbox
  try dsimp only
  repeat' (first
    | with_reducible assumption
    | with_reducible intro _
    | with_reducible apply rejectMailbox_keeps
    | with_reducible apply takeCommand_keeps
    | split
    | with_reducible refine Keeps.of_mk ?_ rfl rfl rfl rfl rfl rfl rfl rfl)

theorem takeMailboxes_keeps {s0 s : State} (h : Keeps s0 s)  :
    Keeps s0 (State.takeMailboxes s) := by
  unfold State.takeMailboxes
  try dsimp only
  repeat' (first
    | with_reducible assumption
    | with_reducible intro _
    | with_reducible apply takeMailbox_keeps
    | with_reducible refine Keeps.foldl ?_ ?_ _
    | split
    | with_reducible refine Keeps.of_mk ?_ rfl rfl rfl rfl rfl rfl rfl rfl)

theorem execCmdEventAck_keeps {s : State} (h : Hdr) (seq : W32) :
    ∃ t', execCmdEventAck h seq s = .next t' ∧ Keeps s t' := by
  unfold execCmdEventAck
  refine act_keeps fun s h => ?_
  try dsimp only
  repeat' (first
    | with_reducible assumption
    | with_reducible intro _
    | with_reducible apply reply_keeps
    | with_reducible apply command_keeps
    | with_reducible apply ackEvents_keeps
    | split
    | with_reducible refine Keeps.of_mk ?_ rfl rfl rfl rfl rfl rfl rfl rfl)

theorem noteResend_keeps {s0 s : State} (h : Keeps s0 s)  :
    Keeps s0 (State.noteResend s) := by
  unfold State.noteResend
  try dsimp only
  repeat' (first
    | with_reducible assumption
    | with_reducible intro _
    | with_reducible apply start_keeps
    | split
    | with_reducible refine Keeps.of_mk ?_ rfl rfl rfl rfl rfl rfl rfl rfl)

theorem sendToHosts_keeps {s0 s : State} (h : Keeps s0 s) (m : List Byte) :
    Keeps s0 (State.sendToHosts s m) := by
  unfold State.sendToHosts
  try dsimp only
  repeat' (first
    | with_reducible assumption
    | with_reducible intro _
    | with_reducible apply sendEvent_keeps
    | with_reducible refine Keeps.foldl ?_ ?_ _
    | split
    | with_reducible refine Keeps.of_mk ?_ rfl rfl rfl rfl rfl rfl rfl rfl)

theorem execEventResend_keeps {s : State}  :
    ∃ t', execEventResend s = .next t' ∧ Keeps s t' := by
  unfold execEventResend
  refine act_keeps fun s h => ?_
  try dsimp only
  repeat' (first
    | with_reducible assumption
    | with_reducible intro _
    | with_reducible apply sendToHosts_keeps
    | with_reducible apply noteResend_keeps
    | with_reducible refine Keeps.foldl ?_ ?_ _
    | split
    | with_reducible refine Keeps.of_mk ?_ rfl rfl rfl rfl rfl rfl rfl rfl)

theorem execCmdNop_keeps {s : State} (h : Hdr) (data : List Byte) :
    ∃ t', execCmdNop h data s = .next t' ∧ Keeps s t' := by
  unfold execCmdNop
  refine act_keeps fun s h => ?_
  try dsimp only
  repeat' (first
    | with_reducible assumption
    | with_reducible intro _
    | with_reducible apply reply_keeps
    | with_reducible apply command_keeps
    | split
    | with_reducible refine Keeps.of_mk ?_ rfl rfl rfl rfl rfl rfl rfl rfl)

theorem execCmdDevReset_keeps {s : State} (h : Hdr) (arg : Byte) :
    ∃ t', execCmdDevReset h arg s = .next t' ∧ Keeps s t' := by
  unfold execCmdDevReset
  refine act_keeps fun s h => ?_
  try dsimp only
  repeat' (first
    | with_reducible assumption
    | with_reducible intro _
    | with_reducible apply reply_keeps
    | with_reducible apply command_keeps
    | with_reducible apply pendReset_keeps
    | split
    | with_reducible refine Keeps.of_mk ?_ rfl rfl rfl rfl rfl rfl rfl rfl)

theorem resumeMode_keeps {s0 s : State} (h : Keeps s0 s)  :
    Keeps s0 (State.resumeMode s) := by
  unfold State.resumeMode
  try dsimp only
  repeat' (first
    | with_reducible assumption
    | with_reducible intro _
    | with_reducible apply requestMode_keeps
    | with_reducible refine requestMode_keeps_of ?_ (by with_reducible assumption)
    | split
    | with_reducible refine Keeps.of_mk ?_ rfl rfl rfl rfl rfl rfl rfl rfl)

theorem enterState_keeps {s0 s : State} (h : Keeps s0 s) (new cause : Nat) :
    Keeps s0 (State.enterState s new cause) := by
  unfold State.enterState
  try dsimp only
  repeat' (first
    | with_reducible assumption
    | with_reducible intro _
    | with_reducible apply wr_keeps
    | with_reducible apply emit_keeps
    | with_reducible apply cancelStep_keeps
    | with_reducible apply stopLogic_keeps
    | with_reducible apply resumeMode_keeps
    | split
    | with_reducible refine Keeps.of_mk ?_ rfl rfl rfl rfl rfl rfl rfl rfl)

theorem execCmdDevState_keeps {s : State} (h : Hdr) (target : Byte) :
    ∃ t', execCmdDevState h target s = .next t' ∧ Keeps s t' := by
  unfold execCmdDevState
  refine act_keeps fun s h => ?_
  try dsimp only
  repeat' (first
    | with_reducible assumption
    | with_reducible intro _
    | with_reducible apply reply_keeps
    | with_reducible apply command_keeps
    | with_reducible apply enterState_keeps
    | split
    | with_reducible refine Keeps.of_mk ?_ rfl rfl rfl rfl rfl rfl rfl rfl)

theorem fwEvent_keeps {s0 s : State} (h : Keeps s0 s) (step slot version : Nat) (tail : List Byte) :
    Keeps s0 (State.fwEvent s step slot version tail) := by
  unfold State.fwEvent
  try dsimp only
  repeat' (first
    | with_reducible assumption
    | with_reducible intro _
    | with_reducible apply emit_keeps
    | split
    | with_reducible refine Keeps.of_mk ?_ rfl rfl rfl rfl rfl rfl rfl rfl)

theorem execCmdFwBegin_keeps {s : State} (h : Hdr) (size : W32) (digest : List Byte) :
    ∃ t', execCmdFwBegin h size digest s = .next t' ∧ Keeps s t' := by
  unfold execCmdFwBegin
  refine act_keeps fun s h => ?_
  try dsimp only
  repeat' (first
    | with_reducible assumption
    | with_reducible intro _
    | with_reducible apply reply_keeps
    | with_reducible apply command_keeps
    | split
    | with_reducible refine Keeps.of_mk ?_ rfl rfl rfl rfl rfl rfl rfl rfl)

theorem execFwSlotErased_keeps {s : State}  :
    ∃ t', execFwSlotErased s = .next t' ∧ Keeps s t' := by
  unfold execFwSlotErased
  refine act_keeps fun s h => ?_
  try dsimp only
  repeat' (first
    | with_reducible assumption
    | with_reducible intro _
    | with_reducible apply respond_keeps
    | with_reducible apply wr_keeps
    | with_reducible apply fwEvent_keeps
    | with_reducible apply accrue_keeps
    | split
    | with_reducible refine Keeps.of_mk ?_ rfl rfl rfl rfl rfl rfl rfl rfl)

theorem execCmdFwBlock_keeps {s : State} (h : Hdr) (off : W32) (data : List Byte) :
    ∃ t', execCmdFwBlock h off data s = .next t' ∧ Keeps s t' := by
  unfold execCmdFwBlock
  refine act_keeps fun s h => ?_
  try dsimp only
  repeat' (first
    | with_reducible assumption
    | with_reducible intro _
    | with_reducible apply reply_keeps
    | with_reducible apply command_keeps
    | with_reducible apply wr_keeps
    | with_reducible apply fwEvent_keeps
    | split
    | with_reducible refine Keeps.of_mk ?_ rfl rfl rfl rfl rfl rfl rfl rfl)

theorem execCmdFwCommit_keeps {s : State} (h : Hdr) :
    ∃ t', execCmdFwCommit h s = .next t' ∧ Keeps s t' := by
  unfold execCmdFwCommit
  refine act_keeps fun s h => ?_
  try dsimp only
  repeat' (first
    | with_reducible assumption
    | with_reducible intro _
    | with_reducible apply reply_keeps
    | with_reducible apply command_keeps
    | with_reducible apply record_keeps
    | split
    | with_reducible refine Keeps.of_mk ?_ rfl rfl rfl rfl rfl rfl rfl rfl)

theorem execFwImageVerified_keeps {s : State}  :
    ∃ t', execFwImageVerified s = .next t' ∧ Keeps s t' := by
  unfold execFwImageVerified
  refine act_keeps fun s h => ?_
  try dsimp only
  repeat' (first
    | with_reducible assumption
    | with_reducible intro _
    | with_reducible apply respond_keeps
    | with_reducible apply wr_keeps
    | with_reducible apply fwEvent_keeps
    | split
    | with_reducible refine Keeps.of_mk ?_ rfl rfl rfl rfl rfl rfl rfl rfl)

theorem execCmdFwAbort_keeps {s : State} (h : Hdr) :
    ∃ t', execCmdFwAbort h s = .next t' ∧ Keeps s t' := by
  unfold execCmdFwAbort
  refine act_keeps fun s h => ?_
  try dsimp only
  repeat' (first
    | with_reducible assumption
    | with_reducible intro _
    | with_reducible apply reply_keeps
    | with_reducible apply command_keeps
    | with_reducible apply wr_keeps
    | with_reducible apply respond_keeps
    | with_reducible apply record_keeps
    | split
    | with_reducible refine Keeps.of_mk ?_ rfl rfl rfl rfl rfl rfl rfl rfl)

theorem execFwTrialEnd_keeps {s : State}  :
    ∃ t', execFwTrialEnd s = .next t' ∧ Keeps s t' := by
  unfold execFwTrialEnd
  refine act_keeps fun s h => ?_
  try dsimp only
  repeat' (first
    | with_reducible assumption
    | with_reducible intro _
    | with_reducible apply wr_keeps
    | with_reducible apply fwEvent_keeps
    | split
    | with_reducible refine Keeps.of_mk ?_ rfl rfl rfl rfl rfl rfl rfl rfl)

end Sys2Proof.Machine
end

