-- ==== Sys2Proof/Laws/KeepsLife.lean ====
section
/-! SUPPORT. What the functions of Machine/Life.lean keep. -/

namespace Sys2Proof.Machine

theorem execLifetimeCommit_keeps {s : State}  :
    ∃ t', execLifetimeCommit s = .next t' ∧ Keeps s t' := by
  unfold execLifetimeCommit
  refine act_keeps fun s h => ?_
  try dsimp only
  repeat' (first
    | with_reducible assumption
    | with_reducible intro _
    | with_reducible refine Keeps.foldl ?_ ?_ _
    | split
    | with_reducible refine Keeps.of_mk ?_ rfl rfl rfl rfl rfl rfl rfl rfl)

theorem lifeSecond_keeps {s0 s : State} (h : Keeps s0 s)  :
    Keeps s0 (State.lifeSecond s) := by
  unfold State.lifeSecond
  try dsimp only
  repeat' (first
    | with_reducible assumption
    | with_reducible intro _
    | with_reducible apply accrue_keeps
    | with_reducible refine Keeps.foldl ?_ ?_ _
    | split
    | with_reducible refine Keeps.of_mk ?_ rfl rfl rfl rfl rfl rfl rfl rfl)

theorem lifeActuators_keeps {s0 s : State} (h : Keeps s0 s)  :
    Keeps s0 (State.lifeActuators s) := by
  unfold State.lifeActuators
  try dsimp only
  repeat' (first
    | with_reducible assumption
    | with_reducible intro _
    | with_reducible apply accrue_keeps
    | with_reducible apply calendar_keeps
    | with_reducible refine Keeps.foldl ?_ ?_ _
    | split
    | with_reducible refine Keeps.of_mk ?_ rfl rfl rfl rfl rfl rfl rfl rfl)

theorem calendar_keeps {s0 s : State} (h : Keeps s0 s)  :
    Keeps s0 (State.calendar s) := by
  unfold State.calendar
  try dsimp only
  repeat' (first
    | with_reducible assumption
    | with_reducible intro _
    | with_reducible apply wr_keeps
    | split
    | with_reducible refine Keeps.of_mk ?_ rfl rfl rfl rfl rfl rfl rfl rfl)

theorem leapEvent_keeps {s0 s : State} (h : Keeps s0 s) (l : Leap) (src : List Byte) (kind : Nat) :
    Keeps s0 (State.leapEvent s l src kind) := by
  unfold State.leapEvent
  try dsimp only
  repeat' (first
    | with_reducible assumption
    | with_reducible intro _
    | with_reducible apply emit_keeps
    | split
    | with_reducible refine Keeps.of_mk ?_ rfl rfl rfl rfl rfl rfl rfl rfl)

theorem execLeapSecond_keeps {s : State}  :
    ∃ t', execLeapSecond s = .next t' ∧ Keeps s t' := by
  unfold execLeapSecond
  refine act_keeps fun s h => ?_
  try dsimp only
  repeat' (first
    | with_reducible assumption
    | with_reducible intro _
    | with_reducible apply wrInt_keeps
    | with_reducible apply leapEvent_keeps
    | split
    | with_reducible refine Keeps.of_mk ?_ rfl rfl rfl rfl rfl rfl rfl rfl)

theorem execRtcWrite_keeps {s : State}  :
    ∃ t', execRtcWrite s = .next t' ∧ Keeps s t' := by
  unfold execRtcWrite
  refine act_keeps fun s h => ?_
  try dsimp only
  repeat' (first
    | with_reducible assumption
    | with_reducible intro _
    | split
    | with_reducible refine Keeps.of_mk ?_ rfl rfl rfl rfl rfl rfl rfl rfl)

theorem learnEntry_keeps {s0 s : State} (h : Keeps s0 s) (l : Leap) (src : Nat) :
    Keeps s0 (State.learnEntry s l src) := by
  unfold State.learnEntry
  try dsimp only
  repeat' (first
    | with_reducible assumption
    | with_reducible intro _
    | with_reducible apply leapEvent_keeps
    | split
    | with_reducible refine Keeps.of_mk ?_ rfl rfl rfl rfl rfl rfl rfl rfl)

theorem acceptLeap_keeps {s0 s : State} (h : Keeps s0 s) (x : LeapSaid) :
    Keeps s0 (State.acceptLeap s x) := by
  unfold State.acceptLeap
  try dsimp only
  repeat' (first
    | with_reducible assumption
    | with_reducible intro _
    | with_reducible apply wr_keeps
    | with_reducible apply learnEntry_keeps
    | with_reducible apply wrInt_keeps
    | split
    | with_reducible refine Keeps.of_mk ?_ rfl rfl rfl rfl rfl rfl rfl rfl)

theorem hearLeap_keeps {s0 s : State} (h : Keeps s0 s) (x : LeapSaid) :
    Keeps s0 (State.hearLeap s x) := by
  unfold State.hearLeap
  try dsimp only
  repeat' (first
    | with_reducible assumption
    | with_reducible intro _
    | with_reducible apply wr_keeps
    | with_reducible apply leapEvent_keeps
    | with_reducible apply acceptLeap_keeps
    | split
    | with_reducible refine Keeps.of_mk ?_ rfl rfl rfl rfl rfl rfl rfl rfl)

theorem execPtpAnnounceRx_keeps {s : State} (red : Bool) (port : Fin 9) (a : Announce) :
    ∃ t', execPtpAnnounceRx red port a s = .next t' ∧ Keeps s t' := by
  unfold execPtpAnnounceRx
  refine act_keeps fun s h => ?_
  try dsimp only
  repeat' (first
    | with_reducible assumption
    | with_reducible intro _
    | with_reducible apply setSource_keeps
    | with_reducible apply hearLeap_keeps
    | split
    | with_reducible refine Keeps.of_mk ?_ rfl rfl rfl rfl rfl rfl rfl rfl)

theorem gnssLeap_keeps {s0 s : State} (h : Keeps s0 s) (u : Option (Int × Option (Nat × Int))) :
    Keeps s0 (State.gnssLeap s u) := by
  unfold State.gnssLeap
  try dsimp only
  repeat' (first
    | with_reducible assumption
    | with_reducible intro _
    | with_reducible apply hearLeap_keeps
    | with_reducible apply record_keeps
    | with_reducible apply ring_keeps
    | split
    | with_reducible refine Keeps.of_mk ?_ rfl rfl rfl rfl rfl rfl rfl rfl)

theorem frameRecord_keeps {s0 s : State} (h : Keeps s0 s)  :
    Keeps s0 (State.frameRecord s) := by
  unfold State.frameRecord
  try dsimp only
  repeat' (first
    | with_reducible assumption
    | with_reducible intro _
    | with_reducible apply record_keeps
    | split
    | with_reducible refine Keeps.of_mk ?_ rfl rfl rfl rfl rfl rfl rfl rfl)

theorem reportRecLost_keeps {s0 s : State} (h : Keeps s0 s)  :
    Keeps s0 (State.reportRecLost s) := by
  unfold State.reportRecLost
  try dsimp only
  repeat' (first
    | with_reducible assumption
    | with_reducible intro _
    | with_reducible apply emit_keeps
    | split
    | with_reducible refine Keeps.of_mk ?_ rfl rfl rfl rfl rfl rfl rfl rfl)

theorem fillCarry_keeps {s0 s : State} (h : Keeps s0 s)  :
    Keeps s0 (State.fillCarry s) := by
  unfold State.fillCarry
  try dsimp only
  repeat' (first
    | with_reducible assumption
    | with_reducible intro _
    | with_reducible apply ring_keeps
    | split
    | with_reducible refine Keeps.of_mk ?_ rfl rfl rfl rfl rfl rfl rfl rfl)

theorem programPage_keeps {s0 s : State} (h : Keeps s0 s) (ok : Bool) :
    Keeps s0 (State.programPage s ok) := by
  unfold State.programPage
  try dsimp only
  repeat' (first
    | with_reducible assumption
    | with_reducible intro _
    | with_reducible apply openBlock_keeps
    | with_reducible apply addPage_keeps
    | with_reducible apply losePage_keeps
    | with_reducible apply nextPage_keeps
    | with_reducible apply ring_keeps
    | split
    | with_reducible refine Keeps.of_mk ?_ rfl rfl rfl rfl rfl rfl rfl rfl)

theorem execDrainPage_keeps {s : State} (programOk : Bool) :
    ∃ t', execDrainPage programOk s = .next t' ∧ Keeps s t' := by
  unfold execDrainPage
  refine act_keeps fun s h => ?_
  try dsimp only
  repeat' (first
    | with_reducible assumption
    | with_reducible intro _
    | with_reducible apply fillCarry_keeps
    | with_reducible apply programPage_keeps
    | with_reducible apply wr_keeps
    | with_reducible apply checkWear_keeps
    | with_reducible apply place_keeps
    | with_reducible exact source_allowed _
    | decide
    | split
    | with_reducible refine Keeps.of_mk ?_ rfl rfl rfl rfl rfl rfl rfl rfl)

theorem execCmdLifeJournalFind_keeps {s : State} (h : Hdr) (sec : BitVec 48) (ns : W32) :
    ∃ t', execCmdLifeJournalFind h sec ns s = .next t' ∧ Keeps s t' := by
  unfold execCmdLifeJournalFind
  refine act_keeps fun s h => ?_
  try dsimp only
  repeat' (first
    | with_reducible assumption
    | with_reducible intro _
    | with_reducible apply reply_keeps
    | with_reducible apply command_keeps
    | split
    | with_reducible refine Keeps.of_mk ?_ rfl rfl rfl rfl rfl rfl rfl rfl)

theorem execCmdLifeJournalRead_keeps {s : State} (h : Hdr) (page : W64) (off : W16) (len : W32) :
    ∃ t', execCmdLifeJournalRead h page off len s = .next t' ∧ Keeps s t' := by
  unfold execCmdLifeJournalRead
  refine act_keeps fun s h => ?_
  try dsimp only
  repeat' (first
    | with_reducible assumption
    | with_reducible intro _
    | with_reducible apply reply_keeps
    | with_reducible apply command_keeps
    | with_reducible apply calendar_keeps
    | split
    | with_reducible refine Keeps.of_mk ?_ rfl rfl rfl rfl rfl rfl rfl rfl)

theorem lifeFrame_keeps {s0 s : State} (h : Keeps s0 s) (u : Option (Int × Option (Nat × Int))) :
    Keeps s0 (State.lifeFrame s u) := by
  unfold State.lifeFrame
  try dsimp only
  repeat' (first
    | with_reducible assumption
    | with_reducible intro _
    | with_reducible apply lifeSecond_keeps
    | with_reducible apply lifeActuators_keeps
    | with_reducible apply gnssLeap_keeps
    | with_reducible apply calendar_keeps
    | with_reducible apply reportRecLost_keeps
    | split
    | with_reducible refine Keeps.of_mk ?_ rfl rfl rfl rfl rfl rfl rfl rfl)

end Sys2Proof.Machine
end

