-- ==== Sys2Proof/Laws/KeepsBoot.lean ====
section
/-! SUPPORT. What the functions of Machine/Boot.lean keep. -/

namespace Sys2Proof.Machine

theorem execDeviceReset_keeps {s : State}  :
    ∃ t', execDeviceReset s = .next t' ∧ Keeps s t' := by
  unfold execDeviceReset
  refine act_keeps fun s h => ?_
  try dsimp only
  repeat' (first
    | with_reducible assumption
    | with_reducible intro _
    | with_reducible apply deviceReset_keeps
    | split
    | with_reducible refine Keeps.of_mk ?_ rfl rfl rfl rfl rfl rfl rfl rfl)

theorem startImage_keeps {s0 s : State} (h : Keeps s0 s) (slot : Nat) :
    Keeps s0 (State.startImage s slot) := by
  unfold State.startImage
  try dsimp only
  repeat' (first
    | with_reducible assumption
    | with_reducible intro _
    | with_reducible apply wr_keeps
    | with_reducible apply wrFlag_keeps
    | with_reducible apply start_keeps
    | split
    | with_reducible refine Keeps.of_mk ?_ rfl rfl rfl rfl rfl rfl rfl rfl)

theorem reportTrial_keeps {s0 s : State} (h : Keeps s0 s) (failed : Option Nat) :
    Keeps s0 (State.reportTrial s failed) := by
  unfold State.reportTrial
  try dsimp only
  repeat' (first
    | with_reducible assumption
    | with_reducible intro _
    | with_reducible apply fwEvent_keeps
    | with_reducible apply record_keeps
    | split
    | with_reducible refine Keeps.of_mk ?_ rfl rfl rfl rfl rfl rfl rfl rfl)

theorem loadFolio_keeps {s0 s : State} (h : Keeps s0 s) (b : BootIn) :
    Keeps s0 (State.loadFolio s b) := by
  unfold State.loadFolio
  try dsimp only
  repeat' (first
    | with_reducible assumption
    | with_reducible intro _
    | with_reducible apply wr_keeps
    | split
    | with_reducible refine Keeps.of_mk ?_ rfl rfl rfl rfl rfl rfl rfl rfl)

theorem releaseLanes_keeps {s0 s : State} (h : Keeps s0 s) (roles : List Nat) :
    Keeps s0 (State.releaseLanes s roles) := by
  unfold State.releaseLanes
  try dsimp only
  repeat' (first
    | with_reducible assumption
    | with_reducible intro _
    | with_reducible apply wr_keeps
    | with_reducible apply setLane_keeps
    | with_reducible apply inc_keeps
    | with_reducible refine Keeps.foldl ?_ ?_ _
    | split
    | with_reducible refine Keeps.of_mk ?_ rfl rfl rfl rfl rfl rfl rfl rfl)

theorem domainsOn_keeps {s0 s : State} (h : Keeps s0 s)  :
    Keeps s0 (State.domainsOn s) := by
  unfold State.domainsOn
  try dsimp only
  repeat' (first
    | with_reducible assumption
    | with_reducible intro _
    | with_reducible apply wr_keeps
    | with_reducible refine Keeps.foldl ?_ ?_ _
    | split
    | with_reducible refine Keeps.of_mk ?_ rfl rfl rfl rfl rfl rfl rfl rfl)

theorem takeRegs_keeps {s0 s : State} (h : Keeps s0 s) (from_ : Regs) (ids : Nat → Bool) :
    Keeps s0 (State.takeRegs s from_ ids) :=
  h.of_regs fun w => Store.setAll_wf w _

theorem restoreFilter_keeps {s0 s : State} (h : Keeps s0 s) (x : Checkpoint) :
    Keeps s0 (State.restoreFilter s x) := by
  unfold State.restoreFilter
  try dsimp only
  repeat' (first
    | with_reducible assumption
    | with_reducible intro _
    | with_reducible apply takeRegs_keeps
    | with_reducible apply setBarrier_keeps
    | split
    | with_reducible refine Keeps.of_mk ?_ rfl rfl rfl rfl rfl rfl rfl rfl)

theorem restoreHidden_keeps {s0 s : State} (h : Keeps s0 s) (x : Checkpoint) :
    Keeps s0 (State.restoreHidden s x) := by
  unfold State.restoreHidden
  try dsimp only
  repeat' (first
    | with_reducible assumption
    | with_reducible intro _
    | with_reducible apply takeRegs_keeps
    | split
    | with_reducible refine Keeps.of_mk ?_ rfl rfl rfl rfl rfl rfl rfl rfl)

theorem restoreVoting_keeps {s0 s : State} (h : Keeps s0 s) (x : RestoreSrc) :
    Keeps s0 (State.restoreVoting s x) := by
  unfold State.restoreVoting
  try dsimp only
  repeat' (first
    | with_reducible assumption
    | with_reducible intro _
    | with_reducible apply takeRegs_keeps
    | with_reducible refine Keeps.foldl ?_ ?_ _
    | split
    | with_reducible refine Keeps.of_mk ?_ rfl rfl rfl rfl rfl rfl rfl rfl)

theorem restoreColl_keeps {s0 s : State} (h : Keeps s0 s) (src : Option RestoreSrc) :
    Keeps s0 (State.restoreColl s src) := by
  unfold State.restoreColl
  try dsimp only
  repeat' (first
    | with_reducible assumption
    | with_reducible intro _
    | with_reducible apply collCold_keeps
    | with_reducible apply emit_keeps
    | with_reducible apply restoreFilter_keeps
    | with_reducible apply restoreVoting_keeps
    | with_reducible apply restoreHidden_keeps
    | with_reducible apply dnReset_keeps
    | split
    | with_reducible refine Keeps.of_mk ?_ rfl rfl rfl rfl rfl rfl rfl rfl)

theorem restoreControl_keeps {s0 s : State} (h : Keeps s0 s) (src : Option RestoreSrc) :
    Keeps s0 (State.restoreControl s src) := by
  unfold State.restoreControl
  try dsimp only
  repeat' (first
    | with_reducible assumption
    | with_reducible intro _
    | with_reducible apply takeRegs_keeps
    | split
    | with_reducible refine Keeps.of_mk ?_ rfl rfl rfl rfl rfl rfl rfl rfl)

theorem bootLogic_keeps {s0 s : State} (h : Keeps s0 s) (q : Option RestoreSrc) (retainOk : Bool) :
    Keeps s0 (State.bootLogic s q retainOk) := by
  unfold State.bootLogic
  try dsimp only
  repeat' (first
    | with_reducible assumption
    | with_reducible intro _
    | with_reducible apply setLogicState_keeps
    | with_reducible apply showProgram_keeps
    | split
    | with_reducible refine Keeps.of_mk ?_ rfl rfl rfl rfl rfl rfl rfl rfl)

theorem takeCopy_keeps {s0 s : State} (h : Keeps s0 s) (ok : Bool) :
    Keeps s0 (State.takeCopy s ok) := by
  unfold State.takeCopy
  try dsimp only
  repeat' (first
    | with_reducible assumption
    | with_reducible intro _
    | with_reducible apply add_keeps
    | split
    | with_reducible refine Keeps.of_mk ?_ rfl rfl rfl rfl rfl rfl rfl rfl)

theorem restoreLife_keeps {s0 s : State} (h : Keeps s0 s) (ok : Bool) (src : Option RestoreSrc) :
    Keeps s0 (State.restoreLife s ok src) := by
  unfold State.restoreLife
  try dsimp only
  repeat' (first
    | with_reducible assumption
    | with_reducible intro _
    | with_reducible apply takeCopy_keeps
    | with_reducible apply accrue_keeps
    | with_reducible refine Keeps.foldl ?_ ?_ _
    | split
    | with_reducible refine Keeps.of_mk ?_ rfl rfl rfl rfl rfl rfl rfl rfl)

theorem openBoot_keeps {s0 s : State} (h : Keeps s0 s) (fallback : Bool) (unacked : Nat) (failed : Option Nat) :
    Keeps s0 (State.openBoot s fallback unacked failed) := by
  unfold State.openBoot
  try dsimp only
  repeat' (first
    | with_reducible assumption
    | with_reducible intro _
    | with_reducible apply wr_keeps
    | with_reducible apply emit_keeps
    | with_reducible apply reportTrial_keeps
    | split
    | with_reducible refine Keeps.of_mk ?_ rfl rfl rfl rfl rfl rfl rfl rfl)

theorem reportUnits_keeps {s0 s : State} (h : Keeps s0 s)  :
    Keeps s0 (State.reportUnits s) := by
  unfold State.reportUnits
  try dsimp only
  repeat' (first
    | with_reducible assumption
    | with_reducible intro _
    | with_reducible apply emit_keeps
    | with_reducible refine Keeps.foldl ?_ ?_ _
    | split
    | with_reducible refine Keeps.of_mk ?_ rfl rfl rfl rfl rfl rfl rfl rfl)

theorem reportLanes_keeps {s0 s : State} (h : Keeps s0 s)  :
    Keeps s0 (State.reportLanes s) := by
  unfold State.reportLanes
  try dsimp only
  repeat' (first
    | with_reducible assumption
    | with_reducible intro _
    | with_reducible apply showRoles_keeps
    | with_reducible apply emit_keeps
    | with_reducible refine Keeps.foldl ?_ ?_ _
    | split
    | with_reducible refine Keeps.of_mk ?_ rfl rfl rfl rfl rfl rfl rfl rfl)

theorem restoreAll_keeps {s0 s : State} (h : Keeps s0 s) (b : BootIn) :
    Keeps s0 (State.restoreAll s b) := by
  unfold State.restoreAll
  try dsimp only
  repeat' (first
    | with_reducible assumption
    | with_reducible intro _
    | with_reducible apply emit_keeps
    | with_reducible apply restoreColl_keeps
    | with_reducible apply restoreControl_keeps
    | with_reducible apply bootLogic_keeps
    | with_reducible apply wr_keeps
    | with_reducible apply restoreLife_keeps
    | with_reducible apply wrFlag_keeps
    | split
    | with_reducible refine Keeps.of_mk ?_ rfl rfl rfl rfl rfl rfl rfl rfl)

theorem loadHoldOff_keeps {s0 s : State} (h : Keeps s0 s)  :
    Keeps s0 (State.loadHoldOff s) := by
  unfold State.loadHoldOff
  try dsimp only
  repeat' (first
    | with_reducible assumption
    | with_reducible intro _
    | with_reducible apply put_keeps
    | with_reducible refine Keeps.foldl ?_ ?_ _
    | split
    | with_reducible refine Keeps.of_mk ?_ rfl rfl rfl rfl rfl rfl rfl rfl)

theorem startBlocks_keeps {s0 s : State} (h : Keeps s0 s)  :
    Keeps s0 (State.startBlocks s) := by
  unfold State.startBlocks
  try dsimp only
  repeat' (first
    | with_reducible assumption
    | with_reducible intro _
    | with_reducible apply inputTurn_keeps
    | with_reducible apply canTurn_keeps
    | with_reducible apply wr_keeps
    | with_reducible refine Keeps.foldl ?_ ?_ _
    | split
    | with_reducible refine Keeps.of_mk ?_ rfl rfl rfl rfl rfl rfl rfl rfl)

theorem bootTime_keeps {s0 s : State} (h : Keeps s0 s)  :
    Keeps s0 (State.bootTime s) := by
  unfold State.bootTime
  try dsimp only
  repeat' (first
    | with_reducible assumption
    | with_reducible intro _
    | with_reducible apply accrue_keeps
    | with_reducible apply start_keeps
    | split
    | with_reducible refine Keeps.of_mk ?_ rfl rfl rfl rfl rfl rfl rfl rfl)

theorem start_keeps {s0 s : State} (h : Keeps s0 s) (slot : Nat) (roles : List Nat) (b : BootIn) :
    Keeps s0 (State.start s slot roles b) := by
  unfold State.start
  try dsimp only
  repeat' (first
    | with_reducible assumption
    | with_reducible intro _
    | with_reducible apply startImage_keeps
    | with_reducible apply loadFolio_keeps
    | with_reducible apply releaseLanes_keeps
    | with_reducible apply domainsOn_keeps
    | with_reducible apply readSection_keeps
    | with_reducible apply openBoot_keeps
    | with_reducible apply reportUnits_keeps
    | with_reducible apply reportLanes_keeps
    | with_reducible apply startBlocks_keeps
    | with_reducible apply wrInt_keeps
    | with_reducible apply restoreAll_keeps
    | with_reducible apply loadHoldOff_keeps
    | with_reducible apply bootTime_keeps
    | split
    | with_reducible refine Keeps.of_mk ?_ rfl rfl rfl rfl rfl rfl rfl rfl)

theorem execBootComplete_keeps {s : State} (b : BootIn) :
    ∃ t', execBootComplete b s = .next t' ∧ Keeps s t' := by
  unfold execBootComplete
  refine act_keeps fun s h => ?_
  try dsimp only
  repeat' (first
    | with_reducible assumption
    | with_reducible intro _
    | with_reducible apply deviceReset_keeps
    | with_reducible apply start_keeps
    | split
    | with_reducible refine Keeps.of_mk ?_ rfl rfl rfl rfl rfl rfl rfl rfl)

theorem execNormalEntry_keeps {s : State}  :
    ∃ t', execNormalEntry s = .next t' ∧ Keeps s t' := by
  unfold execNormalEntry
  refine act_keeps fun s h => ?_
  try dsimp only
  repeat' (first
    | with_reducible assumption
    | with_reducible intro _
    | with_reducible apply enterState_keeps
    | split
    | with_reducible refine Keeps.of_mk ?_ rfl rfl rfl rfl rfl rfl rfl rfl)

end Sys2Proof.Machine
end

