-- ==== Sys2Proof/Laws/KeepsFrame.lean ====
section
/-! SUPPORT. What the functions of Machine/Frame.lean keep. -/

namespace Sys2Proof.Machine

theorem endTick_keeps {s0 s : State} (h : Keeps s0 s)  :
    Keeps s0 (State.endTick s) := by
  unfold State.endTick
  try dsimp only
  repeat' (first
    | with_reducible assumption
    | with_reducible intro _
    | with_reducible apply moveTo_keeps
    | with_reducible apply selector_keeps
    | split
    | with_reducible refine Keeps.of_mk ?_ rfl rfl rfl rfl rfl rfl rfl rfl)

theorem tryPromote_keeps {s0 s : State} (h : Keeps s0 s)  :
    Keeps s0 (State.tryPromote s) := by
  unfold State.tryPromote
  try dsimp only
  repeat' (first
    | with_reducible assumption
    | with_reducible intro _
    | with_reducible apply promote_keeps
    | split
    | with_reducible refine Keeps.of_mk ?_ rfl rfl rfl rfl rfl rfl rfl rfl)

theorem ownerFirst_keeps {s0 s : State} (h : Keeps s0 s)  :
    Keeps s0 (State.ownerFirst s) := by
  unfold State.ownerFirst
  try dsimp only
  repeat' (first
    | with_reducible assumption
    | with_reducible intro _
    | with_reducible apply promote_keeps
    | with_reducible apply freeNat_keeps
    | with_reducible refine freeNat_keeps_of ?_ (by with_reducible assumption)
    | split
    | with_reducible refine Keeps.of_mk ?_ rfl rfl rfl rfl rfl rfl rfl rfl)

theorem dueQuire_keeps {s0 s : State} (h : Keeps s0 s)  :
    Keeps s0 (State.dueQuire s) := by
  unfold State.dueQuire
  try dsimp only
  repeat' (first
    | with_reducible assumption
    | with_reducible intro _
    | with_reducible apply start_keeps
    | split
    | with_reducible refine Keeps.of_mk ?_ rfl rfl rfl rfl rfl rfl rfl rfl)

theorem tickBoundary_keeps {s0 s : State} (h : Keeps s0 s)  :
    Keeps s0 (State.tickBoundary s) := by
  unfold State.tickBoundary
  try dsimp only
  repeat' (first
    | with_reducible assumption
    | with_reducible intro _
    | with_reducible apply lateVerdict_keeps
    | with_reducible apply takeMailboxes_keeps
    | with_reducible apply abortOffload_keeps
    | with_reducible apply releaseHeld_keeps
    | with_reducible apply busBoundary_keeps
    | with_reducible apply readyUnits_keeps
    | split
    | with_reducible refine Keeps.of_mk ?_ rfl rfl rfl rfl rfl rfl rfl rfl)

theorem keepControl_keeps {s0 s : State} (h : Keeps s0 s)  :
    Keeps s0 (State.keepControl s) := by
  unfold State.keepControl
  try dsimp only
  repeat' (first
    | with_reducible assumption
    | with_reducible intro _
    | split
    | with_reducible refine Keeps.of_mk ?_ rfl rfl rfl rfl rfl rfl rfl rfl)

theorem runTick_keeps {s0 s : State} (h : Keeps s0 s) (d : Differs) :
    Keeps s0 (State.runTick s d) := by
  unfold State.runTick
  try dsimp only
  repeat' (first
    | with_reducible assumption
    | with_reducible intro _
    | with_reducible apply tickBoundary_keeps
    | with_reducible apply tickLoops_keeps
    | with_reducible apply selector_keeps
    | with_reducible apply driveOutputs_keeps
    | with_reducible apply tryPromote_keeps
    | with_reducible apply dueQuire_keeps
    | with_reducible apply keepControl_keeps
    | split
    | with_reducible refine Keeps.of_mk ?_ rfl rfl rfl rfl rfl rfl rfl rfl)

theorem execServoTick_keeps {s : State} (d : Differs) :
    ∃ t', execServoTick d s = .next t' ∧ Keeps s t' := by
  unfold execServoTick
  refine act_keeps fun s h => ?_
  try dsimp only
  repeat' (first
    | with_reducible assumption
    | with_reducible intro _
    | with_reducible apply runTick_keeps
    | with_reducible apply endTick_keeps
    | with_reducible apply pulse_keeps
    | split
    | with_reducible refine Keeps.of_mk ?_ rfl rfl rfl rfl rfl rfl rfl rfl)

theorem moveStamps_keeps {s0 s : State} (h : Keeps s0 s) (d : Int) (frames : Int) :
    Keeps s0 (State.moveStamps s d frames) := by
  unfold State.moveStamps
  try dsimp only
  repeat' (first
    | with_reducible assumption
    | with_reducible intro _
    | with_reducible refine Keeps.foldl ?_ ?_ _
    | split
    | with_reducible refine Keeps.of_mk ?_ rfl rfl rfl rfl rfl rfl rfl rfl)

theorem stepLedger_keeps {s0 s : State} (h : Keeps s0 s) (t : Nat) :
    Keeps s0 (State.stepLedger s t) := by
  unfold State.stepLedger
  try dsimp only
  repeat' (first
    | with_reducible assumption
    | with_reducible intro _
    | with_reducible apply noteDiscards_keeps
    | with_reducible apply setBarrier_keeps
    | with_reducible refine Keeps.foldl ?_ ?_ _
    | split
    | with_reducible refine Keeps.of_mk ?_ rfl rfl rfl rfl rfl rfl rfl rfl)

theorem endStep_keeps {s0 s : State} (h : Keeps s0 s)  :
    Keeps s0 (State.endStep s) := by
  unfold State.endStep
  try dsimp only
  repeat' (first
    | with_reducible assumption
    | with_reducible intro _
    | with_reducible apply newGrid_keeps
    | with_reducible apply emit_keeps
    | with_reducible apply wr_keeps
    | with_reducible apply wrFlag_keeps
    | split
    | with_reducible refine Keeps.of_mk ?_ rfl rfl rfl rfl rfl rfl rfl rfl)

theorem stepTime_keeps {s0 s : State} (h : Keeps s0 s) (x : TimeSrc) (d : Int) (t : Nat) :
    Keeps s0 (State.stepTime s x d t) := by
  unfold State.stepTime
  try dsimp only
  repeat' (first
    | with_reducible assumption
    | with_reducible intro _
    | with_reducible apply settle_keeps
    | with_reducible apply wr_keeps
    | with_reducible apply wrFlag_keeps
    | with_reducible apply clearConverging_keeps
    | with_reducible apply setRemaining_keeps
    | split
    | with_reducible refine Keeps.of_mk ?_ rfl rfl rfl rfl rfl rfl rfl rfl)

theorem gridStep_keeps {s0 s : State} (h : Keeps s0 s) (x : TimeSrc) :
    Keeps s0 (State.gridStep s x) := by
  unfold State.gridStep
  try dsimp only
  repeat' (first
    | with_reducible assumption
    | with_reducible intro _
    | with_reducible apply start_keeps
    | with_reducible apply stepTime_keeps
    | with_reducible apply moveStamps_keeps
    | with_reducible apply stepLedger_keeps
    | with_reducible apply restartChains_keeps
    | with_reducible apply restartJoin_keeps
    | with_reducible apply wrInt_keeps
    | split
    | with_reducible refine Keeps.of_mk ?_ rfl rfl rfl rfl rfl rfl rfl rfl)

theorem execGridStep_keeps {s : State}  :
    ∃ t', execGridStep s = .next t' ∧ Keeps s t' := by
  unfold execGridStep
  refine act_keeps fun s h => ?_
  try dsimp only
  repeat' (first
    | with_reducible assumption
    | with_reducible intro _
    | with_reducible apply gridStep_keeps
    | with_reducible apply cancelStep_keeps
    | split
    | with_reducible refine Keeps.of_mk ?_ rfl rfl rfl rfl rfl rfl rfl rfl)

theorem turnEffect_keeps {s0 s : State} (h : Keeps s0 s)  :
    Keeps s0 (State.turnEffect s) := by
  unfold State.turnEffect
  try dsimp only
  repeat' (first
    | with_reducible assumption
    | with_reducible intro _
    | with_reducible apply swapFolios_keeps
    | with_reducible apply voteTurn_keeps
    | with_reducible apply canTurn_keeps
    | with_reducible apply loopTurn_keeps
    | with_reducible apply logicTurn_keeps
    | with_reducible apply inputTurn_keeps
    | with_reducible apply setBarrier_keeps
    | with_reducible apply dnReset_keeps
    | with_reducible apply ptpTurn_keeps
    | with_reducible apply spineTurn_keeps
    | with_reducible apply severityTurn_keeps
    | with_reducible apply safetyTurn_keeps
    | split
    | with_reducible refine Keeps.of_mk ?_ rfl rfl rfl rfl rfl rfl rfl rfl)

theorem boundaryChanges_keeps {s0 s : State} (h : Keeps s0 s)  :
    Keeps s0 (State.boundaryChanges s) := by
  unfold State.boundaryChanges
  try dsimp only
  repeat' (first
    | with_reducible assumption
    | with_reducible intro _
    | with_reducible apply turnEffect_keeps
    | with_reducible apply wr_keeps
    | with_reducible apply applyBudget_keeps
    | with_reducible apply budgetRotation_keeps
    | with_reducible apply joinLane_keeps
    | split
    | with_reducible refine Keeps.of_mk ?_ rfl rfl rfl rfl rfl rfl rfl rfl)

theorem countSettled_keeps {s0 s : State} (h : Keeps s0 s)  :
    Keeps s0 (State.countSettled s) := by
  unfold State.countSettled
  try dsimp only
  repeat' (first
    | with_reducible assumption
    | with_reducible intro _
    | with_reducible apply settle_keeps
    | split
    | with_reducible refine Keeps.of_mk ?_ rfl rfl rfl rfl rfl rfl rfl rfl)

theorem fwFrame_keeps {s0 s : State} (h : Keeps s0 s)  :
    Keeps s0 (State.fwFrame s) := by
  unfold State.fwFrame
  try dsimp only
  repeat' (first
    | with_reducible assumption
    | with_reducible intro _
    | split
    | with_reducible refine Keeps.of_mk ?_ rfl rfl rfl rfl rfl rfl rfl rfl)

theorem timeFrame_keeps {s0 s : State} (h : Keeps s0 s) (i : FrameIn) :
    Keeps s0 (State.timeFrame s i) := by
  unfold State.timeFrame
  try dsimp only
  repeat' (first
    | with_reducible assumption
    | with_reducible intro _
    | with_reducible apply slew_keeps
    | with_reducible apply gnssFrame_keeps
    | with_reducible apply chooseSource_keeps
    | with_reducible apply trackRemaining_keeps
    | with_reducible apply judgeConverging_keeps
    | with_reducible apply reportTime_keeps
    | with_reducible apply crossCheck_keeps
    | with_reducible apply tryAcquire_keeps
    | split
    | with_reducible refine Keeps.of_mk ?_ rfl rfl rfl rfl rfl rfl rfl rfl)

theorem runFrame_keeps {s0 s : State} (h : Keeps s0 s) (i : FrameIn) :
    Keeps s0 (State.runFrame s i) := by
  unfold State.runFrame
  try dsimp only
  repeat' (first
    | with_reducible assumption
    | with_reducible intro _
    | with_reducible apply endStep_keeps
    | with_reducible apply frameRecord_keeps
    | with_reducible apply countSettled_keeps
    | with_reducible apply ownerFirst_keeps
    | with_reducible apply dnCount_keeps
    | with_reducible apply boundaryChanges_keeps
    | with_reducible apply logicSnapshot_keeps
    | with_reducible apply ledgerFree_keeps
    | with_reducible apply timeFrame_keeps
    | with_reducible apply collFrame_keeps
    | with_reducible apply voteFrame_keeps
    | with_reducible apply solverFrame_keeps
    | with_reducible apply loopFrame_keeps
    | with_reducible apply controlFrame_keeps
    | with_reducible apply spineFrame_keeps
    | with_reducible apply canFrame_keeps
    | with_reducible apply powerFrame_keeps
    | with_reducible apply abandonQuire_keeps
    | with_reducible apply laneFrame_keeps
    | with_reducible apply fwFrame_keeps
    | with_reducible apply lifeFrame_keeps
    | with_reducible apply keepFrameValues_keeps
    | with_reducible apply latchMirrors_keeps
    | split
    | with_reducible refine Keeps.of_mk ?_ rfl rfl rfl rfl rfl rfl rfl rfl)

theorem openFrame_keeps {s0 s : State} (h : Keeps s0 s)  :
    Keeps s0 (State.openFrame s) := by
  unfold State.openFrame
  try dsimp only
  repeat' (first
    | with_reducible assumption
    | with_reducible intro _
    | with_reducible apply moveTo_keeps
    | with_reducible apply setFrame_keeps
    | split
    | with_reducible refine Keeps.of_mk ?_ rfl rfl rfl rfl rfl rfl rfl rfl)

theorem execFrameInstant_keeps {s : State} (i : FrameIn) :
    ∃ t', execFrameInstant i s = .next t' ∧ Keeps s t' := by
  unfold execFrameInstant
  refine act_keeps fun s h => ?_
  try dsimp only
  repeat' (first
    | with_reducible assumption
    | with_reducible intro _
    | with_reducible apply openFrame_keeps
    | with_reducible apply runFrame_keeps
    | with_reducible apply keepFrameValues_keeps
    | split
    | with_reducible refine Keeps.of_mk ?_ rfl rfl rfl rfl rfl rfl rfl rfl)

end Sys2Proof.Machine
end

