-- ==== Sys2Proof/WellFormed.lean ====
section
/-! DEFINITION. What an operand of a command must meet to be one that the block can be given: the sizes that the formats fix.
The meanings do not rest on it: a command that breaks a format is answered by the rules on malformed messages, and every other
operand is taken as it stands. -/

namespace Sys2Proof

/-- No value stands twice in a list. -/
def wfOnce {α : Type} [BEq α] : List α → Bool
  | [] => true
  | x :: xs => !xs.contains x && wfOnce xs

/-- A satellite number of a constellation (R89). -/
def wfSat (cons sat : Byte) : Bool :=
  match ([(1, 32), (1, 36), (1, 24), (1, 63), (1, 10), (120, 158)] : List (Nat × Nat))[cons.toNat]? with
  | some (lo, hi) => decide (lo ≤ sat.toNat ∧ sat.toNat ≤ hi)
  | none => false

/-- What the receivers see (R84, R87, R89, R91): a satellite stands once in the sky of a receiver, a channel measures one signal, and no
receiver gives two fixes or two time solutions. -/
def wfReceivers (i : FrameIn) : Bool :=
  i.sky.all (fun x => wfSat x.cons x.sat && decide (x.azim.toNat < 36000)) && wfOnce (i.sky.map fun x => (x.rx, x.cons, x.sat)) &&
    wfOnce (i.gnss.map fun r => (r.rx, r.chan)) && wfOnce (i.fixes.map (·.rx)) && wfOnce (i.sols.map (·.rx)) &&
    i.fixes.all (fun f => wfOnce f.used && decide (f.used.length ≤ 96))

/-- The latches of a frame instant: one antenna current, AGC and die temperature for each receiver or lane, one draw for each
of the twelve domains, and what the receivers see (R87, R91, R425). -/
def wfFrameIn (i : FrameIn) : Bool :=
  i.antenna.length == 3 && i.agc.length == 3 && i.laneTemp.length == 3 && i.shares.length == 3 && i.domains.length == 12 && wfReceivers i

/-- A datagram of at most 1,500 bytes of IPv4 and UDP (R329). -/
def wfDatagram (d : Datagram) : Bool := decide (d.bytes.length ≤ 1472)

/-- A sentence of IEC 61162-1 has at most 82 characters (R119). -/
def wfSentence (xs : List Byte) : Bool := decide (xs.length ≤ 82)

/-- The length a DLC names (R315). -/
def dlcLength (dlc : Nat) (fdf : Bool) : Nat :=
  if dlc ≤ 8 then dlc else if fdf = false then 8 else ([12, 16, 20, 24, 32, 48, 64] : List Nat).getD (dlc - 9) 0

/-- A CAN frame: an identifier of 29 bits and the IDE flag, a DLC of 4 bits, and the bytes it names; none in a remote frame
(R315). -/
def wfCan (f : CanFrame) : Bool :=
  decide (f.ident.toNat < 2 ^ 30 ∧ f.dlc ≤ 15) && f.data.length == (if f.rtr then 0 else dlcLength f.dlc f.fdf)

/-- A cycle calls LOG_EVENT at most 16 times, each with 8 bytes of value (R308). -/
def wfLogicOut (o : LogicOut) : Bool := decide (o.events.length ≤ 16) && o.events.all (fun e => e.2.1.length == 8)

/-- A wrong number in a factor lies in a batch of at most 64 matrices of an order of at most 128, below the diagonal or on it (R190). -/
def wfJob (r : JobResult) : Bool :=
  match r.flaw with
  | some (m, c, i, _) => decide (m < 64 ∧ c ≤ i ∧ i < 128)
  | none => true

/-- The well-formed commands. -/
def Instr.wf (i : Instr) : Bool :=
  match i with
  | .powerOn _ => true
  | .rstN _ => true
  | .deviceReset => true
  | .bootComplete b => b.laneOk.length == 3
  | .normalEntry => true
  | .feedChange _ cls => decide (cls ≤ 8)
  | .writeGuardTrip _ => true
  | .endpaperComplete => true
  | .writeGuardRelease => true
  | .convertersStop => true
  | .frameInstant inputs => wfFrameIn inputs
  | .servoTick _ => true
  | .loopFaultCount _ => true
  | .loopRecovery _ => true
  | .applyTick _ => true
  | .spHoldExpiry => true
  | .gatheringClose => true
  | .rxConsistencyCount _ => true
  | .dnWarmupEnd => true
  | .envReentry => true
  | .referenceVote => true
  | .weightsDeadline => true
  | .splitConfirm _ => true
  | .splitTimeout _ => true
  | .probationEnd _ => true
  | .estimatePublish _ _ => true
  | .solverJobComplete r => wfJob r
  | .solverJobTimeout _ => true
  | .solveDeadline _ => true
  | .controlDegradedCount => true
  | .unitTestJob _ _ => true
  | .unitReady _ => true
  | .setpointPublish _ _ => true
  | .quireWrite => true
  | .quireCommit _ => true
  | .selfTestSlice _ _ _ => true
  | .drainPage _ => true
  | .folioValidated => true
  | .folioCommit => true
  | .shadowSyncComplete => true
  | .governorLatch _ dies _ => dies.length == 6
  | .upstepHoldExpiry => true
  | .gridStep => true
  | .acquireTimeout => true
  | .revertHoldExpiry => true
  | .jumpRequalify _ => true
  | .tb2Qualify => true
  | .crosscheckTimeout _ => true
  | .ptpSyncRx _ _ _ _ _ _ => true
  | .ptpAnnounceRx _ _ a => decide (1 ≤ a.interval ∧ a.interval ≤ 16)
  | .announceTimeout _ => true
  | .syncLossTimeout _ => true
  | .ptpSyncTx _ _ => true
  | .ptpAnnounceTx _ => true
  | .ppsMessage => true
  | .ppsEdge => true
  | .triggerEdge _ => true
  | .imuSyncEdge _ => true
  | .imuFrameRx _ _ _ => true
  | .serialSentenceRx _ x _ => wfSentence x
  | .l450DatagramRx d _ => wfDatagram d
  | .sensorDatagramRx d _ => wfDatagram d
  | .analogSampleComplete _ _ => true
  | .wireFaultDetect _ => true
  | .streamTimeout _ => true
  | .gnssStartComplete _ => true
  | .layupEnd => true
  | .keepaliveWake => true
  | .keepaliveEnd => true
  | .logicCycleStart => true
  | .replyWindowEnd => true
  | .logicCommit o => wfLogicOut o
  | .logicOverrun _ => true
  | .retainMirrorWrite => true
  | .logicValidationDone info => decide ((info.syms.map fun y => y.path.length + 1).foldl (· + ·) 0 ≤ info.symbols)
  | .canFrameRx _ f sof eof => wfCan f && decide (sof < eof)
  | .canRxDeliver _ => true
  | .canFrameTxComplete _ sof eof _ => decide (sof < eof)
  | .canLifetimeEnd _ _ => true
  | .canBusError _ _ _ => true
  | .canBusoffRecovery _ => true
  | .canTimingResync _ => true
  | .heartbeatTx => true
  | .heartbeatRx _ => true
  | .partnerLost _ => true
  | .spineLinkChange _ _ => true
  | .spineFrameForward _ f => decide (f.vid < 4096)
  | .supervisionTx => true
  | .supervisionRx _ _ => true
  | .macAgeExpiry _ => true
  | .reassemblyTimeout _ => true
  | .selfDetectedFault _ _ _ => true
  | .rapidCheckVerdict _ _ => true
  | .standbyWakeComplete _ _ _ _ => true
  | .laneReplayLive _ => true
  | .laneSelfTestComplete _ _ => true
  | .rotationWake => true
  | .rotationHandover => true
  | .safetyCycle x => x.readback.length == 4 && x.readback.all fun r => r.length == 8
  | .safeInputEdge _ _ => true
  | .safePairFilterExpiry _ => true
  | .safePairDiscrepancy _ => true
  | .encoderIndex _ => true
  | .encoderRecovery _ => true
  | .outputFaultClear _ => true
  | .offPulse _ _ _ _ => true
  | .ackWindowExpiry => true
  | .safetySelftestEnd => true
  | .hwErrorReport _ => true
  | .injectExpiry _ => true
  | .correctedRateMinute => true
  | .escalateWindowEnd _ => true
  | .eventResend => true
  | .joystickTimeout => true
  | .loopTestStart => true
  | .loopTestEnd => true
  | .fwTrialEnd => true
  | .lifetimeCommit => true
  | .leapSecond => true
  | .rtcWrite => true
  | .mailboxWrite _ off _ _ => decide (off < 2 ^ 12)
  | .mailboxRead _ off _ => decide (off < 2 ^ 12)
  | .eventRead k => decide (k.getD 0 < 2 ^ 16)
  | .registerWrite off _ _ => decide (off < 2 ^ 16)
  | .mbxDoorbell _ => true
  | .hostIrqStatusClear _ => true
  | .evqAck _ => true
  | .resetRequest _ => true
  | .stSecLoRead off _ _ => decide (off < 2 ^ 16)
  | .cmdParamRead _ _ _ => true
  | .cmdParamWrite _ _ _ => true
  | .cmdFolioTurn _ => true
  | .cmdFolioDiscard _ => true
  | .cmdFolioSection _ _ _ _ => true
  | .cmdEventAck _ _ => true
  | .cmdFwBegin _ _ digest => digest.length == 32
  | .cmdFwBlock _ _ _ => true
  | .cmdFwCommit _ => true
  | .cmdFwAbort _ => true
  | .cmdDevReset _ _ => true
  | .cmdDevState _ _ => true
  | .cmdNop _ _ => true
  | .cmdTimeResync _ => true
  | .cmdGnssLayup _ _ => true
  | .cmdGnssWake _ => true
  | .cmdVoteSelect _ _ _ => true
  | .cmdVoteExclude _ _ _ => true
  | .cmdSolverStatsClear _ => true
  | .cmdCtlMode _ _ => true
  | .cmdCtlSetpoint _ _ _ _ => true
  | .cmdCtlJoystick _ _ _ _ => true
  | .cmdCtlManual _ _ _ _ _ => true
  | .cmdCtlTrackLoad _ _ _ => true
  | .cmdLoopTest _ _ _ _ _ _ _ _ _ _ => true
  | .cmdLoopTestStop _ => true
  | .cmdLoopCaptureRead _ _ _ => true
  | .cmdLogicLoad _ _ _ => true
  | .cmdLogicChange _ _ => true
  | .cmdLogicStart _ _ => true
  | .cmdLogicStop _ => true
  | .cmdLogicForce _ _ _ _ => true
  | .cmdLogicUnforce _ _ => true
  | .cmdLogicReport _ _ => true
  | .cmdLogicVarRead _ _ => true
  | .cmdCanBufRead _ _ => true
  | .cmdCanFifoRead _ _ _ => true
  | .cmdSpineKey _ _ _ => true
  | .cmdLaneRotate _ => true
  | .cmdSafeAck _ _ _ tag => tag.length == 8
  | .cmdSafeConfirm _ _ => true
  | .cmdSafeKey _ key => key.length == 32
  | .cmdFaultInject _ _ _ _ => true
  | .cmdFaultLogRead _ _ _ => true
  | .cmdBudgetCap _ _ => true
  | .cmdLifeJournalFind _ _ _ => true
  | .cmdLifeJournalRead _ _ _ _ => true
  | .ptpFollowUpRx _ _ _ _ => true
  | .ptpDelayReqTx _ => true
  | .ptpDelayRespRx _ _ _ => true
  | .ptpDelayReqRx _ _ _ _ => true
  | .triggerPulseEnd _ => true
  | .ppsPulseEnd => true
  | .encoderLatch xs => xs.length == 8
  | .fwSlotErased => true
  | .fwImageVerified => true
  | .plezenMessageReject _ _ => true
  | .prpEntryForget _ _ => true
  | .vbatLoss => true

end Sys2Proof
end

