-- ==== Sys2Proof/Tests/Slice0.lean ====
section
/-! SUPPORT. Tests of the model: for every statement a state and operands that meet its hypotheses, an ill-formed operand for every
check of WellFormed, values from the manual's worked examples, and single steps. -/

open Sys2Proof Sys2Proof.Machine

/-! ### Helpers -/

/-- A START state: the machine after reset, with its lanes up. -/
def up : State := State.reset.wr F.devState 1

/-- The same in budget state Full. -/
def full : State := up.wr F.powerStateCode 0

/-- Full, at the start of tick `n` of the frame at Station Time 0. -/
def atTick (n : Nat) : State :=
  { full with time := { full.time with tb0 := 125000 * n, mono := 125000 * n, frameAt := 0, tickDue := n, tickOrigin := 0, tickEnd := 160 } }

/-- Long after power-on, with the time part given. -/
def Sys2Proof.Machine.State.longAfter (s : State) (t : TimeState) : State := { s with time := { t with mono := 10 ^ 13 } }

/-- With a parameter in both Folios. -/
def Sys2Proof.Machine.State.withCfg (s : State) (f : Fld) (v : Nat) : State :=
  { s.wrFlag F.devFolioNone false with folioA := { s.folioA with params := s.folioA.params.set f.key (BitVec.ofNat _ v) }, folioB := { s.folioB with params := s.folioB.params.set f.key (BitVec.ofNat _ v) } }

/-- The header of a command in mailbox 0. -/
def hdr0 : Hdr := ⟨.mailbox 0, 0, 0⟩

/-- A state in which mailbox 0 holds a taken command of sequence and check code 0. -/
def offer (s : State) (code : Nat) (payload : List Byte) : State :=
  s.setMailbox 0 ⟨.taken, (Store.empty : Mem).writeBytes 0
    (le 4 0 ++ le 2 code ++ le 2 payload.length ++ le 4 0 ++ le 16 0 ++ le 4 0 ++ payload)⟩

theorem runs_self {s : State} (h : s.powered = true) : Runs s { s with outputs := [] } := ⟨h, rfl⟩

theorem readBytes_part (m : Mem) (hm : Memory.wf m = true) (bs : List Byte) (k n : Nat) (h : k + n ≤ bs.length) :
    (m.writeBytes 0 bs).readBytes k n = (bs.drop k).take n := by
  induction n generalizing k with
  | zero => simp [Store.readBytes]
  | succ n ih =>
    have hk : k < bs.length := by omega
    rw [Store.readBytes, ih (k + 1) (by omega), List.drop_eq_getElem_cons hk, List.take_succ_cons]
    congr 1
    have := writeBytes_get hm (a := 0) bs hk
    rwa [Nat.zero_add] at this

theorem unle_le (n v : Nat) : unle (le n v) = v % 256 ^ n := by
  induction n generalizing v with
  | zero => simp [le, unle, Nat.mod_one]
  | succ n ih =>
    have e : 256 ^ (n + 1) = 256 * 256 ^ n := Nat.pow_succ'
    rw [le, unle, ih, e, Nat.mod_mul]
    simp

theorem length_le (n v : Nat) : (le n v).length = n := by
  induction n generalizing v with
  | zero => rfl
  | succ n ih => rw [le, List.length_cons, ih]

/-- The offered command is processed. -/
theorem offer_processed (s : State) (code : Nat) (p : List Byte) (h : s.powered = true) (hr : s.ready = true)
    (hc : code < 65536) (hl : p.length < 65536) :
    Processed (offer s code p) hdr0 code p { offer s code p with outputs := [] } := by
  refine ⟨_, ⟨h, rfl⟩, hr, ?_, ?_, rfl⟩
  · exact congrArg Mailbox.st (Store.get_set_listed _ (by simp [idleMailbox]))
  · have hb : (offer s code p).host.mbx.get 0 = ⟨.taken, (Store.empty : Mem).writeBytes 0
        (le 4 0 ++ le 2 code ++ le 2 p.length ++ le 4 0 ++ le 16 0 ++ le 4 0 ++ p)⟩ :=
      Store.get_set_listed _ (by simp [idleMailbox])
    have hw : Memory.wf (Store.empty : Mem) = true := rfl
    show ((offer s code p).host.mbx.get 0).holds hdr0 code p = true
    rw [hb]
    have hlen : (le 4 0 ++ le 2 code ++ le 2 p.length ++ le 4 0 ++ le 16 0 ++ le 4 0 ++ p).length = 32 + p.length := by
      simp only [List.length_append, length_le]
    unfold Mailbox.holds
    dsimp only
    rw [readBytes_part _ hw _ _ _ (by have := hlen; omega), readBytes_part _ hw _ _ _ (by have := hlen; omega),
      readBytes_part _ hw _ _ _ (by have := hlen; omega), readBytes_part _ hw _ _ _ (by have := hlen; omega),
      readBytes_part _ hw _ _ _ (by have := hlen; omega)]
    have e1 : ((le 4 0 ++ le 2 code ++ le 2 p.length ++ le 4 0 ++ le 16 0 ++ le 4 0 ++ p).drop 4).take 2 = le 2 code := rfl
    have e2 : ((le 4 0 ++ le 2 code ++ le 2 p.length ++ le 4 0 ++ le 16 0 ++ le 4 0 ++ p).drop 6).take 2 = le 2 p.length := rfl
    have e3 : ((le 4 0 ++ le 2 code ++ le 2 p.length ++ le 4 0 ++ le 16 0 ++ le 4 0 ++ p).drop 8).take 4 = le 4 0 := rfl
    have e4 : ((le 4 0 ++ le 2 code ++ le 2 p.length ++ le 4 0 ++ le 16 0 ++ le 4 0 ++ p).drop 28).take 4 = le 4 0 := rfl
    have e5 : ((le 4 0 ++ le 2 code ++ le 2 p.length ++ le 4 0 ++ le 16 0 ++ le 4 0 ++ p).drop 32) = p := rfl
    rw [e1, e2, e3, e4, e5, unle_le, unle_le, List.take_length]
    simp [Nat.mod_eq_of_lt hc, Nat.mod_eq_of_lt hl, hdr0]
    rfl

/-- A state in which a command is processed and meets a condition. -/
theorem offered {P : State → Prop} (s : State) (code : Nat) (p : List Byte) (h : s.powered = true) (hr : s.ready = true)
    (hc : code < 65536) (hl : p.length < 65536) (hP : P { offer s code p with outputs := [] }) :
    ∃ s x, Processed s hdr0 code p x ∧ P x := ⟨_, _, offer_processed s code p h hr hc hl, hP⟩

/-- A state that a command finds and that meets a condition. -/
theorem found {P : State → Prop} (s : State) (h : s.powered = true) (hP : P { s with outputs := [] }) :
    ∃ s x, Runs s x ∧ P x := ⟨_, _, ⟨h, rfl⟩, hP⟩

theorem up_sound : Sound up :=
  ⟨Store.set_wf resetRegs_wf _ _, ⟨rfl, fun _ => rfl⟩, noEvents_allowed, fun _ => Nat.zero_le _, by decide, by decide, by decide⟩

/-- A boot that finds everything in order. -/
def bootOk : BootIn := ⟨true, true, [true, true, true], true, true, true, true, true, true, true, true, true⟩

/-- An Announce of priority 1. -/
def gm1 : Announce := ⟨1, 1, 0, 6, 0, 0, 0, false, 0, 0, 1⟩

theorem not_ne (a : W64) : ~~~ a ≠ a := by
  intro h
  have := congrArg (fun b => b.getLsbD 0) h
  simp at this


/-- An IMU frame of zeros, but for its CRC. -/
def imuBody : List Byte := le 2 0x3AC5 ++ le 1 36 ++ le 29 0

/-- A solve under way, with unit 0 busy. -/
def solving : State :=
  { (up.wr (F.ctlUnitStatusState 0) 2) with
    solv := { up.solv with posed := true, isOpen := true, next := .assemble, crew := [0], jobFrom := up.solv.jobFrom.set 0 (some 0) }
    time := { up.time with tb0 := 7000000, mono := 7000000 }
    coll := { up.coll with published := true } }

/-- A stage job of unit 0 that went well. -/
def job0 : JobResult := ⟨0, 7000, false, 0, 0, 0, 0, false, none⟩

/-- A data frame of identifier 0. -/
def canF : CanFrame := ⟨0, 0, false, false, false, false, []⟩

/-- A program of no code that passes every check. -/
def prog0 : ProgInfo := ⟨true, 0x4832, true, 0, 0, 0, 0, true, 7, [], [], [], []⟩

/-- A test of loop 0 that has not begun. -/
def test0 : LoopTest := ⟨0, 0, 0, 0, 1, 0, 0, 1, 1, false, 0, 1, false, false, 0, none⟩

/-- A setpoint record without entries. -/
def rec0 : SpRecord := ⟨0, 0, 0, 0, 0, []⟩

/-- A heartbeat of the module with serial number 7, without a tag. -/
def hb0 : Heartbeat := ⟨le 2 0x4B8E ++ le 1 1 ++ le 1 64 ++ le 8 7 ++ le 52 0, 0, 0, 0, 0⟩

/-- Host 0 enabled, with a key in slot 0. -/
def heard : State := { (up.withCfg (F.spineHostCfgEnabled 0) 1).withCfg F.spineIpAddr 1 with spine := { up.spine with keys := up.spine.keys.set 0 [1] } }

/-- Lane A on duty, lane B its partner, and lane C in a state. -/
def Sys2Proof.Machine.State.lanes (s : State) (c : Nat) : State :=
  ((s.wr (F.laneState 0) laneDuty).wr (F.laneState 1) lanePartner).wr (F.laneState 2) c

/-- The Safety Monitor evaluates. -/
def watching : State := { up with safe := { up.safe with read := true, tested := true } }

/-- Four satellites whose records carry EPHEMERIS_VALID and CARRIER_VALID, and a fix of them. -/
def goodRecs : List GnssRec := [1, 2, 3, 4].map fun n =>
  { rx := 1, chan := 0, cons := 0, sat := n, sig := 0, freq := 0, flags := 34, pr := 0, cp := 0, dop := 0, cn0 := 0, lock := 0,
    codeNoise := 0, carrNoise := 0, slips := 0, elev := 0, azim := 0 }

/-- The fix of receiver 1 from four satellites. -/
def fix4 : GnssFix := ⟨1, 0, 0, 0, (0, 0, 0), [(0, 1), (0, 2), (0, 3), (0, 4)]⟩

/-- A logic cycle that wrote nothing in no time. -/
def logicOut0 : LogicOut := ⟨[], [], [], [], 0, false⟩

/-- What of a message the tag covers with counter 1 in key slot 0, and its tag under the key [1] (R336, R337). -/
def dgram (m : List Byte) : List Byte × List Byte :=
  let b := m ++ le 1 0 ++ le 3 0 ++ le 8 1
  (b, (Crypto.hmac [1] b).take 16)

/-- A well-formed command of a code that no rule lists. -/
def unknownMsg : List Byte := message 0 0x9999 0 0 0 0 0 []

/-- A payload with the tag of the key [1] of slot 0, on the heartbeat port 5001. -/
def tagged (b : List Byte) : Heartbeat := ⟨b ++ (Crypto.hmac [1] b).take 16, 0, 0, BitVec.ofNat 16 (up.cfg F.spineHbPort), 0⟩

/-- The heartbeat of the module with serial number 7, tagged. -/
def hbTagged : Heartbeat := tagged (le 2 0x4B8E ++ le 1 1 ++ le 1 64 ++ le 8 7 ++ le 36 0)

/-- A datagram of 28 bytes, tagged. -/
def hbShort : Heartbeat := tagged (le 12 0)

/-- A sender of which the counter 0 was accepted. -/
def heardZero : Sender := ⟨none, some 0, some 0, [0]⟩

/-- At the start of a tick, with an address and a key in slot 0. -/
def hbState : State := { up.withCfg F.spineIpAddr 1 with spine := { up.spine with keys := up.spine.keys.set 0 [1] }, time := { up.time with tickDue := 0, tickEnd := 160 } }

/-- The header of a command of host 0 with counter 1, as `heard` accepts it. -/
def spineHdr (code : Nat) (p : List Byte) : Hdr :=
  let m := message 0 code 0 0 0 0 0 p
  ⟨.spine 0 0 1 ((Crypto.hmac [1] (signedBytes m 0 1)).take 16) ⟨0, BitVec.ofNat 16 (up.cfg F.spinePlezenPort)⟩, 0,
    BitVec.ofNat 32 (unle ((m.drop 28).take 4))⟩

/-! ### The hypotheses of the statements are met -/

theorem witness_MailboxTransactionsCarryBytes :
    (∃ s x, Runs s x ∧ (s.host.mbx.get 7).st = .idle ∧ 4095 + [(1 : Byte)].length ≤ 4096) ∧
    (∃ s x, Runs s x ∧ (s.host.mbx.get 0).st ≠ .idle) :=
  ⟨⟨up, _, runs_self rfl, by decide, by decide⟩, ⟨offer up 0 [], _, runs_self rfl, by decide⟩⟩

theorem witness_MailboxReadReturnsWhatWasWritten :
    (∃ s : State, Sound s ∧ s.powered = true ∧ (s.host.mbx.get 7).st = .idle) ∧
    (∃ (m n : Fin 8) (off off' len : Nat) (data : List Byte), data ≠ [] ∧ off + data.length ≤ 4096 ∧ 0 < len ∧ off' + len ≤ 4096 ∧
      (m ≠ n ∨ off' + len ≤ off ∨ off + data.length ≤ off')) :=
  ⟨⟨up, up_sound, rfl, by decide⟩, 7, 7, 0, 1, 4095, [1], by decide, by decide, by decide, by decide, by decide⟩

theorem witness_DirectRegisterWritesAct :
    (∃ s x, Runs s x) ∧ (∃ off : Nat, off % 4 = 0 ∧ off ≤ 0xFC ∧ off ≠ 0x08 ∧ off ≠ 0x0C ∧ off ≠ 0x10 ∧ off ≠ 0x20 ∧ off ≠ 0x68 ∧ off ≠ 0x6C) ∧
    (∃ (off : Nat) (vals : List W32), off % 4 = 0 ∧ vals ≠ [] ∧ off + 4 * (vals.length + 1) ≤ 0x100) :=
  ⟨⟨up, _, runs_self rfl⟩, ⟨0xFC, by decide⟩, 0xF8, [0], by decide, by decide, by decide⟩

theorem witness_DoorbellRingsIdleMailboxes :
    (∃ s x, Sound s ∧ Runs s x) := ⟨up, _, up_sound, runs_self rfl⟩

theorem witness_EventsAreAcknowledgedAndResent :
    (∃ s x, Runs s x) ∧ (∃ s x, Processed s hdr0 0x0006 (le 4 5) x) ∧
    (∃ s x, Runs s x ∧ x.ready = true ∧ x.flag F.laneStatusHolding = false ∧ x.host.resentFrame ≠ some x.totalFrames) :=
  ⟨⟨up, _, runs_self rfl⟩, ⟨_, _, offer_processed up 6 (le 4 5) rfl (by decide) (by decide) (by decide)⟩,
    ⟨up, _, runs_self rfl, by decide, by decide, by decide⟩⟩

theorem witness_DeviceCommandsAct :
    (∃ s x, Processed s hdr0 0x000D [1, 2, 3] x) ∧ (∃ s x, Processed s hdr0 0x000B [0] x ∧ (x.rd F.ctlMode = 0 ∨ x.rd F.ctlMode = 5)) ∧
    (∃ s x, Processed s hdr0 0x000B [1] x) ∧ (∃ s x, Runs s x ∧ x.ready = true ∧ (x.rd F.ctlMode = 0 ∨ x.rd F.ctlMode = 5)) ∧
    (∃ s x, Processed s hdr0 0x000C [4] x ∧ x.mayMove 4 = true ∧ x.devState ≠ 4) ∧
    (∃ s x, Processed s hdr0 0x000C [2] x ∧ x.mayMove 2 = false) :=
  ⟨⟨_, _, offer_processed up 13 [1, 2, 3] rfl (by decide) (by decide) (by decide)⟩,
    ⟨_, _, offer_processed up 11 [0] rfl (by decide) (by decide) (by decide), by decide⟩,
    ⟨_, _, offer_processed up 11 [1] rfl (by decide) (by decide) (by decide)⟩, ⟨up, _, runs_self rfl, by decide, by decide⟩,
    ⟨_, _, offer_processed up 12 [4] rfl (by decide) (by decide) (by decide), by decide, by decide⟩,
    ⟨_, _, offer_processed up 12 [2] rfl (by decide) (by decide) (by decide), by decide⟩⟩

theorem witness_FirmwareUpdateOpensAndReceives :
    (∃ s x, Processed s hdr0 0x0007 (le 4 5 ++ List.replicate 32 0) x ∧ x.flag F.devFwSlotTrial = false ∧ x.budget ≠ 3 ∧
      x.flag F.devFwSlotOpen = false ∧ x.fw.beginHdr = none ∧ x.writeGuard = false) ∧
    (∃ s x, Runs s x ∧ x.fw.beginHdr = some hdr0 ∧ x.ready = true ∧ x.writeGuard = false ∧ x.budget ≠ 3) ∧
    (∃ s x, Processed s hdr0 0x0008 (le 4 0 ++ [7]) x ∧ x.flag F.devFwSlotOpen = true ∧ x.budget ≠ 3 ∧ x.fw.commitHdr = none ∧
      x.writeGuard = false ∧ x.fw.blocksThisFrame < 4 ∧ x.rd F.devFwNextOffset = 0 ∧ 1 ≤ x.fw.size) :=
  ⟨⟨_, _, offer_processed full 7 (le 4 5 ++ List.replicate 32 0) rfl (by decide) (by decide) (by decide), by decide, by decide, by decide, by decide, by decide⟩,
    ⟨{ full with fw := { full.fw with beginHdr := some hdr0 } }, _, runs_self rfl, rfl, by decide, by decide, by decide⟩,
    ⟨_, _, offer_processed { (full.wr F.devFwSlotOpen 1) with fw := { full.fw with size := 1 } } 8 (le 4 0 ++ [7]) rfl (by decide) (by decide) (by decide), by decide, by decide, by decide, by decide, by decide, by decide, by decide⟩⟩

theorem witness_FirmwareUpdateVerifiesAndStarts :
    (∃ s x, Processed s hdr0 0x0009 [] x ∧ x.flag F.devFwSlotOpen = true ∧ x.rd F.devFwNextOffset = x.fw.size ∧
      x.fw.commitHdr = none ∧ x.writeGuard = false) ∧
    (∃ s x, Runs s x ∧ x.fw.commitHdr = some hdr0 ∧ x.ready = true ∧ x.writeGuard = false) ∧
    (∃ s x, Processed s hdr0 0x000A [] x ∧ x.flag F.devFwSlotOpen = true ∧ x.fw.commitHdr = none) ∧
    (∃ s x, Runs s x ∧ x.flag F.devFwSlotTrial = true ∧ x.devState = 2 ∧ x.writeGuard = false ∧
      x.cfg F.devFwTrialTime * 50 ≤ x.fw.trialFrames) :=
  ⟨⟨_, _, offer_processed (full.wr F.devFwSlotOpen 1) 9 [] rfl (by decide) (by decide) (by decide), by decide, by decide, by decide, by decide⟩,
    ⟨{ full with fw := { full.fw with commitHdr := some hdr0 } }, _, runs_self rfl, rfl, by decide, by decide⟩,
    ⟨_, _, offer_processed (full.wr F.devFwSlotOpen 1) 10 [] rfl (by decide) (by decide) (by decide), by decide, by decide⟩,
    ⟨{ ((full.wr F.devState 2).wr F.devFwSlotTrial 1) with fw := { full.fw with trialFrames := 1000000 } }, _, runs_self rfl,
      by decide, by decide, by decide, by decide⟩⟩

theorem witness_ParameterCommandsReadAndWrite :
    (∃ s x, Processed s hdr0 0x0001 (le 2 1 ++ [((0x5001 : W16), (0 : W16))].flatMap fun i => le 2 i.1.toNat ++ le 2 i.2.toNat) x) ∧
    (∃ s x, Processed s hdr0 0x0002 (le 2 2 ++ [((0x5001 : W16), (0 : W16), (0 : W64))].flatMap fun i =>
      le 2 i.1.toNat ++ le 2 i.2.1.toNat ++ le 8 i.2.2.toNat) x) ∧
    (∃ s x, Processed s hdr0 0x0002 (le 2 2 ++ [((0x1010 : W16), (0 : W16), (0 : W64)), ((0xFFFF : W16), (0 : W16), (0 : W64))].flatMap fun i =>
      le 2 i.1.toNat ++ le 2 i.2.1.toNat ++ le 8 i.2.2.toNat) x ∧ x.checkItem 0x1010 0 0 = Res.ok ∧ x.checkItem 0xFFFF 0 0 ≠ Res.ok) :=
  ⟨⟨_, _, offer_processed up 1 _ rfl (by decide) (by decide) (by decide)⟩, ⟨_, _, offer_processed up 2 _ rfl (by decide) (by decide) (by decide)⟩,
    ⟨_, _, offer_processed full 2 _ rfl (by decide) (by decide) (by decide), by decide, by decide⟩⟩

theorem witness_FolioCommandsStageAndTurn :
    (∃ s x, Processed s hdr0 0x0005 ([1] ++ le 4 0 ++ [9]) x ∧ x.stagingOpen = true ∧ x.writeGuard = false) ∧
    (∃ s x, Processed s hdr0 0x0003 [] x ∧ x.stagingOpen = true ∧ x.writeGuard = false ∧ x.rd F.devFolioShadow = 1) ∧
    (∃ s x, Processed s hdr0 0x0004 [] x ∧ x.rd F.devFolioTurn = 0 ∧ x.turn.pending = false) ∧
    (∃ s x, Runs s x ∧ x.ready = true ∧ x.rd F.devFolioTurn = 1) ∧
    (∃ s x, Runs s x ∧ x.turn.sealFrame = some 0 ∧ x.turn.prepared = some (1, 0) ∧ x.turn.hdr = some hdr0 ∧ x.atTick 152 = true ∧
      x.rd F.devFolioTurn = 2 ∧ 0 ≤ x.totalFrames) ∧
    (∃ s x, Runs s x ∧ x.ready = true ∧ x.rd F.devFolioShadow = 2 ∧ x.writeGuard = false) :=
  ⟨⟨_, _, offer_processed full 5 _ rfl (by decide) (by decide) (by decide), by decide, by decide⟩,
    ⟨_, _, offer_processed (full.wr F.devFolioShadow 1) 3 [] rfl (by decide) (by decide) (by decide), by decide, by decide, by decide⟩,
    ⟨_, _, offer_processed full 4 [] rfl (by decide) (by decide) (by decide), by decide, by decide⟩,
    ⟨full.wr F.devFolioTurn 1, _, runs_self rfl, by decide, by decide⟩,
    ⟨{ (full.wr F.devFolioTurn 2) with turn := ⟨false, some hdr0, some (1, 0), [], some 0⟩, time := { full.time with tickDue := 152 } }, _, runs_self rfl, by decide, by decide, by decide, by decide, by decide, by decide⟩,
    ⟨full.wr F.devFolioShadow 2, _, runs_self rfl, by decide, by decide, by decide⟩⟩

theorem witness_SupplyEventsAct :
    (∃ s : State, s.powered = false) ∧ (∃ s : State, s.powered = true) ∧ (∃ s x, Runs s x ∧ x.power.writing = none) ∧
    (∃ s x, Runs s x ∧ x.power.writing ≠ none) :=
  ⟨⟨{ up with powered := false }, rfl⟩, ⟨up, rfl⟩, found up rfl (by decide),
    found { up with power := { up.power with writing := some (noEndpaper 0) } } rfl (by decide)⟩

theorem witness_WriteGuardActs :
    (∃ s x, Runs s x ∧ x.writeGuard = false) ∧ (∃ s x, Runs s x ∧ x.writeGuard = true) ∧
    (∃ s x, Runs s x ∧ x.writeGuard = true ∧ 10000000 ≤ x.since x.power.sagAt) ∧
    (∃ s x, Runs s x ∧ x.power.writing = some (noEndpaper 0)) :=
  ⟨found up rfl (by decide), found (up.wr F.powerWriteGuardTripped 1) rfl (by decide),
    found ((up.wr F.powerWriteGuardTripped 1).longAfter up.time) rfl (by decide),
    found { up with power := { up.power with writing := some (noEndpaper 0) } } rfl (by decide)⟩

theorem witness_GovernorLatchesAndHolds :
    (∃ s x, Runs s x ∧ x.atTick 156 = true ∧ x.latchedNow = false) ∧
    (∃ s x, Runs s x ∧ x.power.latch = some ⟨10 ^ 15, [4, 4, 0], 0, 0, none, false, true⟩ ∧ x.power.started = true ∧
      (x.caps ⟨10 ^ 15, [4, 4, 0], 0, 0, none, false, true⟩).target < x.budget ∧
      x.cfg F.powerUpstepHold * 1000000000 ≤ 10 ^ 15 - x.power.holdFrom.getD (10 ^ 15)) ∧
    (∃ s x, Processed s hdr0 0xD001 [2] x) :=
  ⟨found { up with time := { up.time with tickDue := 156 } } rfl (by decide),
    found { up with power := { up.power with started := true, holdFrom := some 0, latch := some ⟨10 ^ 15, [4, 4, 0], 0, 0, none, false, true⟩ } } rfl (by decide),
    ⟨_, _, offer_processed up 0xD001 [2] rfl (by decide) (by decide) (by decide)⟩⟩

theorem witness_TimePassesInBoot :
    (∃ s x, Runs s x ∧ x.ready = false ∧ x.time.tickDue < x.time.tickEnd) ∧
    (∃ x : State, x.time.tickOrigin = 0 ∧ x.time.tickDue < 160 ∧ x.time.tb0 = x.time.frameAt + 125000 * x.time.tickDue) ∧
    (∃ s x, Runs s x ∧ x.ready = false ∧ x.time.tickEnd ≤ x.time.tickDue ∧ x.stepDue = false) :=
  ⟨found { State.reset with time := { up.time with tickDue := 0, tickOrigin := 0, tickEnd := 1 } } rfl (by decide), ⟨{ State.reset with time := { up.time with tickDue := 0, tickOrigin := 0, tickEnd := 1 } }, by decide⟩, found { State.reset with time := { up.time with tickEnd := 0, tickDue := 160, tickOrigin := 0 } } rfl (by decide)⟩

theorem witness_TicksAndFramesRunInOrder :
    (∃ s x, Runs s x ∧ x.ready = true ∧ x.time.tickDue < x.time.tickEnd ∧ x.tickBoundary.now + 40000 < x.tickBoundary.tickStop) ∧
    (∃ s x, Runs s x ∧ x.ready = true ∧ x.time.tickDue < x.time.tickEnd ∧ x.tickBoundary.tickStop ≤ x.tickBoundary.now + 40000) ∧
    (∃ s x, Runs s x ∧ x.ready = true ∧ x.time.tickEnd ≤ x.time.tickDue ∧ x.stepDue = false) ∧
    (∃ s x, Runs s x ∧ x.stepDue = true ∧ x.stepSource = some .tb1) ∧ (∃ s x, Runs s x ∧ x.stepDue = true ∧ x.stepSource = none) :=
  ⟨found (atTick 0) rfl (by decide), found { (atTick 160) with time := { (atTick 160).time with tb0 := 19990000, tickOrigin := 160, tickEnd := 161, frameAt := 19990000 } } rfl (by decide),
    found (atTick 160) rfl (by decide),
    found { (atTick 160) with time := { (atTick 160).time with step := some .acquire, anySource := true, tb1 := { Source.none with qualified := true } } } rfl (by decide),
    found { (atTick 160) with time := { (atTick 160).time with step := some .acquire } } rfl (by decide)⟩

theorem witness_ResetStartsBootAnew :
    (∃ k : ResetKind, k = .device) ∧ (∃ k : ResetKind, k ≠ .device) := ⟨⟨.device, rfl⟩, ⟨.powerOn, by decide⟩⟩

theorem witness_BootAndNormalAreEntered :
    (∃ s x, Runs s x ∧ x.boot.resetAt = some 0 ∧ 0 < x.clock ∧ x.ready = true ∧ x.time.tickDue = 0) ∧
    (∃ s x, Runs s x ∧ x.bootSlot bootOk = some 0 ∧ x.bootRoles bootOk = 0 :: [1, 2] ∧ x.devState = 0 ∧ x.bootTrial 0 = false) ∧
    (∃ s x, Runs s x ∧ (x.bootSlot { bootOk with trialFolioOk := false } = some 1 ∧
      x.bootRoles { bootOk with trialFolioOk := false } = 0 :: [1, 2] ∧ x.devState = 0 ∧ x.bootTrial 1 = true) ∧
      (x.bootCommit { bootOk with trialFolioOk := false }) = some (⟨0, State.reset.folioA.crc, 1⟩, false)) ∧
    (∃ s x, Runs s x ∧ x.bootRoles { bootOk with laneOk := [] } = []) ∧
    (∃ s x, Runs s x ∧ x.devState = 1 ∧ x.time.tickDue = 0 ∧ x.normalReady = true) :=
  ⟨found { (atTick 0) with time := { (atTick 0).time with mono := 1 }, boot := { full.boot with resetAt := some 0 } } rfl (by decide),
    found State.reset rfl (by decide),
    found { State.reset with fw := { full.fw with trialSlot := some 1, attempts := 0 }, turn := { full.turn with commits := [⟨0, State.reset.folioA.crc, 1⟩] } } rfl ⟨by decide, by simp [State.bootCommit, State.commitHolds, State.folio, bootOk]⟩,
    found State.reset rfl (by decide),
    found { ((((atTick 0).wr F.timeStatusAcquired 1).wr F.timeStatusLocked 1).setLane 0 laneDuty) with boot := { full.boot with settle := 1000000 } } rfl (by decide)⟩

theorem witness_NetworkTimeIsFollowed :
    (∃ s x, Runs s x ∧ (0 : Byte).toNat = x.ptpDomain false ∧ (x.source (ptpSrc false)).gm ≠ none ∧ (x.source (ptpSrc false)).slavePort = 1 ∧
      (x.source (ptpSrc false)).awaitFollowUp = some 1 ∧ (x.source (ptpSrc false)).lastAnnounce = some 0 ∧ (x.source (ptpSrc false)).gm = some gm1) ∧
    (∃ s x, Runs s x ∧ (x.source (ptpSrc false)).lastSync = some 0 ∧ x.cfg F.timeSyncLossTimeout * 1000000 ≤ x.since 0) ∧
    (∃ s x g a, Runs s x ∧ (x.source (ptpSrc false)).gm = some g ∧ rankBelow (announceRank a) (announceRank g) = true ∧
      a.gmIdentity ≠ Config.clockIdentity ∧ a.gmIdentity ≠ g.gmIdentity) ∧ (∃ s x, Runs s x) :=
  ⟨found { up with time := { up.time with ptp := { Source.none with gm := some gm1, slavePort := 1, awaitFollowUp := some 1, lastAnnounce := some 0 } } } rfl (by decide),
    found { up with time := { up.time with mono := 10 ^ 12, ptp := { Source.none with lastSync := some 0 } } } rfl (by decide),
    ⟨{ up with time := { up.time with ptp := { Source.none with gm := some { gm1 with gmIdentity := Config.clockIdentity, priority1 := 2 } } } }, _,
      { gm1 with gmIdentity := Config.clockIdentity, priority1 := 2 }, { gm1 with gmIdentity := ~~~ Config.clockIdentity }, runs_self rfl, rfl, by decide, not_ne _, not_ne _⟩,
    ⟨up, _, runs_self rfl⟩⟩

theorem witness_TimeIsServedAndMarked :
    (∃ s x, Runs s x ∧ x.masterPort 1 = true ∧ x.cfg F.timePtpProfile = 0) ∧
    (∃ s x, Runs s x ∧ (x.source .ptp).jumped = true ∧ 60 * nsSecond ≤ x.since (x.source .ptp).steadyFrom ∧ x.isMeasured .ptp = true) ∧
    (∃ s x, Runs s x ∧ x.gnss.timeGood.get 0 = some 0 ∧ 10 * nsSecond ≤ x.since 0 ∧ x.time.tb2.measured = true ∧ x.time.tb2.jumped = false) ∧
    (∃ s x, Runs s x ∧ x.gnss.timeOk.wf = true ∧ ∀ n < 3, x.gnss.timeGood.get n = none ∧ ∃ b, x.gnss.timeBad.get n = some b ∧ 2 * nsSecond ≤ x.since b) ∧
    (∃ s x, Runs s x ∧ x.time.overTb2 = some 0 ∧ 10 * nsSecond ≤ x.since 0 ∧ x.flag F.timeStatusCrosscheckFail = false) ∧
    (∃ s x, Runs s x ∧ x.time.overTb1 = none ∧ x.time.overTb2 = none ∧ 10 * nsSecond ≤ x.since x.time.withinSince ∧
      x.flag F.timeStatusCrosscheckFail = true) ∧
    (∃ s x, Runs s x ∧ x.flag F.timeStatusAcquired = false ∧ x.cfg F.timeAcquireTimeout * nsSecond ≤ x.since x.time.resetAt) ∧
    (∃ s x, Processed s hdr0 0x1001 [] x ∧ x.devState ≠ 1) ∧
    (∃ s x, Processed s hdr0 0x1001 [] x ∧ x.devState = 1 ∧ x.firstQualified = none) ∧
    (∃ s x, Processed s hdr0 0x1001 [] x ∧ x.devState = 1 ∧ x.firstQualified ≠ none) ∧
    (∃ s x, Runs s x ∧ x.time.tickDue = 0 ∧ x.rd F.timeFrameIndex = 40 ∧ x.time.ppsEdge = none) ∧
    (∃ s x, Runs s x ∧ x.time.ppsEdge = some 5 ∧ x.withinTick 5 = true) ∧
    (∃ s x, Runs s x ∧ x.time.ppsHigh = true ∧ x.time.ppsFall < x.clock + nsTick) :=
  ⟨found (up.withCfg F.timeGmEnable 1) rfl (by decide),
    found (up.longAfter { up.time with ptp := { up.time.ptp with jumped := true, measured := true, lastSync := some (10 ^ 13) } }) rfl (by decide),
    found { (up.longAfter { up.time with tb2 := { up.time.tb2 with measured := true } }) with
        gnss := { up.gnss with timeGood := up.gnss.timeGood.set 0 (some 0) } } rfl (by decide),
    found (P := fun x => x.gnss.timeOk.wf = true ∧ ∀ n < 3, x.gnss.timeGood.get n = none ∧ ∃ b, x.gnss.timeBad.get n = some b ∧ 2 * nsSecond ≤ x.since b) ({ (up.longAfter up.time) with
        gnss := { up.gnss with timeBad := ((up.gnss.timeBad.set 0 (some 0)).set 1 (some 0)).set 2 (some 0) } }) rfl ⟨rfl, by
      intro n hn
      have : n = 0 ∨ n = 1 ∨ n = 2 := by omega
      rcases this with e | e | e <;> subst e <;> exact ⟨rfl, 0, rfl, by decide⟩⟩,
    found (up.longAfter { up.time with overTb2 := some 0 }) rfl (by decide),
    found ((up.longAfter up.time).wrFlag F.timeStatusCrosscheckFail true) rfl (by decide),
    found (up.longAfter up.time) rfl (by decide),
    offered (up.wr F.devState 2) _ _ rfl (by decide) (by decide) (by decide) (by decide),
    offered (up.wr F.devState 1) _ _ rfl (by decide) (by decide) (by decide) (by decide),
    offered { (up.wr F.devState 1) with time := { up.time with ptp := { up.time.ptp with qualified := true } } } _ _ rfl
      (by decide) (by decide) (by decide) (by decide),
    found { (up.wr F.timeFrameIndex 40) with time := { up.time with tickDue := 0 } } rfl (by decide),
    found { up with time := { up.time with ppsEdge := some 5, tickDue := 0, tickEnd := 160 } } rfl (by decide),
    found { up with time := { up.time with ppsHigh := true, ppsFall := 0 } } rfl (by decide)⟩

theorem witness_TimeOrderAndRecordsAreKept :
    (∃ s x, Runs s x ∧ srcOfCode (x.rd F.timeStatusSource) = some .tb1 ∧
      ((x.sourceOrder.takeWhile fun z => z ≠ .tb1).find? fun z => (x.source z).qualified &&
        decide (x.cfg F.timeRevertHold * nsSecond ≤ x.since (x.source z).since)) = some .ptp ∧
      x.time.tickDue = 0 ∧ x.cfg F.timeRevertHold ≠ 0 ∧ x.flag F.timeStatusAcquired = true ∧ x.sourceOrder.contains .tb1 = true) ∧
    (∃ s x, Runs s x ∧ x.masterPort 1 = true ∧ x.time.masterKind = 0 ∧ x.time.masterParent = some gm1) ∧
    (∃ s x, Runs s x ∧ x.ready = true ∧ x.writeGuard = false ∧ x.cfg F.lifeCommitInterval ≤ x.life.sinceCommit) ∧
    (∃ s x, Runs s x ∧ ((x.life.leaps.filter fun l => decide (l.from_ ≤ x.second)).getLast?.map Leap.offset) = some 37 ∧ x.ready = true ∧
      x.rdInt F.lifeTaiUtc ≠ 37) ∧
    (∃ s x, Runs s x ∧ x.ready = true ∧ x.life.rtcDue = true) ∧
    (∃ s x, Runs s x ∧ x.ready = true ∧ x.deadline + 16 ≤ x.time.tickDue ∧ x.budget ≠ 3 ∧ x.writeGuard = false ∧
      x.life.pagesThisFrame < x.pageLimit) ∧
    (∃ s x, Runs s x ∧ x.ready = false) ∧
    (∃ s x, Processed s hdr0 0xE001 (le 6 5 ++ le 4 0) x ∧
      (x.life.pages.find? fun p => decide (5 * nsSecond + 0 ≤ p.at_)).isSome = true) ∧
    (∃ s x, Processed s hdr0 0xE001 (le 6 5 ++ le 4 0) x ∧ x.life.pages.find? (fun p => decide (5 * nsSecond + 0 ≤ p.at_)) = none) ∧
    (∃ s x, Processed s hdr0 0xE002 (le 8 0 ++ le 2 4095 ++ le 4 2) x) ∧
    (∃ s x, Processed s hdr0 0xE002 (le 8 7 ++ le 2 4095 ++ le 4 1) x ∧ (x.life.pages.find? fun p => p.seq == 7).isSome = true) :=
  ⟨found ((up.longAfter { up.time with tickDue := 0, ptp := { up.time.ptp with qualified := true } }).wr F.timeStatusSource 2 |>.wrFlag F.timeStatusAcquired true) rfl (by decide),
    found { up.withCfg F.timeGmEnable 1 with time := { up.time with masterKind := 0, masterParent := some gm1 } } rfl (by decide),
    found { up with life := { up.life with sinceCommit := 10 ^ 12 } } rfl (by decide),
    found { up with life := { up.life with leaps := [⟨0, 37⟩] } } rfl (by decide),
    found { up with life := { up.life with rtcDue := true } } rfl (by decide),
    found (atTick 159) rfl (by decide),
    found (up.wr F.devState 0) rfl (by decide),
    offered { up with life := { up.life with pages := [⟨7, 0, 10 ^ 10, false, false, []⟩] } } _ _ rfl (by decide) (by decide) (by decide) (by decide),
    offered up _ _ rfl (by decide) (by decide) (by decide) (by decide),
    ⟨_, _, offer_processed up _ _ rfl (by decide) (by decide) (by decide)⟩,
    offered { up with life := { up.life with pages := [⟨7, 0, 10 ^ 10, false, false, []⟩] } } _ _ rfl (by decide) (by decide) (by decide) (by decide)⟩

theorem witness_InputsAreTriggeredAndSampled :
    (∃ s x, Runs s x ∧ x.ready = true ∧ trigPeriod (x.cfg (F.inpTrigPeriod 0)) ≠ 0 ∧
      (let adv := x.cfg (F.inpTrigAdvance 0)
       let g := x.nextGrid 0 (trigPeriod (x.cfg (F.inpTrigPeriod 0))) adv
       x.withinTick (nearest4 (g - adv)) = true)) ∧
    (∃ s x, Runs s x ∧ x.inp.trigHigh.get 0 = true ∧ x.inp.trigFall.get 0 ≤ x.clock + nsTick) ∧
    (∃ s x, Runs s x ∧ x.ready = true ∧ imuPeriod (x.cfg (F.inpImuRate 0)) ≠ 0 ∧
      (let g := x.nextGrid 8 (imuPeriod (x.cfg (F.inpImuRate 0))) 0
       x.withinTick g = true)) ∧
    (∃ s x, Runs s x ∧ x.ready = true ∧ (x.inp.ain.get 0).current.mode ≠ 0 ∧
      (x.inp.ain.get 0).current.due ≤ (x.now : Int)) ∧
    (∃ r : AinRun, r.wireSince = some 0 ∧ r.mode = 3 ∧ 50 * nsMs + ainPeriod r.preset ≤ r.next) ∧
    (∃ s x, Runs s x ∧ (x.inp.ain.get 0).run.wireDue = true) ∧
    (∃ s x, Runs s x ∧ x.imuAnswers 0 7 = some 0 ∧ imuPeriod (x.cfg (F.inpImuRate 0)) ≠ 0 ∧ x.inp.imuUsed.get 0 = none ∧
      x.imuPassed 0 0 (0 + 7) = false) ∧
    (∃ s x, Runs s x ∧ x.imuAnswers 0 10000000 = some 0 ∧ imuPeriod (x.cfg (F.inpImuRate 0)) ≠ 0 ∧ x.inp.imuUsed.get 0 = none ∧
      x.imuPassed 0 0 (0 + 10000000) = true) ∧
    imuGood (imuBody ++ le 4 (Crypto.crc32c imuBody).toNat) = true ∧
    (∃ s x, Runs s x ∧ x.ready = true ∧ x.cfg (F.inpStreamSourceKind 0) ≠ 0 ∧ x.inp.lastSample.get 0 = some 0 ∧
      x.cfg (F.inpStreamTimeout 0) * nsMs ≤ x.since 0) :=
  ⟨found { (up.withCfg (F.inpTrigPeriod 0) 1) with time := { up.time with tickDue := 0, tickEnd := 160 } } rfl (by decide),
    found { up with inp := { up.inp with trigHigh := up.inp.trigHigh.set 0 true } } rfl (by decide),
    found { (up.withCfg (F.inpImuRate 0) 1) with time := { up.time with tickDue := 0, tickEnd := 160 } } rfl (by decide),
    found { up with
      time := { up.time with tb0 := 10 ^ 12 }
      inp := { up.inp with ain := up.inp.ain.set 0 { (up.inp.ain.get 0) with run := { (up.inp.ain.get 0).run with mode := 1 } } } } rfl (by decide),
    ⟨{ AinRun.off with mode := 3, wireSince := some 0, next := 10 ^ 12 }, by decide⟩,
    found { up with
      time := { up.time with tb0 := 10 ^ 12 }
      inp := { up.inp with ain := up.inp.ain.set 0 { (up.inp.ain.get 0) with run := { (up.inp.ain.get 0).run with mode := 3, next := 10 ^ 12, wireSince := some 0 } } } } rfl (by decide),
    found { (atTick 0).withCfg (F.inpImuRate 0) 1 with inp := { up.inp with edges := up.inp.edges.set 8 [(0, 0)], trigEdge := up.inp.trigEdge.set 8 (some 0) } } rfl (by decide),
    found { (atTick 96).withCfg (F.inpImuRate 0) 1 with inp := { up.inp with edges := up.inp.edges.set 8 [(5000000, 5000000), (0, 0)] } } rfl (by decide),
    by decide +kernel,
    found { (up.withCfg (F.inpStreamSourceKind 0) 1).longAfter up.time with inp := { up.inp with lastSample := up.inp.lastSample.set 0 (some 0) } } rfl (by decide)⟩

theorem witness_MessagesReachTheirStreams :
    (∃ s x, Runs s x ∧ x.ready = true ∧ x.cfg (F.inpSerBaud 0) ≠ 0) ∧
    (∃ s x, Runs s x ∧ x.ready = true ∧ x.bringsDatagrams 2 false = true ∧ x.bringsDatagrams 2 true = true ∧ x.cfg F.inpDgramPort = 5000) ∧ datagramGood [] = false ∧
    datagramGood (le 2 0x5D3C ++ le 1 1 ++ le 15 0 ++ le 2 1 ++ le 8 0 ++
      le 4 (Crypto.crc32c (le 2 0x5D3C ++ le 1 1 ++ le 15 0 ++ le 2 1 ++ le 8 0)).toNat) = true ∧
    (∃ x : State, x.cfg (F.inpStreamTimingCls 0) ≠ 0) ∧
    (∃ x : State, x.cfg (F.inpStreamTimingCls 0) = 0 ∧ x.linkedStamp 0 5 = some 0) ∧
    (∃ x : State, x.cfg (F.inpStreamTimingCls 0) = 0 ∧ x.linkedStamp 0 5 = none) :=
  ⟨found (up.withCfg (F.inpSerBaud 0) 1) rfl (by decide),
    found (((up.withCfg (F.spinePortCfgEnabled 2) 1).withCfg F.inpDgramPort 5000).wr (F.spinePortStatus 2) 1) rfl (by decide), by decide, by decide +kernel,
    ⟨up.withCfg (F.inpStreamTimingCls 0) 2, by decide⟩,
    ⟨{ up with inp := { up.inp with edges := up.inp.edges.set 0 [(0, 0)] } }, by decide⟩, ⟨up, by decide⟩⟩

theorem witness_LayupSleepsAndWakes :
    (∃ s x, Processed s hdr0 0x2001 (le 2 5) x) ∧ (∃ s x, Processed s hdr0 0x2002 [] x) ∧
    (∃ s x, Runs s x ∧ x.atTick 0 = true ∧ x.gnss.layup = true ∧ x.gnss.wakeReq = some 1) ∧
    (∃ s x, Runs s x ∧ x.atTick 0 = true ∧ x.gnss.layup = true ∧ x.gnss.wakeReq = none ∧ x.gnss.layupEnd = some 0) ∧
    (∃ s x, Runs s x ∧ x.gnss.layup = true ∧ x.gnss.nextWake ≤ x.clock ∧ x.budget ≠ 3) ∧
    (∃ s x, Runs s x ∧ x.gnss.wakeSince = some 0 ∧ 15 * 60 * nsSecond ≤ x.since 0) ∧
    (∃ s x, Runs s x ∧ x.atTick 0 = true ∧ x.gnss.on.get 1 = true ∧ x.gnss.starting.get 1 = true ∧ x.gnss.layup = false ∧
      (x.gnss.fixes.any fun f => f.rx == (1 : Fin 3) && x.goodFix f) = true) :=
  ⟨⟨_, _, offer_processed up _ _ rfl (by decide) (by decide) (by decide)⟩, ⟨_, _, offer_processed up _ _ rfl (by decide) (by decide) (by decide)⟩,
    found { atTick 0 with gnss := { up.gnss with layup := true, wakeReq := some 1 } } rfl (by decide),
    found { atTick 0 with gnss := { up.gnss with layup := true, layupEnd := some 0 } } rfl (by decide),
    found { full with gnss := { up.gnss with layup := true, nextWake := 0 } } rfl (by decide),
    found { (up.longAfter up.time) with gnss := { up.gnss with wakeSince := some 0 } } rfl (by decide),
    found { atTick 0 with
      gnss := { up.gnss with on := up.gnss.on.set 1 true, starting := up.gnss.starting.set 1 true, fixes := [fix4], records := goodRecs } } rfl (by decide)⟩

theorem witness_ReferencesAreVotedOn :
    (∃ s x, Runs s x ∧ x.voteDue = true) ∧
    (∃ s x, Runs s x ∧ x.atCore 39 = true ∧ x.vote.voted = false ∧ x.coll.closed = true) ∧
    (∃ s x, Runs s x ∧ x.vote.voted = true ∧ (x.group 0).pair ≠ [] ∧ x.cfg F.collVoteSplitConfirm ≤ (x.group 0).run) ∧
    (∃ s x, Runs s x ∧ x.ready = true ∧ x.rd (F.collVoteRefStatus 0) = 3 ∧ x.cfg F.collVoteRecoverTime * nsSecond ≤ x.since (x.ref 0).since) ∧
    (∃ s x, Processed s hdr0 0x4001 [2, 0] x) ∧ (∃ s x, Processed s hdr0 0x4001 [1, 15] x) ∧
    (∃ s x, Processed s hdr0 0x4002 [12, 0] x) ∧ (∃ s x, Processed s hdr0 0x4002 [11, 1] x) ∧
    (∃ s x, Runs s x ∧ testBit (x.rd F.collRxConsistency) 0 = true ∧ x.cfg F.collRxRecoverFrames ≤ x.coll.rxGood.get 0) ∧
    (∃ s x, Runs s x ∧ testBit (x.rd F.collRxConsistency) 0 = false ∧ x.cfg F.collRxInconsistentFrames ≤ x.coll.rxBad.get 0) ∧
    (∃ s x, Runs s x ∧ x.coll.dnWarm = some 100000 ∧ x.ready = true ∧ x.cfg F.collDnWarmup ≤ 100000) ∧
    (∃ s x, Runs s x ∧ x.ready = true ∧ x.coll.blocked = true ∧ x.flag F.collEnvBinOutside = false ∧ x.cfg F.collEnvReentry ≤ x.coll.inside) ∧
    (∃ s x, Runs s x ∧ x.atCore 32 = true ∧ x.coll.closed = false) :=
  ⟨found { atTick 35 with coll := { up.coll with closed := true } } rfl (by decide),
    found { atTick 39 with coll := { up.coll with closed := true } } rfl (by decide),
    found { up with vote := { up.vote with voted := true, groups := up.vote.groups.set 0 { (freshGroup 0) with pair := [0, 1], run := 1000 } } } rfl (by decide),
    found ((up.longAfter up.time).wr (F.collVoteRefStatus 0) 3) rfl (by decide),
    ⟨_, _, offer_processed up _ _ rfl (by decide) (by decide) (by decide)⟩, ⟨_, _, offer_processed up _ _ rfl (by decide) (by decide) (by decide)⟩,
    ⟨_, _, offer_processed up _ _ rfl (by decide) (by decide) (by decide)⟩, ⟨_, _, offer_processed up _ _ rfl (by decide) (by decide) (by decide)⟩,
    found { up.wr F.collRxConsistency 1 with coll := { up.coll with rxGood := up.coll.rxGood.set 0 100000 } } rfl (by decide),
    found { up.wr F.collRxConsistency 0 with coll := { up.coll with rxBad := up.coll.rxBad.set 0 100000 } } rfl (by decide),
    found { up with coll := { up.coll with dnWarm := some 100000 } } rfl (by decide),
    found { up.wrFlag F.collEnvBinOutside false with coll := { up.coll with blocked := true, inside := 100000 } } rfl (by decide),
    found { atTick 32 with coll := { up.coll with closed := false } } rfl (by decide)⟩

theorem witness_SolverUnitsWork :
    (∃ s x, Runs s x ∧ x.ready = true ∧ x.solv.powered.get 1 = true ∧ x.unitState 1 = 0 ∧
      300000 < x.since (x.solv.poweredAt.get 1) + nsTick ∧ x.since (x.solv.poweredAt.get 1) ≤ 1500000) ∧
    (∃ s x r, Runs s x ∧ x.jobDue r = true ∧ x.lane.rapid = true) ∧
    (∃ s x r, Runs s x ∧ x.jobDue r = true ∧ x.isWithheld (.result r.unit) = true) ∧
    (∃ s x r, Runs s x ∧ x.jobDue r = true ∧ x.lane.rapid = false ∧ x.isWithheld (.result r.unit) = false ∧ x.coll.offload = .waiting) ∧
    (∃ s x r, Runs s x ∧ x.jobDue r = true ∧ x.lane.rapid = false ∧ x.isWithheld (.result r.unit) = false ∧ x.coll.offload ≠ .waiting ∧ x.solv.isOpen = true ∧
      r.descDiffer = true ∧ x.twoLanes = true) ∧
    (∃ s x r, Runs s x ∧ x.jobDue r = true ∧ x.lane.rapid = false ∧ x.isWithheld (.result r.unit) = false ∧ x.coll.offload ≠ .waiting ∧ x.solv.isOpen = true ∧
      r.descDiffer = false) ∧
    (∃ s x, Runs s x ∧ x.ready = true ∧ x.solv.jobFrom.get 1 = some 0 ∧ 4 * nsMs ≤ x.since 0) ∧
    (∃ s x, Runs s x ∧ x.ready = true ∧ x.deadline ≤ x.time.tickDue ∧ x.solv.powered.get 1 = true ∧ x.solv.tested.get 1 = false ∧
      (x.unitState 1 = 1 ∨ x.unitState 1 = 2) ∧ x.solv.isOpen = false) ∧
    (∃ s x, Runs s x ∧ x.atTick x.deadline = true ∧ x.solv.isOpen = true) ∧
    (∃ s x, Runs s x ∧ x.degraded = false ∧ 3 ≤ x.rd F.ctlStaleRun) ∧
    (∃ s x, Runs s x ∧ x.degraded = true ∧ x.cfg F.ctlDegradedClear ≤ x.solv.notStale) ∧ (∃ s x, Processed s hdr0 0x5001 [] x) :=
  ⟨found ({ up with solv := { up.solv with powered := up.solv.powered.set 1 true }, time := { up.time with mono := 300000 } }.wr
      (F.ctlUnitStatusState 1) 0) rfl (by decide),
    ⟨{ solving with lane := { solving.lane with rapid := true } }, _, job0, runs_self rfl, by decide, by decide⟩,
    ⟨{ solving with fault := { solving.fault with bus := [⟨.result 0, false⟩] } }, _, job0, runs_self rfl, by decide, by decide⟩,
    ⟨{ solving with coll := { solving.coll with offload := .waiting }, time := { solving.time with tb0 := 5000000, mono := 5000000 } }, _, { job0 with atUs := 5000 },
      runs_self rfl, by decide, by decide, by decide, by decide⟩,
    ⟨solving.lanes 0, _, { job0 with descDiffer := true }, runs_self rfl, by decide, by decide, by decide, by decide, by decide, by decide, by decide⟩,
    ⟨solving, _, job0, runs_self rfl, by decide, by decide, by decide, by decide, by decide, by decide⟩,
    found { (up.longAfter up.time) with solv := { up.solv with jobFrom := up.solv.jobFrom.set 1 (some 0) } } rfl (by decide),
    found ({ atTick 159 with solv := { up.solv with powered := up.solv.powered.set 1 true } }.wr (F.ctlUnitStatusState 1) 1) rfl (by decide),
    found { atTick (atTick 0).deadline with solv := { up.solv with isOpen := true } } rfl (by decide),
    found (up.wr F.ctlStaleRun 3) rfl (by decide),
    found { up.wr F.ctlSolveStatus (2 ^ svDegraded) with solv := { up.solv with notStale := 100000 } } rfl (by decide),
    ⟨_, _, offer_processed up _ _ rfl (by decide) (by decide) (by decide)⟩⟩

theorem witness_ControlRequestsAreTaken :
    (∃ s x, Processed s hdr0 0x5002 [1] x) ∧ (∃ s x, Processed s hdr0 0x5003 (le 8 1 ++ le 8 2 ++ le 4 3) x) ∧
    (∃ s x, Processed s hdr0 0x5004 (le 4 1 ++ le 4 2 ++ le 4 3) x) ∧
    (∃ s x, Processed s hdr0 0x5005 ([1] ++ le 4 1 ++ le 4 2 ++ le 4 3) x) ∧
    (∃ s x, Processed s hdr0 0x5006 (le 4 2 ++ [((0 : F64), (0 : F64), (0 : F32), (0 : F32)), (1, 0, 0, 0)].flatMap waypointBytes) x) ∧
    (∃ s x, Processed s hdr0 0x5006 (le 4 1 ++ ([] : List (F64 × F64 × F32 × F32)).flatMap waypointBytes) x) ∧
    (∃ s x, Processed s hdr0 0x5006 (le 4 32 ++ ([] : List (F64 × F64 × F32 × F32)).flatMap waypointBytes) x) ∧
    (∃ s x, Runs s x ∧ x.splitTimeoutDue 0 = true) ∧
    (∃ s x, Runs s x ∧ x.ready = true ∧ x.mode = 4 ∧ x.flag F.ctlStatusJoystickTimeout = false ∧
      x.cfg F.ctlJoystickTimeout * nsMs ≤ x.since x.ctl.joyAt) ∧
    (∃ s x, Runs s x ∧ x.atTransfer 48 .estimate = true ∧ x.coll.closed = true ∧ x.coll.published = false) ∧
    (∃ s x, Runs s x ∧ x.isAbsent .estimate = true ∧ x.atTick 49 = true ∧ x.coll.closed = true ∧ x.coll.published = false) ∧
    (∃ s x, Runs s x ∧ x.atCore (x.deadline + 4) = true ∧ x.time.tickDue < x.deadline + 8 ∧ x.ctl.spPublished = false) :=
  ⟨⟨_, _, offer_processed up _ _ rfl (by decide) (by decide) (by decide)⟩, ⟨_, _, offer_processed up _ _ rfl (by decide) (by decide) (by decide)⟩,
    ⟨_, _, offer_processed up _ _ rfl (by decide) (by decide) (by decide)⟩, ⟨_, _, offer_processed up _ _ rfl (by decide) (by decide) (by decide)⟩,
    ⟨_, _, offer_processed up _ _ rfl (by decide) (by decide) (by decide)⟩, ⟨_, _, offer_processed up _ _ rfl (by decide) (by decide) (by decide)⟩,
    ⟨_, _, offer_processed up _ _ rfl (by decide) (by decide) (by decide)⟩,
    found { (atTick 0).longAfter (atTick 0).time with vote := { up.vote with groups := up.vote.groups.set 0 { (freshGroup 0) with state := 5 } } } rfl (by decide),
    found (up.longAfter up.time |>.wr F.ctlMode 4) rfl (by decide),
    found { atTick 48 with coll := { up.coll with closed := true, published := false } } rfl (by decide),
    found { atTick 49 with coll := { up.coll with closed := true, published := false }, fault := { up.fault with absent := [.estimate] } } rfl (by decide),
    found { atTick ((atTick 0).deadline + 4) with ctl := { up.ctl with spPublished := false } } rfl (by decide)⟩

theorem witness_FieldChannelsCarryFrames :
    (∃ s x, Runs s x ∧ x.ready = true ∧ x.onBus 0 0 = true ∧ x.now ≤ x.now + 5 ∧ x.withinTick (x.now + 5) = true ∧ x.isWithheld (.can 0) = false) ∧
    (∃ (y : State) (f : CanFrame), f.rtr = true ∨ (y.folioFor 0).canTarget 0 f = none) ∧ (∃ y : State, canF.rtr = false ∧ (y.folioFor 0).canTarget 0 canF = some (.buffer 1024)) ∧
    (∃ s x, Runs s x ∧ x.ready = true ∧ x.rd (F.canStatusState 7) = 3 ∧ x.can.resync.get 7 = false ∧
      x.can.offAt.get 7 + 1408 * x.active.nominalBit 7 < x.clock + nsTick) ∧
    (∃ s x, Runs s x ∧ x.ready = true ∧ x.onBus 7 0 = true ∧ x.now ≤ x.now + 5 ∧ x.withinTick (x.now + 5) = true ∧
      (x.folioFor 0).val (F.canModeMode 7) = 1 ∧ x.sending 7 0 = some ⟨.mark, canF, 0, 10 ^ 12⟩ ∧ x.onBus 7 x.now = true) ∧
    (∃ s x, Runs s x ∧ x.ready = true ∧ x.onBus 7 x.now = true ∧ x.cfg (F.canModeMode 7) = 2) ∧
    (∃ s x, Runs s x ∧ x.ready = true ∧ x.can.resync.get 7 = true ∧ x.turnedAt + 11 * x.active.nominalBit 7 < x.clock + nsTick) ∧
    (∃ s x, Processed s hdr0 0x8001 (le 2 1087) x ∧ (x.can.bufs.get 1087).rec_ = none) ∧
    (∃ s x, Processed s hdr0 0x8001 (le 2 1087) x ∧ (x.can.bufs.get 1087).rec_ = some ⟨5, 0, canF⟩) ∧
    (∃ s x, Processed s hdr0 0x8001 (le 2 1088) x) ∧ (∃ s x, Processed s hdr0 0x8002 ([8] ++ le 4 1) x) ∧
    (∃ s x, Processed s hdr0 0x8002 ([7] ++ le 4 48) x) :=
  ⟨found { (up.wr (F.canStatusState 0) 1) with time := { up.time with tickDue := 0, tickEnd := 160 } } rfl (by decide), ⟨up, { canF with rtr := true }, .inl rfl⟩,
    ⟨(up.withCfg (F.canExpressEnabled 0) 1).withCfg (F.canExpressChannels 0) 1, rfl, by decide⟩,
    found ((up.longAfter up.time).wr (F.canStatusState 7) 3) rfl (by decide),
    found { (up.wr (F.canStatusState 7) 1).withCfg (F.canModeMode 7) 1 with can := { up.can with tx := up.can.tx.set 7 [⟨.mark, canF, 0, 10 ^ 12⟩] }, time := { up.time with tickDue := 0, tickEnd := 160 } } rfl (by decide),
    found ((up.wr (F.canStatusState 7) 1).withCfg (F.canModeMode 7) 2) rfl (by decide),
    found { (up.longAfter up.time) with can := { up.can with resync := up.can.resync.set 7 true } } rfl (by decide),
    offered up _ _ rfl (by decide) (by decide) (by decide) (by decide),
    offered { up with can := { up.can with bufs := up.can.bufs.set 1087 ⟨some ⟨5, 0, canF⟩, true⟩ } } _ _ rfl (by decide) (by decide) (by decide) (by decide),
    ⟨_, _, offer_processed up _ _ rfl (by decide) (by decide) (by decide)⟩, ⟨_, _, offer_processed up _ _ rfl (by decide) (by decide) (by decide)⟩,
    ⟨_, _, offer_processed up _ _ rfl (by decide) (by decide) (by decide)⟩⟩

theorem witness_LogicCyclesRun :
    (∃ s x, Runs s x ∧ x.cycleInstant = some 0) ∧
    (∃ s x, Runs s x ∧ x.ready = true ∧ x.logic.phase = 1 ∧ x.logic.cycleAt + x.cfg F.logicReplyWindow * 1000 < x.now + nsTick) ∧
    (∃ s x, Runs s x ∧ x.ready = true ∧ x.logic.phase = 2 ∧ x.execLimit < x.now + nsTick) ∧
    (∃ s x, Runs s x ∧ x.ready = true ∧ x.logic.phase = 2 ∧ x.now + nsTick ≤ x.execLimit) ∧
    (∃ s x o, Runs s x ∧ x.ready = true ∧ x.lane.rapid = false ∧ x.logic.phase = 2 ∧ x.completion o ≤ x.execLimit ∧
      x.withinTick (x.completion o) = true) ∧
    (∃ s x, Runs s x ∧ x.ready = true ∧ x.logic.mirrorPage = some 3) ∧
    (∃ s x, Runs s x ∧ x.ready = true ∧ x.logic.mirrorPage = none ∧ x.logic.phase = 0 ∧ x.logic.mirrorDue = true ∧ x.writeGuard = false ∧
      x.changedPages = []) ∧
    (∃ s x, Runs s x ∧ x.logic.change = some ⟨hdr0, true, none, 0⟩ ∧ x.ready = true ∧ x.writeGuard = true) ∧
    (∃ s x, Runs s x ∧ x.logic.change = some ⟨hdr0, true, none, 0⟩ ∧ x.ready = true ∧ x.writeGuard = false) ∧
    programResult prog0 = Res.ok ∧ programResult { prog0 with engineOk := false } ≠ Res.ok :=
  ⟨found { (atTick 0) with logic := { up.logic with cycleAt := 5 } } rfl (by decide),
    found { up with
      time := { up.time with tb0 := 10 ^ 12 }
      logic := { up.logic with phase := 1 } } rfl (by decide),
    found { up with
      time := { up.time with tb0 := 10 ^ 12 }
      logic := { up.logic with phase := 2 } } rfl (by decide),
    found { up with
      time := { up.time with tb0 := 0 }
      logic := { up.logic with phase := 2, cycleAt := 10 ^ 12 } } rfl (by decide),
    ⟨{ (atTick 8) with logic := { up.logic with phase := 2 } }, _, logicOut0, runs_self rfl, by decide, by decide, by decide, by decide, by decide⟩,
    found { up with logic := { up.logic with mirrorPage := some 3 } } rfl (by decide),
    found { up with logic := { up.logic with phase := 0, mirrorDue := true } } rfl ⟨rfl, rfl, rfl, rfl, by decide, List.filter_eq_nil_iff.mpr fun p _ => by
      have e : (LogicState.reset.mirror.get (1 - LogicState.reset.newest)).bytes = LogicState.reset.retain := rfl
      simp [e, up, State.reset, State.wr]⟩,
    found { up.wrFlag F.powerWriteGuardTripped true with logic := { up.logic with change := some ⟨hdr0, true, none, 0⟩ } } rfl (by decide),
    found { up with logic := { up.logic with change := some ⟨hdr0, true, none, 0⟩ } } rfl (by decide), by decide, by decide⟩

theorem witness_LogicCommandsAct :
    (∃ s x, Processed s hdr0 0x7001 (le 4 0 ++ [1]) x) ∧ (∃ s x, Processed s hdr0 0x7002 [2] x) ∧
    (∃ s x, Processed s hdr0 0x7002 [0] x ∧ x.logic.change = none ∧ x.logicState ≠ 2) ∧
    (∃ s x, Processed s hdr0 0x7002 [1] x ∧ x.logic.change = none ∧ x.writeGuard = false) ∧
    (∃ s x, Processed s hdr0 0x7002 [1] x ∧ x.logic.change = none ∧ x.writeGuard = true) ∧ (∃ s x, Processed s hdr0 0x7003 [1] x) ∧
    (∃ s x, Processed s hdr0 0x7004 [] x) ∧ (∃ s x, Processed s hdr0 0x7005 (targetBytes (.input 5) ++ [1] ++ [1]) x) ∧
    (∃ s x, Processed s hdr0 0x7006 (targetBytes (.input 5)) x) ∧ (∃ s x, Processed s hdr0 0x7006 (le 1 0xFF) x) ∧
    (∃ s x, Processed s hdr0 0x7007 (le 4 1) x) ∧ (∃ s x, Processed s hdr0 0x7008 [65] x) :=
  ⟨⟨_, _, offer_processed up _ _ rfl (by decide) (by decide) (by decide)⟩, ⟨_, _, offer_processed up _ _ rfl (by decide) (by decide) (by decide)⟩,
    offered up _ _ rfl (by decide) (by decide) (by decide) (by decide), offered up _ _ rfl (by decide) (by decide) (by decide) (by decide),
    offered (up.wrFlag F.powerWriteGuardTripped true) _ _ rfl (by decide) (by decide) (by decide) (by decide),
    ⟨_, _, offer_processed up _ _ rfl (by decide) (by decide) (by decide)⟩, ⟨_, _, offer_processed up _ _ rfl (by decide) (by decide) (by decide)⟩,
    ⟨_, _, offer_processed up _ _ rfl (by decide) (by decide) (by decide)⟩, ⟨_, _, offer_processed up _ _ rfl (by decide) (by decide) (by decide)⟩,
    ⟨_, _, offer_processed up _ _ rfl (by decide) (by decide) (by decide)⟩, ⟨_, _, offer_processed up _ _ rfl (by decide) (by decide) (by decide)⟩,
    ⟨_, _, offer_processed up _ _ rfl (by decide) (by decide) (by decide)⟩⟩

theorem witness_LoopsFaultAndAreTested :
    (∃ s x, Runs s x ∧ x.ready = true ∧ x.loopOn 0 = true ∧ (x.loopRt 0).told = false ∧ x.cfg F.loopFaultTicks ≤ (x.loopRt 0).bad) ∧
    (∃ s x, Runs s x ∧ x.ready = true ∧ x.loopState 0 = 3 ∧ x.cfg F.loopFaultClearTicks ≤ (x.loopRt 0).good) ∧
    (∃ s x r, Runs s x ∧ x.atTick (x.deadline + 8) = true ∧ x.ctl.published = some r ∧ x.ctl.spPublished = true ∧
      r.frame = x.rd F.timeFrameNumber ∧ r.epoch = x.rd F.timeFrameEpoch) ∧
    (∃ s x, Runs s x ∧ x.atTick (x.deadline + 8) = true ∧ x.ctl.spPublished = false) ∧
    (∃ s x, Runs s x ∧ x.ready = true ∧ x.loop.record ≠ none ∧ x.loop.frozen = none ∧ 160 * x.cfg F.loopSpHoldFrames ≤ x.loop.n) ∧
    (∃ s x, Processed s hdr0 0x6001 ([0, 0, 0] ++ le 4 0 ++ [1] ++ le 4 0 ++ le 4 0 ++ le 4 1 ++ [0]) x) ∧
    (∃ s x, Runs s x ∧ x.loop.test = some test0 ∧ x.atTick 0 = true ∧ test0.running = false ∧ test0.at_ < x.frameClock) ∧
    (∃ s x, Runs s x ∧ x.loop.test = some { test0 with stop := true } ∧ x.ready = true ∧ x.testEnd { test0 with stop := true } (x.loopState 0 == 3) = some 1) ∧
    (∃ s x, Processed s hdr0 0x6002 [] x ∧ x.loop.test = none) ∧ (∃ s x, Processed s hdr0 0x6002 [] x ∧ x.loop.test = some test0) ∧
    (∃ s x, Processed s hdr0 0x6003 (le 2 0 ++ le 4 1) x) :=
  ⟨found { up.withCfg (F.loopCoef 0) 1 with loop := { up.loop with rt := up.loop.rt.set 0 { (up.loopRt 0) with bad := 100000 } } } rfl (by decide),
    found { up.wr (F.loopStatusState 0) 3 with loop := { up.loop with rt := up.loop.rt.set 0 { (up.loopRt 0) with good := 100000 } } } rfl (by decide),
    ⟨{ atTick ((atTick 0).deadline + 8) with ctl := { up.ctl with spPublished := true, published := some rec0 } }, _, rec0, runs_self rfl, by decide, rfl, rfl, by decide, by decide⟩,
    found (atTick ((atTick 0).deadline + 8)) rfl (by decide),
    found { up with loop := { up.loop with record := some rec0, n := 100000 } } rfl (by decide),
    ⟨_, _, offer_processed up _ _ rfl (by decide) (by decide) (by decide)⟩,
    found { ((atTick 0).longAfter (atTick 0).time) with loop := { up.loop with test := some test0 } } rfl (by decide),
    found { atTick 0 with loop := { up.loop with test := some { test0 with stop := true } } } rfl (by decide),
    offered up _ _ rfl (by decide) (by decide) (by decide) (by decide),
    offered { up with loop := { up.loop with test := some test0 } } _ _ rfl (by decide) (by decide) (by decide) (by decide),
    ⟨_, _, offer_processed up _ _ rfl (by decide) (by decide) (by decide)⟩⟩

theorem witness_SpineTrafficIsHandled :
    (∃ s x, Runs s x ∧ x.atTick 4 = true ∧ x.spine.hbSent = false ∧ x.cfg F.spineHbGroup ≠ 0 ∧ x.keyLoaded (x.cfg F.spineHbKey) = true ∧
      x.flag F.laneStatusHolding = false) ∧
    (∃ s x, Runs s x ∧ x.atTick 4 = true ∧ x.spine.hbSent = false ∧ x.cfg F.spineHbGroup ≠ 0 ∧ x.keyLoaded (x.cfg F.spineHbKey) = true ∧
      x.flag F.laneStatusHolding = true) ∧
    (∃ s x, Runs s x ∧ x.ready = true ∧ x.cfg F.spineIpAddr ≠ 0 ∧ hbTagged.dst.toNat = x.cfg F.spineHbPort ∧
      x.withinTick (x.time.frameAt + hbTagged.atUs * 1000) = true ∧ x.authentic hbTagged = true ∧ hbFormed hbTagged = true ∧
      x.partnerOf (hbField hbTagged 4 8) = some 0 ∧ x.authentic hb0 = false ∧ x.authentic hbShort = true ∧ hbFormed hbShort = false) ∧
    (∃ s x, Runs s x ∧ x.ready = true ∧ x.cfg F.spineIpAddr ≠ 0 ∧ hbTagged.dst.toNat = x.cfg F.spineHbPort ∧
      x.withinTick (x.time.frameAt + hbTagged.atUs * 1000) = true ∧ x.authentic hbTagged = true ∧ hbFormed hbTagged = true ∧
      x.partnerOf (hbField hbTagged 4 8) = none) ∧
    (∃ s x, Runs s x ∧ (x.spine.partners.get 0).last = some 0 ∧ x.atTick 0 = true ∧ x.rd (F.spinePartnerStatusState 0) ≠ 1 ∧
      0 + x.cfg F.spineHbTimeout * nsMs < x.frameClock) ∧
    (∃ s x, Runs s x ∧ x.ready = true ∧ x.rd (F.spinePortStatus 1) ≠ x.linkSpeed 1 2) ∧
    (∃ s x, Runs s x ∧ x.ready = true ∧ x.cfg F.spineRedundancy ≠ 0 ∧ 2 * nsSecond ≤ x.since x.spine.supervisedAt ∧
      x.rd (F.spinePortStatus 1) ≠ 0 ∧ (x.spine.nodes.filter fun n => n.1 != 5).length < 512) ∧
    (∃ s x, Runs s x) ∧ (∃ s x, Runs s x ∧ x.ready = true ∧ x.portUp 0 = true) ∧ (∃ s x, Processed s hdr0 0x9001 [3] x) ∧
    (∃ s x, Runs s x ∧ x.ready = true ∧ x.cfg F.spineIpAddr ≠ 0 ∧ x.cfg F.spinePlezenPort < 65536 ∧
      ∀ k : Fin 4, x.cfgFlag (F.spineHostCfgEnabled k.val) = true → x.cfg (F.spineHostIp k.val) ≠ 1) ∧
    (∃ s x, Runs s x ∧ x.ready = true ∧ x.cfg F.spineIpAddr ≠ 0 ∧ x.cfg F.spinePlezenPort < 65536 ∧
      ((List.finRange 4).find? fun k => x.cfgFlag (F.spineHostCfgEnabled k.val) && x.cfg (F.spineHostIp k.val) == 0) = some 0 ∧
      x.authFault 0 0 (BitVec.ofNat 64 1) [] [] = some 0 ∧
      x.authFault 0 0 (BitVec.ofNat 64 1) (dgram []).2 (dgram []).1 = none ∧ plezenFormed [] = false ∧
      plezenFormed unknownMsg = true ∧ argLength 0x9999 = none ∧ unle ((unknownMsg.drop 4).take 2) = 0x9999 ∧
      x.authFault 0 0 (BitVec.ofNat 64 1) (dgram unknownMsg).2 (dgram unknownMsg).1 = none ∧
      ((x.host.kept.get 0).find? fun r => r.seq = 0) = none ∧ (x.host.outstanding.get 0).length < 8) :=
  ⟨found { (atTick 4).withCfg F.spineHbGroup 5 with spine := { up.spine with keys := up.spine.keys.set 0 [1] } } rfl (by decide),
    found { ((atTick 4).withCfg F.spineHbGroup 5).wrFlag F.laneStatusHolding true with spine := { up.spine with keys := up.spine.keys.set 0 [1] } } rfl (by decide),
    found ((hbState.withCfg (F.spinePartnerSerial 0) 7)) rfl ⟨by decide, by decide, by decide, by decide, by decide +kernel, by decide +kernel, by decide +kernel, by decide +kernel, by decide +kernel, by decide +kernel⟩,
    found hbState rfl ⟨by decide, by decide, by decide, by decide, by decide +kernel, by decide +kernel, by decide +kernel⟩,
    found { (atTick 0).longAfter (atTick 0).time with spine := { up.spine with partners := up.spine.partners.set 0 { (newPartner 0) with last := some 0 } } } rfl (by decide),
    found (up.wr (F.spinePortStatus 1) 0 |>.withCfg (F.spinePortCfgEnabled 1) 1) rfl (by decide),
    found ((up.longAfter up.time).withCfg F.spineRedundancy 1 |>.wr (F.spinePortStatus 1) 2) rfl (by decide),
    ⟨up, _, runs_self rfl⟩, found (up.wr (F.spinePortStatus 0) 2) rfl (by decide),
    ⟨_, _, offer_processed up _ _ rfl (by decide) (by decide) (by decide)⟩,
    found (up.withCfg F.spineIpAddr 1) rfl (by decide),
    ⟨heard, _, runs_self rfl, by decide, by decide, by decide, by decide, by decide +kernel, by decide +kernel, by decide, by decide +kernel, by decide,
      by decide, by decide +kernel, by decide, by decide⟩⟩

theorem witness_LanesArbitrateAndRotate :
    (∃ s x, Runs s x ∧ x.lane.rapid = true ∧ x.laneIn laneDuty = some 0 ∧ x.laneIn lanePartner = some 1) ∧
    (∃ s x, Runs s x ∧ x.atCore (x.deadline + 16) = true ∧ x.lane.writing = none ∧ x.lane.committed = false ∧ x.laneIn laneDuty ≠ none) ∧
    (∃ s x c, Runs s x ∧ x.lane.writing = some (5, c) ∧ x.quireWritten 5 = true ∧ x.lane.rapid = false) ∧
    (∃ s x, Runs s x ∧ x.laneIn laneWaking = some 2 ∧ 240000 < x.since x.lane.joinAt + nsTick) ∧
    (∃ s x, Runs s x ∧ x.laneIn laneJoining = some 2 ∧ x.lane.live = false ∧ x.lane.waitQuire = false) ∧
    (∃ s x, Runs s x ∧ x.laneSt (laneNo .lnc) = laneSilenced ∧ x.lane.rapid = false ∧ x.lane.promote = false) ∧
    (∃ s x, Runs s x ∧ x.atTick 0 = true ∧ x.rd F.timeFrameIndex = 35 ∧ x.lane.commanded = some (x.second + 1) ∧
      x.rotationPossible = true ∧ x.lane.rotation = none) ∧
    (∃ s x, Runs s x ∧ x.lane.rotation = some 0 ∧ x.laneIn laneDuty = some 0 ∧ x.laneIn lanePartner = some 1 ∧ x.overlapLane = some 2 ∧
      x.atTick 0 = true ∧ 0 ≤ x.second ∧ x.flag F.laneStatusHolding = false ∧ x.lane.rapid = false) ∧
    (∃ s x, Runs s x ∧ x.lane.rotation = some 0 ∧ x.laneIn laneDuty = some 0 ∧ x.laneIn lanePartner = some 1 ∧ x.overlapLane = some 2 ∧
      x.atTick 0 = true ∧ x.second = 0 ∧ x.rd F.timeFrameIndex = 0 ∧ x.flag F.laneStatusHolding = true) ∧
    (∃ s x, Processed s hdr0 0xA001 [] x) :=
  ⟨found { (atTick 0).lanes laneStandby with lane := { up.lane with rapid := true } } rfl (by decide),
    found ((atTick ((atTick 0).deadline + 16)).lanes laneStandby) rfl (by decide),
    ⟨{ up with lane := { up.lane with writing := some (5, up.snapshot) } }, _, up.snapshot, runs_self rfl, rfl, by decide, rfl⟩,
    found ((up.longAfter up.time).lanes laneWaking) rfl (by decide), found (up.lanes laneJoining) rfl (by decide), found (up.lanes laneSilenced) rfl (by decide),
    found { ((atTick 0).lanes laneStandby).wr F.timeFrameIndex 35 |>.wr F.devState 2 with lane := { up.lane with commanded := some 1 } } rfl (by decide),
    found { ((atTick 0).lanes laneJoining).wrFlag F.laneStatusOverlap true with lane := { up.lane with rotation := some 0 } } rfl (by decide),
    found { (((atTick 0).lanes laneJoining).wrFlag F.laneStatusOverlap true).wrFlag F.laneStatusHolding true with lane := { up.lane with rotation := some 0 } } rfl (by decide),
    ⟨_, _, offer_processed up _ _ rfl (by decide) (by decide) (by decide)⟩⟩

theorem witness_FaultsAreCollected :
    (∃ s x, Runs s x) ∧ (∃ s x, Runs s x ∧ x.ready = true ∧ x.laneSt (laneNo .lna) = laneDuty) ∧
    (∃ s x, Runs s x ∧ x.ready = true ∧ x.laneSt (laneNo .lnb) = lanePartner ∧ x.deadline + 16 ≤ x.time.tickDue) ∧
    (∃ s x, Runs s x ∧ x.ready = true ∧ x.overlapLane = some (laneNo .lnc) ∧ x.deadline + 16 ≤ x.time.tickDue) ∧
    (∃ s x, Runs s x ∧ x.atTick 0 = true ∧ x.second % 60 = 0 ∧ x.rd F.timeFrameIndex = 0 ∧ x.fault.minuteAt ≠ some (x.second / 60)) ∧
    (∃ s x, Runs s x ∧ (x.fault.times.get 5).getLast? = some 0 ∧ x.cfg F.faultEscalateWindow * nsSecond ≤ x.since 0) ∧
    (∃ s x, Processed s hdr0 0xC001 [1, 0, 0] x) ∧ (∃ s x, Runs s x) ∧ (∃ s x, Processed s hdr0 0xC002 (le 4 0 ++ le 4 64) x) :=
  ⟨⟨up, _, runs_self rfl⟩, found (up.lanes laneStandby) rfl (by decide), found ((atTick 159).lanes laneStandby) rfl (by decide),
    found (((atTick 159).lanes laneJoining).wrFlag F.laneStatusOverlap true) rfl (by decide),
    found (atTick 0) rfl (by decide),
    found { up.longAfter up.time with fault := { up.fault with times := up.fault.times.set 5 [0] } } rfl (by decide),
    ⟨_, _, offer_processed up _ _ rfl (by decide) (by decide) (by decide)⟩, ⟨up, _, runs_self rfl⟩,
    ⟨_, _, offer_processed up _ _ rfl (by decide) (by decide) (by decide)⟩⟩

theorem witness_SafetyInputsAreJudged :
    (∃ s x, Runs s x ∧ x.safe.tested = false ∧ x.flag F.safeStatusSafetyFault = false) ∧ (∃ s x, Runs s x) ∧
    (∃ s x, Runs s x ∧ x.monitors = true) ∧
    (∃ s x, Runs s x ∧ x.monitors = true ∧ x.chanHigh 0 false ≠ x.chanHigh 0 true ∧
      x.sec (F.safePairDiscrepancy 0) * nsMs < x.since (max (x.safe.pairs.get 0).aSince (x.safe.pairs.get 0).bSince)) ∧
    (∃ s x, Runs s x ∧ x.safe.read = true ∧ x.flag F.safeStatusSafetyFault = false) ∧
    (∃ s x, Runs s x ∧ (x.safe.encs.get 0).counts.head? = some 5 ∧ x.flag F.safeStatusSafetyFault = false ∧ x.sec (F.safeEncCfgIndex 0) ≠ 0 ∧
      x.sec (F.safeEncCfgKind 0) ≠ 0 ∧ x.flag (F.safeEncPosReferenced 0) = false ∧ x.flag (F.safeEncPosEncoderFault 0) = false) ∧
    (∃ s x, Runs s x ∧ x.flag (F.safeEncPosEncoderFault 0) = true ∧ x.flag F.safeStatusSafetyFault = false ∧ (x.safe.encs.get 0).bad = false ∧
      nsSecond ≤ x.since (x.safe.encs.get 0).badAt) ∧
    (∃ s x, Runs s x ∧ x.monitors = true ∧ x.flag (F.safeOutStatusOutputFault 0) = true ∧ nsSecond ≤ x.since (x.safe.outs.get 0).wrongAt) :=
  ⟨found { up with safe := { up.safe with tested := false } } rfl (by decide), ⟨up, _, runs_self rfl⟩,
    found watching rfl (by decide),
    found { watching.longAfter up.time with safe := { watching.safe with pairs := watching.safe.pairs.set 0 ⟨true, false, 0, 0, 0⟩ } } rfl (by decide),
    found watching rfl (by decide),
    found { watching with safe := { watching.safe with
      encs := watching.safe.encs.set 0 ⟨[5], false, 0, 0⟩
      sec := (watching.safe.sec.set (F.safeEncCfgIndex 0).key 1).set (F.safeEncCfgKind 0).key 1 } } rfl (by decide),
    found ((watching.longAfter up.time).wrFlag (F.safeEncPosEncoderFault 0) true) rfl (by decide),
    found ((watching.longAfter up.time).wrFlag (F.safeOutStatusOutputFault 0) true) rfl (by decide)⟩

theorem witness_SafetyCommandsAct :
    (∃ s x, Runs s x ∧ x.monitors = true ∧ x.pulseDue 0 = true) ∧
    (∃ s x, Runs s x ∧ x.safe.armed ≠ 0 ∧ x.safe.window ≤ x.clock ∧ x.flag F.safeStatusSafetyFault = false) ∧
    (∃ s x, Processed s hdr0 0xB001 ([1] ++ le 4 0 ++ []) x) ∧
    (∃ s x, Processed s hdr0 0xB001 ([1] ++ le 4 0 ++ le 8 0) x ∧ x.monitors = false) ∧
    (∃ s x, Processed s hdr0 0xB001 ([1] ++ le 4 0 ++ le 8 0) x ∧ x.monitors = true) ∧
    (∃ s x, Processed s hdr0 0xB002 (le 4 0) x) ∧ (∃ s x, Processed s hdr0 0xB003 (le 32 0) x) :=
  ⟨found ({ watching with time := { watching.time with mono := 10 ^ 13 + watching.pulseSpan } }.wrFlag (F.safeOutStatusOn 0) true) rfl (by decide),
    found { up with safe := { up.safe with armed := 1, window := 0 } } rfl (by decide),
    ⟨_, _, offer_processed up _ _ rfl (by decide) (by decide) (by decide)⟩,
    offered { up with safe := { up.safe with tested := false } } _ _ rfl (by decide) (by decide) (by decide) (by decide),
    offered watching _ _ rfl (by decide) (by decide) (by decide) (by decide),
    ⟨_, _, offer_processed up _ _ rfl (by decide) (by decide) (by decide)⟩, ⟨_, _, offer_processed up _ _ rfl (by decide) (by decide) (by decide)⟩⟩

theorem witness_StepRunsTheFrontCommand :
    (∃ (s : State) (c : Instr) (rest : List Instr), s.pending = c :: rest) ∧ (∃ s : State, s.pending = []) :=
  ⟨⟨{ State.reset with pending := [.normalEntry] }, .normalEntry, [], rfl⟩, ⟨State.reset, rfl⟩⟩

theorem witness_EveryStepKeepsSound :
    ∃ s t : State, Sound s ∧ step s = .next t ∧ s.pending ≠ [] ∧ s.host.queue ≠ [] :=
  let q : List Event := [⟨0, 4, .notify, 1, 0, 0, []⟩]
  let s : State := { State.reset with pending := [.gridStep], powered := false, host := { State.reset.host with queue := q } }
  ⟨s, { s with pending := [], outputs := [] },
    ⟨resetRegs_wf, ⟨rfl, fun _ => rfl⟩, ⟨by decide, by decide, fun e he => by rw [List.mem_singleton.mp he]; decide⟩, fun _ => Nat.zero_le _, by decide,
      by decide, by decide⟩, rfl, by decide, by decide⟩

theorem witness_UnpoweredModuleDoesNothing :
    ∃ (c : Instr) (s : State), s.powered = false ∧ (∀ off, c ≠ .powerOn off) ∧ (∀ f k, c ≠ .feedChange f k) ∧ c ≠ .vbatLoss :=
  ⟨.normalEntry, { State.reset with powered := false }, rfl, nofun, nofun, nofun⟩

theorem witness_NoCommandActsBeforeReady :
    (∃ s x, Runs s x ∧ x.ready = false) ∧ (∃ s : State, s.ready = false) := ⟨found State.reset rfl (by decide), ⟨State.reset, by decide⟩⟩

theorem witness_EventsAreNumberedAndAlarmsKept :
    ∃ (s : State) (code : Nat), queueAllowed s.host.queue ∧ code ≤ 0x200 := ⟨State.reset, 4, noEvents_allowed, by decide⟩

theorem witness_RegistersReadBackAndCountersStick :
    (∃ (s : State) (f : Fld), s.regs.wf = true ∧ f.w ≤ 64) ∧ (∃ f g : Fld, g.key ≠ f.key) :=
  ⟨⟨State.reset, F.devState, resetRegs_wf, by decide⟩, ⟨F.devState, F.devResetCause, by decide⟩⟩

theorem witness_LogicStopNeedsAQuietMode :
    (∃ s x, Processed s hdr0 0x7004 [] x ∧ (x.cfg F.ctlModeSource ≤ 1 ∧ (x.cfg F.ctlModeSource = 0 ∨ x.rd F.ctlMode = 0 ∨ x.rd F.ctlMode = 5))) ∧
    (∃ s x, Processed s hdr0 0x7004 [] x ∧ (x.cfg F.ctlModeSource ≤ 1 ∧ ¬ (x.cfg F.ctlModeSource = 0 ∨ x.rd F.ctlMode = 0 ∨ x.rd F.ctlMode = 5))) ∧
    (∃ s : State, s.logicState = 2) ∧ (∃ s : State, s.logicState ≠ 2) :=
  ⟨offered up 0x7004 [] rfl (by decide) (by decide) (by decide) (by decide),
    offered ((up.withCfg F.ctlModeSource 1).wr F.ctlMode 1) 0x7004 [] rfl (by decide) (by decide) (by decide) (by decide), ⟨up.wr F.logicStateState 2, by decide⟩, ⟨up, by decide⟩⟩

theorem witness_ResetCauseIsShown :
    (∃ s : State, s.powered = false) ∧ (∃ s x, Runs s x ∧ x.power.writing = none) ∧
    (∃ s x, Runs s x ∧ (x.power.writing ≠ none ∧ x.boot.heldReset = true)) ∧
    (∃ s x, Runs s x ∧ x.boot.resetAt = some 0 ∧ 0 < x.clock ∧ x.ready = true ∧ x.time.tickDue = 0) ∧
    (∃ s x, Runs s x ∧ x.bootSlot { bootOk with trialFolioOk := false } = some 1 ∧
      x.bootRoles { bootOk with trialFolioOk := false } = 0 :: [1, 2] ∧ x.devState = 0 ∧ x.bootTrial 1 = true ∧
      (x.bootCommit { bootOk with trialFolioOk := false }).isSome = true) :=
  ⟨⟨{ up with powered := false }, rfl⟩, found up rfl (by decide),
    found { up with power := { up.power with writing := some ⟨true, 0, 0, 0, 0, 0, 0, 0, 0, 0, none, []⟩ }, boot := { up.boot with heldReset := true } } rfl (by decide),
    found { (atTick 0) with time := { (atTick 0).time with mono := 1 }, boot := { full.boot with resetAt := some 0 } } rfl (by decide),
    found { State.reset with fw := { full.fw with trialSlot := some 1, attempts := 0 }, turn := { full.turn with commits := [⟨0, State.reset.folioA.crc, 1⟩] } } rfl
      ⟨by decide, by decide, by decide, by decide, by simp [State.bootCommit, State.commitHolds, State.folio, bootOk]⟩⟩

theorem witness_LifetimeCountersSaturate :
    (∃ (s : State) (id n : Nat), 0 < n ∧ 2 ^ 48 - 1 ≤ s.lifeValue id + n ∧ s.life.saturated.get id = false) ∧
    (∃ (s : State) (id n : Nat), 0 < n ∧ s.lifeValue id + n < 2 ^ 48 - 1) ∧ (∃ (s : State) (id n : Nat), 0 < n ∧ s.life.saturated.get id = true) ∧
    (∃ (s : State) (id n : Nat), 0 < n ∧ s.lifeValue id = 2 ^ 48 - 1) :=
  ⟨⟨State.reset, 0xE000, 2 ^ 48, by decide⟩, ⟨State.reset, 0xE000, 1, by decide⟩,
    ⟨{ State.reset with life := { State.reset.life with saturated := State.reset.life.saturated.set 0xE000 true } }, 0xE000, 1, by decide⟩,
    ⟨{ State.reset with life := { State.reset.life with accrued := State.reset.life.accrued.set 0xE000 (2 ^ 48) } }, 0xE000, 1, by decide⟩⟩

theorem witness_StagedValuesWaitForTheTurn :
    (∃ id elem, ∀ f ∈ (fieldsOf id elem).getD [], f.acc = .rs) ∧ (fieldsOf 0x5010 0).isSome = true ∧
    (∃ s x, Runs s x ∧ x.ready = true ∧ x.rd F.devFolioTurn = 1 ∧ x.validate = some (Res.outOfRange, 0x1011, 0)) :=
  ⟨⟨0x5010, 0, by decide⟩, by decide,
    found ({ full with folioB := { full.folioB with params := (full.folioB.params.set F.timePtpDomain.key 5).set F.timePtpDomainRedundant.key 5 } }.wr
      F.devFolioTurn 1) rfl ⟨by decide, by decide, rfl⟩⟩

theorem witness_FaultLogKeepsTheNewest :
    ∃ s : State, s.regs.wf = true := ⟨State.reset, resetRegs_wf⟩

theorem witness_FrameCountFollowsStationTime :
    (∃ (s : State) (S N : Nat), s.regs.wf = true ∧ N % 20000000 = 0 ∧ N < nsSecond ∧ (S * 50 + N / 20000000) / 2 ^ 32 < 2 ^ 16) ∧
    (∃ (s : State) (f : Nat), s.regs.wf = true ∧ (f + 1) % 2 ^ 32 = 0 ∧ (f + 1) / 2 ^ 32 < 2 ^ 16) :=
  ⟨⟨State.reset, 2091444817, 40000000, resetRegs_wf, by decide⟩, ⟨State.reset, 2 ^ 32 - 1, resetRegs_wf, by decide⟩⟩

theorem witness_LedgerEntriesKeepTheirLayout :
    ∃ vals : List F64, vals.length ≤ 5 ∧ vals[4]? = some 1 := ⟨[0, 0, 0, 0, 1], by decide⟩

theorem witness_NormalIsEnteredFromStart :
    ∃ s x, Runs s x ∧ x.rd F.devState = 1 ∧ x.time.tickDue = 0 ∧ x.flag F.devFolioNone = false ∧
      x.flag F.timeStatusAcquired = true ∧ x.flag F.timeStatusLocked = true ∧ x.laneIn laneDuty = some 0 ∧
      x.cfg F.devStartSettle ≤ x.boot.settle :=
  found { ((((((atTick 0).wr F.timeStatusAcquired 1).wr F.timeStatusLocked 1).wrFlag F.devFolioNone false).setLane 0 laneDuty)) with
    boot := { full.boot with settle := 1000000 } } rfl (by decide)

theorem witness_StationTimeStepsToItsSource :
    (∃ s x, Runs s x ∧ x.rd F.devState = 1 ∧ x.time.step ≠ none ∧ x.time.tickDue = 160 ∧ x.time.tickOrigin = 0 ∧ x.time.ppsEdge = none ∧
      x.flag F.timeStatusAcquired = true ∧ srcOfCode (x.rd F.timeStatusSource) = some .tb1 ∧ (x.source .tb1).qualified = true) ∧
    (∃ s x, Runs s x ∧ x.rd F.devState = 1 ∧ x.time.step ≠ none ∧ x.time.tickDue = 160 ∧ x.time.tickOrigin = 0 ∧ x.time.ppsEdge = none ∧
      x.flag F.timeStatusAcquired = false ∧ x.acquireSource = some .ptp) ∧
    (∃ s x, Runs s x ∧ x.rd F.devState = 1 ∧ x.time.step ≠ none ∧ x.time.tickDue = 160 ∧ x.time.tickOrigin = 0 ∧ x.time.ppsEdge = none ∧
      x.stepSource = none) :=
  ⟨found { (up.wr F.timeStatusSource 2 |>.wrFlag F.timeStatusAcquired true) with
      time := { up.time with step := some .resync, tickDue := 160, tickOrigin := 0, tb1 := { up.time.tb1 with qualified := true } } } rfl (by decide),
    found { up with time := { up.time with step := some .resync, tickDue := 160, tickOrigin := 0, anySource := true, ptp := { up.time.ptp with qualified := true } } } rfl (by decide),
    found { up with time := { up.time with step := some .resync, tickDue := 160, tickOrigin := 0 } } rfl (by decide)⟩

theorem witness_LoopsFaultAndRecover :
    (∃ s x, Runs s x ∧ x.ready = true ∧ x.loopOn 127 = true ∧ (x.loopRt 127).told = false ∧ x.cfg F.loopFaultTicks ≤ (x.loopRt 127).bad) ∧
    (∃ s x, Runs s x ∧ x.ready = true ∧ x.rd (F.loopStatusState 127) = 3 ∧ x.cfg F.loopFaultClearTicks ≤ (x.loopRt 127).good) :=
  ⟨found { up.withCfg (F.loopCoef 4064) 1 with loop := { up.loop with rt := up.loop.rt.set 127 { (up.loopRt 127) with bad := 100000 } } } rfl (by decide),
    found { up.wr (F.loopStatusState 127) 3 with loop := { up.loop with rt := up.loop.rt.set 127 { (up.loopRt 127) with good := 100000 } } } rfl (by decide)⟩

theorem witness_SetpointRecordsComeIntoForce :
    (∃ s x r, Runs s x ∧ x.ready = true ∧ x.time.tickDue = x.deadline + 8 ∧ x.ctl.published = some r ∧ x.ctl.spPublished = true ∧
      r.frame = x.rd F.timeFrameNumber ∧ r.epoch = x.rd F.timeFrameEpoch) ∧
    (∃ s x, Runs s x ∧ x.ready = true ∧ x.time.tickDue = x.deadline + 8 ∧ x.ctl.spPublished = false) ∧
    (∃ s x r, Runs s x ∧ x.ready = true ∧ x.loop.record = some r ∧ x.loop.frozen = none ∧ 160 * x.cfg F.loopSpHoldFrames ≤ x.loop.n) :=
  ⟨⟨{ atTick ((atTick 0).deadline + 8) with ctl := { up.ctl with spPublished := true, published := some rec0 } }, _, rec0, runs_self rfl,
      by decide, by decide, rfl, rfl, by decide, by decide⟩,
    found (atTick ((atTick 0).deadline + 8)) rfl (by decide),
    ⟨{ up with loop := { up.loop with record := some rec0, n := 100000 } }, _, rec0, runs_self rfl, by decide, rfl, rfl, by decide⟩⟩

theorem witness_LoopTestsBeginAndEnd :
    (∃ s x t, Runs s x ∧ x.ready = true ∧ x.time.tickDue = 0 ∧ x.loop.test = some t ∧ t.running = false ∧ t.at_ < x.frameClock) ∧
    (∃ s x t, Runs s x ∧ x.ready = true ∧ x.loop.test = some t ∧ x.testEnd t (x.loopState t.loop == 3) = some 1) ∧
    (∃ t : LoopTest, t.why = none ∧ t.stop = true) :=
  ⟨⟨{ ((atTick 0).longAfter (atTick 0).time) with loop := { up.loop with test := some test0 } }, _, test0, runs_self rfl, by decide, rfl, rfl, rfl, by decide⟩,
    ⟨{ up with loop := { up.loop with test := some { test0 with stop := true } } }, _, { test0 with stop := true }, runs_self rfl, by decide, rfl, by decide⟩,
    ⟨{ test0 with stop := true }, rfl, rfl⟩⟩

theorem witness_LoopTestCommandsAct :
    (∃ s x, Processed s hdr0 0x6001 ([0, 0, 0] ++ le 4 0x3F800000 ++ [1] ++ le 4 0x3F800000 ++ le 4 0x3F800000 ++ le 4 1 ++ [0]) x ∧ x.loop.test = none ∧
      x.testAllowed 0 = true) ∧
    loopTestArgs 0 0 0 0x3F800000 1 0x3F800000 0x3F800000 1 0 = true ∧ loopTestArgs 200 0 0 0x3F800000 1 0x3F800000 0x3F800000 1 0 = false ∧
    (∃ s x, Processed s hdr0 0x6001 ([200, 0, 0] ++ le 4 0x3F800000 ++ [1] ++ le 4 0x3F800000 ++ le 4 0x3F800000 ++ le 4 1 ++ [0]) x) ∧
    (∃ s x, Processed s hdr0 0x6001 ([0, 0, 0] ++ le 4 0x3F800000 ++ [1] ++ le 4 0x3F800000 ++ le 4 0x3F800000 ++ le 4 1 ++ [0]) x ∧ x.loop.test = some test0) ∧
    (∃ s x, Processed s hdr0 0x6001 ([0, 0, 0] ++ le 4 0x3F800000 ++ [1] ++ le 4 0x3F800000 ++ le 4 0x3F800000 ++ le 4 1 ++ [0]) x ∧ x.loop.test = none ∧
      x.testAllowed 0 = false) ∧
    (∃ s x, Processed s hdr0 0x6002 [] x ∧ x.loop.test = none) ∧ (∃ s x, Processed s hdr0 0x6002 [] x ∧ x.loop.test = some test0) ∧
    (∃ s x, Processed s hdr0 0x6003 (le 2 65535 ++ le 4 1) x ∧ 65535 + 1 ≤ x.rd F.loopCaptureCount) ∧
    (∃ s x, Processed s hdr0 0x6003 (le 2 0 ++ le 4 241) x) :=
  ⟨offered (up.withCfg (F.loopCoef 0) 1) _ _ rfl (by decide) (by decide) (by decide) (by decide), by decide, by decide,
    ⟨_, _, offer_processed up _ _ rfl (by decide) (by decide) (by decide)⟩,
    offered { up with loop := { up.loop with test := some test0 } } _ _ rfl (by decide) (by decide) (by decide) (by decide),
    offered up _ _ rfl (by decide) (by decide) (by decide) (by decide),
    offered up _ _ rfl (by decide) (by decide) (by decide) (by decide),
    offered { up with loop := { up.loop with test := some test0 } } _ _ rfl (by decide) (by decide) (by decide) (by decide),
    offered (up.wr F.loopCaptureCount 65536) _ _ rfl (by decide) (by decide) (by decide) (by decide),
    ⟨_, _, offer_processed up _ _ rfl (by decide) (by decide) (by decide)⟩⟩

theorem witness_HeartbeatsPass :
    (∃ s x, Runs s x ∧ x.ready = true ∧ x.time.tickDue = 4 ∧ x.spine.hbSent = false ∧ x.cfg F.spineHbGroup ≠ 0 ∧
      x.keyLoaded (x.cfg F.spineHbKey) = true ∧ x.flag F.laneStatusHolding = false) ∧
    (∃ s x, Runs s x ∧ x.ready = true ∧ x.time.tickDue = 4 ∧ x.spine.hbSent = false ∧ x.cfg F.spineHbGroup ≠ 0 ∧
      x.keyLoaded (x.cfg F.spineHbKey) = true ∧ x.flag F.laneStatusHolding = true) ∧
    (∃ s x, Runs s x ∧ x.ready = true ∧ x.cfg F.spineIpAddr ≠ 0 ∧ hbTagged.dst.toNat = x.cfg F.spineHbPort ∧
      x.withinTick (x.time.frameAt + hbTagged.atUs * 1000) = true ∧ x.authentic hb0 = false ∧ x.authentic hbShort = true ∧ hbFormed hbShort = false ∧
      x.authentic hbTagged = true ∧ hbFormed hbTagged = true ∧ x.partnerOf (hbField hbTagged 4 8) = none) ∧
    (∃ s x, Runs s x ∧ x.ready = true ∧ x.cfg F.spineIpAddr ≠ 0 ∧ hbTagged.dst.toNat = x.cfg F.spineHbPort ∧
      x.withinTick (x.time.frameAt + hbTagged.atUs * 1000) = true ∧ x.authentic hbTagged = true ∧ hbFormed hbTagged = true ∧
      x.partnerOf (hbField hbTagged 4 8) = some 0 ∧ (x.spine.senders.get 4).fresh (hbField hbTagged (hbTagged.payload.length - 24) 8) = true) ∧
    (∃ s x, Runs s x ∧ x.ready = true ∧ x.cfg F.spineIpAddr ≠ 0 ∧ hbTagged.dst.toNat = x.cfg F.spineHbPort ∧
      x.withinTick (x.time.frameAt + hbTagged.atUs * 1000) = true ∧ x.authentic hbTagged = true ∧ hbFormed hbTagged = true ∧
      x.partnerOf (hbField hbTagged 4 8) = some 0 ∧ (x.spine.senders.get 4).fresh (hbField hbTagged (hbTagged.payload.length - 24) 8) = false ∧
      x.cfg F.spineRedundancy = 0) ∧
    (∃ s x, Runs s x ∧ x.ready = true ∧ x.cfg F.spineIpAddr ≠ 0 ∧ hbTagged.dst.toNat = x.cfg F.spineHbPort ∧
      x.withinTick (x.time.frameAt + hbTagged.atUs * 1000) = true ∧ x.authentic hbTagged = true ∧ hbFormed hbTagged = true ∧
      x.partnerOf (hbField hbTagged 4 8) = some 0 ∧ (x.spine.senders.get 4).fresh (hbField hbTagged (hbTagged.payload.length - 24) 8) = false ∧
      x.cfg F.spineRedundancy ≠ 0 ∧ (x.spine.senders.get 4).last = some (hbField hbTagged (hbTagged.payload.length - 24) 8)) ∧
    (∃ s x, Runs s x ∧ x.ready = true ∧ x.time.tickDue = 0 ∧ (x.spine.partners.get 2).last = some 0 ∧
      x.rd (F.spinePartnerStatusState 2) ≠ 1 ∧ 0 + x.cfg F.spineHbTimeout * nsMs < x.frameClock) :=
  ⟨found { (atTick 4).withCfg F.spineHbGroup 5 with spine := { up.spine with keys := up.spine.keys.set 0 [1] } } rfl (by decide),
    found { ((atTick 4).withCfg F.spineHbGroup 5).wrFlag F.laneStatusHolding true with spine := { up.spine with keys := up.spine.keys.set 0 [1] } } rfl (by decide),
    found hbState rfl ⟨by decide, by decide, by decide, by decide, by decide +kernel, by decide +kernel, by decide +kernel, by decide +kernel, by decide +kernel, by decide +kernel⟩,
    found (hbState.withCfg (F.spinePartnerSerial 0) 7) rfl ⟨by decide, by decide, by decide, by decide, by decide +kernel, by decide +kernel, by decide +kernel, by decide +kernel⟩,
    found { (hbState.withCfg (F.spinePartnerSerial 0) 7).withCfg F.spineRedundancy 0 with spine := { hbState.spine with senders := hbState.spine.senders.set 4 heardZero } } rfl
      ⟨by decide, by decide, by decide, by decide, by decide +kernel, by decide +kernel, by decide +kernel, by decide +kernel, by decide⟩,
    found { (hbState.withCfg (F.spinePartnerSerial 0) 7).withCfg F.spineRedundancy 1 with spine := { hbState.spine with senders := hbState.spine.senders.set 4 heardZero } } rfl
      ⟨by decide, by decide, by decide, by decide, by decide +kernel, by decide +kernel, by decide +kernel, by decide +kernel, by decide, by decide +kernel⟩,
    found { (atTick 0).longAfter (atTick 0).time with spine := { up.spine with partners := up.spine.partners.set 2 { (newPartner 2) with last := some 0 } } } rfl (by decide)⟩

theorem witness_SpineFramesAndTablesMove :
    (∃ s x, Runs s x ∧ x.ready = true ∧ x.portUp 0 = true) ∧ (∃ s x, Runs s x ∧ x.ready = true ∧ x.portUp 8 = true) ∧
    (∃ s x, Runs s x ∧ x.spine.macs ≠ []) :=
  ⟨found (up.wr (F.spinePortStatus 0) 2) rfl (by decide), found up rfl (by decide),
    found { up with spine := { up.spine with macs := [⟨5, 0, 0⟩] } } rfl (by decide)⟩

theorem witness_SpineLinksAndNodesAreKept :
    (∃ s x, Runs s x ∧ x.ready = true ∧ x.rd (F.spinePortStatus 1) ≠ x.linkSpeed 1 2) ∧
    (∃ s x, Runs s x ∧ x.ready = true ∧ x.rd (F.spinePortStatus 1) ≠ x.linkSpeed 1 0) ∧
    (∃ s x, Runs s x ∧ x.ready = true ∧ x.cfg F.spineRedundancy ≠ 0 ∧ 2 * nsSecond ≤ x.since x.spine.supervisedAt ∧
      x.rd (F.spinePortStatus 1) ≠ 0 ∧ (x.spine.nodes.filter fun n => n.1 != 5).length < 512) :=
  ⟨found (up.wr (F.spinePortStatus 1) 0 |>.withCfg (F.spinePortCfgEnabled 1) 1) rfl (by decide),
    found (up.wr (F.spinePortStatus 1) 2 |>.withCfg (F.spinePortCfgEnabled 1) 1) rfl (by decide),
    found ((up.longAfter up.time).withCfg F.spineRedundancy 1 |>.wr (F.spinePortStatus 1) 2) rfl (by decide)⟩

theorem witness_SpineKeysAndDatagramsAreJudged :
    (∃ s x, Processed s hdr0 0x9001 (3 :: List.replicate 32 7) x ∧ fromHere hdr0 = true ∧ x.writeGuard = false) ∧
    (∃ s x, Processed s hdr0 0x9001 (3 :: [1]) x ∧ x.writeGuard = false) ∧ (∃ s x, Processed s hdr0 0x9001 [0] x ∧ x.writeGuard = false) ∧
    (∃ s x, Processed s hdr0 0x9001 (4 :: [1]) x) ∧ (∃ s x, Processed s hdr0 0x9001 (3 :: [1]) x ∧ x.writeGuard = true) ∧
    (∃ s x, Processed s (spineHdr 0x9001 [3]) 0x9001 [3] x ∧ fromHere (spineHdr 0x9001 [3]) = false) ∧
    (∃ s x, Runs s x ∧ x.ready = true ∧ x.cfg F.spineIpAddr ≠ 0 ∧
      ∀ k : Fin 4, x.cfgFlag (F.spineHostCfgEnabled k.val) = true → x.cfg (F.spineHostIp k.val) ≠ 1) ∧
    (∃ s x, Runs s x ∧ x.ready = true ∧ x.cfg F.spineIpAddr ≠ 0 ∧
      ((List.finRange 4).find? fun k => x.cfgFlag (F.spineHostCfgEnabled k.val) && x.cfg (F.spineHostIp k.val) == 0) = some 0 ∧
      x.authFault 0 0 (BitVec.ofNat 64 1) (List.replicate 16 0) (dgram []).1 = some 0 ∧
      x.authFault 0 0 (BitVec.ofNat 64 1) (dgram []).2 (dgram []).1 = none ∧ plezenFormed [] = false ∧
      plezenFormed unknownMsg = true ∧ argLength 0x9999 = none ∧ unle ((unknownMsg.drop 4).take 2) = 0x9999 ∧
      x.authFault 0 0 (BitVec.ofNat 64 1) (dgram unknownMsg).2 (dgram unknownMsg).1 = none ∧
      ((x.host.kept.get 0).find? fun r => r.seq = 0) = none ∧ (x.host.outstanding.get 0).length < 8) :=
  ⟨offered up _ _ rfl (by decide) (by decide) (by decide) (by decide), offered up _ _ rfl (by decide) (by decide) (by decide) (by decide),
    offered up _ _ rfl (by decide) (by decide) (by decide) (by decide), ⟨_, _, offer_processed up _ _ rfl (by decide) (by decide) (by decide)⟩,
    offered (up.wrFlag F.powerWriteGuardTripped true) _ _ rfl (by decide) (by decide) (by decide) (by decide),
    ⟨heard, _, ⟨_, ⟨rfl, rfl⟩, by decide, by decide, by decide, by decide, by decide +kernel, ⟨_, rfl, rfl⟩, by decide +kernel, by decide, by decide, rfl⟩, rfl⟩,
    found (up.withCfg F.spineIpAddr 1) rfl (by decide),
    ⟨heard, _, runs_self rfl, by decide, by decide, by decide, by decide +kernel, by decide +kernel, by decide, by decide +kernel, by decide,
      by decide, by decide +kernel, by decide, by decide⟩⟩

/-! ### Ill-formed operands are refused by the checks -/

/-- A frame instant with one value where each check wants it. -/
def frame0 : FrameIn := ⟨[0, 0, 0], [⟨0, 0, 32, 0, 35999⟩], [], [], [], [], [], [fix4], [⟨1, 0, 0, 4⟩], [0, 0, 0], 0, [0, 0, 0], [0, 0, 0], 0, 0,
  List.replicate 12 0, none⟩

theorem test_wf_boot : Instr.wf (.bootComplete bootOk) = true ∧ Instr.wf (.bootComplete { bootOk with laneOk := [true] }) = false := by decide
theorem test_wf_feed_class : Instr.wf (.feedChange .spn0 8) = true ∧ Instr.wf (.feedChange .spn0 9) = false := by decide
theorem test_wf_latches : Instr.wf (.frameInstant frame0) = true ∧ Instr.wf (.frameInstant { frame0 with antenna := [0, 0] }) = false ∧
    Instr.wf (.frameInstant { frame0 with agc := [] }) = false ∧ Instr.wf (.frameInstant { frame0 with laneTemp := [0] }) = false ∧
    Instr.wf (.frameInstant { frame0 with shares := [0, 0] }) = false ∧ Instr.wf (.frameInstant { frame0 with domains := [] }) = false := by decide
theorem test_wf_receivers : Instr.wf (.frameInstant { frame0 with fixes := [fix4, fix4] }) = false ∧
    Instr.wf (.frameInstant { frame0 with sky := [⟨0, 0, 33, 0, 0⟩] }) = false ∧
    Instr.wf (.frameInstant { frame0 with sky := [⟨0, 5, 119, 0, 0⟩] }) = false ∧
    Instr.wf (.frameInstant { frame0 with sky := [⟨0, 6, 1, 0, 0⟩] }) = false ∧
    Instr.wf (.frameInstant { frame0 with sky := [⟨0, 0, 1, 0, 36000⟩] }) = false ∧
    Instr.wf (.frameInstant { frame0 with sols := [⟨1, 0, 0, 4⟩, ⟨1, 5, 0, 4⟩] }) = false := by decide
theorem test_wf_job : Instr.wf (.solverJobComplete job0) = true ∧ Instr.wf (.solverJobComplete { job0 with flaw := some (63, 2, 127, 0) }) = true ∧
    Instr.wf (.solverJobComplete { job0 with flaw := some (64, 0, 0, 0) }) = false ∧
    Instr.wf (.solverJobComplete { job0 with flaw := some (0, 2, 1, 0) }) = false := by decide
theorem test_wf_governor : Instr.wf (.governorLatch 0 [0, 0, 0, 0, 0, 0] 0) = true ∧ Instr.wf (.governorLatch 0 [] 0) = false := by decide
theorem test_wf_announce : Instr.wf (.ptpAnnounceRx true 0 gm1) = true ∧ Instr.wf (.ptpAnnounceRx true 0 { gm1 with interval := 0 }) = false ∧
    Instr.wf (.ptpAnnounceRx true 0 { gm1 with interval := 17 }) = false := by decide
theorem test_wf_sentence : Instr.wf (.serialSentenceRx 0 (le 82 0) 0) = true ∧ Instr.wf (.serialSentenceRx 0 (le 83 0) 0) = false := by decide
theorem test_wf_datagram : wfDatagram ⟨0, 0, 0, List.replicate 1472 0⟩ = true ∧ wfDatagram ⟨0, 0, 0, List.replicate 1473 0⟩ = false := by
  constructor <;> (simp only [wfDatagram, List.length_replicate]; decide)
theorem test_wf_logic_events : Instr.wf (.logicCommit ⟨[], [], [], [(0, le 8 0, 0)], 0, false⟩) = true ∧
    Instr.wf (.logicCommit ⟨[], [], [], [(0, le 7 0, 0)], 0, false⟩) = false := by decide
theorem test_wf_symbols : Instr.wf (.logicValidationDone { prog0 with syms := [⟨[0x61], 0, false, 0, 1⟩], symbols := 2 }) = true ∧
    Instr.wf (.logicValidationDone { prog0 with syms := [⟨[0x61], 0, false, 0, 1⟩], symbols := 1 }) = false := by decide
theorem test_wf_can : Instr.wf (.canFrameRx 0 canF 0 1) = true ∧ Instr.wf (.canFrameRx 0 canF 1 1) = false ∧
    Instr.wf (.canFrameRx 0 { canF with dlc := 16 } 0 1) = false ∧ Instr.wf (.canFrameTxComplete 0 1 1 true) = false ∧
    Instr.wf (.canFrameRx 0 { canF with dlc := 9, fdf := true, data := le 11 0 } 0 1) = false ∧
    Instr.wf (.canFrameRx 0 { canF with dlc := 9, fdf := true, data := le 12 0 } 0 1) = true := by decide
theorem test_wf_vlan : Instr.wf (.spineFrameForward 0 ⟨1, 2, 64, 1, 4096, 0, true, true, none, none, 0, none, none, none⟩) = false := by decide
theorem test_wf_cycles : Instr.wf (.safetyCycle ⟨0, [], false, false, false⟩) = false ∧
    Instr.wf (.safetyCycle ⟨0, List.replicate 4 [0], false, false, false⟩) = false ∧ Instr.wf (.encoderLatch []) = false := by decide
theorem test_wf_offsets : Instr.wf (.mailboxWrite 0 4095 [] none) = true ∧ Instr.wf (.mailboxWrite 0 4096 [] none) = false ∧
    Instr.wf (.mailboxRead 0 4096 (some 1)) = false ∧ Instr.wf (.eventRead (some 65536)) = false ∧ Instr.wf (.registerWrite 65536 [] none) = false ∧
    Instr.wf (.stSecLoRead 65536 (some 1) 0) = false := by decide
theorem test_wf_secrets : Instr.wf (.cmdFwBegin hdr0 0 (le 31 0)) = false ∧ Instr.wf (.cmdSafeKey hdr0 (le 31 0)) = false ∧
    Instr.wf (.cmdSafeAck hdr0 0 0 (le 7 0)) = false := by decide

/-! ### No word spells a command -/

theorem test_no_word : decodeTableWord 32 0 = none ∧ State.reset.withFetchWord 32 0 = State.reset := ⟨rfl, rfl⟩

/-! ### Values from the manual's worked examples and tables -/

/-- R32's example: Station Time 2091444900.34 is frame 17 of its second, number 1,493,029,913 of epoch 24. -/
theorem test_frame_count :
    let t := State.reset.setFrame (2091444900340000000)
    t.rd F.timeFrameIndex = 17 ∧ t.rd F.timeFrameNumber = 1493029913 ∧ t.rd F.timeFrameEpoch = 24 := by decide +kernel

/-- The example of chapter 1: tick 128 of a frame starts 16 ms after its frame instant. -/
theorem test_tick_instant : ({ State.reset with time := { State.reset.time with frameAt := 40000000, tickOrigin := 0 } } : State).tickInstant 128 = 56000000 := by
  decide +kernel

/-- The example of chapter 17: a class 8 and a class 6 feed under policy 0 give 51.0 W, and the class 8 feed alone gives 71.3 W. -/
theorem test_capacity : State.reset.capacityOf [4, 2, 0] = 510 ∧ State.reset.capacityOf [4, 0, 0] = 713 := by decide +kernel

/-- The lengths of CAN FD payloads by DLC (R315). -/
theorem test_dlc : (List.range 16).map (fun d => dlcLength d true) = [0, 1, 2, 3, 4, 5, 6, 7, 8, 12, 16, 20, 24, 32, 48, 64] := by decide

/-- Numbers of several bytes are little-endian (R6). -/
theorem test_little_endian : le 4 0x12345678 = [0x78, 0x56, 0x34, 0x12] ∧ unle [0x78, 0x56, 0x34, 0x12] = 0x12345678 := by decide

/-- The check value that the CRC catalogues give for CRC-32C over the text 123456789. -/
theorem test_crc32c : Crypto.crc32c ((List.range 9).map fun n => BitVec.ofNat 8 (0x31 + n)) = 0xE3069283 := by decide +kernel

/-- The example of FIPS 180-4: the digest of the text abc begins ba7816bf. -/
theorem test_sha256 : (Crypto.sha256 [0x61, 0x62, 0x63]).take 4 = [0xba, 0x78, 0x16, 0xbf] := by decide +kernel

/-! ### Single steps -/

/-- A pulse of 10 µs on RST_N resets with cause 1, a shorter one does nothing (R487, R489). -/
theorem test_rst_n : (∃ t, exec (.rstN 10000) up = .next t ∧ t.rd F.devResetCause = 1 ∧ t.devState = 0) ∧
    (∃ t, exec (.rstN 9999) up = .next t ∧ t.devState = 1) := ⟨⟨_, rfl, by decide, by decide⟩, ⟨_, rfl, by decide⟩⟩

/-- A power-up counts, and the device is in BOOT (R470, R487). -/
theorem test_power_on : ∃ t, exec (.powerOn 0) { State.reset with powered := false } = .next t ∧ t.powered = true ∧ t.devState = 0 ∧
    t.life.committed.get 0xE000 = 1 := ⟨_, rfl, by decide, by decide, by decide⟩

/-- A doorbell makes an IDLE mailbox BUSY (R452). -/
theorem test_doorbell : ∃ t, exec (.mbxDoorbell 1) up = .next t ∧ (t.host.mbx.get 0).st = .busy ∧ (t.host.mbx.get 1).st = .idle :=
  ⟨_, rfl, by decide, by decide⟩

/-- CMD_NOP is answered in its mailbox, which is then DONE (R452). -/
theorem test_nop : ∃ t, exec (.cmdNop hdr0 []) (offer up 0x000D []) = .next t ∧ (t.host.mbx.get 0).st = .done := ⟨_, rfl, by decide +kernel⟩

/-- A step runs the front command and takes it off the queue. -/
theorem test_step_front : ∃ t, step { up with pending := [.mbxDoorbell 1, .normalEntry] } = .next t ∧ t.pending = [.normalEntry] ∧
    (t.host.mbx.get 0).st = .busy := ⟨_, rfl, rfl, by decide⟩

/-- With nothing waiting the block idles. -/
theorem test_step_idle : step State.reset = .next State.reset := rfl
end

section
/-! PROOFS. Staging and the refused turn (R9): what a write to RS parameters and a refused Folio turn leave in force. -/

namespace Sys2Proof.Machine

variable {s t u : State}

/-! ### The Folio in force -/

/-- A Folio other than the one that is replaced. -/
theorem folio_setFolio_other (s : State) {n m : Nat} (x : Folio) (h : m = 0 ↔ n ≠ 0) : (s.setFolio n x).folio m = s.folio m := by
  unfold State.folio State.setFolio
  by_cases hn : n = 0
  · rw [if_neg fun hm => h.mp hm hn, if_neg fun hm => h.mp hm hn, if_pos hn]
  · rw [if_pos (h.mpr hn), if_pos (h.mpr hn), if_neg hn]

/-- The active Folio rests on the two fields that choose it and on the Folio that they choose. -/
theorem active_congr (hn : t.rd F.devFolioNone = s.rd F.devFolioNone) (ha : t.rd F.devFolioActive = s.rd F.devFolioActive)
    (hf : t.folio (s.rd F.devFolioActive) = s.folio (s.rd F.devFolioActive)) : t.active = s.active := by
  unfold State.active State.flag
  rw [hn, ha, hf]

/-- The values in force are those of the active Folio. -/
theorem cfg_congr (h : t.active = s.active) (f : Fld) : t.cfg f = s.cfg f := by
  unfold State.cfg
  rw [h]

/-! ### Staging -/

/-- From `s` to `t` nothing changes but the Folios and the shadow's state in dev.folio, and the same Folio is in force. -/
structure Stages (s t : State) : Prop where
  frame : t = { s with regs := t.regs, folioA := t.folioA, folioB := t.folioB }
  regs : ∀ k, k ≠ F.devFolioShadow.key → t.regs.get k = s.regs.get k
  active : t.active = s.active

theorem Stages.refl (s : State) : Stages s s := ⟨rfl, fun _ _ => rfl, rfl⟩

theorem Stages.trans (h : Stages s t) (k : Stages t u) : Stages s u :=
  ⟨k.frame.trans (by rw [h.frame]), fun i hi => (k.regs i hi).trans (h.regs i hi), k.active.trans h.active⟩

/-- A fold stages where each of its steps does. -/
theorem Stages.foldl {α : Type} {f : State → α → State} {l : List α} (h : ∀ a ∈ l, ∀ x : State, Stages x (f x a)) (s : State) :
    Stages s (l.foldl f s) := by
  induction l generalizing s with
  | nil => exact Stages.refl s
  | cons a rest ih => exact (h a List.mem_cons_self s).trans (ih (fun b hb => h b (List.mem_cons_of_mem _ hb)) (f s a))

/-- The shadow Folio is the one that is not active: replacing it leaves the Folio in force. -/
theorem setShadow_stages (s : State) (x : Folio) : Stages s (s.setFolio (1 - s.rd F.devFolioActive) x) := by
  have hr : (s.setFolio (1 - s.rd F.devFolioActive) x).regs = s.regs := by
    unfold State.setFolio
    split <;> rfl
  refine ⟨?_, fun _ _ => by rw [hr], active_congr (rd_congr hr _) (rd_congr hr _) (folio_setFolio_other s x (by omega))⟩
  unfold State.setFolio
  split <;> rfl

/-- The shadow's state in dev.folio is no part of what is in force. -/
theorem wrShadowState_stages (s : State) (v : Nat) : Stages s (s.wr F.devFolioShadow v) :=
  ⟨rfl, fun _ hk => Store.get_set_other _ hk _, active_congr (rd_wr_other s v (by decide)) (rd_wr_other s v (by decide)) rfl⟩

/-- An item whose fields are all RS is staged (R9). -/
theorem writeItem_stages (s : State) (id elem v : Nat) (h : ∀ f ∈ (fieldsOf id elem).getD [], f.acc = .rs) :
    Stages s (s.writeItem id elem v) := by
  unfold State.writeItem
  refine Stages.foldl (fun f hf x => ?_) s
  simp only [h f hf]
  exact (setShadow_stages x _).trans (wrShadowState_stages _ 1)

/-! ### A refused turn -/

/-- What leaves the Folios and the fields that choose the active one leaves the active Folio. -/
theorem Untouched.activeFolio (h : Untouched s t) : t.active = s.active :=
  active_congr h.noFolio h.active (by unfold State.folio; rw [h.folioA, h.folioB])

/-- What leaves the Folios and the fields that choose the active one leaves the shadow Folio. -/
theorem Untouched.shadowFolio (h : Untouched s t) : t.shadow = s.shadow := by
  unfold State.shadow State.folio
  rw [h.active, h.folioA, h.folioB]

/-- A turn that is refused ends, is told and is answered, and touches neither Folio (R463). -/
theorem refuseTurn_untouched (s : State) (res : Nat) (fail : Option (Nat × Nat)) : Untouched s (s.refuseTurn res fail) := by
  unfold State.refuseTurn
  extract_lets hdr turn idle ended told
  have h1 : Untouched s idle := Untouched.of_eq rfl rfl rfl rfl
  have h2 : Untouched s ended :=
    (h1.trans (wr_untouched idle (f := F.devFolioTurn) 0 (by decide))).trans (Untouched.of_eq rfl rfl rfl rfl)
  have h3 : Untouched s told := by
    cases fail with
    | none => exact h2.trans (emit_untouched ended _ _)
    | some place =>
      have h4 : Untouched s (ended.wr F.devFolioFailId place.1) := h2.trans (wr_untouched ended _ (by decide))
      exact (h4.trans (wr_untouched _ (f := F.devFolioFailElem) _ (by decide))).trans (emit_untouched _ _ _)
  clear_value hdr told
  have answered : ∀ h p, Untouched s (told.respond h 3 res p) := fun _ _ => h3.trans (respond_untouched _ _ _ _ _)
  split
  · exact answered _ _
  · exact answered _ _
  · exact h3

/-- FOLIO_VALIDATED refuses the turn under validation whose shadow Folio fails (R462, R463). -/
theorem exec_folioValidated_fails {x : State} {r : Nat × Nat × Nat} (hx : Runs s x) (hr : x.ready = true)
    (ht : x.rd F.devFolioTurn = 1) (hv : x.validate = some r) :
    exec .folioValidated s = .next (x.refuseTurn r.1 (some r.2)) := by
  have ha : exec .folioValidated s = execFolioValidated s := rfl
  rw [ha, execFolioValidated, act_of_runs hx, if_neg (by simp [hr, ht]), hv]

/-- Settles O47: an item of RS fields changes the shadow alone, and a refused turn, as of a Folio that fails validation, leaves both
Folios and the choice of the active one. -/
theorem stagedValuesWaitForTheTurn : Obligations.StagedValuesWaitForTheTurn := by
  unfold Obligations.StagedValuesWaitForTheTurn
  refine ⟨fun s id elem v h => ?_, fun s res fail => ?_, fun s x r hx hr ht hv => exec_folioValidated_fails hx hr ht hv⟩
  · have hs := writeItem_stages s id elem v h
    exact ⟨hs.frame, hs.regs, hs.active, cfg_congr hs.active⟩
  · have hu := refuseTurn_untouched s res fail
    exact ⟨hu.folioA, hu.folioB, hu.activeFolio, hu.shadowFolio, cfg_congr hu.activeFolio⟩

end Sys2Proof.Machine
end

section
/-! PROOFS. CMD_LOGIC_STOP (R306): when it is accepted, and what the stop of the logic leaves. -/

namespace Sys2Proof.Machine

variable {s x : State} {h : Hdr}

/-! ### The stop of the logic -/

/-- A running engine drops its cycle and the restart asked for, and becomes STOPPED with cause COMMAND (R306; log entries 39 and
100). -/
theorem stopLogic_of_running (hs : s.logicState = 2) :
    s.stopLogic = State.setLogicState { s with logic := { s.logic with restart := none, phase := 0, work := none } } 1 0 (some whyCommand) :=
  if_pos hs

/-- An engine that does not run keeps its state: only the restart asked for and the cycle are dropped (log entry 100). -/
theorem stopLogic_of_not_running (hs : s.logicState ≠ 2) :
    s.stopLogic = { s with logic := { s.logic with restart := none, phase := 0, work := none } } :=
  if_neg hs

/-! ### The command -/

/-- CMD_LOGIC_STOP stops the logic unless the logic commands the vessel (R306). -/
theorem exec_cmdLogicStop_stops (hp : Processed s h 0x7004 [] x) (hq : ¬ (x.cfg F.ctlModeSource = 1 ∧ x.mode ≠ 0 ∧ x.mode ≠ 5)) :
    exec (.cmdLogicStop h) s = .next (x.stopLogic.respond h 0x7004 Res.ok []) :=
  command_replied hp (if_neg hq)

/-- CMD_LOGIC_STOP is refused while the logic commands the vessel (R306). -/
theorem exec_cmdLogicStop_refused (hp : Processed s h 0x7004 [] x) (hq : x.cfg F.ctlModeSource = 1 ∧ x.mode ≠ 0 ∧ x.mode ≠ 5) :
    exec (.cmdLogicStop h) s = .next (x.respond h 0x7004 Res.wrongState []) :=
  command_replied hp (if_pos hq)

/-- The logic commands the vessel exactly where a mode source of one bit is not 0 and the mode is neither IDLE nor MANUAL: the two
spellings of R306's condition agree. -/
theorem logicCommands_iff (hb : x.cfg F.ctlModeSource ≤ 1) :
    (x.cfg F.ctlModeSource = 1 ∧ x.mode ≠ 0 ∧ x.mode ≠ 5) ↔
      ¬ (x.cfg F.ctlModeSource = 0 ∨ x.rd F.ctlMode = 0 ∨ x.rd F.ctlMode = 5) := by
  unfold State.mode
  omega

/-- Settles O44: the mode source is one bit, so the model's test for a refusal is the negation of R306's condition for acceptance. -/
theorem logicStopNeedsAQuietMode : Obligations.LogicStopNeedsAQuietMode := by
  unfold Obligations.LogicStopNeedsAQuietMode
  refine ⟨fun s x h hp hb => ⟨fun quiet => ?_, fun loud => ?_⟩, fun _ => stopLogic_of_running, fun _ => stopLogic_of_not_running⟩
  · exact exec_cmdLogicStop_stops hp fun hc => (logicCommands_iff hb).mp hc quiet
  · exact exec_cmdLogicStop_refused hp ((logicCommands_iff hb).mpr loud)

end Sys2Proof.Machine
end

section
/-! PROOFS. The saturation of a lifetime counter (R472): what an increment reads, and when its first saturation is shown. -/

namespace Sys2Proof.Machine

variable (s : State) (id n : Nat)

/-! ### The two halves of an increment -/

/-- The state after an increment, before the test for saturation. -/
def State.increased : State :=
  { s with life := { s.life with accrued := s.life.accrued.set id (s.life.accrued.get id + n) } }

/-- The first saturation of a counter, remembered, shown and sent (R472). -/
def State.showSaturated : State :=
  (State.wrFlag { s with life := { s.life with saturated := s.life.saturated.set id true } } F.lifeStatus true).emit 0xE0 (le 2 id)

theorem accrue_eq : s.accrue id n = (s.increased id n).checkSaturated id := rfl

variable {s id n}

/-! ### The value after an increment -/

/-- The cap on what a counter held before the increment makes no difference to the capped sum. A positive increment leaves no
default in the store, so this needs no canonical form. -/
theorem lifeValue_increased (hn : 0 < n) : (s.increased id n).lifeValue id = min (2 ^ 48 - 1) (s.lifeValue id + n) := by
  have hget : (s.increased id n).life.accrued.get id = s.life.accrued.get id + n :=
    Store.get_set_listed _ (Nat.ne_of_gt (Nat.add_pos_right _ hn))
  have hcommitted : (s.increased id n).life.committed = s.life.committed := rfl
  unfold State.lifeValue
  rw [hget, hcommitted]
  omega

theorem lifeValue_increased_other {j : Nat} (hj : j ≠ id) : (s.increased id n).lifeValue j = s.lifeValue j := by
  have hget : (s.increased id n).life.accrued.get j = s.life.accrued.get j := Store.get_set_other _ hj _
  unfold State.lifeValue
  rw [hget]
  rfl

/-- An increment reaches the largest value exactly where the sum does. -/
theorem lifeValue_increased_eq_cap (hn : 0 < n) :
    (s.increased id n).lifeValue id = 2 ^ 48 - 1 ↔ 2 ^ 48 - 1 ≤ s.lifeValue id + n := by
  rw [lifeValue_increased hn]
  omega

/-! ### The test for saturation -/

theorem checkSaturated_first (hv : s.lifeValue id = 2 ^ 48 - 1) (hs : s.life.saturated.get id = false) :
    s.checkSaturated id = s.showSaturated id :=
  if_pos ⟨hv, hs⟩

theorem checkSaturated_idle (h : s.lifeValue id ≠ 2 ^ 48 - 1 ∨ s.life.saturated.get id = true) : s.checkSaturated id = s :=
  if_neg fun ⟨hv, hs⟩ => h.elim (· hv) fun ht => Bool.false_ne_true (hs.symm.trans ht)

/-- A value rests on the two stores of counters alone. -/
theorem lifeValue_congr {t : State} (hc : t.life.committed = s.life.committed) (ha : t.life.accrued = s.life.accrued) (j : Nat) :
    t.lifeValue j = s.lifeValue j := by
  unfold State.lifeValue
  rw [hc, ha]

/-- The event of a saturation changes no counter. -/
theorem lifeValue_showSaturated (j : Nat) : (s.showSaturated id).lifeValue j = s.lifeValue j :=
  have hu := emit_untouched (State.wrFlag { s with life := { s.life with saturated := s.life.saturated.set id true } } F.lifeStatus true)
    0xE0 (le 2 id)
  lifeValue_congr hu.committed hu.accrued j

/-- A counter whose saturation was shown is remembered. -/
theorem saturated_showSaturated : (s.showSaturated id).life.saturated.get id = true := by
  unfold State.showSaturated
  rw [(emit_untouched _ _ _).saturated, wrFlag_life]
  exact Store.get_set_listed _ Bool.false_ne_true.symm

theorem lifeValue_checkSaturated (j : Nat) : (s.checkSaturated id).lifeValue j = s.lifeValue j := by
  by_cases h : s.lifeValue id = 2 ^ 48 - 1 ∧ s.life.saturated.get id = false
  · rw [checkSaturated_first h.1 h.2, lifeValue_showSaturated]
  · exact congrArg (State.lifeValue · j) (if_neg h)

/-! ### The increment as a whole -/

theorem lifeValue_accrue (hn : 0 < n) : (s.accrue id n).lifeValue id = min (2 ^ 48 - 1) (s.lifeValue id + n) := by
  rw [accrue_eq, lifeValue_checkSaturated, lifeValue_increased hn]

theorem lifeValue_accrue_other {j : Nat} (hj : j ≠ id) : (s.accrue id n).lifeValue j = s.lifeValue j := by
  rw [accrue_eq, lifeValue_checkSaturated, lifeValue_increased_other hj]

/-- An increment with which the counter first reads its largest value shows the saturation. -/
theorem accrue_first (hn : 0 < n) (hv : 2 ^ 48 - 1 ≤ s.lifeValue id + n) (hs : s.life.saturated.get id = false) :
    s.accrue id n = (s.increased id n).showSaturated id :=
  checkSaturated_first ((lifeValue_increased_eq_cap hn).mpr hv) hs

/-- An increment that does not reach the largest value, or of a counter that has saturated before, shows nothing. -/
theorem accrue_silent (hn : 0 < n) (h : s.lifeValue id + n < 2 ^ 48 - 1 ∨ s.life.saturated.get id = true) :
    s.accrue id n = s.increased id n :=
  checkSaturated_idle (h.imp_left fun below reached => Nat.not_le.mpr below ((lifeValue_increased_eq_cap hn).mp reached))

/-- Settles O46: the event of a saturation changes no counter, so every counter reads what the increment alone makes of it, and the
model's test after the increment is met exactly where the sum reaches the cap. -/
theorem lifetimeCountersSaturate : Obligations.LifetimeCountersSaturate := by
  unfold Obligations.LifetimeCountersSaturate
  intro s id n hn
  refine ⟨lifeValue_accrue hn, fun full => ?_, fun _ => lifeValue_accrue_other, fun hv hs => ?_, accrue_silent hn⟩
  · rw [lifeValue_accrue hn, full]
    exact Nat.min_eq_left (Nat.le_add_right _ n)
  · have shown := accrue_first hn hv hs
    exact ⟨shown, shown ▸ saturated_showSaturated⟩

end Sys2Proof.Machine
end

section
/-! PROOFS. The cause of the last reset (R489): what each reset leaves in dev.reset_cause, and what EV_DEV_RESET sends of it. -/

namespace Sys2Proof.Machine

variable {s x : State}

/-! ### What a reset leaves in dev.reset_cause -/

/-- A reset leaves its cause, whatever the registers held before: those that it keeps stand in a store of canonical form, and its
later writes go to other fields. -/
theorem resetCause_doReset (s : State) (kind : ResetKind) {cause : Nat} (hc : cause < 8) :
    (s.doReset kind cause).rd F.devResetCause = cause := by
  have written : ((s.afterReset kind cause).wr F.devResetCause cause).rd F.devResetCause = cause :=
    (rd_wr_self (s := s.afterReset kind cause) (keptRegs_wf s kind) F.devResetCause cause (by decide)).trans (Nat.mod_eq_of_lt hc)
  unfold State.doReset State.wrFlag
  dsimp only
  rw [rd_wr_other _ _ (by decide), rd_wr_other _ _ (by decide), rd_wr_other _ _ (by decide), rd_wr_other _ _ (by decide),
    rd_wr_other _ _ (by decide), written]

/-- The reset after a Fatal, device error leaves DEVICE_FATAL, whether or not its record went to the journal (R411). -/
theorem resetCause_fatalReset (s : State) : s.fatalReset.rd F.devResetCause = 3 :=
  resetCause_doReset _ .device (by decide)

/-! ### The commands that reset -/

/-- The converters restart with a power-on reset (R426, R487). -/
theorem exec_powerOn_resets (off : Nat) (hp : s.powered = false) :
    exec (.powerOn off) s = .next ((State.countMram { s with
      outputs := [], powered := true, time := { s.time with mono := s.time.mono + off } } 0xE000).doReset .powerOn 0) := by
  have ha : exec (.powerOn off) s = execPowerOn off s := rfl
  rw [ha, execPowerOn, always, if_neg (by simp [hp])]

/-- RST_N held low for 10 µs is an external reset while no Endpaper is written (R487, R488). -/
theorem exec_rstN_resets {low : Nat} (hx : Runs s x) (hl : 10000 ≤ low) (hw : x.power.writing = none) :
    exec (.rstN low) s = .next (x.doReset .external 1) := by
  have ha : exec (.rstN low) s = execRstN low s := rfl
  rw [ha, execRstN, act_of_runs hx, if_neg (Nat.not_lt.mpr hl), if_neg (by simp [hw])]

/-- The end of an Endpaper write takes the external reset that it held back (R488). -/
theorem exec_endpaperComplete_resets {e : Endpaper} (hx : Runs s x) (hw : x.power.writing = some e) (hh : x.boot.heldReset = true) :
    exec .endpaperComplete s = .next ((x.storeEndpaper e).doReset .external 1) := by
  have ha : exec .endpaperComplete s = execEndpaperComplete s := rfl
  have held : (x.storeEndpaper e).boot.heldReset = true := hh
  rw [ha, execEndpaperComplete, act_of_runs hx, hw]
  exact congrArg Host.Outcome.next (if_pos held)

/-- DEVICE_RESET takes the reset that a command made pending, at the frame instant after it (R487). -/
theorem exec_deviceReset_resets {t : Nat} (hx : Runs s x) (ht : x.boot.resetAt = some t) (hlt : t < x.clock) (hr : x.ready = true)
    (hd : x.time.tickDue = 0) : exec .deviceReset s = .next (x.deviceReset 2) := by
  have ha : exec .deviceReset s = execDeviceReset s := rfl
  rw [ha, execDeviceReset, act_of_runs hx, ht]
  exact congrArg Host.Outcome.next (if_pos ⟨hr, hd, hlt⟩)

/-- BOOT_COMPLETE resets where a trial image finds its Folio invalid (R467). -/
theorem exec_bootComplete_fallsBack {b : BootIn} {slot duty : Nat} {rest : List Nat} (hx : Runs s x) (hs : x.bootSlot b = some slot)
    (hl : x.bootRoles b = duty :: rest) (hd : x.devState = 0) (ht : x.bootTrial slot = true) (hf : b.trialFolioOk = false)
    (hc : x.bootCommit b ≠ none) :
    exec (.bootComplete b) s = .next (({ x with fw := { x.fw with attempts := 1 } } : State).deviceReset 4) := by
  have ha : exec (.bootComplete b) s = execBootComplete b s := rfl
  rw [ha, execBootComplete, act_of_runs hx, hs, hl]
  exact congrArg Host.Outcome.next ((if_neg (not_not_intro hd)).trans (if_pos ⟨ht, hf, Option.isSome_iff_ne_none.mpr hc⟩))

/-! ### The end of BOOT -/

/-- The state in which the first events of a start are sent: READY is up, in the device state that boot ends in. -/
def State.bootEnded (s : State) : State :=
  ({ s with host := { s.host with nextResend := s.clock + s.cfg F.devEventResend * nsMs } } : State).wr F.devState s.bootState

/-- No register field rests on the host port. -/
theorem rd_withHost (s : State) (h : HostPort) (f : Fld) : ({ s with host := h } : State).rd f = s.rd f := rfl

/-- Becoming READY leaves the cause of the reset. -/
theorem resetCause_bootEnded (s : State) : s.bootEnded.rd F.devResetCause = s.rd F.devResetCause := by
  unfold State.bootEnded
  rw [rd_wr_other _ _ (by decide), rd_withHost]

/-- The first event after a reset is EV_DEV_RESET, with the cause first (R460, R489). -/
theorem openBoot_sends_cause (s : State) (fallback : Bool) (unacked : Nat) (failed : Option Nat) :
    ∃ rest : List Byte, s.openBoot fallback unacked failed =
      State.reportTrial ((((s.bootEnded.emit 0 (le 1 (s.rd F.devResetCause) ++ rest)).emit 4
        (le 1 0 ++ le 1 s.bootState ++ le 1 (if s.bootState = 4 then 2 else 0))).wr (F.spinePortStatus 8) 2).emit 0x90
          (le 1 8 ++ le 1 0 ++ le 1 2)) failed := by
  refine ⟨le 1 (s.bootEnded.rd F.devFwSlotRunning) ++ (le 4 unacked ++ le 1 (bit fallback)), ?_⟩
  rw [← resetCause_bootEnded s, ← List.append_assoc, ← List.append_assoc]
  rfl

/-- Settles O45: every reset leaves its cause in dev.reset_cause, each of the five is the reset of the command that it names, and
becoming READY leaves the cause that EV_DEV_RESET then sends. -/
theorem resetCauseIsShown : Obligations.ResetCauseIsShown := by
  unfold Obligations.ResetCauseIsShown
  refine ⟨fun s off hp => ?_, fun s x low hx hl hw => ?_, fun s x hx hw hh => ?_, fun s x t hx ht hlt hr hd => ?_,
    resetCause_fatalReset, fun s x b slot duty rest hx hs hl hd ht hf hc => ?_, fun s fallback unacked failed => ?_⟩
  · exact ⟨_, exec_powerOn_resets off hp, resetCause_doReset _ .powerOn (by decide)⟩
  · exact ⟨_, exec_rstN_resets hx hl hw, resetCause_doReset x .external (by decide)⟩
  · obtain ⟨e, he⟩ := Option.ne_none_iff_exists'.mp hw
    exact ⟨_, exec_endpaperComplete_resets hx he hh, resetCause_doReset _ .external (by decide)⟩
  · exact ⟨_, exec_deviceReset_resets hx ht hlt hr hd, resetCause_doReset x .device (by decide)⟩
  · exact ⟨_, exec_bootComplete_fallsBack hx hs hl hd ht hf hc, resetCause_doReset _ .device (by decide)⟩
  · exact ⟨s.bootEnded, resetCause_bootEnded s, openBoot_sends_cause s fallback unacked failed⟩

end Sys2Proof.Machine
end

section
/-! PROOFS. Steps: what every command keeps, that every command completes, and that a module without power does nothing. The case
splits follow the constructors of Instr, arm by arm with the meanings that Machine/Dispatch.lean gives them. -/

namespace Sys2Proof.Machine

variable {s t : State}

/-! ### Every command answers a state, and keeps the queue of waiting commands and soundness -/

/-- Every command answers a next state that keeps what the lemma of its own meaning says it keeps. -/
theorem exec_keeps (c : Instr) (s : State) : ∃ t, exec c s = .next t ∧ Keeps s t :=
  match c with
  | .powerOn offNs => execPowerOn_keeps offNs
  | .rstN lowNs => execRstN_keeps lowNs
  | .deviceReset => execDeviceReset_keeps
  | .bootComplete b => execBootComplete_keeps b
  | .normalEntry => execNormalEntry_keeps
  | .feedChange f cls => execFeedChange_keeps f cls
  | .writeGuardTrip c => execWriteGuardTrip_keeps c
  | .endpaperComplete => execEndpaperComplete_keeps
  | .writeGuardRelease => execWriteGuardRelease_keeps
  | .convertersStop => execConvertersStop_keeps
  | .frameInstant inputs => execFrameInstant_keeps inputs
  | .servoTick d => execServoTick_keeps d
  | .loopFaultCount l => execLoopFaultCount_keeps l
  | .loopRecovery l => execLoopRecovery_keeps l
  | .applyTick intact => execApplyTick_keeps intact
  | .spHoldExpiry => execSpHoldExpiry_keeps
  | .gatheringClose => execGatheringClose_keeps
  | .rxConsistencyCount rx => execRxConsistencyCount_keeps rx
  | .dnWarmupEnd => execDnWarmupEnd_keeps
  | .envReentry => execEnvReentry_keeps
  | .referenceVote => execReferenceVote_keeps
  | .weightsDeadline => execWeightsDeadline_keeps
  | .splitConfirm g => execSplitConfirm_keeps g
  | .splitTimeout g => execSplitTimeout_keeps g
  | .probationEnd r => execProbationEnd_keeps r
  | .estimatePublish corruptDuty corruptPartner => execEstimatePublish_keeps corruptDuty corruptPartner
  | .solverJobComplete r => execSolverJobComplete_keeps r
  | .solverJobTimeout u => execSolverJobTimeout_keeps u
  | .solveDeadline inJob => execSolveDeadline_keeps inJob
  | .controlDegradedCount => execControlDegradedCount_keeps
  | .unitTestJob u sigOk => execUnitTestJob_keeps u sigOk
  | .unitReady u => execUnitReady_keeps u
  | .setpointPublish badDuty badPartner => execSetpointPublish_keeps badDuty badPartner
  | .quireWrite => execQuireWrite_keeps
  | .quireCommit d => execQuireCommit_keeps d
  | .selfTestSlice l ok eccCorrected => execSelfTestSlice_keeps l ok eccCorrected
  | .drainPage programOk => execDrainPage_keeps programOk
  | .folioValidated => execFolioValidated_keeps
  | .folioCommit => execFolioCommit_keeps
  | .shadowSyncComplete => execShadowSyncComplete_keeps
  | .governorLatch base dies power => execGovernorLatch_keeps base dies power
  | .upstepHoldExpiry => execUpstepHoldExpiry_keeps
  | .gridStep => execGridStep_keeps
  | .acquireTimeout => execAcquireTimeout_keeps
  | .revertHoldExpiry => execRevertHoldExpiry_keeps
  | .jumpRequalify t => execJumpRequalify_keeps t
  | .tb2Qualify => execTb2Qualify_keeps
  | .crosscheckTimeout tb2 => execCrosscheckTimeout_keeps tb2
  | .ptpSyncRx red port domain twoStep offset bound => execPtpSyncRx_keeps red port domain twoStep offset bound
  | .ptpAnnounceRx red port a => execPtpAnnounceRx_keeps red port a
  | .announceTimeout red => execAnnounceTimeout_keeps red
  | .syncLossTimeout red => execSyncLossTimeout_keeps red
  | .ptpSyncTx port atNs => execPtpSyncTx_keeps port atNs
  | .ptpAnnounceTx port => execPtpAnnounceTx_keeps port
  | .ppsMessage => execPpsMessage_keeps
  | .ppsEdge => execPpsEdge_keeps
  | .triggerEdge t => execTriggerEdge_keeps t
  | .imuSyncEdge p => execImuSyncEdge_keeps p
  | .imuFrameRx p bytes delayNs => execImuFrameRx_keeps p bytes delayNs
  | .serialSentenceRx k chars startNs => execSerialSentenceRx_keeps k chars startNs
  | .l450DatagramRx d startNs => execL450DatagramRx_keeps d startNs
  | .sensorDatagramRx d startNs => execSensorDatagramRx_keeps d startNs
  | .analogSampleComplete ch raw => execAnalogSampleComplete_keeps ch raw
  | .wireFaultDetect ch => execWireFaultDetect_keeps ch
  | .streamTimeout st => execStreamTimeout_keeps st
  | .gnssStartComplete rx => execGnssStartComplete_keeps rx
  | .layupEnd => execLayupEnd_keeps
  | .keepaliveWake => execKeepaliveWake_keeps
  | .keepaliveEnd => execKeepaliveEnd_keeps
  | .logicCycleStart => execLogicCycleStart_keeps
  | .replyWindowEnd => execReplyWindowEnd_keeps
  | .logicCommit o => execLogicCommit_keeps o
  | .logicOverrun c => execLogicOverrun_keeps c
  | .retainMirrorWrite => execRetainMirrorWrite_keeps
  | .logicValidationDone info => execLogicValidationDone_keeps info
  | .canFrameRx ch f sofNs eofNs => execCanFrameRx_keeps ch f sofNs eofNs
  | .canRxDeliver ch => execCanRxDeliver_keeps ch
  | .canFrameTxComplete ch sofNs eofNs done => execCanFrameTxComplete_keeps ch sofNs eofNs done
  | .canLifetimeEnd ch k => execCanLifetimeEnd_keeps ch k
  | .canBusError ch e busyNs => execCanBusError_keeps ch e busyNs
  | .canBusoffRecovery ch => execCanBusoffRecovery_keeps ch
  | .canTimingResync ch => execCanTimingResync_keeps ch
  | .heartbeatTx => execHeartbeatTx_keeps
  | .heartbeatRx hb => execHeartbeatRx_keeps hb
  | .partnerLost p => execPartnerLost_keeps p
  | .spineLinkChange port speed => execSpineLinkChange_keeps port speed
  | .spineFrameForward port f => execSpineFrameForward_keeps port f
  | .supervisionTx => execSupervisionTx_keeps
  | .supervisionRx src port => execSupervisionRx_keeps src port
  | .macAgeExpiry mac => execMacAgeExpiry_keeps mac
  | .reassemblyTimeout ident => execReassemblyTimeout_keeps ident
  | .selfDetectedFault l k us => execSelfDetectedFault_keeps l k us
  | .rapidCheckVerdict duty partner => execRapidCheckVerdict_keeps duty partner
  | .standbyWakeComplete quickOk fullOk q0 q1 => execStandbyWakeComplete_keeps quickOk fullOk q0 q1
  | .laneReplayLive chainOk => execLaneReplayLive_keeps chainOk
  | .laneSelfTestComplete l ok => execLaneSelfTestComplete_keeps l ok
  | .rotationWake => execRotationWake_keeps
  | .rotationHandover => execRotationHandover_keeps
  | .safetyCycle x => execSafetyCycle_keeps x
  | .safeInputEdge inp high => execSafeInputEdge_keeps inp high
  | .safePairFilterExpiry p => execSafePairFilterExpiry_keeps p
  | .safePairDiscrepancy p => execSafePairDiscrepancy_keeps p
  | .encoderIndex e => execEncoderIndex_keeps e
  | .encoderRecovery e => execEncoderRecovery_keeps e
  | .outputFaultClear o => execOutputFaultClear_keeps o
  | .offPulse o low high supply => execOffPulse_keeps o low high supply
  | .ackWindowExpiry => execAckWindowExpiry_keeps
  | .safetySelftestEnd => execSafetySelftestEnd_keeps
  | .hwErrorReport e => execHwErrorReport_keeps e
  | .injectExpiry k => execInjectExpiry_keeps k
  | .correctedRateMinute => execCorrectedRateMinute_keeps
  | .escalateWindowEnd src => execEscalateWindowEnd_keeps src
  | .eventResend => execEventResend_keeps
  | .joystickTimeout => execJoystickTimeout_keeps
  | .loopTestStart => execLoopTestStart_keeps
  | .loopTestEnd => execLoopTestEnd_keeps
  | .fwTrialEnd => execFwTrialEnd_keeps
  | .lifetimeCommit => execLifetimeCommit_keeps
  | .leapSecond => execLeapSecond_keeps
  | .rtcWrite => execRtcWrite_keeps
  | .mailboxWrite n off data crc => execMailboxWrite_keeps n off data crc
  | .mailboxRead n off len => execMailboxRead_keeps n off len
  | .eventRead k => execEventRead_keeps k
  | .registerWrite off vals crc => execRegisterWrite_keeps off vals crc
  | .mbxDoorbell bits => execMbxDoorbell_keeps bits
  | .hostIrqStatusClear bits => execHostIrqStatusClear_keeps bits
  | .evqAck seq => execEvqAck_keeps seq
  | .resetRequest v => execResetRequest_keeps v
  | .stSecLoRead off count subNs => execStSecLoRead_keeps off count subNs
  | .cmdParamRead h count items => execCmdParamRead_keeps h count items
  | .cmdParamWrite h count items => execCmdParamWrite_keeps h count items
  | .cmdFolioTurn h => execCmdFolioTurn_keeps h
  | .cmdFolioDiscard h => execCmdFolioDiscard_keeps h
  | .cmdFolioSection h sec off data => execCmdFolioSection_keeps h sec off data
  | .cmdEventAck h seq => execCmdEventAck_keeps h seq
  | .cmdFwBegin h size digest => execCmdFwBegin_keeps h size digest
  | .cmdFwBlock h off data => execCmdFwBlock_keeps h off data
  | .cmdFwCommit h => execCmdFwCommit_keeps h
  | .cmdFwAbort h => execCmdFwAbort_keeps h
  | .cmdDevReset h arg => execCmdDevReset_keeps h arg
  | .cmdDevState h target => execCmdDevState_keeps h target
  | .cmdNop h data => execCmdNop_keeps h data
  | .cmdTimeResync h => execCmdTimeResync_keeps h
  | .cmdGnssLayup h hours => execCmdGnssLayup_keeps h hours
  | .cmdGnssWake h => execCmdGnssWake_keeps h
  | .cmdVoteSelect h group ref => execCmdVoteSelect_keeps h group ref
  | .cmdVoteExclude h ref excl => execCmdVoteExclude_keeps h ref excl
  | .cmdSolverStatsClear h => execCmdSolverStatsClear_keeps h
  | .cmdCtlMode h mode => execCmdCtlMode_keeps h mode
  | .cmdCtlSetpoint h lat lon heading => execCmdCtlSetpoint_keeps h lat lon heading
  | .cmdCtlJoystick h surge sway yaw => execCmdCtlJoystick_keeps h surge sway yaw
  | .cmdCtlManual h act speed pitch angle => execCmdCtlManual_keeps h act speed pitch angle
  | .cmdCtlTrackLoad h count wps => execCmdCtlTrackLoad_keeps h count wps
  | .cmdLoopTest h loop point kind amp hold f0 f1 dur decim => execCmdLoopTest_keeps h loop point kind amp hold f0 f1 dur decim
  | .cmdLoopTestStop h => execCmdLoopTestStop_keeps h
  | .cmdLoopCaptureRead h first count => execCmdLoopCaptureRead_keeps h first count
  | .cmdLogicLoad h off data => execCmdLogicLoad_keeps h off data
  | .cmdLogicChange h replace => execCmdLogicChange_keeps h replace
  | .cmdLogicStart h cold => execCmdLogicStart_keeps h cold
  | .cmdLogicStop h => execCmdLogicStop_keeps h
  | .cmdLogicForce h t typ val => execCmdLogicForce_keeps h t typ val
  | .cmdLogicUnforce h t => execCmdLogicUnforce_keeps h t
  | .cmdLogicReport h first => execCmdLogicReport_keeps h first
  | .cmdLogicVarRead h path => execCmdLogicVarRead_keeps h path
  | .cmdCanBufRead h buf => execCmdCanBufRead_keeps h buf
  | .cmdCanFifoRead h chan count => execCmdCanFifoRead_keeps h chan count
  | .cmdSpineKey h slot key => execCmdSpineKey_keeps h slot key
  | .cmdLaneRotate h => execCmdLaneRotate_keeps h
  | .cmdSafeAck h mask challenge tag => execCmdSafeAck_keeps h mask challenge tag
  | .cmdSafeConfirm h colophon => execCmdSafeConfirm_keeps h colophon
  | .cmdSafeKey h key => execCmdSafeKey_keeps h key
  | .cmdFaultInject h checker place double => execCmdFaultInject_keeps h checker place double
  | .cmdFaultLogRead h first count => execCmdFaultLogRead_keeps h first count
  | .cmdBudgetCap h code => execCmdBudgetCap_keeps h code
  | .cmdLifeJournalFind h sec ns => execCmdLifeJournalFind_keeps h sec ns
  | .cmdLifeJournalRead h page off len => execCmdLifeJournalRead_keeps h page off len
  | .ptpFollowUpRx red port offset bound => execPtpFollowUpRx_keeps red port offset bound
  | .ptpDelayReqTx red => execPtpDelayReqTx_keeps red
  | .ptpDelayRespRx red port delay => execPtpDelayRespRx_keeps red port delay
  | .ptpDelayReqRx port requester peer atNs => execPtpDelayReqRx_keeps port requester peer atNs
  | .triggerPulseEnd t => execTriggerPulseEnd_keeps t
  | .ppsPulseEnd => execPpsPulseEnd_keeps
  | .encoderLatch xs => execEncoderLatch_keeps xs
  | .fwSlotErased => execFwSlotErased_keeps
  | .fwImageVerified => execFwImageVerified_keeps
  | .plezenMessageReject addr bytes => execPlezenMessageReject_keeps addr bytes
  | .prpEntryForget src seq => execPrpEntryForget_keeps src seq
  | .vbatLoss => execVbatLoss_keeps

/-- The queue without its front command is no part of soundness. -/
theorem sound_withPending (h : Sound s) (rest : List Instr) : Sound { s with pending := rest } :=
  ⟨h.regs, h.mailboxes, h.queue, h.responses, h.faultLog, h.inputPower, h.commits⟩

/-- With a command at its front, the queue gives it up to `exec` and keeps the rest. -/
theorem step_front {c : Instr} {rest : List Instr} (h : s.pending = c :: rest) : step s = exec c { s with pending := rest } := by
  unfold step
  rw [h]

/-- With an empty queue the block idles (log entry 1). -/
theorem step_idle (h : s.pending = []) : step s = .next s := by
  unfold step
  rw [h]

/-- Every step answers a next state, takes the front command from the queue, and keeps soundness. -/
theorem step_keeps (s : State) : ∃ t, step s = .next t ∧ t.pending = s.pending.tail ∧ (Sound s → Sound t) := by
  match hp : s.pending with
  | [] => exact ⟨s, step_idle hp, hp, id⟩
  | c :: rest =>
    obtain ⟨t, he, hk⟩ := exec_keeps c { s with pending := rest }
    exact ⟨t, (step_front hp).trans he, hk.pending, fun h => hk.sound (sound_withPending h rest)⟩

/-- A state that a step of a sound state answers is sound. -/
theorem sound_of_step (hs : Sound s) (h : step s = .next t) : Sound t := by
  obtain ⟨u, hu, -, hk⟩ := step_keeps s
  have : u = t := Host.Outcome.next.inj (hu.symm.trans h)
  exact this ▸ hk hs

/-- Settles O39: a step runs the front command over the queue's rest, and each command keeps soundness; a run is an induction on the
number of steps. -/
theorem everyStepKeepsSound : Obligations.EveryStepKeepsSound := by
  unfold Obligations.EveryStepKeepsSound
  refine ⟨fun s t hs h => sound_of_step hs h, fun s n hs => ?_⟩
  induction n with
  | zero => exact hs
  | succ n ih =>
    rw [Nat.repeat]
    split
    · rename_i t ht
      exact sound_of_step ih ht
    · exact ih
    · exact ih

/-- Settles O37: no meaning has a fault or a refusal of its own, and none touches the queue. -/
theorem everyCommandCompletes : Obligations.EveryCommandCompletes := by
  unfold Obligations.EveryCommandCompletes
  refine ⟨fun c s => ?_, fun s => ?_⟩
  · obtain ⟨t, he, hk⟩ := exec_keeps c s
    exact ⟨t, he, hk.pending⟩
  · obtain ⟨t, he, hp, -⟩ := step_keeps s
    exact ⟨t, he, hp⟩

/-- Settles O36: the two cases of the queue in `step`. -/
theorem stepRunsTheFrontCommand : Obligations.StepRunsTheFrontCommand := by
  unfold Obligations.StepRunsTheFrontCommand
  exact ⟨fun _ _ _ h => step_front h, fun _ h => step_idle h⟩

/-! ### The state after reset -/

/-- The state after reset has no event, response, fault record, power frame or commit record, and stores without a listed cell. -/
theorem reset_sound : Sound State.reset :=
  ⟨resetRegs_wf, ⟨rfl, fun _ => rfl⟩, noEvents_allowed, fun _ => Nat.zero_le _, Nat.zero_le _, Nat.zero_le _, Nat.zero_le _⟩

/-- The state after reset is in BOOT. -/
theorem reset_devState : State.reset.devState = 0 := by decide

/-- Settles O38: the parts of the state after reset, each at the value of its table. -/
theorem resetIsSound : Obligations.ResetIsSound := by
  unfold Obligations.ResetIsSound
  exact ⟨reset_sound, rfl, rfl, rfl, rfl, fun _ => rfl, reset_devState, by decide, rfl⟩

/-! ### A module without power -/

/-- Every command but the three of the supply acts only while the converters run. -/
theorem exec_eq_act (c : Instr) (s : State) (hon : ∀ off, c ≠ .powerOn off) (hfeed : ∀ f k, c ≠ .feedChange f k) (hbat : c ≠ .vbatLoss) :
    ∃ f, exec c s = act f s := by
  cases c with
  | powerOn off => exact absurd rfl (hon off)
  | feedChange f k => exact absurd rfl (hfeed f k)
  | vbatLoss => exact absurd rfl hbat
  | _ =>
    dsimp only [exec]
    exact ⟨_, rfl⟩

/-- Settles O40: a command that acts only while the converters run leaves a module without power as it is. -/
theorem unpoweredModuleDoesNothing : Obligations.UnpoweredModuleDoesNothing := by
  unfold Obligations.UnpoweredModuleDoesNothing
  intro c s hp hon hfeed hbat
  obtain ⟨f, hf⟩ := exec_eq_act c s hon hfeed hbat
  exact hf.trans (act_unpowered hp)

end Sys2Proof.Machine
end

section
/-! PROOFS. The rules that the commands share: what a command that acts answers, what it drives, and what a processed command finds. -/

namespace Sys2Proof.Machine

variable {s x y : State} {f : State → State} {h : Hdr} {code : Nat} {p : List Byte}

/-- A command that acts answers what its effect makes of the state it finds. -/
theorem acts (hx : Runs s x) (he : f x = y) : act f s = .next y :=
  (act_of_runs hx).trans (congrArg Host.Outcome.next he)

/-- A command finds no output. -/
theorem Runs.outputs (hx : Runs s x) : x.outputs = [] := by
  obtain ⟨-, rfl⟩ := hx
  rfl

/-- A command finds the host port as the command before it left it. -/
theorem Runs.host (hx : Runs s x) : x.host = s.host := by
  obtain ⟨-, rfl⟩ := hx
  rfl

/-- The first output of a command stands alone. -/
theorem Runs.put (hx : Runs s x) (o : Output) : x.put o = { x with outputs := [o] } := by
  obtain ⟨-, rfl⟩ := hx
  unfold State.put
  rw [withOutput_nil]

/-- A discarded transaction shows in LINK_ERROR, LINK_ERRORS and the data out alone (R450). -/
theorem Runs.linkError (hx : Runs s x) : x.linkError = { x with outputs := [.spiUndefined], host := { x.host with
    irq := putBit x.host.irq 13 true, linkErrors := min (x.host.linkErrors + 1) (2 ^ 32 - 1) } } := by
  obtain ⟨-, rfl⟩ := hx
  unfold State.linkError State.put
  exact congrArg (fun o => { s with outputs := o, host := { s.host with
    irq := putBit s.host.irq 13 true, linkErrors := min (s.host.linkErrors + 1) (2 ^ 32 - 1) } }) (withOutput_nil _)

/-- A Plezen command is processed while READY is set. -/
theorem Processed.ready (hp : Processed s h code p x) : x.ready = true := by
  obtain ⟨_, _, ha⟩ := hp
  exact ready_of_accepted ha

/-! ### The answer of a command -/

/-- What a command comes to, as the state that it answers: the response sent, or the command going on. -/
def answered (h : Hdr) (code : Nat) (a : Reply) : State :=
  match a with
  | (y, some (r, q)) => y.respond h code r q
  | (y, none) => y.awaitReply h

theorem answered_reply (y : State) (r : Nat) (q : List Byte) : answered h code (y.reply r q) = y.respond h code r q := rfl

theorem answered_ite (c : Prop) [Decidable c] (a b : Reply) :
    answered h code (if c then a else b) = if c then answered h code a else answered h code b :=
  apply_ite (answered h code) c a b

/-- A processed command answers what it comes to. -/
theorem command_answers {body : State → Reply} (hp : Processed s h code p x) (ha : answered h code (body x) = y) :
    act (fun s => s.command h code p body) s = .next y :=
  (command_processed hp).trans (congrArg Host.Outcome.next ha)

end Sys2Proof.Machine
end

section
/-! PROOFS. The transactions of the local host port (R450, R452): mailbox reads and writes, event reads and register writes. -/

namespace Sys2Proof.Machine

variable {s x : State} {n m : Fin 8} {off off' len : Nat} {data : List Byte} {crc : Option W32}

/-! ### Mailbox transactions -/

/-- A whole write within an IDLE mailbox stores its bytes (R450, R452). -/
theorem exec_mailboxWrite_stores (hx : Runs s x) (hi : (s.host.mbx.get n.val).st = .idle) (hd : data ≠ [])
    (hl : off + data.length ≤ 4096) :
    exec (.mailboxWrite n off data (some (spiCrc 3 (4096 * n.val + off) data))) s =
      .next (x.setMailbox n.val ⟨.idle, (s.host.mbx.get n.val).buf.writeBytes off data⟩) := by
  rw [← hx.host] at hi ⊢
  show execMailboxWrite n off data _ s = _
  unfold execMailboxWrite
  exact acts hx (if_neg (by simp [hi, hd, hl]))

/-- A write with a wrong CRC, no data, past the end or to a mailbox that is not IDLE is discarded (R450, R452). -/
theorem exec_mailboxWrite_discards (hx : Runs s x)
    (hc : crc ≠ some (spiCrc 3 (4096 * n.val + off) data) ∨ data = [] ∨ 4096 < off + data.length ∨ (s.host.mbx.get n.val).st ≠ .idle) :
    exec (.mailboxWrite n off data crc) s = .next x.linkError := by
  rw [← hx.host] at hc
  show execMailboxWrite n off data crc s = _
  unfold execMailboxWrite
  exact acts hx (if_pos (by simpa using hc))

/-- A read within a mailbox answers its bytes and their CRC (R450). -/
theorem exec_mailboxRead_answers (hx : Runs s x) (hn : 0 < len) (hl : off + len ≤ 4096) :
    exec (.mailboxRead n off len) s =
      .next (x.spiRead 4 (4096 * n.val + off) ((s.host.mbx.get n.val).buf.readBytes off len)) := by
  rw [← hx.host]
  show execMailboxRead n off len s = _
  unfold execMailboxRead
  exact acts hx (if_neg (by omega))

/-- A read of no bytes or past the end of the mailbox is discarded (R450). -/
theorem exec_mailboxRead_discards (hx : Runs s x) (hc : len = 0 ∨ 4096 < off + len) :
    exec (.mailboxRead n off len) s = .next x.linkError := by
  show execMailboxRead n off len s = _
  unfold execMailboxRead
  exact acts hx (if_pos hc)

/-- What a read drives: the data and the CRC over the opcode, the address and the data (R450). -/
theorem Runs.spiRead (hx : Runs s x) (op addr : Nat) (d : List Byte) :
    x.spiRead op addr d = { x with outputs := [.spiData (d ++ le 4 (spiCrc op addr d).toNat)] } :=
  hx.put _

/-! ### Event reads and register writes -/

/-- An event read answers the entry, or zeros where the queue holds none (R450). -/
theorem exec_eventRead_answers (hx : Runs s x) (k : Nat) :
    exec (.eventRead k) s = .next (x.spiRead 5 k (padTo 128 (((s.host.queue[k]?).map fun e => e.message false).getD []))) := by
  rw [← hx.host]
  show execEventRead k s = _
  unfold execEventRead
  refine acts hx ?_
  dsimp only
  cases x.host.queue[k]? <;> rfl

/-- A read that is cut short is discarded (R450). -/
theorem exec_cutShort_discards {i : Instr} (hx : Runs s x) (hi : (∃ n off, i = .mailboxRead n off none) ∨ i = .eventRead none) :
    exec i s = .next x.linkError := by
  rcases hi with ⟨n, off, rfl⟩ | rfl
  · exact act_of_runs hx
  · exact act_of_runs hx

/-- A register write with a wrong CRC, not aligned, empty or past the window is discarded (R450). -/
theorem exec_registerWrite_discards {vals : List W32} (hx : Runs s x)
    (hc : crc ≠ some (registerCrc off vals) ∨ off % 4 ≠ 0 ∨ vals = [] ∨ 0x100 < off + 4 * vals.length) :
    exec (.registerWrite off vals crc) s = .next x.linkError := by
  show execRegisterWrite off vals crc s = _
  unfold execRegisterWrite
  exact acts hx (if_pos (by simpa using hc))

/-- Settles O1: each transaction of R450 with its one effect, and each faulty form with the discard that they share. -/
theorem mailboxTransactionsCarryBytes : Obligations.MailboxTransactionsCarryBytes := by
  unfold Obligations.MailboxTransactionsCarryBytes
  refine ⟨fun s x n off data hx hi hd hl => exec_mailboxWrite_stores hx hi hd hl, fun s x n off len hx hn hl => ?_,
    fun s x n off data crc hx hc => ?_, fun s x n off len hx hc => ?_, fun s x off vals crc hx hc => ?_, fun s x k hx => ?_,
    fun s x i hx hi => ?_⟩
  · rw [exec_mailboxRead_answers hx hn hl, hx.spiRead]
    rfl
  · rw [exec_mailboxWrite_discards hx hc, hx.linkError]
  · rw [exec_mailboxRead_discards hx hc, hx.linkError]
  · rw [exec_registerWrite_discards hx hc, hx.linkError]
  · rw [exec_eventRead_answers hx k, hx.spiRead]
    rfl
  · rw [exec_cutShort_discards hx hi, hx.linkError]

/-! ### Reading what was written -/

/-- Bytes are read from the addresses of their range alone. -/
theorem readBytes_congr {a b : Mem} (h : ∀ k, off ≤ k → k < off + len → a.get k = b.get k) :
    a.readBytes off len = b.readBytes off len := by
  induction len generalizing off with
  | zero => rfl
  | succ len ih =>
    rw [Store.readBytes, Store.readBytes, h off (Nat.le_refl _) (by omega), ih fun k hk hl => h k (by omega) (by omega)]

/-- What a read answers rests on the bytes of its range alone. -/
theorem outputs_mailboxRead {u : State} (hx : Runs s x) (hn : 0 < len) (hl : off + len ≤ 4096) (hu : exec (.mailboxRead n off len) s = .next u) :
    u.outputs = [.spiData ((s.host.mbx.get n.val).buf.readBytes off len ++
      le 4 (spiCrc 4 (4096 * n.val + off) ((s.host.mbx.get n.val).buf.readBytes off len)).toNat)] := by
  rw [exec_mailboxRead_answers hx hn hl, hx.spiRead] at hu
  rw [← Host.Outcome.next.inj hu]

/-- Settles O2: a write puts its bytes into one mailbox, in canonical form, and leaves every other byte of every mailbox. -/
theorem mailboxReadReturnsWhatWasWritten : Obligations.MailboxReadReturnsWhatWasWritten := by
  unfold Obligations.MailboxReadReturnsWhatWasWritten
  refine ⟨fun s n off data hs hp hi hd hl => ?_, fun s n m off off' len data hs hp hi hd hl hn hl' hfar => ?_⟩
  · have hx : Runs s { s with outputs := [] } := ⟨hp, rfl⟩
    have ht := exec_mailboxWrite_stores hx hi hd hl
    have hr : Runs (State.setMailbox { s with outputs := [] } n.val ⟨.idle, (s.host.mbx.get n.val).buf.writeBytes off data⟩) _ := ⟨hp, rfl⟩
    have hlen := List.length_pos_iff.mpr hd
    have hu := exec_mailboxRead_answers (n := n) hr hlen hl
    refine ⟨_, _, ht, hu, ?_⟩
    rw [outputs_mailboxRead hr hlen hl hu]
    have stored : ((State.setMailbox { s with outputs := [] } n.val ⟨.idle, (s.host.mbx.get n.val).buf.writeBytes off data⟩).host.mbx.get
        n.val).buf.readBytes off data.length = data := by
      rw [State.setMailbox, Store.get_set_self hs.mailboxes.1]
      exact readBytes_writeBytes (hs.mailboxes.2 n.val) off data
    rw [stored]
    rfl
  · have hx : Runs s { s with outputs := [] } := ⟨hp, rfl⟩
    have ht := exec_mailboxWrite_stores hx hi hd hl
    have hr : Runs (State.setMailbox { s with outputs := [] } n.val ⟨.idle, (s.host.mbx.get n.val).buf.writeBytes off data⟩) _ := ⟨hp, rfl⟩
    have hu := exec_mailboxRead_answers (n := m) hr hn hl'
    have hv := exec_mailboxRead_answers (n := m) hx hn hl'
    refine ⟨_, _, _, ht, hu, hv, ?_⟩
    rw [outputs_mailboxRead hr hn hl' hu, outputs_mailboxRead hx hn hl' hv]
    have kept : ((State.setMailbox { s with outputs := [] } n.val ⟨.idle, (s.host.mbx.get n.val).buf.writeBytes off data⟩).host.mbx.get
        m.val).buf.readBytes off' len = (s.host.mbx.get m.val).buf.readBytes off' len := by
      by_cases e : m = n
      · subst e
        rw [State.setMailbox, Store.get_set_self hs.mailboxes.1]
        refine readBytes_congr fun k hk hk' => writeBytes_get_other _ data ?_
        rcases hfar with hne | hlt | hlt
        · exact absurd rfl hne
        · exact .inl (by omega)
        · exact .inr (by omega)
      · rw [setMailbox_other _ _ fun h => e (Fin.ext h)]
    rw [kept]

end Sys2Proof.Machine
end

section
/-! PROOFS. The direct registers (R451, R452): what a register write does, the doorbell, and the clearing of HOST_IRQ_STATUS. -/

namespace Sys2Proof.Machine

variable {s x : State} {off : Nat} {vals : List W32} {v : W32}

/-! ### The registers with commands of their own -/

theorem exec_hostIrqStatusClear (hx : Runs s x) (bits : W32) : exec (.hostIrqStatusClear bits) s = .next (x.clearIrq bits.toNat) := by
  show execHostIrqStatusClear bits s = _
  unfold execHostIrqStatusClear
  exact act_of_runs hx

theorem exec_mbxDoorbell (hx : Runs s x) (bits : Byte) : exec (.mbxDoorbell bits) s = .next (x.ring bits.toNat) := by
  show execMbxDoorbell bits s = _
  unfold execMbxDoorbell
  exact act_of_runs hx

theorem exec_evqAck (hx : Runs s x) (seq : W32) : exec (.evqAck seq) s = .next (x.ackEvents seq.toNat) := by
  show execEvqAck seq s = _
  unfold execEvqAck
  exact act_of_runs hx

theorem exec_resetRequest (hx : Runs s x) (v : W32) : exec (.resetRequest v) s = .next (x.requestReset v.toNat) := by
  show execResetRequest v s = _
  unfold execResetRequest
  exact act_of_runs hx

/-! ### Register writes -/

/-- A whole write within the window writes its registers in order (R450, R451). -/
theorem exec_registerWrite_writes (hx : Runs s x) (ha : off % 4 = 0) (hv : vals ≠ []) (hl : off + 4 * vals.length ≤ 0x100) :
    exec (.registerWrite off vals (some (registerCrc off vals))) s = .next (x.writeDirects off vals) := by
  show execRegisterWrite off vals _ s = _
  unfold execRegisterWrite
  exact acts hx (if_neg (by simp [ha, hv, hl]))

/-- A write of one word writes one register. -/
theorem exec_registerWrite_one (hx : Runs s x) (ha : off % 4 = 0) (hl : off ≤ 0xFC) (v : W32) :
    exec (.registerWrite off [v] (some (registerCrc off [v]))) s = .next (x.writeDirect off v) :=
  exec_registerWrite_writes hx ha (List.cons_ne_nil v []) (Nat.add_le_add_right hl 4)

/-- Read-only and reserved registers ignore a write (R451). -/
theorem writeDirect_ignored (x : State) (v : W32) (h08 : off ≠ 0x08) (h0C : off ≠ 0x0C) (h10 : off ≠ 0x10) (h20 : off ≠ 0x20)
    (h68 : off ≠ 0x68) (h6C : off ≠ 0x6C) : x.writeDirect off v = x := by
  unfold State.writeDirect
  split
  · exact absurd rfl h08
  · exact absurd rfl h0C
  · exact absurd rfl h10
  · exact absurd rfl h20
  · exact absurd rfl h68
  · exact absurd rfl h6C
  · rfl

/-- The state that one register write leaves is found unchanged by the next command. -/
theorem Runs.writeDirect (hx : Runs s x) (off : Nat) (v : W32) : Runs (x.writeDirect off v) (x.writeDirect off v) := by
  obtain ⟨ho, hp⟩ := writeDirect_quiet x off v
  obtain ⟨hs, -⟩ := hx.self
  exact runs_of_quiet (hp.trans hs) (ho.trans hx.outputs)

/-- Settles O3: one word goes to one register, and more words are written one after another. -/
theorem directRegisterWritesAct : Obligations.DirectRegisterWritesAct := by
  unfold Obligations.DirectRegisterWritesAct
  refine ⟨fun s x v hx => ⟨?_, ?_, ?_, ?_, ?_, ?_⟩, fun s x off v hx ha hl h08 h0C h10 h20 h68 h6C => ?_,
    fun s x off v vals hx ha hv hl => ?_⟩
  · rw [exec_registerWrite_one hx rfl (by decide), exec_hostIrqStatusClear hx]
    rfl
  · rw [exec_registerWrite_one hx rfl (by decide), exec_mbxDoorbell hx, BitVec.toNat_ofNat]
    rfl
  · rw [exec_registerWrite_one hx rfl (by decide), exec_evqAck hx]
    rfl
  · rw [exec_registerWrite_one hx rfl (by decide), exec_resetRequest hx]
    rfl
  · exact exec_registerWrite_one hx rfl (by decide) v
  · exact exec_registerWrite_one hx rfl (by decide) v
  · rw [exec_registerWrite_one hx ha hl, writeDirect_ignored x v h08 h0C h10 h20 h68 h6C]
  · have hlen := List.length_pos_iff.mpr hv
    refine ⟨_, exec_registerWrite_one hx ha (by omega) v, ?_⟩
    rw [exec_registerWrite_writes hx ha (List.cons_ne_nil v vals) (by simpa using hl),
      exec_registerWrite_writes (hx.writeDirect off v) (by omega) hv (by omega)]
    rfl

/-! ### The doorbell and the clearing of the status -/

/-- A bit of the eight mailboxes is in the list of those that are written. -/
theorem mem_written (bits : Nat) (n : Fin 8) : n.val ∈ (List.range 8).filter (testBit bits) ↔ testBit bits n.val = true := by
  simp [n.isLt]

/-- The written mailboxes stand once in their list. -/
theorem written_nodup (bits : Nat) : ((List.range 8).filter (testBit bits)).Nodup := List.nodup_range.filter _

/-- A case within a case, with the same value otherwise, is one case under both conditions. -/
theorem ite_ite_else {α : Type} (a b : Prop) [Decidable a] [Decidable b] (p q : α) :
    (if a then (if b then p else q) else q) = if a ∧ b then p else q := by
  by_cases ha : a
  · simp only [ha, if_true, true_and]
  · rw [if_neg ha, if_neg fun h => ha h.1]

/-- After a doorbell, each mailbox that was rung is BUSY if it was IDLE, and every other is as before (R452). -/
theorem ring_get (x : State) (bits : Nat) (n : Fin 8) : (x.ring bits).host.mbx.get n.val =
    if testBit bits n.val = true ∧ (x.host.mbx.get n.val).st = .idle then ⟨.busy, (x.host.mbx.get n.val).buf⟩ else x.host.mbx.get n.val := by
  rw [ring_eq, ring_fold_get _ (written_nodup bits)]
  simp only [mem_written, rungMailbox]
  exact ite_ite_else _ _ _ _

/-- A doorbell changes the mailboxes and LINK_ERRORS alone. -/
theorem ring_rest (x : State) (bits : Nat) :
    x.ring bits = { x with host := { x.host with mbx := (x.ring bits).host.mbx, linkErrors := (x.ring bits).host.linkErrors } } := by
  rw [ring_eq]
  exact ring_fold_rest _ x

/-- The bits of HOST_IRQ_STATUS that a host may clear (R451). -/
theorem clearable_contains (bits : Nat) (b : Fin 14) :
    ([0, 1, 2, 3, 4, 5, 6, 7, 10, 11, 12, 13].filter (testBit bits)).contains b.val =
      (testBit bits b.val && (decide (b.val < 8) || decide (10 ≤ b.val))) := by
  have hb : b.val ∈ [0, 1, 2, 3, 4, 5, 6, 7, 10, 11, 12, 13] ↔ b.val < 8 ∨ 10 ≤ b.val := by
    revert b
    decide
  rw [Bool.eq_iff_iff]
  simp only [List.contains_iff_mem, List.mem_filter, Bool.and_eq_true, Bool.or_eq_true, decide_eq_true_eq]
  rw [hb, and_comm]

/-- The state in which the status bits are cleared, before the mailboxes are freed. -/
def State.clearedIrq (s : State) (bits : Nat) : State :=
  { s with host := { s.host with
    irq := ([0, 1, 2, 3, 4, 5, 6, 7, 10, 11, 12, 13].filter (testBit bits)).foldl (fun v b => putBit v b false) s.host.irq } }

theorem clearIrq_eq (x : State) (bits : Nat) :
    x.clearIrq bits = ((List.range 8).filter (testBit bits)).foldl (fun (s : State) n => s.freeMailbox n) (x.clearedIrq bits) := rfl

/-- After a write to HOST_IRQ_STATUS, each finished mailbox whose bit was written is IDLE (R452). -/
theorem clearIrq_get {x : State} (hw : x.host.mbx.wf = true) (bits : Nat) (n : Fin 8) : (x.clearIrq bits).host.mbx.get n.val =
    if testBit bits n.val = true ∧ ((x.host.mbx.get n.val).st = .done ∨ (x.host.mbx.get n.val).st = .rejected) then
      ⟨.idle, (x.host.mbx.get n.val).buf⟩ else x.host.mbx.get n.val := by
  rw [clearIrq_eq, free_fold_get _ (written_nodup bits) (x.clearedIrq bits) hw]
  simp only [mem_written, freedMailbox, State.clearedIrq]
  exact ite_ite_else _ _ _ _

/-- A write to HOST_IRQ_STATUS changes the mailboxes and the status alone. -/
theorem clearIrq_rest (x : State) (bits : Nat) :
    x.clearIrq bits = { x with host := { x.host with mbx := (x.clearIrq bits).host.mbx, irq := (x.clearedIrq bits).host.irq } } := by
  rw [clearIrq_eq, free_fold_rest]
  rfl

/-- A write to HOST_IRQ_STATUS clears the written bits that may be cleared (R451). -/
theorem clearedIrq_bit (x : State) (bits : Nat) (b : Fin 14) : testBit (x.clearedIrq bits).host.irq b.val =
    (testBit x.host.irq b.val && !(testBit bits b.val && (decide (b.val < 8) || decide (10 ≤ b.val)))) := by
  rw [State.clearedIrq, clear_fold_bit, clearable_contains]

/-- Settles O4: each written mailbox is rung or freed once, and the folds over them change nothing else. -/
theorem doorbellRingsIdleMailboxes : Obligations.DoorbellRingsIdleMailboxes := by
  unfold Obligations.DoorbellRingsIdleMailboxes
  refine ⟨fun s x bits hx => ?_, fun s x bits hs hx => ?_⟩
  · rw [← hx.host]
    exact ⟨_, exec_mbxDoorbell hx bits, ring_rest x bits.toNat, ring_get x bits.toNat⟩
  · have hw : x.host.mbx.wf = true := hx.host ▸ hs.mailboxes.1
    have irq : (x.clearIrq bits.toNat).host.irq = (x.clearedIrq bits.toNat).host.irq := by rw [clearIrq_rest]
    rw [← hx.host]
    refine ⟨_, exec_hostIrqStatusClear hx bits, ?_, clearIrq_get hw bits.toNat, fun b => ?_⟩
    · rw [irq]
      exact clearIrq_rest x bits.toNat
    · rw [irq]
      exact clearedIrq_bit x bits.toNat b

end Sys2Proof.Machine
end

section
/-! PROOFS. The event commands, the commands of the device and the reads of the direct registers (R450 to R453, R458, R497). -/

namespace Sys2Proof.Machine

variable {s x : State} {h : Hdr}

/-! ### Acknowledging and resending events -/

/-- EVENT_RESEND sends the first 32 entries of the round, once in a frame while nothing is held back (R458). -/
theorem exec_eventResend_sends (hx : Runs s x) (hr : x.ready = true) (hh : x.flag F.laneStatusHolding = false)
    (hf : x.host.resentFrame ≠ some x.totalFrames) :
    exec .eventResend s = .next ((x.host.queue.filter fun e => (x.resendRound.take 32).contains e.seq).foldl
      (fun (s : State) e => s.sendToHosts (e.message true)) x.noteResend) := by
  show execEventResend s = _
  unfold execEventResend
  exact acts hx (if_neg (by simp [hr, hh, hf]))

/-- The numbers that an acknowledgement covers are the 2^31 up to and including it (R458). -/
theorem acknowledged_iff {ack q : Nat} (ha : ack < 2 ^ 32) (hq : q < 2 ^ 32) :
    acknowledged ack q = true ↔ ∃ d, d < 2 ^ 31 ∧ ack = (q + d) % 2 ^ 32 := by
  unfold acknowledged
  rw [decide_eq_true_eq]
  constructor
  · intro hd
    exact ⟨(ack + 2 ^ 32 - q % 2 ^ 32) % 2 ^ 32, hd, by omega⟩
  · rintro ⟨d, hd, rfl⟩
    omega

/-- Settles O5: the two acknowledgements filter the queue, and a resend round sends its first part. -/
theorem eventsAreAcknowledgedAndResent : Obligations.EventsAreAcknowledgedAndResent := by
  unfold Obligations.EventsAreAcknowledgedAndResent
  exact ⟨fun s x seq hx => exec_evqAck hx seq, fun s x h seq hp => command_replied hp rfl, fun ack q ha hq => acknowledged_iff ha hq,
    fun s x hx hr hh hf => exec_eventResend_sends hx hr hh hf⟩

/-! ### CMD_DEV_RESET and RESET_REQUEST -/

/-- A reset may be requested in IDLE and in MANUAL while READY is set (R453). -/
theorem canReset_iff (x : State) : x.canReset = true ↔ x.ready = true ∧ (x.rd F.ctlMode = 0 ∨ x.rd F.ctlMode = 5) := by
  simp [State.canReset, State.mode]

/-- CMD_DEV_RESET makes a reset pending where it may be requested (R453). -/
theorem exec_cmdDevReset (arg : Byte) (hp : Processed s h 0x000B [arg] x) :
    exec (.cmdDevReset h arg) s = .next (
      if arg = 0 ∧ (x.rd F.ctlMode = 0 ∨ x.rd F.ctlMode = 5) then
        State.respond { x with boot := { x.boot with resetAt := some x.clock } } h 0x000B Res.ok []
      else x.respond h 0x000B Res.wrongState []) := by
  have allowed : (arg = 0 ∧ x.canReset = true) ↔ (arg = 0 ∧ (x.rd F.ctlMode = 0 ∨ x.rd F.ctlMode = 5)) := by
    simp [canReset_iff, hp.ready]
  by_cases hc : arg = 0 ∧ (x.rd F.ctlMode = 0 ∨ x.rd F.ctlMode = 5)
  · rw [if_pos hc]
    exact command_replied hp (if_pos (allowed.mpr hc))
  · rw [if_neg hc]
    exact command_replied hp (if_neg (mt allowed.mp hc))

/-- RESET_REQUEST with its one value is CMD_DEV_RESET with argument 0 (R451). -/
theorem exec_resetRequest_acts (v : W32) (hx : Runs s x) :
    exec (.resetRequest v) s = .next (
      if v = 0xB007B007#32 ∧ x.ready = true ∧ (x.rd F.ctlMode = 0 ∨ x.rd F.ctlMode = 5) then
        { x with boot := { x.boot with resetAt := some x.clock } }
      else x) := by
  have value : v.toNat = 0xB007B007 ↔ v = 0xB007B007#32 := by bv_omega
  have allowed : (v.toNat = 0xB007B007 ∧ x.canReset = true) ↔
      (v = 0xB007B007#32 ∧ x.ready = true ∧ (x.rd F.ctlMode = 0 ∨ x.rd F.ctlMode = 5)) := by rw [value, canReset_iff]
  rw [exec_resetRequest hx, State.requestReset]
  simp only [allowed]
  rfl

/-! ### CMD_DEV_STATE -/

/-- What follows the event of a new device state: the step that leaving START cancels, then the stop of the logic or the mode that is
resumed (R46, R494, R501, R506). -/
theorem enterState_other {new : Nat} (cause : Nat) (hn : x.devState ≠ new) :
    x.enterState new cause =
      let y := (x.wr F.devState new).emit 4 (le 1 x.devState ++ le 1 new ++ le 1 cause)
      let z := if x.devState = 1 then y.cancelStep else y
      if new = 4 then z.stopLogic else if new = 2 then z.resumeMode else z :=
  if_neg hn

/-- CMD_DEV_STATE enters a state that it may enter (R497). -/
theorem exec_cmdDevState_enters (target : Byte) (hp : Processed s h 0x000C [target] x) (hm : x.mayMove target.toNat = true) :
    exec (.cmdDevState h target) s = .next ((x.enterState target.toNat 1).respond h 0x000C Res.ok []) :=
  command_replied hp (if_pos hm)

/-- CMD_DEV_STATE is refused for any other (R497). -/
theorem exec_cmdDevState_refused (target : Byte) (hp : Processed s h 0x000C [target] x) (hm : x.mayMove target.toNat = false) :
    exec (.cmdDevState h target) s = .next (x.respond h 0x000C Res.wrongState []) :=
  command_replied hp (if_neg (by simp [hm]))

/-! ### Reading the direct registers -/

/-- A read that is not aligned, empty or runs past the window is discarded (R450). -/
theorem exec_stSecLoRead_discards {off count : Nat} (sub : Nat) (hx : Runs s x)
    (hc : off % 4 ≠ 0 ∨ count = 0 ∨ 0x100 < off + 4 * count) :
    exec (.stSecLoRead off count sub) s = .next x.linkError := by
  show execStSecLoRead off count sub s = _
  unfold execStSecLoRead
  exact acts hx (if_pos hc)

/-- A read of registers other than ST_SEC_LO answers their words in order (R451). -/
theorem exec_stSecLoRead_answers {off count : Nat} (sub : Nat) (hx : Runs s x) (ha : off % 4 = 0) (hn : 0 < count)
    (hl : off + 4 * count ≤ 0x100) (hfar : off + 4 * count ≤ 0x28 ∨ 0x28 < off) :
    exec (.stSecLoRead off count sub) s =
      .next (x.spiRead 1 off ((List.range count).flatMap fun k => le 4 (x.direct (off + 4 * k)))) := by
  show execStSecLoRead off count sub s = _
  unfold execStSecLoRead
  refine acts hx ?_
  dsimp only
  rw [if_neg (by omega), if_neg (by omega)]
  congr 1
  rw [List.flatMap_def, List.flatMap_def]
  refine congrArg List.flatten (List.map_congr_left fun k hk => ?_)
  have := List.mem_range.mp hk
  rw [if_neg (by omega)]

/-- A read of ST_SEC_LO latches the seconds above it and the nanoseconds of its instant (R451). -/
theorem exec_stSecLoRead_latches {sub : Nat} (hx : Runs s x) (hs : sub < 125000) :
    exec (.stSecLoRead 0x28 (some 1) sub) s =
      .next ((x.latchTime (x.now + sub)).spiRead 1 0x28 (le 4 ((x.now + sub) / 1000000000))) := by
  have ht : min sub (nsTick - 1) = sub := Nat.min_eq_left (Nat.le_sub_one_of_lt hs)
  show execStSecLoRead 0x28 (some 1) sub s = _
  unfold execStSecLoRead
  refine acts hx ?_
  dsimp only
  rw [ht]
  simp [nsSecond]

/-- Latching the time drives nothing. -/
theorem Runs.latchTime (hx : Runs s x) (t : Nat) : Runs (x.latchTime t) (x.latchTime t) := by
  obtain ⟨hp, -⟩ := hx.self
  exact runs_of_quiet hp hx.outputs

/-- Settles O6: the commands of the device by their conditions, and the reads of the window by their ranges. -/
theorem deviceCommandsAct : Obligations.DeviceCommandsAct := by
  unfold Obligations.DeviceCommandsAct
  refine ⟨fun s x h data hp => command_replied hp rfl, fun s x h arg hp => exec_cmdDevReset arg hp, fun s x v hx => exec_resetRequest_acts v hx,
    fun s x h target hp hm hn => ?_, fun s x h target hp hm => exec_cmdDevState_refused target hp hm, fun s x sub hx hs => ?_,
    fun s x off count sub hx ha hn hl hfar => ?_, fun s x off count sub hx hc => ?_, fun s x off sub hx => ?_⟩
  · have recovery : target.toNat = 4 ↔ target = 4 := by bv_omega
    have normal : target.toNat = 2 ↔ target = 2 := by bv_omega
    rw [exec_cmdDevState_enters target hp hm, enterState_other 1 hn]
    simp only [recovery, normal]
  · rw [exec_stSecLoRead_latches hx hs, (hx.latchTime _).spiRead]
    rfl
  · rw [exec_stSecLoRead_answers sub hx ha hn hl hfar, hx.spiRead]
    rfl
  · rw [exec_stSecLoRead_discards sub hx hc, hx.linkError]
  · rw [← hx.linkError]
    exact act_of_runs hx

end Sys2Proof.Machine
end

section
/-! PROOFS. Parameter access and the Folio commands (R453 to R455, R461 to R463). -/

namespace Sys2Proof.Machine

variable {s x : State} {h : Hdr}

/-! ### Parameter access -/

/-- A parameter read whose count is wrong has no effect (R454). -/
theorem exec_cmdParamRead_miscounted {count : W16} {items : List (W16 × W16)}
    (hp : Processed s h 0x0001 (le 2 count.toNat ++ items.flatMap fun i => le 2 i.1.toNat ++ le 2 i.2.toNat) x)
    (hc : ¬ (1 ≤ items.length ∧ items.length ≤ 255 ∧ count.toNat = items.length)) :
    exec (.cmdParamRead h count items) s = .next (x.respond h 0x0001 Res.badLength []) := by
  show execCmdParamRead h count items s = _
  unfold execCmdParamRead
  exact command_replied hp (if_pos (eq_false_of_ne_true (mt (countOk_iff _ _).mp hc)))

/-- A parameter read answers its items in order (R454). -/
theorem exec_cmdParamRead_answers {count : W16} {items : List (W16 × W16)}
    (hp : Processed s h 0x0001 (le 2 count.toNat ++ items.flatMap fun i => le 2 i.1.toNat ++ le 2 i.2.toNat) x)
    (hc : 1 ≤ items.length ∧ items.length ≤ 255 ∧ count.toNat = items.length) :
    exec (.cmdParamRead h count items) s = .next (
      let rs := items.map fun i => x.readItem i.1.toNat i.2.toNat
      State.respond { x with free := x.free + 1 } h 0x0001 (((rs.map (·.1)).find? fun r => r ≠ Res.ok).getD Res.ok)
        (le 4 (x.rd F.timeFrameNumber) ++ le 2 (x.rd F.timeFrameEpoch) ++ le 2 items.length ++ rs.flatMap fun r => le 2 r.1 ++ r.2)) := by
  show execCmdParamRead h count items s = _
  unfold execCmdParamRead
  refine command_replied hp ?_
  rw [if_neg (by simp [(countOk_iff _ _).mpr hc])]
  dsimp only
  rw [List.length_map]
  rfl

/-- Items that all pass their checks leave no first refused item. -/
theorem firstRefused_none (x : State) {items : List (W16 × W16 × W64)} (k : Nat)
    (hok : ∀ j ∈ items, x.checkItem j.1.toNat (j.2.1.toNat % 2 ^ 14) j.2.2.toNat = Res.ok) :
    x.firstRefused k items = none := by
  have passed := firstRefused_pass x items [] k hok
  rwa [List.append_nil] at passed

section Write
variable {count : W16} {items : List (W16 × W16 × W64)}
  (hp : Processed s h 0x0002 (le 2 count.toNat ++ items.flatMap fun i => le 2 i.1.toNat ++ le 2 i.2.1.toNat ++ le 8 i.2.2.toNat) x)
include hp

/-- A parameter write whose count is wrong writes nothing (R454). -/
theorem exec_cmdParamWrite_miscounted (hc : ¬ (1 ≤ items.length ∧ items.length ≤ 255 ∧ count.toNat = items.length)) :
    exec (.cmdParamWrite h count items) s = .next (x.respond h 0x0002 Res.badLength []) := by
  show execCmdParamWrite h count items s = _
  unfold execCmdParamWrite
  exact command_replied hp (if_pos (eq_false_of_ne_true (mt (countOk_iff _ _).mp hc)))

/-- A parameter write with a refused item answers its index and result, and writes nothing (R454). -/
theorem exec_cmdParamWrite_refused {k r : Nat} (hc : 1 ≤ items.length ∧ items.length ≤ 255 ∧ count.toNat = items.length)
    (hr : x.firstRefused 0 items = some (k, r)) :
    exec (.cmdParamWrite h count items) s = .next (x.respond h 0x0002 r (le 2 k)) := by
  show execCmdParamWrite h count items s = _
  unfold execCmdParamWrite
  refine command_replied hp ?_
  rw [if_neg (by simp [(countOk_iff _ _).mpr hc]), hr]
  rfl

/-- A parameter write whose items all pass writes them in order (R454). -/
theorem exec_cmdParamWrite_writes (hc : 1 ≤ items.length ∧ items.length ≤ 255 ∧ count.toNat = items.length)
    (hr : x.firstRefused 0 items = none) :
    exec (.cmdParamWrite h count items) s = .next (State.respond
      (items.foldl (fun (s : State) i => s.writeItem i.1.toNat (i.2.1.toNat % 2 ^ 14) i.2.2.toNat) x) h 0x0002 Res.ok []) := by
  show execCmdParamWrite h count items s = _
  unfold execCmdParamWrite
  refine command_replied hp ?_
  rw [if_neg (by simp [(countOk_iff _ _).mpr hc]), hr]
  rfl

end Write

/-- Settles O9: the count is tested first, then the items, of which the first that fails refuses a write as a whole. -/
theorem parameterCommandsReadAndWrite : Obligations.ParameterCommandsReadAndWrite := by
  unfold Obligations.ParameterCommandsReadAndWrite
  refine ⟨fun s x h count items hp => ?_, fun s x h count items hp => ⟨fun hc => exec_cmdParamWrite_miscounted hp hc,
    fun h1 h255 hn => ⟨fun before after i hi hok hbad => ?_, fun hok => ?_⟩⟩⟩
  · split
    · exact exec_cmdParamRead_answers hp ‹_›
    · exact exec_cmdParamRead_miscounted hp ‹_›
  · refine exec_cmdParamWrite_refused hp ⟨h1, h255, hn⟩ ?_
    rw [hi, firstRefused_pass x before (i :: after) 0 hok, firstRefused_here x i after _ hbad, Nat.zero_add]
  · exact exec_cmdParamWrite_writes hp ⟨h1, h255, hn⟩ (firstRefused_none x 0 hok)

/-! ### Staging -/

/-- A section is named by 1 or 2, each with its limit (R455). -/
theorem within_sectionLimit {sec : Byte} {n : Nat} (hs : (sec = 1 ∧ n ≤ 524288) ∨ (sec = 2 ∧ n ≤ 262144)) :
    ¬ sectionLimit sec.toNat < n := by
  rcases hs with ⟨rfl, hn⟩ | ⟨rfl, hn⟩
  · exact Nat.not_lt.mpr hn
  · exact Nat.not_lt.mpr hn

/-- CMD_FOLIO_SECTION stages its bytes (R455). -/
theorem exec_cmdFolioSection_stages {sec : Byte} {off : W32} {data : List Byte}
    (hp : Processed s h 0x0005 ([sec] ++ le 4 off.toNat ++ data) x) (ho : x.stagingOpen = true) (hg : x.writeGuard = false)
    (hd : data ≠ []) (hl : data.length ≤ 3968)
    (hs : (sec = 1 ∧ off.toNat + data.length ≤ 524288) ∨ (sec = 2 ∧ off.toNat + data.length ≤ 262144)) :
    exec (.cmdFolioSection h sec off data) s = .next (
      let n := 1 - x.rd F.devFolioActive
      let f := x.folio n
      ((x.setFolio n (if sec = 1 then { f with sec1 := f.sec1.load off.toNat data } else { f with sec2 := f.sec2.load off.toNat data })).wr
        F.devFolioShadow 1).respond h 0x0005 Res.ok []) := by
  show execCmdFolioSection h sec off data s = _
  unfold execCmdFolioSection
  refine command_replied hp ?_
  rw [if_neg (by simp [hd, hl, Nat.not_lt.mp (within_sectionLimit hs)]), if_neg (by simp [ho]), if_neg (by simp [hg])]
  rfl

/-- CMD_FOLIO_TURN of a staged shadow waits for the frame instant (R462). -/
theorem exec_cmdFolioTurn_waits (hp : Processed s h 0x0003 [] x) (ho : x.stagingOpen = true) (hg : x.writeGuard = false)
    (hs : x.rd F.devFolioShadow = 1) :
    exec (.cmdFolioTurn h) s = .next (State.awaitReply { x with turn := { x.turn with pending := true, hdr := some h } } h) := by
  show execCmdFolioTurn h s = _
  unfold execCmdFolioTurn
  refine command_waits hp ?_
  rw [if_neg (by simp [ho]), if_neg (by simp [hs]), if_neg (by simp [hg])]

/-- CMD_FOLIO_DISCARD without a turn begins to sync the shadow (R462). -/
theorem exec_cmdFolioDiscard_syncs (hp : Processed s h 0x0004 [] x) (ht : x.rd F.devFolioTurn = 0) (hn : x.turn.pending = false) :
    exec (.cmdFolioDiscard h) s = .next ((x.wr F.devFolioShadow 2).respond h 0x0004 Res.ok []) := by
  show execCmdFolioDiscard h s = _
  unfold execCmdFolioDiscard
  exact command_replied hp (if_neg (by simp [ht, hn]))

/-! ### The turn -/

/-- FOLIO_VALIDATED refuses the turn, or seals it (R462, R463). -/
theorem exec_folioValidated_ends (hx : Runs s x) (hr : x.ready = true) (ht : x.rd F.devFolioTurn = 1) :
    exec .folioValidated s = .next (match x.validate, x.safetyConsent with
      | some (res, id, elem), _ => x.refuseTurn res (some (id, elem))
      | none, some (res, id) => x.refuseTurn res (some (id, 0))
      | none, none => State.wr { x with turn := { x.turn with
          prepared := some (1 - x.rd F.devFolioActive, (x.folio (1 - x.rd F.devFolioActive)).crc),
          sealFrame := some (x.totalFrames + if 148 < x.time.tickDue then 1 else 0) } } F.devFolioTurn 2) := by
  show execFolioValidated s = _
  unfold execFolioValidated
  refine acts hx ?_
  rw [if_neg (by simp [hr, ht])]
  cases x.validate with
  | some r => rfl
  | none =>
    cases x.safetyConsent with
    | some r => rfl
    | none => simp only [bit, decide_eq_true_eq]

/-- FOLIO_COMMIT writes the commit record of a SEALED turn at F+19.0 of its frame (R461, R462). -/
theorem exec_folioCommit_commits {f n : Nat} {crc : W32} (hx : Runs s x) (hf : x.turn.sealFrame = some f)
    (hn : x.turn.prepared = some (n, crc)) (hh : x.turn.hdr = some h) (ht : x.atTick 152 = true) (hs : x.rd F.devFolioTurn = 2)
    (hl : f ≤ x.totalFrames) :
    exec .folioCommit s = .next (((x.writeCommit n crc).wr F.devFolioTurn 3).respond h 0x0003 Res.ok
      (le 4 ((x.totalFrames + 1) % 2 ^ 32) ++ le 2 ((x.totalFrames + 1) / 2 ^ 32) ++ stBytes ((x.totalFrames + 1) * 20000000))) := by
  show execFolioCommit s = _
  unfold execFolioCommit
  refine acts hx ?_
  rw [hf, hn, hh]
  exact if_neg (by simp [ht, hs, hl])

/-- SHADOW_SYNC_COMPLETE makes the shadow equal to the active Folio (R462). -/
theorem exec_shadowSyncComplete_cleans (hx : Runs s x) (hr : x.ready = true) (hs : x.rd F.devFolioShadow = 2) (hg : x.writeGuard = false) :
    exec .shadowSyncComplete s = .next ((x.setFolio (1 - x.rd F.devFolioActive) x.active).wr F.devFolioShadow 0).turnEvent := by
  show execShadowSyncComplete s = _
  unfold execShadowSyncComplete
  exact acts hx (if_neg (by simp [hr, hs, hg]))

/-- Settles O10: the commands that stage, the turn from its validation to its commit, and the end of syncing. -/
theorem folioCommandsStageAndTurn : Obligations.FolioCommandsStageAndTurn := by
  unfold Obligations.FolioCommandsStageAndTurn
  exact ⟨fun s x h sec off data hp ho hg hd hl hs => exec_cmdFolioSection_stages hp ho hg hd hl hs,
    fun s x h hp ho hg hs => exec_cmdFolioTurn_waits hp ho hg hs, fun s x h hp ht hn => exec_cmdFolioDiscard_syncs hp ht hn,
    fun s x hx hr ht => exec_folioValidated_ends hx hr ht,
    fun s x h f n crc hx hf hn hh ht hs hl => exec_folioCommit_commits hx hf hn hh ht hs hl,
    fun s x hx hr hs hg => exec_shadowSyncComplete_cleans hx hr hs hg⟩

end Sys2Proof.Machine
end

section
/-! PROOFS. The transfer, the verification and the trial of a firmware image (R466, R467). -/

namespace Sys2Proof.Machine

variable {s x : State} {h : Hdr}

/-! ### The transfer -/

/-- CMD_FW_BEGIN keeps the size and the digest and waits for the erase (R467). -/
theorem exec_cmdFwBegin_waits {size : W32} {digest : List Byte} (hp : Processed s h 0x0007 (le 4 size.toNat ++ digest) x)
    (ht : x.flag F.devFwSlotTrial = false) (hb : x.budget ≠ 3) (ho : x.flag F.devFwSlotOpen = false) (hd : digest.length = 32)
    (hs : 0 < size.toNat) (hm : size.toNat ≤ 2 ^ 25) (hn : x.fw.beginHdr = none) (hg : x.writeGuard = false) :
    exec (.cmdFwBegin h size digest) s = .next (State.awaitReply
      { x with fw := { x.fw with size := size.toNat, digest := digest, beginHdr := some h } } h) := by
  have hz : size ≠ 0 := by bv_omega
  show execCmdFwBegin h size digest s = _
  unfold execCmdFwBegin
  refine command_waits hp ?_
  rw [if_neg (by simp [ht, hb, ho]), if_neg (by simp [hd]), if_neg (by simp only [hz, false_or]; omega), if_neg (by simp [hn]),
    if_neg (by simp [hg])]

/-- FW_SLOT_ERASED opens the transfer (R467; log entries 68 and 69). -/
theorem exec_fwSlotErased_opens (hx : Runs s x) (hb : x.fw.beginHdr = some h) (hr : x.ready = true) (hg : x.writeGuard = false)
    (hn : x.budget ≠ 3) :
    exec .fwSlotErased s = .next (State.accrue (State.respond (State.emit (((({ x with fw := { x.fw with
        beginHdr := none, trialSlot := none, attempts := 0,
        slots := x.fw.slots.set (1 - x.rd F.devFwSlotRunning) (noImage (1 - x.rd F.devFwSlotRunning)) } } : State).wr
        F.devFwSlotOpen 1).wr F.devFwSlotCommitted 0).wr F.devFwNextOffset 0 |>.wr F.devFwVersionOther 0)
        3 (le 1 0 ++ le 1 (1 - x.rd F.devFwSlotRunning) ++ le 4 0 ++ le 2 Res.ok)) h 0x0007 Res.ok []) 0xE020 Config.slotBlocks) := by
  show execFwSlotErased s = _
  unfold execFwSlotErased
  refine acts hx ?_
  rw [hb]
  dsimp only
  rw [if_neg (by simp [hr])]
  exact (if_neg (Bool.eq_false_iff.mp hg)).trans (if_neg hn)

/-- CMD_FW_BLOCK at the expected offset stores its bytes (R453, R467). -/
theorem exec_cmdFwBlock_stores {off : W32} {data : List Byte} (hp : Processed s h 0x0008 (le 4 off.toNat ++ data) x)
    (ho : x.flag F.devFwSlotOpen = true) (hb : x.budget ≠ 3) (hc : x.fw.commitHdr = none) (hg : x.writeGuard = false)
    (hf : x.fw.blocksThisFrame < 4) (hd : data ≠ []) (hl : data.length ≤ 3968) (hn : off.toNat = x.rd F.devFwNextOffset)
    (hs : x.rd F.devFwNextOffset + data.length ≤ x.fw.size) :
    exec (.cmdFwBlock h off data) s = .next (
      let n := x.rd F.devFwNextOffset + data.length
      let slot := 1 - x.rd F.devFwSlotRunning
      let y := State.wr { x with fw := { x.fw with
        blocksThisFrame := x.fw.blocksThisFrame + 1,
        slots := x.fw.slots.set slot { (x.fw.slots.get slot) with
          bytes := (x.fw.slots.get slot).bytes.writeBytes (x.rd F.devFwNextOffset) data, size := n } } } F.devFwNextOffset n
      (if n = x.fw.size then y.emit 3 (le 1 1 ++ le 1 slot ++ le 4 0 ++ le 2 Res.ok) else y).respond h 0x0008 Res.ok (le 4 n)) := by
  show execCmdFwBlock h off data s = _
  unfold execCmdFwBlock
  refine command_replied hp ?_
  rw [if_neg (by simp [ho, hb, hc]), if_neg (by simp [hg]), if_neg (Nat.not_le.mpr hf), if_neg (by simp [hd, hl, hn, hs])]
  rfl

/-- Settles O7: the transfer from its command over the erase to its blocks. -/
theorem firmwareUpdateOpensAndReceives : Obligations.FirmwareUpdateOpensAndReceives := by
  unfold Obligations.FirmwareUpdateOpensAndReceives
  exact ⟨fun s x h size digest hp ht hb ho hd hs hm hn hg => exec_cmdFwBegin_waits hp ht hb ho hd hs hm hn hg,
    fun s x h hx hb hr hg hn => exec_fwSlotErased_opens hx hb hr hg hn,
    fun s x h off data hp ho hb hc hg hf hd hl hn hs => exec_cmdFwBlock_stores hp ho hb hc hg hf hd hl hn hs⟩

/-! ### Verification and trial -/

/-- CMD_FW_COMMIT of a complete transfer waits for the verification (R467). -/
theorem exec_cmdFwCommit_waits (hp : Processed s h 0x0009 [] x) (ho : x.flag F.devFwSlotOpen = true)
    (hn : x.rd F.devFwNextOffset = x.fw.size) (hc : x.fw.commitHdr = none) (hg : x.writeGuard = false) :
    exec (.cmdFwCommit h) s = .next (State.awaitReply { x with fw := { x.fw with commitHdr := some h } } h) := by
  show execCmdFwCommit h s = _
  unfold execCmdFwCommit
  refine command_waits hp ?_
  rw [if_neg (by simp [ho, hn, hc]), if_neg (by simp [hg])]

/-- FW_IMAGE_VERIFIED makes a good image the trial image and ends the transfer of any other (R467; log entry 68). -/
theorem exec_fwImageVerified_ends (hx : Runs s x) (hc : x.fw.commitHdr = some h) (hr : x.ready = true) (hg : x.writeGuard = false) :
    exec .fwImageVerified s = .next (
      let slot := 1 - x.rd F.devFwSlotRunning
      let img := x.fw.slots.get slot
      let version := Config.imageVersion img.bytes.cells
      let y := State.wr { x with fw := { x.fw with commitHdr := none } } F.devFwSlotOpen 0
      if Config.imageSigned img.bytes.cells = true ∧ Crypto.sha256 (img.bytes.readBytes 0 img.size) = x.fw.digest then
        ((((({ y with fw := { y.fw with
          trialSlot := some slot, attempts := 0, slots := y.fw.slots.set slot { img with present := true, version := version.toNat } } } : State).wr F.devFwSlotCommitted 1).wr
            F.devFwVersionOther version.toNat).emit 3 (le 1 2 ++ le 1 slot ++ le 4 version.toNat ++ le 2 Res.ok))).respond h 0x0009 Res.ok []
      else (y.emit 3 (le 1 2 ++ le 1 slot ++ le 4 0 ++ le 2 Res.imageInvalid)).respond h 0x0009 Res.imageInvalid []) := by
  show execFwImageVerified s = _
  unfold execFwImageVerified
  refine acts hx ?_
  rw [hc]
  dsimp only
  rw [if_neg (by simp [hr])]
  refine (if_neg (Bool.eq_false_iff.mp hg)).trans ?_
  simp only [Bool.and_eq_true, beq_iff_eq]
  rfl

/-- CMD_FW_ABORT ends the transfer and the start of a committed image (R453). -/
theorem exec_cmdFwAbort_ends (hp : Processed s h 0x000A [] x) (ho : x.flag F.devFwSlotOpen = true ∨ x.flag F.devFwSlotCommitted = true)
    (hc : x.fw.commitHdr = none) :
    exec (.cmdFwAbort h) s = .next ((({ x with fw := { x.fw with trialSlot := none, attempts := 0, commitHdr := none } } : State).wr
      F.devFwSlotOpen 0).wr F.devFwSlotCommitted 0 |>.respond h 0x000A Res.ok []) := by
  show execCmdFwAbort h s = _
  unfold execCmdFwAbort
  refine command_replied hp ?_
  rw [if_neg (by simpa using ho.resolve_left), hc]
  rfl

/-- FW_TRIAL_END makes the running slot good (R467). -/
theorem exec_fwTrialEnd_passes (hx : Runs s x) (ht : x.flag F.devFwSlotTrial = true) (hd : x.devState = 2) (hg : x.writeGuard = false)
    (hf : x.cfg F.devFwTrialTime * 50 ≤ x.fw.trialFrames) :
    exec .fwTrialEnd s = .next (
      let y := (({ x with fw := { x.fw with trialSlot := none, attempts := 0, trialFrames := 0 } } : State).wr F.devFwSlotGood
        (x.rd F.devFwSlotRunning)).wr F.devFwSlotTrial 0
      y.emit 3 (le 1 4 ++ le 1 (x.rd F.devFwSlotRunning) ++ le 4 (x.rd F.devFwVersion) ++ le 2 Res.ok)) := by
  show execFwTrialEnd s = _
  unfold execFwTrialEnd
  exact acts hx (if_neg (by simp [ht, hd, hg, hf]))

/-- Settles O8: the verification, the abort and the trial, each from its own condition. -/
theorem firmwareUpdateVerifiesAndStarts : Obligations.FirmwareUpdateVerifiesAndStarts := by
  unfold Obligations.FirmwareUpdateVerifiesAndStarts
  exact ⟨fun s x h hp ho hn hc hg => exec_cmdFwCommit_waits hp ho hn hc hg, fun s x h hx hc hr hg => exec_fwImageVerified_ends hx hc hr hg,
    fun s x h hp ho hc => exec_cmdFwAbort_ends hp ho hc, fun s x hx ht hd hg hf => exec_fwTrialEnd_passes hx ht hd hg hf⟩

end Sys2Proof.Machine
end

section
/-! PROOFS. Registers read back, the event queue's numbering and the fault log. -/

namespace Sys2Proof.Machine

variable {s t : State}

/-! ### Registers -/

/-- A counter increased reads the sum, or its largest value. -/
theorem rd_add_self (hs : s.regs.wf = true) (f : Fld) (n : Nat) (hw : f.w ≤ 64) :
    (s.add f n).rd f = min (s.rd f + n) (2 ^ f.w - 1) := by
  have hlt : min (s.rd f + n) (2 ^ f.w - 1) < 2 ^ f.w :=
    Nat.lt_of_le_of_lt (Nat.min_le_right _ _) (Nat.sub_lt (Nat.two_pow_pos _) Nat.one_pos)
  exact (rd_wr_self hs f _ hw).trans (Nat.mod_eq_of_lt hlt)

/-- Settles O43: the rules of a store in canonical form, and the bound of State.add. -/
theorem registersReadBackAndCountersStick : Obligations.RegistersReadBackAndCountersStick :=
  ⟨fun _ f v hs hw => rd_wr_self hs f v hw, fun s _ _ v h => rd_wr_other s v h, fun _ _ _ => rfl, fun _ f n hs hw => rd_add_self hs f n hw⟩

/-! ### The event queue -/

/-- Placing an entry numbers nothing, and writes no register but its two counters. -/
theorem place_numbering (s : State) (e : Event) :
    (s.place e).host.nextSeq = s.host.nextSeq ∧ (s.place e).host.wrapped = s.host.wrapped ∧
    ∀ f : Fld, f.key ≠ F.devEventLost.key ∧ f.key ≠ F.devEventMerged.key → (s.place e).rd f = s.rd f := by
  have queued : ∀ q : List Event, ∀ f : Fld, ({ s with host := { s.host with queue := q } } : State).rd f = s.rd f := fun _ _ => rfl
  have lost : ∀ (u : State) (n : Nat) (f : Fld), f.key ≠ F.devEventLost.key → (u.countLost n).rd f = u.rd f :=
    fun u n f h => rd_add_other u 1 h
  unfold State.place
  dsimp only
  split
  · split
    · exact ⟨rfl, rfl, fun _ _ => rfl⟩
    · split
      · exact ⟨rfl, rfl, fun f h => (lost _ _ f h.1).trans (queued _ f)⟩
      · split
        · exact ⟨rfl, rfl, fun f h => (rd_add_other _ 1 h.2).trans (queued _ f)⟩
        · exact ⟨rfl, rfl, fun _ _ => rfl⟩
  · split
    · exact ⟨rfl, rfl, fun _ _ => rfl⟩
    · split
      · exact ⟨rfl, rfl, fun f h => (lost _ _ f h.1).trans (queued _ f)⟩
      · exact ⟨rfl, rfl, fun f h => lost _ _ f h.1⟩

theorem countLost_queue (s : State) (n : Nat) : (s.countLost n).host.queue = s.host.queue := rfl

/-- The queue that placing leaves is a function of the queue before and the entry. -/
theorem place_queue_congr (h : s.host.queue = t.host.queue) (e : Event) : (s.place e).host.queue = (t.place e).host.queue := by
  unfold State.place
  dsimp only
  rw [h]
  split
  · split
    · rfl
    · split
      · rw [countLost_queue, countLost_queue]
      · split
        · rw [inc_host, inc_host]
        · exact h
  · split
    · rfl
    · split
      · rw [countLost_queue, countLost_queue]
      · rw [countLost_queue, countLost_queue, h]

/-- Placing keeps the queue as the rules allow it: place_keeps, said of the sound state after reset with this queue. -/
theorem place_allowed {e : Event} (hq : queueAllowed s.host.queue) (he : e.code ≤ 0x200) : queueAllowed (s.place e).host.queue := by
  obtain ⟨u, hu, sound⟩ : ∃ u : State, u.host.queue = s.host.queue ∧ Sound u :=
    ⟨{ State.reset with host := { State.reset.host with queue := s.host.queue } }, rfl, { resetIsSound.1 with queue := hq }⟩
  rw [← place_queue_congr hu]
  exact ((place_keeps (Keeps.refl u) e he).sound sound).queue

/-- The state in which queueOne places its entry: the number taken, WRAP noted, and dev.event_seq written. -/
def State.numbered (s : State) : State :=
  let u : State := { s with host := { s.host with nextSeq := (s.host.nextSeq + 1) % 2 ^ 32, wrapped := (s.host.nextSeq + 1) % 2 ^ 32 == 0 } }
  (if (s.host.nextSeq + 1) % 2 ^ 32 = 0 then u.inc F.devEventWraps else u).wr F.devEventSeq s.host.nextSeq

/-- The entry that queueOne places. -/
def State.occurrence (s : State) (code : Nat) (cls : EvClass) (flags : Nat) (payload : List Byte) : Event :=
  ⟨s.host.nextSeq, code, cls, 1, if s.host.wrapped then putBit flags 1 true else flags, s.now, payload⟩

theorem numbered_host (s : State) : s.numbered.host =
    { s.host with nextSeq := (s.host.nextSeq + 1) % 2 ^ 32, wrapped := (s.host.nextSeq + 1) % 2 ^ 32 == 0 } := by
  unfold State.numbered
  dsimp only
  split <;> rfl

theorem numbered_rd (hs : s.regs.wf = true) (hn : s.host.nextSeq < 2 ^ 32) : s.numbered.rd F.devEventSeq = s.host.nextSeq := by
  unfold State.numbered
  dsimp only
  refine (rd_wr_self ?_ F.devEventSeq _ (by decide)).trans (Nat.mod_eq_of_lt hn)
  split
  · exact Store.set_wf hs _ _
  · exact hs

/-- An occurrence is numbered and placed; sending it and journalling it leave the numbers and the queue as the placing left them,
and dev.event_seq too. -/
theorem queueOne_placed (s : State) (code : Nat) (cls : EvClass) (flags : Nat) (payload : List Byte) :
    (s.queueOne code cls flags payload).host.queue = (s.numbered.place (s.occurrence code cls flags payload)).host.queue ∧
    (s.queueOne code cls flags payload).host.nextSeq = (s.numbered.place (s.occurrence code cls flags payload)).host.nextSeq ∧
    (s.queueOne code cls flags payload).host.wrapped = (s.numbered.place (s.occurrence code cls flags payload)).host.wrapped ∧
    (s.queueOne code cls flags payload).rd F.devEventSeq = (s.numbered.place (s.occurrence code cls flags payload)).rd F.devEventSeq := by
  unfold State.queueOne
  extract_lets seq e next hs s1 s2 s3 hosts held s4
  have h4 : s4.host.queue = s3.host.queue ∧ s4.host.nextSeq = s3.host.nextSeq ∧ s4.host.wrapped = s3.host.wrapped ∧
      s4.rd F.devEventSeq = s3.rd F.devEventSeq := by
    show (ite _ _ _ : State).host.queue = _ ∧ (ite _ _ _ : State).host.nextSeq = _ ∧ (ite _ _ _ : State).host.wrapped = _ ∧
      (ite _ _ _ : State).rd _ = _
    split
    · exact ⟨rfl, rfl, rfl, rfl⟩
    · obtain ⟨hh, hr⟩ := sendAll_same hosts (e.message false) s3
      exact ⟨congrArg _ hh, congrArg _ hh, congrArg _ hh, hr _ (by decide)⟩
  rw [record_host, record_rd _ _ _ _ _ _ (by decide)]
  exact h4

/-- An Alarm occurrence adds one to the occurrences of its code. -/
theorem occurrence_reps (s : State) (code flags c : Nat) (payload : List Byte) :
    (s.occurrence code .alarm flags payload).reps c = if code = c then 1 else 0 := by
  unfold Event.reps State.occurrence
  simp

/-- Settles O42: the entry is placed by the rules of State.place, and nothing after it touches the queue or its numbers. -/
theorem eventsAreNumberedAndAlarmsKept : Obligations.EventsAreNumberedAndAlarmsKept := by
  unfold Obligations.EventsAreNumberedAndAlarmsKept
  intro s code cls flags payload hq hc t e
  obtain ⟨queue, next, wrapped, seq⟩ := queueOne_placed s code cls flags payload
  obtain ⟨pn, pw, pr⟩ := place_numbering s.numbered (s.occurrence code cls flags payload)
  have hn := numbered_host s
  have queued : s.numbered.host.queue = s.host.queue := by rw [hn]
  have hq1 : queueAllowed s.numbered.host.queue := queued ▸ hq
  have tn : t.host.nextSeq = (s.host.nextSeq + 1) % 2 ^ 32 := by rw [next, pn, hn]
  refine ⟨tn, ?_, ?_, fun ha => ?_, fun c => ?_, fun hs hlt => ?_⟩
  · have tw : t.host.wrapped = ((s.host.nextSeq + 1) % 2 ^ 32 == 0) := by rw [wrapped, pw, hn]
    rw [tw, tn, beq_iff_eq]
  · rw [queue]
    exact place_allowed hq1 hc
  · rw [queue]
    exact (place_alarm hq1 ha).1
  · rw [queue]
    by_cases ha : cls = .alarm
    · subst ha
      rw [(place_alarm hq1 rfl).2 c, occurrence_reps, queued]
      simp
    · rw [place_other ha c, if_neg fun h => ha h.1, Nat.add_zero, queued]
  · rw [seq, pr _ (by decide)]
    exact numbered_rd hs hlt

/-! ### The fault log -/

theorem ringRecord_fault (s : State) (kind flags : Nat) (body : List Byte) (fill : Nat) : (s.ringRecord kind flags body fill).fault = s.fault := by
  unfold State.ringRecord
  extract_lets r
  generalize ringRoom r.size s.life.ring (s.rd F.lifeRecBacklog) 0 = room
  obtain ⟨kept, used, lost⟩ := room
  rfl

theorem record_fault (s : State) (kind flags : Nat) (body : List Byte) (fill : Nat) : (s.record kind flags body fill).fault = s.fault := by
  unfold State.record
  split
  · rfl
  · split
    · rw [ringRecord_fault, ringRecord_fault]
    · rw [ringRecord_fault]

/-- The newest 64 entries of a list and one more end in that one. -/
theorem newest_getLast {α : Type} (l : List α) (a : α) : ((l ++ [a]).drop (l.length + 1 - 64)).getLast? = some a := by
  rw [List.getLast?_drop, if_neg (by rw [List.length_append, List.length_singleton]; omega)]
  simp

/-- Settles O48: the record stands last in the newest 64, and its sequence in the register. -/
theorem faultLogKeepsTheNewest : Obligations.FaultLogKeepsTheNewest := by
  unfold Obligations.FaultLogKeepsTheNewest
  intro s kind src sev place flags location syndrome seq r t
  have empty : (if s.fault.ring.isEmpty then 0 else (s.rd F.faultLogSequence + 1) % 2 ^ 32) = seq := by
    simp only [List.isEmpty_iff, seq]
  have ring : t.fault.ring = (s.fault.ring ++ [r]).drop (s.fault.ring.length + 1 - 64) := by
    show (s.logFault kind src sev place flags location syndrome).fault.ring = _
    unfold State.logFault
    extract_lets seq' r' ring' u
    rw [record_fault]
    show ring'.drop _ = _
    simp only [ring', r', seq', empty, r, List.length_append, List.length_singleton]
  refine ⟨ring, ?_, ?_, fun hs => ?_⟩
  · rw [ring]
    exact newest_getLast _ _
  · rw [ring, List.length_drop, List.length_append, List.length_singleton]
    omega
  · show (s.logFault kind src sev place flags location syndrome).rd _ = _
    unfold State.logFault
    dsimp only
    rw [record_rd _ _ _ _ _ _ (by decide), rd_wr_self (by exact hs) _ _ (by decide), empty]
    refine Nat.mod_eq_of_lt ?_
    simp only [seq]
    split
    · decide
    · exact Nat.mod_lt _ (by decide)

end Sys2Proof.Machine
end

section
/-! PROOFS. The frame count, the layout of the Ledger and what a reset leaves. -/

namespace Sys2Proof.Machine

variable {s : State}

/-! ### The frame count -/

/-- The frame counts of an instant are those of the number of the frame, whatever stood before. -/
theorem setFrame_counts (hs : s.regs.wf = true) (t : Nat) :
    (s.setFrame t).rd F.timeFrameIndex = t / nsFrame % 50 ∧ (s.setFrame t).rd F.timeFrameNumber = t / nsFrame % 2 ^ 32 ∧
    (s.setFrame t).rd F.timeFrameEpoch = t / nsFrame / 2 ^ 32 % 2 ^ 16 := by
  have h1 : (s.wr F.timeFrameNumber (t / nsFrame % 2 ^ 32)).regs.wf = true := Store.set_wf hs _ _
  have h2 : ((s.wr F.timeFrameNumber (t / nsFrame % 2 ^ 32)).wr F.timeFrameEpoch (t / nsFrame / 2 ^ 32)).regs.wf = true :=
    Store.set_wf h1 _ _
  unfold State.setFrame
  dsimp only
  refine ⟨?_, ?_, ?_⟩
  · rw [rd_wr_self h2 _ _ (by decide)]
    have : t / nsFrame % 50 < 2 ^ F.timeFrameIndex.w := Nat.lt_trans (Nat.mod_lt _ (by decide)) (by decide : 50 < 2 ^ F.timeFrameIndex.w)
    exact Nat.mod_eq_of_lt this
  · rw [rd_wr_other _ _ (by decide), rd_wr_other _ _ (by decide), rd_wr_self hs _ _ (by decide)]
    show t / nsFrame % 2 ^ 32 % 2 ^ 32 = _
    rw [Nat.mod_mod]
  · rw [rd_wr_other _ _ (by decide), rd_wr_self h1 _ _ (by decide)]

/-- The number of the frame that starts at S seconds and N nanoseconds, N a multiple of a frame. -/
theorem frame_of_instant (S : Nat) {N : Nat} (hN : N % 20000000 = 0) :
    (S * nsSecond + N) / nsFrame = S * 50 + N / 20000000 := by
  unfold nsSecond nsFrame
  omega

/-- Settles O49: the counts are those of the frame's number on the 20 ms grid. -/
theorem frameCountFollowsStationTime : Obligations.FrameCountFollowsStationTime := by
  unfold Obligations.FrameCountFollowsStationTime
  refine ⟨fun s S N hs hN hlt he => ?_, fun s u f hs hu h0 he => ?_⟩
  · obtain ⟨index, number, epoch⟩ := setFrame_counts hs (S * nsSecond + N)
    rw [frame_of_instant S hN] at index number epoch
    refine ⟨index.trans ?_, number, epoch.trans (Nat.mod_eq_of_lt he)⟩
    unfold nsSecond at hlt
    omega
  · obtain ⟨-, number, epoch⟩ := setFrame_counts hs ((f + 1) * nsFrame)
    obtain ⟨-, -, before⟩ := setFrame_counts hu (f * nsFrame)
    rw [Nat.mul_div_cancel _ (by decide)] at number epoch before
    refine ⟨number.trans h0, ?_⟩
    rw [epoch, before]
    omega

/-! ### The layout of the Ledger -/

theorem length_padTo (n : Nat) (xs : List Byte) : (padTo n xs).length = n := by
  unfold padTo
  rw [List.length_append, List.length_take, List.length_replicate]
  omega

/-- Padding of no more bytes than fit puts zeros after them. -/
theorem padTo_of_le {n : Nat} {xs : List Byte} (h : xs.length ≤ n) : padTo n xs = xs ++ List.replicate (n - xs.length) 0 := by
  unfold padTo
  rw [List.take_of_length_le h]

theorem length_stBytes (t : Nat) : (stBytes t).length = 10 := by
  unfold stBytes
  simp [length_le]

/-- An entry is its header of 16 bytes and its payload of 48. -/
theorem ledgerEntry_layout (e : LedgerEntry) :
    e.bytes.length = 64 ∧ e.bytes.drop 16 = padTo 48 e.payload ∧ unle (e.bytes.take 1) = e.stream % 256 := by
  unfold LedgerEntry.bytes
  refine ⟨?_, ?_, ?_⟩
  · simp [length_le, length_stBytes, length_padTo]
  · exact List.drop_left' (by simp [length_le, length_stBytes])
  · simp only [List.append_assoc]
    rw [List.take_left' (length_le _ _), unle_le, Nat.pow_one]

/-- Numbers written in eight bytes each stand at every eighth place. -/
theorem flatMap_le_at {l : List Nat} {n v : Nat} (h : l[n]? = some v) : ((l.flatMap (le 8)).drop (8 * n)).take 8 = le 8 v := by
  induction l generalizing n with
  | nil => simp at h
  | cons a rest ih =>
    rw [List.flatMap_cons]
    cases n with
    | zero =>
      rw [Nat.mul_zero, List.drop_zero, List.take_left' (length_le 8 a)]
      exact congrArg (le 8) (Option.some.inj h)
    | succ n =>
      rw [Nat.mul_succ, Nat.add_comm, ← List.drop_drop, List.drop_left' (length_le 8 a)]
      exact ih h

theorem length_flatMap_le (l : List Nat) : (l.flatMap (le 8)).length = 8 * l.length := by
  induction l with
  | nil => rfl
  | cons a rest ih => rw [List.flatMap_cons, List.length_append, length_le, ih, List.length_cons]; omega

/-- The header of a sample of a reference stream: its first eight bytes. -/
def refHeader (k kind count flags seq typ : Nat) : List Byte := le 1 k ++ le 1 kind ++ le 1 count ++ le 1 flags ++ le 2 seq ++ le 2 typ

theorem length_refHeader (k kind count flags seq typ : Nat) : (refHeader k kind count flags seq typ).length = 8 := by
  unfold refHeader
  simp [length_le]

/-- Zero numbers are zero bytes. -/
theorem flatMap_le_zero (n : Nat) : (List.replicate n 0).flatMap (le 8) = List.replicate (8 * n) 0 := by
  induction n with
  | zero => rfl
  | succ n ih => rw [List.replicate_succ, List.flatMap_cons, ih, Nat.mul_succ, Nat.add_comm, ← List.replicate_append_replicate]; rfl

/-- A padded sample is its header, its values and zeros up to five values. -/
theorem refPayload_padded (k kind flags seq typ : Nat) {vals : List F64} (h : vals.length ≤ 5) :
    padTo 48 (refPayload k kind flags seq typ vals) = refHeader k kind vals.length flags seq typ ++
      (vals.map BitVec.toNat ++ List.replicate (5 - vals.length) 0).flatMap (le 8) := by
  have values : (vals.flatMap fun v => le 8 v.toNat) = (vals.map BitVec.toNat).flatMap (le 8) := by rw [List.flatMap_map]
  have body : refPayload k kind flags seq typ vals =
      refHeader k kind vals.length flags seq typ ++ (vals.map BitVec.toNat).flatMap (le 8) := by
    unfold refPayload refHeader
    rw [List.take_of_length_le h, values]
  have len : (refPayload k kind flags seq typ vals).length = 8 + 8 * vals.length := by
    rw [body, List.length_append, length_refHeader, length_flatMap_le, List.length_map]
  have room : 48 - (8 + 8 * vals.length) = 8 * (5 - vals.length) := by omega
  rw [padTo_of_le (by omega), len, room, body, List.flatMap_append, flatMap_le_zero, List.append_assoc]

/-- The eight bytes at a value's place spell it. -/
theorem refPayload_value (k kind flags seq typ : Nat) {vals : List F64} (h : vals.length ≤ 5) {n v : Nat}
    (hv : (vals.map BitVec.toNat ++ List.replicate (5 - vals.length) 0)[n]? = some v) :
    ((padTo 48 (refPayload k kind flags seq typ vals)).drop (8 + 8 * n)).take 8 = le 8 v := by
  rw [refPayload_padded k kind flags seq typ h, ← List.drop_drop, List.drop_left' (length_refHeader ..)]
  exact flatMap_le_at hv

/-- Settles O50: an entry is header and payload; a payload's values stand at every eighth place, zeros after the last. -/
theorem ledgerEntriesKeepTheirLayout : Obligations.LedgerEntriesKeepTheirLayout := by
  unfold Obligations.LedgerEntriesKeepTheirLayout
  refine ⟨ledgerEntry_layout, fun k kind flags seq typ vals h => ?_⟩
  refine ⟨length_padTo _ _, ?_, fun n v hv => ?_, fun n hn h5 => ?_⟩
  · rw [refPayload_padded k kind flags seq typ h, List.take_left' (length_refHeader ..)]
    rfl
  · rw [refPayload_value k kind flags seq typ h (v := v.toNat), unle_le]
    · exact Nat.mod_eq_of_lt v.isLt
    · rw [List.getElem?_append_left (by rw [List.length_map]; exact (List.getElem?_eq_some_iff.mp hv).1), List.getElem?_map, hv]
      rfl
  · refine refPayload_value k kind flags seq typ h ?_
    rw [List.getElem?_append_right (by rwa [List.length_map]), List.length_map, List.getElem?_replicate, if_pos (by omega)]

/-! ### A reset -/

/-- No reset keeps the device state. -/
theorem devState_not_kept (kind : ResetKind) : keptId kind (F.devState.key / 64) (F.devState.key % 64) = false := by
  cases kind <;> decide

/-- The registers that a reset keeps leave the device state at its reset value, BOOT. -/
theorem keptRegs_devState (s : State) (kind : ResetKind) : (s.keptRegs kind).get F.devState.key = 0 := by
  unfold State.keptRegs
  dsimp only
  rw [Store.get_setAll_other]
  · split <;> rfl
  · intro c hc he
    rw [List.mem_filter, he, devState_not_kept] at hc
    exact absurd hc.2 (by decide)

/-- After a reset the device is in BOOT. -/
theorem doReset_devState (s : State) (kind : ResetKind) (cause : Nat) : (s.doReset kind cause).rd F.devState = 0 := by
  have kept : (s.afterReset kind cause).rd F.devState = 0 := congrArg (fun w : W64 => w.toNat) (keptRegs_devState s kind)
  unfold State.doReset State.wrFlag
  dsimp only
  rw [rd_wr_other _ _ (by decide), rd_wr_other _ _ (by decide), rd_wr_other _ _ (by decide), rd_wr_other _ _ (by decide),
    rd_wr_other _ _ (by decide), rd_wr_other _ _ (by decide), kept]

/-- A reset leaves everything but registers as State.afterReset says. -/
theorem doReset_eq (s : State) (kind : ResetKind) (cause : Nat) :
    s.doReset kind cause = { s.afterReset kind cause with regs := (s.doReset kind cause).regs } := rfl

/-- Settles O16: the fields of State.afterReset, and the device state in the registers that it keeps. -/
theorem resetStartsBootAnew : Obligations.ResetStartsBootAnew := by
  unfold Obligations.ResetStartsBootAnew
  intro s kind cause t
  have boot : t.rd F.devState = 0 := doReset_devState s kind cause
  have notReady : t.ready = false := by
    unfold State.ready State.devState
    rw [boot]
    rfl
  have rest : t = { s.afterReset kind cause with regs := t.regs } := doReset_eq s kind cause
  refine ⟨boot, notReady, ?_⟩
  rw [rest]
  refine ⟨fun _ => rfl, rfl, rfl, rfl, rfl, rfl, rfl, rfl, rfl, rfl, rfl, rfl, rfl, ?_, ?_, rfl, fun hk => ?_, fun hk => ?_⟩
  · show (s.lifeAfter kind).committed = _
    unfold State.lifeAfter
    split <;> rfl
  · show (s.lifeAfter kind).pages = _
    unfold State.lifeAfter
    split <;> rfl
  · show s.keptSafe kind = _ ∧ (s.keptFault kind).ring = _
    unfold State.keptSafe State.keptFault
    rw [if_pos hk, if_pos hk]
    exact ⟨rfl, rfl⟩
  · show (s.keptFault kind).ring = _ ∧ (s.keptSafe kind).tested = _
    unfold State.keptSafe State.keptFault
    rw [if_neg hk, if_neg hk]
    exact ⟨rfl, rfl⟩

end Sys2Proof.Machine
end

section
/-! PROOFS. The supply, the Write Guard and the governor. -/

namespace Sys2Proof.Machine

variable {s x : State} {h : Hdr}

/-! ### The supply -/

/-- An event of the supply answers what its effect makes of the state it finds, powered or not. -/
theorem always_acts {f : State → State} {y : State} (he : f { s with outputs := [] } = y) : always f s = .next y :=
  congrArg Host.Outcome.next he

/-- POWER_ON does nothing while the converters run. -/
theorem exec_powerOn_running (off : Nat) (hp : s.powered = true) : exec (.powerOn off) s = .next { s with outputs := [] } := by
  show execPowerOn off s = _
  unfold execPowerOn
  exact always_acts (if_pos hp)

/-- An external reset waits for the Endpaper that is being written (R488). -/
theorem exec_rstN_held {low : Nat} (hx : Runs s x) (hl : 10000 ≤ low) (hw : x.power.writing ≠ none) :
    exec (.rstN low) s = .next { x with boot := { x.boot with heldReset := true } } := by
  show execRstN low s = _
  unfold execRstN
  exact acts hx ((if_neg (Nat.not_lt.mpr hl)).trans (if_pos (Option.isSome_iff_ne_none.mpr hw)))

/-- A pulse shorter than 10 µs does nothing (R487). -/
theorem exec_rstN_short {low : Nat} (hx : Runs s x) (hl : low < 10000) : exec (.rstN low) s = .next x := by
  show execRstN low s = _
  unfold execRstN
  exact acts hx (if_pos hl)

theorem exec_vbatLoss_unpowered (hp : s.powered = false) :
    exec .vbatLoss s = .next { s with outputs := [], life := { s.life with rtcValid := false } } := by
  show execVbatLoss s = _
  unfold execVbatLoss
  exact always_acts (if_neg (by simp [hp]))

/-- Settles O11: each supply event in each case of its guard. -/
theorem supplyEventsAct : Obligations.SupplyEventsAct := by
  unfold Obligations.SupplyEventsAct
  refine ⟨fun s off hp => exec_powerOn_resets off hp, fun s off hp => exec_powerOn_running off hp,
    fun s x low hx hl hw => exec_rstN_resets hx hl hw, fun s x low hx hl hw => exec_rstN_held hx hl hw,
    fun s x low hx hl => exec_rstN_short hx hl, fun s x hx => ?_, fun s hp => exec_vbatLoss_unpowered hp, fun s f cls => rfl⟩
  show execConvertersStop s = _
  unfold execConvertersStop
  exact acts hx rfl

/-! ### The Write Guard -/

/-- A trip of the released guard is tripGuard (R427, R429, R464). -/
theorem exec_writeGuardTrip_first (c : GuardCause) (hx : Runs s x) (hg : x.writeGuard = false) :
    exec (.writeGuardTrip c) s = .next (x.tripGuard c (x.endpaper c)) := by
  show execWriteGuardTrip c s = _
  unfold execWriteGuardTrip
  exact acts hx (if_neg (by simp [hg]))

/-- A further trip is shown, counted and announced. -/
theorem exec_writeGuardTrip_again (c : GuardCause) (hx : Runs s x) (hg : x.writeGuard = true) :
    exec (.writeGuardTrip c) s = .next ((x.showTrip c).guardEvent 0 x.lastEndpaperSeq 0) := by
  show execWriteGuardTrip c s = _
  unfold execWriteGuardTrip
  exact acts hx (if_pos hg)

theorem exec_endpaperComplete_stores {e : Endpaper} (hx : Runs s x) (hw : x.power.writing = some e) :
    exec .endpaperComplete s = .next (if x.boot.heldReset then (x.storeEndpaper e).doReset .external 1 else x.storeEndpaper e) := by
  show execEndpaperComplete s = _
  unfold execEndpaperComplete
  refine acts hx ?_
  rw [hw]
  rfl

/-- The release 10 ms after the last trip (R427). -/
theorem exec_writeGuardRelease_releases (hx : Runs s x) (hg : x.writeGuard = true) (ht : 10000000 ≤ x.since x.power.sagAt) :
    exec .writeGuardRelease s =
      .next ((x.wr F.powerWriteGuardTripped 0).guardEvent 1 (x.rd F.powerEndpaperSeq) (x.since x.power.tripAt)) := by
  show execWriteGuardRelease s = _
  unfold execWriteGuardRelease
  refine acts hx (if_neg ?_)
  rw [hg]
  exact fun h => h.elim (by decide) (Nat.not_lt.mpr ht)

theorem exec_writeGuardRelease_waits (hx : Runs s x) (h : x.writeGuard = false ∨ x.since x.power.sagAt < 10000000) :
    exec .writeGuardRelease s = .next x := by
  show execWriteGuardRelease s = _
  unfold execWriteGuardRelease
  exact acts hx (if_pos h)

/-- Settles O12: the guard's commands, with tripGuard, guardEvent and storeEndpaper written out. -/
theorem writeGuardActs : Obligations.WriteGuardActs := by
  unfold Obligations.WriteGuardActs
  exact ⟨fun s x c hx hg => exec_writeGuardTrip_first c hx hg, fun s x c hx hg => exec_writeGuardTrip_again c hx hg,
    fun s x e hx hw => exec_endpaperComplete_stores hx hw, fun s x hx hg ht => exec_writeGuardRelease_releases hx hg ht,
    fun s x hx h => exec_writeGuardRelease_waits hx h⟩

/-! ### The governor -/

/-- The latch at F+19.5, once in a frame (R434 to R437). -/
theorem exec_governorLatch_latches (base : Int) (dies : List Int) (power : Nat) (hx : Runs s x) (ht : x.atTick 156 = true)
    (hl : x.latchedNow = false) : exec (.governorLatch base dies power) s = .next (x.latchPower base (hottest dies) power) := by
  show execGovernorLatch base dies power s = _
  unfold execGovernorLatch
  exact acts hx (if_neg (by simp [ht, hl]))

/-- A latch keeps the draw of the last 50 frames. -/
theorem latchPower_eq (x : State) (base die : Int) (power : Nat) : x.latchPower base die power = { x with power := { x.power with
    history := (x.power.history ++ [power]).drop (x.power.history.length + 1 - 50),
    latch := some ⟨x.clock, x.power.feeds, base, die, x.power.cmdCap, false, true⟩ } } := by
  unfold State.latchPower
  simp

theorem exec_upstepHoldExpiry_steps {l : Latch} (hx : Runs s x) (hl : x.power.latch = some l) (hs : x.power.started = true)
    (ht : (x.caps l).target < x.budget) (hh : x.holdElapsed x.power.holdFrom l.at_ = true) :
    exec .upstepHoldExpiry s = .next { x with power := { x.power with latch := some { l with step := true } } } := by
  show execUpstepHoldExpiry s = _
  unfold execUpstepHoldExpiry
  refine acts hx ?_
  rw [hl]
  exact if_pos ⟨hs, ht, hh⟩

theorem exec_cmdBudgetCap_answers (code : Byte) (hp : Processed s h 0xD001 [code] x) : exec (.cmdBudgetCap h code) s = .next (
    if code = 0xFF then State.respond { x with power := { x.power with cmdCap := none } } h 0xD001 Res.ok []
    else if code.toNat ≤ 3 then State.respond { x with power := { x.power with cmdCap := some code.toNat } } h 0xD001 Res.ok []
    else x.respond h 0xD001 Res.outOfRange []) := by
  show execCmdBudgetCap h code s = _
  unfold execCmdBudgetCap
  by_cases hf : code = 0xFF
  · rw [if_pos hf]
    exact command_replied hp (if_pos hf)
  · rw [if_neg hf]
    by_cases hc : code.toNat ≤ 3
    · rw [if_pos hc]
      exact command_replied hp ((if_neg hf).trans (if_neg (Nat.not_lt.mpr hc)))
    · rw [if_neg hc]
      exact command_replied hp ((if_neg hf).trans (if_pos (Nat.not_le.mp hc)))

/-- Settles O13: the latch, the step toward more work, and the three answers to a cap. -/
theorem governorLatchesAndHolds : Obligations.GovernorLatchesAndHolds := by
  unfold Obligations.GovernorLatchesAndHolds
  refine ⟨fun s x base d dies power hx ht hl => ?_, fun s x l hx hl hs ht hh => ?_, fun s x h code hp => exec_cmdBudgetCap_answers code hp⟩
  · rw [exec_governorLatch_latches base (d :: dies) power hx ht hl, latchPower_eq]
    rfl
  · exact exec_upstepHoldExpiry_steps hx hl hs ht (decide_eq_true hh)

end Sys2Proof.Machine
end

section
/-! PROOFS. The passing of time in BOOT, the end of BOOT, the entry into NORMAL and the step of Station Time. -/

namespace Sys2Proof.Machine

variable {s x : State}

/-! ### Time in BOOT -/

/-- A servo tick in BOOT only ends. -/
theorem exec_servoTick_boot (d : Differs) (hx : Runs s x) (hr : x.ready = false) (ht : x.time.tickDue < x.time.tickEnd) :
    exec (.servoTick d) s = .next x.endTick := by
  show execServoTick d s = _
  unfold execServoTick
  exact acts hx ((if_neg (Nat.not_le.mpr ht)).trans (if_neg (by simp [hr])))

/-- A frame instant in BOOT opens its frame (R32). -/
theorem exec_frameInstant_boot (i : FrameIn) (hx : Runs s x) (hr : x.ready = false) (ht : x.time.tickEnd ≤ x.time.tickDue)
    (hd : x.stepDue = false) : exec (.frameInstant i) s = .next x.openFrame.keepFrameValues := by
  show execFrameInstant i s = _
  unfold execFrameInstant
  refine acts hx ((if_neg ?_).trans (if_neg (by simp [hr])))
  simp [hd, ht]

/-- A tick of a frame that no step cut lasts 125 µs. -/
theorem tickStop_whole (ho : x.time.tickOrigin = 0) (hd : x.time.tickDue < 160) (ht : x.time.tb0 = x.time.frameAt + 125000 * x.time.tickDue) :
    x.tickStop = x.time.tb0 + 125000 := by
  unfold State.tickStop State.tickInstant State.frameEnd
  rw [if_pos ho, ho, ht, Nat.sub_zero, Nat.min_eq_left] <;> unfold nsTick
  · omega
  · unfold nsFrame
    omega

/-- The next multiple of 20 ms is the first at or after the instant. -/
theorem nextMultiple_spec (t : Nat) :
    nextMultiple 20000000 t % 20000000 = 0 ∧ t ≤ nextMultiple 20000000 t ∧ nextMultiple 20000000 t < t + 20000000 := by
  unfold nextMultiple toMultiple
  omega

/-- Settles O14: a tick and a frame instant without lanes, and the arithmetic of the grid. -/
theorem timePassesInBoot : Obligations.TimePassesInBoot := by
  unfold Obligations.TimePassesInBoot
  exact ⟨fun s x d hx hr ht => exec_servoTick_boot d hx hr ht, fun x ho hd ht => tickStop_whole ho hd ht,
    fun s x i hx hr ht hd => exec_frameInstant_boot i hx hr ht hd, nextMultiple_spec⟩

/-! ### The end of BOOT and the entry into NORMAL -/

/-- BOOT ends with an image and a lane that pass, unless a trial image finds its Folio invalid (R467, R493). -/
theorem exec_bootComplete_starts {b : BootIn} {slot duty : Nat} {rest : List Nat} (hx : Runs s x) (hs : x.bootSlot b = some slot)
    (hl : x.bootRoles b = duty :: rest) (hd : x.devState = 0)
    (ht : x.bootTrial slot = false ∨ b.trialFolioOk = true ∨ x.bootCommit b = none) :
    exec (.bootComplete b) s = .next (x.start slot (duty :: rest) b) := by
  show execBootComplete b s = _
  unfold execBootComplete
  refine acts hx ?_
  rw [hs, hl]
  dsimp only
  rw [if_neg (not_not_intro hd), if_neg]
  rintro ⟨h1, h2, h3⟩
  rcases ht with h | h | h
  · exact Bool.noConfusion (h.symm.trans h1)
  · exact Bool.noConfusion (h.symm.trans h2)
  · rw [h] at h3
    exact Bool.noConfusion h3

theorem unackedOf_eq (src : Option RestoreSrc) : unackedOf src = (src.map fun r => r.image.unacked).getD 0xFFFF := by
  cases src <;> rfl

theorem bootFallback_eq (x : State) (b : BootIn) : x.bootFallback b = ((x.bootCommit b).map (·.2)).getD false := by
  unfold State.bootFallback
  cases x.bootCommit b <;> rfl

/-- Without an image or a lane that passes BOOT goes on. -/
theorem exec_bootComplete_waits {b : BootIn} (hx : Runs s x) (h : x.bootSlot b = none ∨ x.bootRoles b = []) :
    exec (.bootComplete b) s = .next x := by
  show execBootComplete b s = _
  unfold execBootComplete
  refine acts hx ?_
  rcases h with h | h
  · rw [h]
  · rw [h]
    cases x.bootSlot b <;> rfl

/-- NORMAL_ENTRY enters NORMAL from START, which cancels a pending step and resumes the mode (R495, R501). -/
theorem exec_normalEntry_enters (hx : Runs s x) (hs : x.devState = 1) (ht : x.time.tickDue = 0) (hn : x.normalReady = true) :
    exec .normalEntry s = .next (((x.wr F.devState 2).emit 4 (le 1 1 ++ le 1 2 ++ le 1 0)).cancelStep.resumeMode) := by
  show execNormalEntry s = _
  unfold execNormalEntry
  refine acts hx ((if_pos ⟨hs, ht, hn⟩).trans ?_)
  rw [enterState_other 0 (by rw [hs]; decide), hs]
  rfl

/-- Settles O17: the pending reset, the four ends of BOOT_COMPLETE, and NORMAL_ENTRY. -/
theorem bootAndNormalAreEntered : Obligations.BootAndNormalAreEntered := by
  unfold Obligations.BootAndNormalAreEntered
  refine ⟨fun s x t hx ht hlt hr hd => exec_deviceReset_resets hx ht hlt hr hd, fun s x b slot duty rest hx hs hl hd ht => ?_,
    fun s x b slot duty rest hx hs hl hd ht hf hc => exec_bootComplete_fallsBack hx hs hl hd ht hf hc,
    fun s x b hx h => exec_bootComplete_waits hx h, fun s x hx hs ht hn => exec_normalEntry_enters hx hs ht hn⟩
  rw [exec_bootComplete_starts hx hs hl hd ht, State.start, bootFallback_eq, unackedOf_eq]
  rfl

/-- The conditions of NORMAL, each by itself (R495). -/
theorem normalReady_of {n : Nat} (hf : x.flag F.devFolioNone = false) (ha : x.flag F.timeStatusAcquired = true)
    (hl : x.flag F.timeStatusLocked = true) (hd : x.laneIn laneDuty = some n) (hs : x.cfg F.devStartSettle ≤ x.boot.settle) :
    x.normalReady = true := by
  unfold State.normalReady
  rw [hf, ha, hl, hd, decide_eq_true hs]
  rfl

/-- Settles O51: the conditions are those of State.normalReady. -/
theorem normalIsEnteredFromStart : Obligations.NormalIsEnteredFromStart := by
  unfold Obligations.NormalIsEnteredFromStart
  exact fun s x n hx hs ht hf ha hl hd hset => exec_normalEntry_enters hx hs ht (normalReady_of hf ha hl hd hset)

/-! ### The step of Station Time -/

/-- A pending step is due in START at the end of a frame that no step cut, with no pulse under way (R46, R47, R54). -/
theorem stepDue_of (hd : x.rd F.devState = 1) (hs : x.time.step ≠ none) (ht : x.time.tickDue = 160) (ho : x.time.tickOrigin = 0)
    (hp : x.time.ppsEdge = none) : x.stepDue = true := by
  have hd' : x.devState = 1 := hd
  unfold State.stepDue
  rw [hd', Option.isSome_iff_ne_none.mpr hs, ht, ho, hp]
  rfl

/-- A step that is due is made to its source. -/
theorem exec_gridStep_steps {src : TimeSrc} (hx : Runs s x) (hd : x.stepDue = true) (hs : x.stepSource = some src) :
    exec .gridStep s = .next (x.gridStep src) := by
  show execGridStep s = _
  unfold execGridStep
  refine acts hx ((if_neg (by simp [hd])).trans ?_)
  rw [hs]

/-- A step that is due without a source is cancelled (R47). -/
theorem exec_gridStep_cancels (hx : Runs s x) (hd : x.stepDue = true) (hs : x.stepSource = none) :
    exec .gridStep s = .next x.cancelStep := by
  show execGridStep s = _
  unfold execGridStep
  refine acts hx ((if_neg (by simp [hd])).trans ?_)
  rw [hs]

theorem stepSource_acquired {src : TimeSrc} (ha : x.flag F.timeStatusAcquired = true) (hs : srcOfCode (x.rd F.timeStatusSource) = some src)
    (hq : (x.source src).qualified = true) : x.stepSource = some src := by
  unfold State.stepSource
  rw [if_pos ha, hs]
  exact if_pos hq

theorem stepSource_first {src : TimeSrc} (ha : x.flag F.timeStatusAcquired = false) (hs : x.acquireSource = some src) :
    x.stepSource = some src := by
  unfold State.stepSource
  rw [if_neg (by simp [ha]), hs]

/-- Settles O52: the source that State.stepSource gives in each case, and the cancelling without one. -/
theorem stationTimeStepsToItsSource : Obligations.StationTimeStepsToItsSource := by
  unfold Obligations.StationTimeStepsToItsSource
  refine ⟨fun s x src hx hd hs ht ho hp => ⟨fun ha hc hq => ?_, fun ha hc => ?_⟩, fun s x hx hd hs ht ho hp hn => ?_⟩
  · exact exec_gridStep_steps hx (stepDue_of hd hs ht ho hp) (stepSource_acquired ha hc hq)
  · exact exec_gridStep_steps hx (stepDue_of hd hs ht ho hp) (stepSource_first ha hc)
  · refine (exec_gridStep_cancels hx (stepDue_of hd hs ht ho hp) hn).trans (congrArg Host.Outcome.next ?_)
    exact if_pos (Option.isSome_iff_ne_none.mpr hs)

end Sys2Proof.Machine
end

section
/-! PROOFS. Station Time served and marked: PTP on master ports, the qualification of the sources, and the time pulse. -/

namespace Sys2Proof.Machine

variable {s x : State} {h : Hdr}

/-! ### Master ports -/

theorem exec_ptpDelayReqRx_answers {port : Fin 9} (requester : W64) (at_ : Fin 125000) (hx : Runs s x)
    (hm : x.masterPort port.val = true) (hd : x.cfg F.timePtpProfile = 0) :
    exec (.ptpDelayReqRx port requester false at_) s =
      .next (x.put (.ptp port.val 3 (stBytes ((x.now + at_.val) / 8 * 8) ++ le 8 requester.toNat))) := by
  show execPtpDelayReqRx port requester false at_ s = _
  unfold execPtpDelayReqRx
  exact acts hx ((if_pos ⟨rfl, hd⟩).trans (if_pos hm))

theorem exec_ptpSyncTx_sends {port : Fin 9} (at_ : Fin 125000) (hx : Runs s x) (hm : x.masterPort port.val = true) :
    exec (.ptpSyncTx port at_) s = .next (x.put (.ptp port.val 0 (le 1 (x.ptpDomain false) ++ stBytes ((x.now + at_.val) / 8 * 8)))) := by
  show execPtpSyncTx port at_ s = _
  unfold execPtpSyncTx
  exact acts hx (if_pos hm)

/-! ### The qualification of the sources -/

/-- What a source freed of its jump is qualified by: TB2 by being measured, a PTP domain by its own test. -/
def State.requalifies (x : State) (t : TimeSrc) (o : Source) : Bool :=
  match t with
  | .tb2 => true
  | .ptp => x.ptpQualifies o
  | .tb1 => x.ptpQualifies o

/-- A source freed of its jump qualifies as its kind does (R62). -/
theorem exec_jumpRequalify_frees {t : TimeSrc} (hx : Runs s x) (hj : (x.source t).jumped = true)
    (hs : 60 * nsSecond ≤ x.since (x.source t).steadyFrom) (hm : x.isMeasured t = true) :
    exec (.jumpRequalify t) s = .next (
      x.setSource t (x.qualify { (x.source t) with jumped := false } (x.requalifies t { (x.source t) with jumped := false }))) := by
  show execJumpRequalify t s = _
  unfold execJumpRequalify
  refine acts hx ((if_pos ⟨hj, hs, hm⟩).trans ?_)
  cases t <;> rfl

/-- Of flags set for each number of a range, the one of a number reads as it reads where it was set. -/
theorem get_setRange (m : Flags) (f : Nat → Bool) {n k : Nat} (hk : k < n) :
    ∃ u : Flags, (m.wf = true → u.wf = true) ∧
      ((List.range n).foldl (fun (m : Flags) n => m.set n (f n)) m).get k = (u.set k (f k)).get k := by
  have canonical : ∀ (l : List Nat) (m : Flags), m.wf = true → (l.foldl (fun (m : Flags) n => m.set n (f n)) m).wf = true := by
    intro l
    induction l with
    | nil => exact fun _ h => h
    | cons a rest ih => exact fun _ h => ih _ (Store.set_wf h _ _)
  induction n with
  | zero => exact absurd hk (Nat.not_lt_zero k)
  | succ n ih =>
    rw [List.range_succ, List.foldl_append]
    by_cases he : k = n
    · subst he
      exact ⟨_, canonical _ m, rfl⟩
    · obtain ⟨u, hu, hg⟩ := ih (by omega)
      exact ⟨u, hu, (Store.get_set_other _ he (f n)).trans hg⟩

/-- A receiver whose time solution has been good for 10 s meets the test once it is judged (R58). -/
theorem timeReceivers_good {n g : Nat} (hn : n < 3) (hg : x.gnss.timeGood.get n = some g) (ht : 10 * nsSecond ≤ x.since g) :
    x.judgeReceivers.timeReceivers = true := by
  have meets : x.meetsTime n = true := by
    unfold State.meetsTime
    rw [hg]
    simp [ht]
  obtain ⟨u, -, hu⟩ := get_setRange x.gnss.timeOk x.meetsTime hn
  refine List.any_eq_true.mpr ⟨n, List.mem_range.mpr hn, hu.trans ?_⟩
  rw [meets]
  exact Store.get_set_listed u fun h => Bool.noConfusion h

/-- Receivers whose time solutions have all been bad for 2 s fail the test once they are judged (R58). -/
theorem timeReceivers_bad (hw : x.gnss.timeOk.wf = true)
    (hb : ∀ n < 3, x.gnss.timeGood.get n = none ∧ ∃ b, x.gnss.timeBad.get n = some b ∧ 2 * nsSecond ≤ x.since b) :
    x.judgeReceivers.timeReceivers = false := by
  refine List.any_eq_false.mpr fun n hn => ?_
  have hn := List.mem_range.mp hn
  obtain ⟨good, b, bad, ht⟩ := hb n hn
  have fails : x.meetsTime n = false := by
    unfold State.meetsTime
    rw [good, bad]
    simp [Nat.not_lt.mpr ht]
  obtain ⟨u, hu, hg⟩ := get_setRange x.gnss.timeOk x.meetsTime hn
  refine ne_true_of_eq_false (hg.trans ?_)
  rw [Store.get_set_self (hu hw), fails]

/-- TB2 is judged by its receivers (R58, R92). -/
theorem exec_tb2Qualify_judges {q : Bool} (hx : Runs s x)
    (hq : (x.time.tb2.measured && !x.time.tb2.jumped && x.judgeReceivers.timeReceivers) = q) :
    exec .tb2Qualify s = .next (x.judgeReceivers.setSource .tb2 (x.judgeReceivers.qualify x.time.tb2 q)) := by
  show execTb2Qualify s = _
  unfold execTb2Qualify
  exact acts hx (congrArg (fun b => x.judgeReceivers.setSource .tb2 (x.judgeReceivers.qualify x.time.tb2 b)) hq)

/-- A base beyond the limit for 10 s fails the cross-check (R72). -/
theorem exec_crosscheckTimeout_fails {t : Nat} (hx : Runs s x) (ho : x.time.overTb2 = some t) (ht : 10 * nsSecond ≤ x.since t)
    (hf : x.flag F.timeStatusCrosscheckFail = false) :
    exec (.crosscheckTimeout true) s =
      .next ((x.wrFlag F.timeStatusCrosscheckFail true).emit 0x14 (le 1 3 ++ x.nsBytes 0x14 x.time.tb2.offset ++ le 1 0)) := by
  show execCrosscheckTimeout true s = _
  unfold execCrosscheckTimeout
  refine acts hx ?_
  dsimp only
  rw [if_pos rfl, ho]
  exact if_pos ⟨ht, hf⟩

/-- Both bases within the limit for 10 s clear the failure (R72). -/
theorem exec_crosscheckTimeout_clears (tb2 : Bool) (hx : Runs s x) (h1 : x.time.overTb1 = none) (h2 : x.time.overTb2 = none)
    (ht : 10 * nsSecond ≤ x.since x.time.withinSince) (hf : x.flag F.timeStatusCrosscheckFail = true) :
    exec (.crosscheckTimeout tb2) s = .next ((x.wrFlag F.timeStatusCrosscheckFail false).emit 0x14
      (le 1 (if tb2 then 3 else 2) ++ x.nsBytes 0x14 (if tb2 then x.time.tb2 else x.time.tb1).offset ++ le 1 1)) := by
  show execCrosscheckTimeout tb2 s = _
  unfold execCrosscheckTimeout
  refine acts hx ?_
  dsimp only
  rw [h1, h2, ite_self]
  refine (if_pos ⟨hf, rfl, rfl, ht⟩).trans ?_
  cases tb2 <;> rfl

/-- After time.acquire_timeout any qualified source may be acquired (R59). -/
theorem exec_acquireTimeout_widens (hx : Runs s x) (ha : x.flag F.timeStatusAcquired = false)
    (ht : x.cfg F.timeAcquireTimeout * nsSecond ≤ x.since x.time.resetAt) :
    exec .acquireTimeout s = .next ({ x with time := { x.time with anySource := true } } : State).tryAcquire := by
  show execAcquireTimeout s = _
  unfold execAcquireTimeout
  exact acts hx (if_pos ⟨ha, ht⟩)

theorem exec_cmdTimeResync_wrongState (hp : Processed s h 0x1001 [] x) (hd : x.devState ≠ 1) :
    exec (.cmdTimeResync h) s = .next (x.respond h 0x1001 Res.wrongState []) := by
  show execCmdTimeResync h s = _
  unfold execCmdTimeResync
  exact command_replied hp (if_pos hd)

theorem exec_cmdTimeResync_noSource (hp : Processed s h 0x1001 [] x) (hd : x.devState = 1) (hn : x.firstQualified = none) :
    exec (.cmdTimeResync h) s = .next (x.respond h 0x1001 Res.noSource []) := by
  show execCmdTimeResync h s = _
  unfold execCmdTimeResync
  exact command_replied hp ((if_neg (not_not_intro hd)).trans (if_pos hn))

theorem exec_cmdTimeResync_pends (hp : Processed s h 0x1001 [] x) (hd : x.devState = 1) (hn : x.firstQualified ≠ none) :
    exec (.cmdTimeResync h) s = .next ((({ x with time := { x.time with step := some .resync } } : State).wrFlag
      F.timeGridStatusStepPending true).respond h 0x1001 Res.ok []) := by
  show execCmdTimeResync h s = _
  unfold execCmdTimeResync
  exact command_replied hp ((if_neg (not_not_intro hd)).trans (if_neg hn))

/-! ### The time pulse -/

/-- The pulse's edge raises the pin at its instant (R54, R74). -/
theorem exec_ppsEdge_rises {e : Nat} (hx : Runs s x) (he : x.time.ppsEdge = some e) (hw : x.withinTick e = true) :
    exec .ppsEdge s = .next (State.put { x with
      time := { x.time with
        ppsEdge := none, ppsHigh := true, ppsFall := x.clock + (e - x.now) + x.cfg F.timePpsWidth * nsMs } } (.pps true e)) := by
  show execPpsEdge s = _
  unfold execPpsEdge
  refine acts hx ?_
  rw [he]
  exact if_pos hw

theorem exec_ppsPulseEnd_falls (hx : Runs s x) (hh : x.time.ppsHigh = true) (ht : x.time.ppsFall < x.clock + nsTick) :
    exec .ppsPulseEnd s = .next (State.put { x with time := { x.time with ppsHigh := false } }
      (.pps false ((x.now : Int) + ((x.time.ppsFall : Int) - x.clock)))) := by
  show execPpsPulseEnd s = _
  unfold execPpsPulseEnd
  exact acts hx (if_pos ⟨hh, ht⟩)

/-- Settles O19: each event and command at its guard; TB2's two clauses are the judgement of its receivers. -/
theorem timeIsServedAndMarked : Obligations.TimeIsServedAndMarked := by
  unfold Obligations.TimeIsServedAndMarked
  refine ⟨fun s x port requester at_ hx hm => ⟨fun hd => exec_ptpDelayReqRx_answers requester at_ hx hm hd, exec_ptpSyncTx_sends at_ hx hm⟩,
    fun s x t hx hj hs hm => (exec_jumpRequalify_frees hx hj hs hm).trans (by cases t <;> rfl),
    fun s x n g hx hn hg ht hm hj => exec_tb2Qualify_judges hx ?_,
    fun s x hx hw hb => exec_tb2Qualify_judges hx ?_,
    fun s x t hx ho ht hf => exec_crosscheckTimeout_fails hx ho ht hf,
    fun s x tb2 hx h1 h2 ht hf => exec_crosscheckTimeout_clears tb2 hx h1 h2 ht hf,
    fun s x hx ha ht => exec_acquireTimeout_widens hx ha ht, fun s x h hp hd => exec_cmdTimeResync_wrongState hp hd,
    fun s x h hp hd hn => exec_cmdTimeResync_noSource hp hd hn, fun s x h hp hd hn => exec_cmdTimeResync_pends hp hd hn,
    fun s x hx ht hi he => ?_, fun s x e hx he hw => exec_ppsEdge_rises hx he hw, fun s x hx hh ht => exec_ppsPulseEnd_falls hx hh ht⟩
  · rw [hm, hj, timeReceivers_good hn hg ht]
    rfl
  · rw [timeReceivers_bad hw hb, Bool.and_false]
  · show execPpsMessage s = _
    unfold execPpsMessage
    exact acts hx (if_pos ⟨ht, hi, he⟩)

end Sys2Proof.Machine
end

section
/-! PROOFS. The order of the sources, and the lifetime records and the journal. -/

namespace Sys2Proof.Machine

variable {s x : State} {h : Hdr}

/-- An earlier source that has been qualified for time.revert_hold takes the steering at a frame instant (R63). -/
theorem exec_revertHoldExpiry_reverts {cur y : TimeSrc} (hx : Runs s x) (hc : srcOfCode (x.rd F.timeStatusSource) = some cur)
    (hy : ((x.sourceOrder.takeWhile fun z => z ≠ cur).find? fun z => (x.source z).qualified &&
      decide (x.cfg F.timeRevertHold * nsSecond ≤ x.since (x.source z).since)) = some y)
    (ht : x.time.tickDue = 0) (hh : x.cfg F.timeRevertHold ≠ 0) (ha : x.flag F.timeStatusAcquired = true)
    (ho : x.sourceOrder.contains cur = true) :
    exec .revertHoldExpiry s = .next (((x.steerTo y).trackRemaining).reportTime) := by
  show execRevertHoldExpiry s = _
  unfold execRevertHoldExpiry
  refine acts hx ?_
  dsimp only
  rw [hc]
  dsimp only
  rw [hy]
  exact if_pos ⟨ht, hh, ha, ho⟩

/-- A master port announces the grandmaster that TB0 follows, one step further (R73). -/
theorem exec_ptpAnnounceTx_relays {port : Fin 9} {a : Announce} (hx : Runs s x) (hm : x.masterPort port.val = true)
    (hk : x.time.masterKind = 0) (hp : x.time.masterParent = some a) :
    exec (.ptpAnnounceTx port) s = .next (x.put (.ptp port.val 4 (announceBytes a.gmIdentity a.priority1.toNat a.priority2.toNat
      a.clockClass.toNat a.accuracy.toNat a.variance.toNat (a.stepsRemoved.toNat + 1) ++ leInt 2 (x.rdInt F.lifeTaiUtc)))) := by
  show execPtpAnnounceTx port s = _
  unfold execPtpAnnounceTx
  refine acts hx ((if_pos hm).trans ?_)
  dsimp only
  rw [hk, hp]
  rfl

/-! ### Lifetime counters, leap seconds and the RTC -/

/-- At life.commit_interval the increments go into a new copy (R471, R472). -/
theorem exec_lifetimeCommit_commits (hx : Runs s x) (hr : x.ready = true) (hg : x.writeGuard = false)
    (hi : x.cfg F.lifeCommitInterval ≤ x.life.sinceCommit) :
    exec .lifetimeCommit s = .next { x with
      life := { x.life with
        committed := x.life.accrued.cells.foldl (fun (m : Nats) c => m.set c.1 (min (2 ^ 48 - 1) (m.get c.1 + c.2))) x.life.committed
        accrued := ⟨[]⟩, copySeq := x.life.copySeq + 1, older := x.life.committed, olderSeq := x.life.copySeq, sinceCommit := 0 } } := by
  show execLifetimeCommit s = _
  unfold execLifetimeCommit
  exact acts hx (if_neg (by simp [hr, hg, hi]))

/-- A value of TAI − UTC that has come into force is written and announced (R476). -/
theorem exec_leapSecond_applies {l : Leap} (hx : Runs s x)
    (hl : (x.life.leaps.filter fun l => decide (l.from_ ≤ x.second)).getLast? = some l) (hr : x.ready = true)
    (hn : x.rdInt F.lifeTaiUtc ≠ l.offset) :
    exec .leapSecond s = .next ((x.wrInt F.lifeTaiUtc l.offset).leapEvent l (x.noValue 0xE1) 0) := by
  show execLeapSecond s = _
  unfold execLeapSecond
  refine acts hx ?_
  rw [hl]
  exact if_neg (by simp [hr, hn])

/-- The RTC takes UTC at acquisition and at each whole UTC hour (R477). -/
theorem exec_rtcWrite_writes (hx : Runs s x) (hr : x.ready = true)
    (hd : x.life.rtcDue = true ∨ (x.flag F.timeStatusAcquired = true ∧ x.time.tickDue = 0 ∧
      ((x.now : Int) - x.taiUtc * (nsSecond : Int)) % (3600 * nsSecond : Nat) = 0)) :
    exec .rtcWrite s = .next { x with
      life := { x.life with rtcDue := false, rtcValid := true, rtcUtc := (x.now : Int) - x.taiUtc * (nsSecond : Int) - x.clock } } := by
  show execRtcWrite s = _
  unfold execRtcWrite
  refine acts hx (if_neg ?_)
  rintro (h | ⟨due, hour⟩)
  · exact Bool.noConfusion (h.symm.trans hr)
  · rcases hd with hd | ⟨ha, ht, hu⟩
    · exact Bool.noConfusion (due.symm.trans hd)
    · rw [ha, ht, decide_eq_true hu] at hour
      exact Bool.noConfusion hour

/-! ### The journal -/

/-- Outside its window DRAIN_PAGE does nothing (R41, R479). -/
theorem exec_drainPage_waits (ok : Bool) (hx : Runs s x)
    (hw : x.ready = false ∨ x.time.tickDue < x.deadline + 16 ∨ x.budget = 3 ∨ x.writeGuard = true ∨ x.pageLimit ≤ x.life.pagesThisFrame) :
    exec (.drainPage ok) s = .next x := by
  show execDrainPage ok s = _
  unfold execDrainPage
  exact acts hx (if_pos hw)

/-- In its window DRAIN_PAGE programs a page once one is full, and shows the backlog. -/
theorem exec_drainPage_drains (ok : Bool) (hx : Runs s x) (hr : x.ready = true) (ht : x.deadline + 16 ≤ x.time.tickDue)
    (hb : x.budget ≠ 3) (hg : x.writeGuard = false) (hp : x.life.pagesThisFrame < x.pageLimit) :
    exec (.drainPage ok) s = .next (
      let y := x.fillCarry
      if y.life.carry.length < pageBody then (y.wr F.lifeRecBacklog (min y.backlog (2 ^ 30 - 1))).checkWear else
      let z := y.programPage ok
      (z.wr F.lifeRecBacklog (min z.backlog (2 ^ 30 - 1))).checkWear) := by
  show execDrainPage ok s = _
  unfold execDrainPage
  refine acts hx ((if_neg ?_).trans ?_)
  · simp [hr, hb, hg, ht, hp]
  · dsimp only
    by_cases hc : x.fillCarry.life.carry.length < pageBody
    · rw [if_pos hc, if_pos hc]
    · rw [if_neg hc, if_neg hc]

theorem exec_cmdLifeJournalFind_found {sec : BitVec 48} {ns : W32} {p : Page}
    (hp : Processed s h 0xE001 (le 6 sec.toNat ++ le 4 ns.toNat) x)
    (hf : x.life.pages.find? (fun p => decide (sec.toNat * nsSecond + ns.toNat ≤ p.at_)) = some p) :
    exec (.cmdLifeJournalFind h sec ns) s = .next (x.respond h 0xE001 Res.ok (le 8 p.seq)) := by
  show execCmdLifeJournalFind h sec ns s = _
  unfold execCmdLifeJournalFind
  refine command_replied hp ?_
  rw [hf]
  rfl

theorem exec_cmdLifeJournalFind_notFound {sec : BitVec 48} {ns : W32} (hp : Processed s h 0xE001 (le 6 sec.toNat ++ le 4 ns.toNat) x)
    (hf : x.life.pages.find? (fun p => decide (sec.toNat * nsSecond + ns.toNat ≤ p.at_)) = none) :
    exec (.cmdLifeJournalFind h sec ns) s = .next (x.respond h 0xE001 Res.notFound []) := by
  show execCmdLifeJournalFind h sec ns s = _
  unfold execCmdLifeJournalFind
  refine command_replied hp ?_
  rw [hf]
  rfl

theorem exec_cmdLifeJournalRead_outOfRange {page : W64} {off : W16} {len : W32}
    (hp : Processed s h 0xE002 (le 8 page.toNat ++ le 2 off.toNat ++ le 4 len.toNat) x)
    (hl : len = 0 ∨ 3968 < len.toNat ∨ 4096 < off.toNat + len.toNat) :
    exec (.cmdLifeJournalRead h page off len) s = .next (x.respond h 0xE002 Res.outOfRange []) := by
  show execCmdLifeJournalRead h page off len s = _
  unfold execCmdLifeJournalRead
  exact command_replied hp (if_pos hl)

theorem exec_cmdLifeJournalRead_reads {page : W64} {off : W16} {len : W32} {p : Page}
    (hp : Processed s h 0xE002 (le 8 page.toNat ++ le 2 off.toNat ++ le 4 len.toNat) x)
    (h0 : len ≠ 0) (hl : len.toNat ≤ 3968) (ho : off.toNat + len.toNat ≤ 4096)
    (hf : x.life.pages.find? (fun p => p.seq == page.toNat) = some p) :
    exec (.cmdLifeJournalRead h page off len) s = .next (x.respond h 0xE002 Res.ok ((p.bytes.drop off.toNat).take len.toNat)) := by
  show execCmdLifeJournalRead h page off len s = _
  unfold execCmdLifeJournalRead
  refine command_replied hp ((if_neg (by simp only [h0, false_or]; omega)).trans ?_)
  rw [hf]
  rfl

/-- Settles O20: each event at its guard, DRAIN_PAGE in both windows, and the journal's answers. -/
theorem timeOrderAndRecordsAreKept : Obligations.TimeOrderAndRecordsAreKept := by
  unfold Obligations.TimeOrderAndRecordsAreKept
  exact ⟨fun s x cur y hx hc hy ht hh ha ho => exec_revertHoldExpiry_reverts hx hc hy ht hh ha ho,
    fun s x port a hx hm hk hp => exec_ptpAnnounceTx_relays hx hm hk hp,
    fun s x hx hr hg hi => exec_lifetimeCommit_commits hx hr hg hi,
    fun s x l hx hl hr hn => exec_leapSecond_applies hx hl hr hn,
    fun s x hx hr hd => exec_rtcWrite_writes hx hr hd,
    fun s x ok hx hw => exec_drainPage_waits ok hx hw,
    fun s x ok hx hr ht hb hg hp => exec_drainPage_drains ok hx hr ht hb hg hp,
    fun s x h sec ns p hp hf => exec_cmdLifeJournalFind_found hp hf,
    fun s x h sec ns hp hf => exec_cmdLifeJournalFind_notFound hp hf,
    fun s x h page off len hp hl => exec_cmdLifeJournalRead_outOfRange hp hl,
    fun s x h page off len p hp h0 hl ho hf => exec_cmdLifeJournalRead_reads hp h0 hl ho hf⟩

end Sys2Proof.Machine
end

section
/-! PROOFS. The sensor inputs and the receivers' lay-up. -/

namespace Sys2Proof.Machine

variable {s x : State} {h : Hdr}

/-! ### Edges -/

/-- A trigger output is driven at the edge that falls within the tick (R108). -/
theorem exec_triggerEdge_drives {t : Fin 8} (hx : Runs s x) (hr : x.ready = true)
    (hp : trigPeriod (x.cfg (F.inpTrigPeriod t.val)) ≠ 0) {g edge : Nat}
    (hg : x.nextGrid t.val (trigPeriod (x.cfg (F.inpTrigPeriod t.val))) (x.cfg (F.inpTrigAdvance t.val)) = g)
    (he : nearest4 (g - x.cfg (F.inpTrigAdvance t.val)) = edge) (hw : x.withinTick edge = true) :
    exec (.triggerEdge t) s = .next (State.put { x with
      inp := { (x.inp.edge t.val g edge) with
        trigHigh := x.inp.trigHigh.set t.val true
        trigFall := x.inp.trigFall.set t.val (x.clock + edge + x.cfg (F.inpTrigWidth t.val) * 1000 - x.now) } }
      (.trig t.val (x.cfg (F.inpTrigPolarity t.val) == 0) edge)) := by
  subst hg he
  show execTriggerEdge t s = _
  unfold execTriggerEdge
  refine acts hx (if_neg ?_)
  simp [hp, hr, hw]

theorem exec_triggerPulseEnd_returns {t : Fin 8} (hx : Runs s x) (hh : x.inp.trigHigh.get t.val = true)
    (hf : x.inp.trigFall.get t.val ≤ x.clock + nsTick) :
    exec (.triggerPulseEnd t) s = .next (State.put { x with inp := { x.inp with trigHigh := x.inp.trigHigh.set t.val false } }
      (.trig t.val (x.cfg (F.inpTrigPolarity t.val) == 1) ((x.now : Int) + ((x.inp.trigFall.get t.val : Int) - x.clock)))) := by
  show execTriggerPulseEnd t s = _
  unfold execTriggerPulseEnd
  exact acts hx (if_pos ⟨hh, hf⟩)

theorem exec_imuSyncEdge_rises {p : Fin 4} (hx : Runs s x) (hr : x.ready = true) (hp : imuPeriod (x.cfg (F.inpImuRate p.val)) ≠ 0)
    {g : Nat} (hg : x.nextGrid (8 + p.val) (imuPeriod (x.cfg (F.inpImuRate p.val))) 0 = g) (hw : x.withinTick g = true) :
    exec (.imuSyncEdge p) s = .next (State.put { x with inp := x.inp.edge (8 + p.val) g g } (.imuSync p.val g)) := by
  subst hg
  show execImuSyncEdge p s = _
  unfold execImuSyncEdge
  refine acts hx (if_neg ?_)
  simp [hp, hr, hw]

/-! ### Samples -/

/-- A run in 4-20 mA whose samples have been out of range for 50 ms is due for a wire fault (R110). -/
theorem wireDue_iff {r : AinRun} {t : Nat} (hs : r.wireSince = some t) (hm : r.mode = 3) :
    r.wireDue = true ↔ t + 50 * nsMs + ainPeriod r.preset ≤ r.next := by
  unfold AinRun.wireDue
  rw [hs, hm]
  simp

theorem exec_wireFaultDetect_shows {ch : Fin 16} (hx : Runs s x) (hw : (x.inp.ain.get ch.val).run.wireDue = true) :
    exec (.wireFaultDetect ch) s = .next (({ x with inp := { x.inp with
      ain := x.inp.ain.set ch.val (x.inp.ain.get ch.val).detect } } : State).setAin ch.val 4) := by
  show execWireFaultDetect ch s = _
  unfold execWireFaultDetect
  exact acts hx (if_pos hw)

/-- A first answer to a sync edge is good, or counted and rejected (R117, R118). -/
theorem exec_imuFrameRx_answers {p : Fin 4} {bytes : List Byte} {delay edge : Nat} (hx : Runs s x)
    (ha : x.imuAnswers p.val delay = some edge) (hp : imuPeriod (x.cfg (F.inpImuRate p.val)) ≠ 0)
    (hu : ∀ u, x.inp.imuUsed.get p.val = some u → u < edge) :
    exec (.imuFrameRx p bytes delay) s = .next (
      let y : State := { x with inp := { x.inp with imuUsed := x.inp.imuUsed.set p.val (some edge) } }
      if imuGood bytes = false ∨ x.imuPassed p.val edge (edge + delay) = true
      then (y.inc (F.inpImuErrors p.val)).reject (x.streamsOf 2 p.val) else y.takeImu p.val edge bytes) := by
  have first : (x.inp.imuUsed.get p.val).any (fun u => decide (edge ≤ u)) = false := by
    cases hg : x.inp.imuUsed.get p.val with
    | none => rfl
    | some u => exact decide_eq_false (Nat.not_le.mpr (hu u hg))
  show execImuFrameRx p bytes delay s = _
  unfold execImuFrameRx
  refine acts hx ?_
  dsimp only
  rw [ha]
  dsimp only
  rw [if_neg (by simp [hp, first])]
  rfl

/-- A stream that has had no sample for inp.stream_timeout reads NO_DATA (R126). -/
theorem exec_streamTimeout_shows {st : Fin 45} {t : Nat} (hx : Runs s x) (hr : x.ready = true)
    (hk : x.cfg (F.inpStreamSourceKind st.val) ≠ 0) (hl : x.inp.lastSample.get st.val = some t)
    (ht : x.cfg (F.inpStreamTimeout st.val) * nsMs ≤ x.since t) :
    exec (.streamTimeout st) s = .next ((if x.cfg (F.inpStreamSourceKind st.val) = 2
      then x.wr (F.inpImuStatus (x.cfg (F.inpStreamSourceIndex st.val))) 2 else x).setStream st.val 5) := by
  show execStreamTimeout st s = _
  unfold execStreamTimeout
  refine acts hx ?_
  dsimp only
  rw [hl]
  exact if_neg (by simp [hr, hk, ht])

/-- Settles O21: edges, samples, wire faults, the answers to a sync edge, and time-outs, each at its guard. -/
theorem inputsAreTriggeredAndSampled : Obligations.InputsAreTriggeredAndSampled := by
  unfold Obligations.InputsAreTriggeredAndSampled
  refine ⟨fun s x t hx hr hp hw => exec_triggerEdge_drives hx hr hp rfl rfl hw,
    fun s x t hx hh hf => exec_triggerPulseEnd_returns hx hh hf,
    fun s x p hx hr hp hw => exec_imuSyncEdge_rises hx hr hp rfl hw,
    fun s x ch pins hx hr hm hd => ?_,
    fun r t hs hm => wireDue_iff hs hm, fun s x ch hx hw => exec_wireFaultDetect_shows hx hw,
    fun s x p bytes delay edge hx ha hp hu => ?_,
    fun s x st t hx hr hk hl ht => exec_streamTimeout_shows hx hr hk hl ht⟩
  · show execAnalogSampleComplete ch pins s = _
    unfold execAnalogSampleComplete
    refine acts hx (if_neg ?_)
    rintro (h | h | h)
    · exact hm h
    · exact Bool.noConfusion (h.symm.trans hr)
    · exact absurd hd (Int.not_le.mpr h)
  · rw [exec_imuFrameRx_answers hx ha hp hu]
    refine ⟨fun hb => congrArg Host.Outcome.next (if_pos hb), fun hg hl => congrArg Host.Outcome.next (if_neg ?_)⟩
    simp [hg, hl]

/-! ### Messages -/

/-- A serial sentence is taken by its streams, or rejected on them (R119, R121, R122). -/
theorem exec_serialSentenceRx_takes {k : Fin 4} (chars : List Byte) (start : Nat) (hx : Runs s x) (hr : x.ready = true)
    (hb : x.cfg (F.inpSerBaud k.val) ≠ 0) :
    exec (.serialSentenceRx k chars start) s = .next (x.sentence 3 k.val (fun _ => true) none chars start) := by
  show execSerialSentenceRx k chars start s = _
  unfold execSerialSentenceRx
  exact acts hx (if_neg (by simp [hr, hb]))

/-- The lines of a datagram are sentences of each of its groups, or the datagram is rejected there (R120 to R122). -/
theorem exec_l450DatagramRx_takes (d : Datagram) (start : Nat) (hx : Runs s x) (hr : x.ready = true)
    (hb : x.bringsDatagrams d.port.val false = true) :
    exec (.l450DatagramRx d start) s = .next ((x.l450Groups d).foldl (fun s g =>
      match parseL450 d.bytes with
      | none => s.reject (s.streamsOf 4 g)
      | some lines => lines.foldl (fun s l => s.sentence 4 g
          (fun k => s.cfg (F.inpL450Src k) == 0 || s.cfg (F.inpL450Src k) == l.source) l.count l.sentence start) s) x) := by
  show execL450DatagramRx d start s = _
  unfold execL450DatagramRx
  exact acts hx (if_neg (by simp [hr, hb]))

/-- A sensor datagram is taken by its streams where it is well formed, and rejected there otherwise (R105, R124, R125). -/
theorem exec_sensorDatagramRx_takes (d : Datagram) (start : Nat) (hx : Runs s x) (hr : x.ready = true)
    (hb : x.bringsDatagrams d.port.val true = true) (hu : d.udp.toNat = x.cfg F.inpDgramPort) :
    exec (.sensorDatagramRx d start) s = .next (if datagramGood d.bytes = false then x.reject (x.datagramStreams d.bytes)
      else (x.datagramStreams d.bytes).foldl (fun s k => s.takeDatagram k d.bytes start) x) := by
  show execSensorDatagramRx d start s = _
  unfold execSensorDatagramRx
  exact acts hx (if_neg (by simp [hr, hb, hu]))

theorem acceptRef_stamped {k : Nat} (kind flags seq typ : Nat) (vals : List F64) (start : Nat) (ht : x.cfg (F.inpStreamTimingCls k) ≠ 0) :
    x.acceptRef k kind flags seq typ vals start = x.enterRef k kind flags seq typ vals (start - x.cfg (F.inpStreamLatency k) * 1000) :=
  if_neg ht

theorem acceptRef_linked {k : Nat} (kind flags seq typ : Nat) (vals : List F64) {start g : Nat} (ht : x.cfg (F.inpStreamTimingCls k) = 0)
    (hl : x.linkedStamp k start = some g) : x.acceptRef k kind flags seq typ vals start = x.enterRef k kind flags seq typ vals g := by
  unfold State.acceptRef
  rw [if_pos ht, hl]

theorem acceptRef_unmatched {k : Nat} (kind flags seq typ : Nat) (vals : List F64) {start : Nat} (ht : x.cfg (F.inpStreamTimingCls k) = 0)
    (hl : x.linkedStamp k start = none) : x.acceptRef k kind flags seq typ vals start = x.inc (F.inpStreamRejects k) := by
  unfold State.acceptRef
  rw [if_pos ht, hl]
  rfl

/-- Settles O22: the three kinds of messages, and the three stamps of R103. -/
theorem messagesReachTheirStreams : Obligations.MessagesReachTheirStreams := by
  unfold Obligations.MessagesReachTheirStreams
  refine ⟨fun s x k chars start hx hr hb => ?_, fun s x d start hx hr hb => ⟨fun lines hl => ?_, fun hl => ?_⟩,
    fun s x d start hx hr hb hu hg => ?_, fun s x d start hx hr hb hu hg => ?_,
    fun x k kind flags seq typ vals start ht => acceptRef_stamped kind flags seq typ vals start ht,
    fun x k kind flags seq typ vals start g ht hl => acceptRef_linked kind flags seq typ vals ht hl,
    fun x k kind flags seq typ vals start ht hl => acceptRef_unmatched kind flags seq typ vals ht hl⟩
  · rw [exec_serialSentenceRx_takes chars start hx hr hb, State.sentence]
    simp only [Bool.and_true, Option.getD_none]
  · rw [exec_l450DatagramRx_takes d start hx hr hb, hl]
  · rw [exec_l450DatagramRx_takes d start hx hr hb, hl]
  · rw [exec_sensorDatagramRx_takes d start hx hr hb hu, if_pos hg]
  · rw [exec_sensorDatagramRx_takes d start hx hr hb hu, if_neg (by simp [hg])]

/-! ### Lay-up -/

theorem exec_cmdGnssLayup_answers {hours : W16} (hp : Processed s h 0x2001 (le 2 hours.toNat) x) :
    exec (.cmdGnssLayup h hours) s = .next (
      if x.rd F.ctlMode ≠ 4 ∧ x.rd F.ctlMode ≠ 5 then x.respond h 0x2001 Res.wrongState []
      else if 720 < hours.toNat then x.respond h 0x2001 Res.outOfRange []
      else ({ x with gnss := { x.gnss with layupReq := some hours.toNat } } : State).respond h 0x2001 Res.ok []) := by
  show execCmdGnssLayup h hours s = _
  unfold execCmdGnssLayup
  by_cases hm : x.rd F.ctlMode ≠ 4 ∧ x.rd F.ctlMode ≠ 5
  · rw [if_pos hm]
    exact command_replied hp (if_pos hm)
  · rw [if_neg hm]
    by_cases hl : 720 < hours.toNat
    · rw [if_pos hl]
      exact command_replied hp ((if_neg hm).trans (if_pos hl))
    · rw [if_neg hl]
      exact command_replied hp ((if_neg hm).trans (if_neg hl))

theorem exec_cmdGnssWake_answers (hp : Processed s h 0x2002 [] x) :
    exec (.cmdGnssWake h) s = .next (
      if x.gnss.layup then ({ x with gnss := { x.gnss with wakeReq := some 1 } } : State).respond h 0x2002 Res.ok []
      else x.respond h 0x2002 Res.wrongState []) := by
  show execCmdGnssWake h s = _
  unfold execCmdGnssWake
  by_cases hl : x.gnss.layup = true
  · rw [if_pos hl]
    exact command_replied hp (if_pos hl)
  · rw [if_neg hl]
    exact command_replied hp (if_neg hl)

/-- At a frame instant of a lay-up its end is judged by the command, the new mode and the duration (R96). -/
theorem exec_layupEnd_judges (hx : Runs s x) (ht : x.atTick 0 = true) (hl : x.gnss.layup = true) :
    exec .layupEnd s = .next (match x.gnss.wakeReq, x.gnss.layupEnd with
      | some c, _ => x.endLayup c
      | none, some e => if e ≤ x.clock then x.endLayup 0 else x
      | none, none => x) := by
  show execLayupEnd s = _
  unfold execLayupEnd
  exact acts hx (if_neg (by simp [ht, hl]))

/-- A keep-alive that is due wakes the receiver once and schedules the next (R97). -/
theorem exec_keepaliveWake_wakes (hx : Runs s x) (hl : x.gnss.layup = true) (hn : x.gnss.nextWake ≤ x.clock) (hb : x.budget ≠ 3) :
    exec .keepaliveWake s = .next (
      let y : State := { x with gnss := { x.gnss with
        nextWake := nextScheduled x.gnss.nextWake (x.cfg F.gnssLayupWakeInterval * nsHour) x.clock } }
      if x.gnss.wakeSince.isSome = true then y else
      (({ y with gnss := { y.gnss with wakeSince := some y.clock, wakeRx := y.cfg F.gnssLayupReceiver, wakeEphs := 0 } } :
        State).powerRx).showLayup) := by
  show execKeepaliveWake s = _
  unfold execKeepaliveWake
  exact acts hx (if_neg (by simp [hl, hn, hb]))

theorem exec_keepaliveEnd_ends {t : Nat} (hx : Runs s x) (hw : x.gnss.wakeSince = some t)
    (he : x.keepaliveComplete = true ∨ 15 * 60 * nsSecond ≤ x.since t) :
    exec .keepaliveEnd s = .next (((({ x with gnss := { x.gnss with wakeSince := none } } : State).powerRx).showLayup).emit 0x23
      (le 1 x.gnss.wakeRx ++ le 4 (Float.fratio (x.since t) nsSecond).toNat ++ le 4 x.gnss.wakeEphs ++
        le 1 (bit (!x.keepaliveComplete)))) := by
  show execKeepaliveEnd s = _
  unfold execKeepaliveEnd
  refine acts hx ?_
  rw [hw]
  exact if_pos he

theorem exec_gnssStartComplete_ends {rx : Fin 3} (hx : Runs s x) (ht : x.atTick 0 = true) (ho : x.gnss.on.get rx.val = true)
    (hs : x.gnss.starting.get rx.val = true) (hl : x.gnss.layup = false)
    (hf : (x.gnss.fixes.any fun f => f.rx == rx && x.goodFix f) = true) :
    exec (.gnssStartComplete rx) s = .next ((({ x with gnss := { x.gnss with
      starting := x.gnss.starting.set rx.val false } } : State).writeRecords (x.gnss.records.filter fun r => r.rx == rx)).showRx rx.val) := by
  show execGnssStartComplete rx s = _
  unfold execGnssStartComplete
  exact acts hx (if_pos ⟨ht, ho, hs, hl, hf⟩)

/-- Settles O23: the two commands, the end of a lay-up, its keep-alives, and the end of a start. -/
theorem layupSleepsAndWakes : Obligations.LayupSleepsAndWakes := by
  unfold Obligations.LayupSleepsAndWakes
  refine ⟨fun s x h hours hp => exec_cmdGnssLayup_answers hp, fun s x h hp => exec_cmdGnssWake_answers hp,
    fun s x c hx ht hl hw => ?_, fun s x e hx ht hl hw he => ?_, fun s x hx hl hn hb => exec_keepaliveWake_wakes hx hl hn hb,
    fun s x t hx hw he => exec_keepaliveEnd_ends hx hw he,
    fun s x rx hx ht ho hs hl hf => exec_gnssStartComplete_ends hx ht ho hs hl hf⟩
  · rw [exec_layupEnd_judges hx ht hl, hw]
  · rw [exec_layupEnd_judges hx ht hl, hw, he]

end Sys2Proof.Machine
end

section
/-! PROOFS. The reference vote and the collator's close. -/

namespace Sys2Proof.Machine

variable {s x : State} {h : Hdr}

/-! ### The vote -/

theorem exec_referenceVote_votes (hx : Runs s x) (hd : x.voteDue = true) :
    exec .referenceVote s = .next (((x.testSamples.voteOn 0).voteOn 1).sendWeights) := by
  show execReferenceVote s = _
  unfold execReferenceVote
  exact acts hx (if_pos hd)

theorem exec_weightsDeadline_holds (hx : Runs s x) (ha : x.atCore 39 = true) (hv : x.vote.voted = false) (hc : x.coll.closed = true) :
    exec .weightsDeadline s = .next { x with coll := { x.coll with held := true } } := by
  show execWeightsDeadline s = _
  unfold execWeightsDeadline
  exact acts hx (if_pos ⟨ha, hv, hc⟩)

/-- A pair that has disagreed for coll.vote_split_confirm frames is a split (R175). -/
theorem exec_splitConfirm_splits {g : VGroup} (hx : Runs s x) (hv : x.vote.voted = true) (hp : (x.group (vgroup g)).pair ≠ [])
    (hr : x.cfg F.collVoteSplitConfirm ≤ (x.group (vgroup g)).run) :
    exec (.splitConfirm g) s = .next (((groupRefs (vgroup g)).foldl (fun y i => y.showRef i)
      (x.enterSplit (vgroup g) 5 (x.group (vgroup g)).pair (x.group (vgroup g)).diff)).showGroup (vgroup g) (x.group (vgroup g)).pair.length) := by
  show execSplitConfirm g s = _
  unfold execSplitConfirm
  exact acts hx (if_pos ⟨hv, hp, hr⟩)

theorem exec_probationEnd_validates {r : Fin 12} (hx : Runs s x) (hr : x.ready = true) (hs : x.rd (F.collVoteRefStatus r.val) = 3)
    (ht : x.cfg F.collVoteRecoverTime * nsSecond ≤ x.since (x.ref r.val).since) :
    exec (.probationEnd r) s = .next ((x.setRef r.val { (x.ref r.val) with valid := true, ramp := 0 }).showRef r.val) := by
  show execProbationEnd r s = _
  unfold execProbationEnd
  exact acts hx (if_pos ⟨hr, hs, ht⟩)

/-! ### The vote commands -/

/-- A request that names no group, reference or value of the rules is refused at the frame instant (R179). -/
theorem voteCommand_bad {q : VoteReq} (hb : q.bad = true) :
    x.voteCommand q = x.respond q.hdr (if q.exclude then 0x4002 else 0x4001) Res.outOfRange [] :=
  if_pos hb

theorem exec_cmdVoteSelect_waits {g ref : Byte} (hp : Processed s h 0x4001 [g, ref] x) :
    exec (.cmdVoteSelect h g ref) s = .next (({ x with vote := { x.vote with
      requests := x.vote.requests ++ [⟨h, false, g.toNat, ref.toNat⟩] } } : State).awaitReply h) := by
  show execCmdVoteSelect h g ref s = _
  unfold execCmdVoteSelect
  exact command_waits hp rfl

theorem exec_cmdVoteExclude_waits {ref excl : Byte} (hp : Processed s h 0x4002 [ref, excl] x) :
    exec (.cmdVoteExclude h ref excl) s = .next (({ x with vote := { x.vote with
      requests := x.vote.requests ++ [⟨h, true, ref.toNat, excl.toNat⟩] } } : State).awaitReply h) := by
  show execCmdVoteExclude h ref excl s = _
  unfold execCmdVoteExclude
  exact command_waits hp rfl

/-! ### The collator -/

/-- A receiver that is inconsistent is consistent again after coll.rx_recover_frames good frames (R142). -/
theorem exec_rxConsistencyCount_clears {rx : Fin 3} (hx : Runs s x) (hb : testBit (x.rd F.collRxConsistency) rx.val = true)
    (hc : x.cfg F.collRxRecoverFrames ≤ x.coll.rxGood.get rx.val) :
    exec (.rxConsistencyCount rx) s =
      .next ((x.wr F.collRxConsistency (putBit (x.rd F.collRxConsistency) rx.val false)).emit 0x42 (le 1 rx.val ++ le 1 1)) := by
  show execRxConsistencyCount rx s = _
  unfold execRxConsistencyCount
  exact acts hx ((if_pos hb).trans (if_pos hc))

/-- A receiver is inconsistent after coll.rx_inconsistent_frames bad frames (R142). -/
theorem exec_rxConsistencyCount_sets {rx : Fin 3} (hx : Runs s x) (hb : testBit (x.rd F.collRxConsistency) rx.val = false)
    (hc : x.cfg F.collRxInconsistentFrames ≤ x.coll.rxBad.get rx.val) :
    exec (.rxConsistencyCount rx) s =
      .next ((x.wr F.collRxConsistency (putBit (x.rd F.collRxConsistency) rx.val true)).emit 0x42 (le 1 rx.val ++ le 1 0)) := by
  show execRxConsistencyCount rx s = _
  unfold execRxConsistencyCount
  exact acts hx ((if_neg (by simp [hb])).trans (if_pos hc))

theorem exec_dnWarmupEnd_ends {n : Nat} (hx : Runs s x) (hw : x.coll.dnWarm = some n) (hr : x.ready = true)
    (hc : x.cfg F.collDnWarmup ≤ n) :
    exec .dnWarmupEnd s = .next ({ x with coll := { x.coll with dnWarm := none } } : State).showDn := by
  show execDnWarmupEnd s = _
  unfold execDnWarmupEnd
  refine acts hx ?_
  rw [hw]
  exact if_pos ⟨hr, hc⟩

theorem exec_envReentry_unblocks (hx : Runs s x) (hr : x.ready = true) (hb : x.coll.blocked = true)
    (ho : x.flag F.collEnvBinOutside = false) (hi : x.cfg F.collEnvReentry ≤ x.coll.inside) :
    exec .envReentry s = .next ({ x with coll := { x.coll with blocked := false } } : State).showDn := by
  show execEnvReentry s = _
  unfold execEnvReentry
  exact acts hx (if_pos ⟨hr, hb, ho, hi⟩)

/-- At F+4 the Gathering is fixed once (R133, R149 to R152). -/
theorem exec_gatheringClose_closes (hx : Runs s x) (ha : x.atCore 32 = true) (hc : x.coll.closed = false) :
    exec .gatheringClose s = .next (
      let w := x.closeWork
      let y := ((x.discardLate w).takeGathering w).markEntries w
      if x.offloading && !w.late.isEmpty then y.startOffload else y) := by
  show execGatheringClose s = _
  unfold execGatheringClose
  exact acts hx (if_neg (by simp [ha, hc]))

/-- Settles O24: the vote, its commands and its refusals, and the collator's events, each at its guard. -/
theorem referencesAreVotedOn : Obligations.ReferencesAreVotedOn := by
  unfold Obligations.ReferencesAreVotedOn
  refine ⟨fun s x hx hd => exec_referenceVote_votes hx hd, fun s x hx ha hv hc => exec_weightsDeadline_holds hx ha hv hc,
    fun s x g hx hv hp hr => exec_splitConfirm_splits hx hv hp hr, fun s x r hx hr hs ht => exec_probationEnd_validates hx hr hs ht,
    fun x h g ref hb => voteCommand_bad ?_, fun s x h g ref hp => exec_cmdVoteSelect_waits hp,
    fun x h ref excl hb => voteCommand_bad ?_, fun s x h ref excl hp => exec_cmdVoteExclude_waits hp,
    fun s x rx hx hb hc => exec_rxConsistencyCount_clears hx hb hc, fun s x rx hx hb hc => exec_rxConsistencyCount_sets hx hb hc,
    fun s x n hx hw hr hc => exec_dnWarmupEnd_ends hx hw hr hc, fun s x hx hr hb ho hi => exec_envReentry_unblocks hx hr hb ho hi,
    fun s x hx ha hc => exec_gatheringClose_closes hx ha hc⟩
  · unfold VoteReq.bad
    simpa using hb
  · unfold VoteReq.bad
    simpa using hb

end Sys2Proof.Machine
end

section
/-! PROOFS. The solver units and their jobs. -/

namespace Sys2Proof.Machine

variable {s x : State} {h : Hdr} {r : JobResult}

/-- A powered unit is ready within 1.5 ms (R207). -/
theorem exec_unitReady_readies {u : Fin 4} (hx : Runs s x) (hr : x.ready = true) (hp : x.solv.powered.get u.val = true)
    (hu : x.unitState u.val = 0) (hl : 300000 < x.since (x.solv.poweredAt.get u.val) + nsTick)
    (ht : x.since (x.solv.poweredAt.get u.val) ≤ 1500000) : exec (.unitReady u) s = .next (x.makeReady u.val) := by
  show execUnitReady u s = _
  unfold execUnitReady
  exact acts hx (if_pos ⟨hr, hp, hu, hl, ht⟩)

/-- The result of a job is held during a Rapid Check and where its transfer failed (R15, R216). -/
theorem exec_solverJobComplete_holds (hx : Runs s x) (hd : x.jobDue r = true) (hw : x.lane.rapid = true ∨ x.isWithheld (.result r.unit) = true) :
    exec (.solverJobComplete r) s = .next { x with solv := { x.solv with held := x.solv.held ++ [r] } } := by
  show execSolverJobComplete r s = _
  unfold execSolverJobComplete
  exact acts hx ((if_neg (by simp [hd])).trans (if_pos hw))

/-- It is else taken at once. -/
theorem exec_solverJobComplete_takes (hx : Runs s x) (hd : x.jobDue r = true) (hl : x.lane.rapid = false)
    (hw : x.isWithheld (.result r.unit) = false) : exec (.solverJobComplete r) s = .next (x.takeJob r) := by
  show execSolverJobComplete r s = _
  unfold execSolverJobComplete
  exact acts hx ((if_neg (by simp [hd])).trans (if_neg (by simp [hl, hw])))

/-- A result taken is the Collator's while a re-run waits, and else the solve's. -/
theorem takeJob_solve (ho : x.coll.offload ≠ .waiting) (hi : x.solv.isOpen = true) : x.takeJob r = x.solveJob r :=
  (if_neg ho).trans (if_pos hi)

/-- A job whose descriptors agree ends by its overflow, its size, or the verdicts of the lanes. -/
theorem solveJob_judged (hn : ¬ (r.descDiffer = true ∧ x.twoLanes = true)) : x.solveJob r = (
      let u := r.unit.val
      let atUs := r.atUs - 6000
      let o := x.runJob r.flaw
      let z := (x.noteOverflow u (some o.kind) o.overflow o.nonfinite).holdResult u o r.ecc
      if o.overflow || o.nonfinite then z.lostJob true atUs
      else if o.tooLarge then z.solveStall atUs
      else
        let wrong := fun err : W32 => !checkHolds o.words z.solv.last err || !(r.job == z.solv.jobSeq && r.frame.toNat == z.rd F.timeFrameNumber) ||
          !z.columnGood o
        let v := z.noteVerdicts (wrong r.errDuty) (wrong r.errPartner)
        if v.rejectedBy (wrong r.errDuty) (wrong r.errPartner) then
          let w := v.countRejection u atUs
          if w.solv.isOpen && w.solv.next == v.solv.next then w.lostJob false atUs else w
        else v.acceptJob o u atUs) := by
  unfold State.solveJob State.laneRejects State.namesJob
  rw [if_neg hn]

/-- A job whose status is kept carries the check code over status and result (R187, R193). -/
theorem holdResult_last (x : State) (u : Nat) (o : JobOutcome) (ecc : Bool) : (x.holdResult u o ecc).solv.last =
    (⟨firstBreakdown o.factors, o.overflow || o.nonfinite, o.nonfinite, false, ecc, o.tooLarge, none⟩ : JobStatus).checked o.words := rfl

theorem exec_solverJobTimeout_faults {u : Fin 4} {t : Nat} (hx : Runs s x) (hr : x.ready = true) (hj : x.solv.jobFrom.get u.val = some t)
    (ht : 4 * nsMs ≤ x.since t) : exec (.solverJobTimeout u) s = .next (x.unitFault u.val 2 x.solveUs) := by
  show execSolverJobTimeout u s = _
  unfold execSolverJobTimeout
  refine acts hx ?_
  rw [hj]
  exact if_pos ⟨hr, ht⟩

/-- Each unit is tested once between the deadline and the frame instant (R208). -/
theorem exec_unitTestJob_tests {u : Fin 4} (ok : Bool) (hx : Runs s x) (hr : x.ready = true) (hd : x.deadline ≤ x.time.tickDue)
    (hp : x.solv.powered.get u.val = true) (ht : x.solv.tested.get u.val = false) (hu : x.unitState u.val = 1 ∨ x.unitState u.val = 2)
    (ho : x.solv.isOpen = false) :
    exec (.unitTestJob u ok) s = .next (
      let y := ({ x with solv := { x.solv with tested := x.solv.tested.set u.val true } } : State).endUnit u.val
      if ok then y else y.unitFault u.val 1 y.solveUs) := by
  show execUnitTestJob u ok s = _
  unfold execUnitTestJob
  refine acts hx (if_neg ?_)
  rintro (h | h | h | h | h | h)
  · exact Bool.noConfusion (h.symm.trans hr)
  · exact absurd hd (Nat.not_le.mpr h)
  · exact Bool.noConfusion (h.symm.trans hp)
  · exact Bool.noConfusion (h.symm.trans ht)
  · exact hu.elim h.1 h.2
  · exact Bool.noConfusion (h.symm.trans ho)

/-- At tick D the window closes and the TEST jobs start (R208, R210, R211). -/
theorem exec_solveDeadline_closes (inJob : Option Bool) (hx : Runs s x) (ht : x.atTick x.deadline = true) (ho : x.solv.isOpen = true) :
    exec (.solveDeadline inJob) s = .next (x.cutSolve inJob).startTests := by
  show execSolveDeadline inJob s = _
  unfold execSolveDeadline
  exact acts hx ((if_neg (by simp [ht])).trans (congrArg State.startTests (if_pos ho)))

/-- Degraded control is set at the third stale frame in a row (R213). -/
theorem exec_controlDegradedCount_sets (hx : Runs s x) (hd : x.degraded = false) (hs : 3 ≤ x.rd F.ctlStaleRun) :
    exec .controlDegradedCount s = .next (((x.wr F.ctlSolveStatus (putBit (x.rd F.ctlSolveStatus) svDegraded true)).inc
      F.ctlCountDegraded).emit 0x53 (le 1 0 ++ le 4 (x.rd F.ctlStaleRun))) := by
  show execControlDegradedCount s = _
  unfold execControlDegradedCount
  exact acts hx (if_pos ⟨hd, hs⟩)

theorem exec_controlDegradedCount_clears (hx : Runs s x) (hd : x.degraded = true) (hc : x.cfg F.ctlDegradedClear ≤ x.solv.notStale) :
    exec .controlDegradedCount s = .next ((x.wr F.ctlSolveStatus (putBit (x.rd F.ctlSolveStatus) svDegraded false)).emit 0x53
      (le 1 1 ++ le 4 (x.rd F.ctlStaleRun))) := by
  show execControlDegradedCount s = _
  unfold execControlDegradedCount
  exact acts hx ((if_neg (by simp [hd])).trans (if_pos ⟨hd, hc⟩))

theorem exec_cmdSolverStatsClear_accepts (hp : Processed s h 0x5001 [] x) :
    exec (.cmdSolverStatsClear h) s = .next (({ x with solv := { x.solv with clearStats := true } } : State).respond h 0x5001 Res.ok []) := by
  show execCmdSolverStatsClear h s = _
  unfold execCmdSolverStatsClear
  exact command_replied hp rfl

/-- Settles O25: a result held or taken, the two ends of State.solveJob written out, and the events of the units. -/
theorem solverUnitsWork : Obligations.SolverUnitsWork := by
  unfold Obligations.SolverUnitsWork
  refine ⟨fun s x u hx hr hp hu hl ht => exec_unitReady_readies hx hr hp hu hl ht,
    fun s x r hx hd hw => exec_solverJobComplete_holds hx hd hw, fun s x r hx hd hl hw ho => ?_,
    fun s x r hx hd hl hw ho hi hdiff h2 => ?_, fun s x r hx hd hl hw ho hi hdiff => ?_, holdResult_last,
    fun s x u t hx hr hj ht => exec_solverJobTimeout_faults hx hr hj ht,
    fun s x u ok hx hr hd hp ht hu ho => exec_unitTestJob_tests ok hx hr hd hp ht hu ho,
    fun s x inJob hx ht ho => exec_solveDeadline_closes inJob hx ht ho,
    fun s x hx hd hs => exec_controlDegradedCount_sets hx hd hs, fun s x hx hd hc => exec_controlDegradedCount_clears hx hd hc,
    fun s x h hp => exec_cmdSolverStatsClear_accepts hp⟩
  · rw [exec_solverJobComplete_takes hx hd hl hw]
    exact congrArg Host.Outcome.next (if_pos ho)
  · rw [exec_solverJobComplete_takes hx hd hl hw, takeJob_solve ho hi]
    exact congrArg Host.Outcome.next (if_pos ⟨hdiff, h2⟩)
  · rw [exec_solverJobComplete_takes hx hd hl hw, takeJob_solve ho hi, solveJob_judged (by rcases hdiff with h | h <;> simp [h])]

end Sys2Proof.Machine
end

section
/-! PROOFS. The control commands and the publication of the estimate and the setpoints. -/

namespace Sys2Proof.Machine

variable {s x : State} {h : Hdr}

/-! ### The control commands -/

theorem exec_cmdCtlMode_waits {m : Byte} (hp : Processed s h 0x5002 [m] x) : exec (.cmdCtlMode h m) s =
    .next (({ x with ctl := { x.ctl with requests := x.ctl.requests ++ [(h, .mode m.toNat)] } } : State).awaitReply h) := by
  show execCmdCtlMode h m s = _
  unfold execCmdCtlMode
  exact command_waits hp rfl

theorem exec_cmdCtlSetpoint_waits {lat lon : F64} {hd : F32} (hp : Processed s h 0x5003 (le 8 lat.toNat ++ le 8 lon.toNat ++ le 4 hd.toNat) x) :
    exec (.cmdCtlSetpoint h lat lon hd) s =
      .next (({ x with ctl := { x.ctl with requests := x.ctl.requests ++ [(h, .setpoint lat lon hd)] } } : State).awaitReply h) := by
  show execCmdCtlSetpoint h lat lon hd s = _
  unfold execCmdCtlSetpoint
  exact command_waits hp rfl

theorem exec_cmdCtlJoystick_waits {a b c : F32} (hp : Processed s h 0x5004 (le 4 a.toNat ++ le 4 b.toNat ++ le 4 c.toNat) x) :
    exec (.cmdCtlJoystick h a b c) s =
      .next (({ x with ctl := { x.ctl with requests := x.ctl.requests ++ [(h, .joystick a b c)] } } : State).awaitReply h) := by
  show execCmdCtlJoystick h a b c s = _
  unfold execCmdCtlJoystick
  exact command_waits hp rfl

theorem exec_cmdCtlManual_waits {n : Byte} {a b c : F32} (hp : Processed s h 0x5005 ([n] ++ le 4 a.toNat ++ le 4 b.toNat ++ le 4 c.toNat) x) :
    exec (.cmdCtlManual h n a b c) s =
      .next (({ x with ctl := { x.ctl with requests := x.ctl.requests ++ [(h, .manual n.toNat a b c)] } } : State).awaitReply h) := by
  show execCmdCtlManual h n a b c s = _
  unfold execCmdCtlManual
  exact command_waits hp rfl

section TrackLoad

variable {n : W32} {w : List (F64 × F64 × F32 × F32)} (hp : Processed s h 0x5006 (le 4 n.toNat ++ w.flatMap waypointBytes) x)

include hp

/-- A track of 2 to 32 waypoints, all of them there, waits for the frame instant (R257). -/
theorem exec_cmdCtlTrackLoad_waits (h2 : 2 ≤ n.toNat) (h32 : n.toNat ≤ 32) (hl : w.length = n.toNat) :
    exec (.cmdCtlTrackLoad h n w) s =
      .next (({ x with ctl := { x.ctl with requests := x.ctl.requests ++ [(h, .track w)] } } : State).awaitReply h) := by
  show execCmdCtlTrackLoad h n w s = _
  unfold execCmdCtlTrackLoad
  exact command_waits hp ((if_neg (by omega)).trans (if_neg (not_not_intro hl)))

theorem exec_cmdCtlTrackLoad_outOfRange (hn : n.toNat < 2 ∨ 32 < n.toNat) :
    exec (.cmdCtlTrackLoad h n w) s = .next (x.respond h 0x5006 Res.outOfRange []) := by
  show execCmdCtlTrackLoad h n w s = _
  unfold execCmdCtlTrackLoad
  exact command_replied hp (if_pos hn)

theorem exec_cmdCtlTrackLoad_badLength (h2 : 2 ≤ n.toNat) (h32 : n.toNat ≤ 32) (hl : w.length ≠ n.toNat) :
    exec (.cmdCtlTrackLoad h n w) s = .next (x.respond h 0x5006 Res.badLength []) := by
  show execCmdCtlTrackLoad h n w s = _
  unfold execCmdCtlTrackLoad
  exact command_replied hp ((if_neg (by omega)).trans (if_pos hl))

end TrackLoad

/-! ### Timers and publication -/

theorem exec_splitTimeout_ends {g : VGroup} (hx : Runs s x) (hd : x.splitTimeoutDue (vgroup g) = true) :
    exec (.splitTimeout g) s = .next (
      let y := x.splitTimedOut (vgroup g)
      if y.mode = 1 ∨ y.mode = 2 then y.setMode 6 modeDriftEntry else y) := by
  show execSplitTimeout g s = _
  unfold execSplitTimeout
  exact acts hx (if_pos hd)

theorem exec_joystickTimeout_zeroes (hx : Runs s x) (hr : x.ready = true) (hm : x.mode = 4)
    (hf : x.flag F.ctlStatusJoystickTimeout = false) (ht : x.cfg F.ctlJoystickTimeout * nsMs ≤ x.since x.ctl.joyAt) :
    exec .joystickTimeout s = .next ((({ x with ctl := { x.ctl with joyX := 0, joyY := 0, joyN := 0 } } : State).wr
      F.ctlStatusJoystickTimeout 1).emit 0x5A (le 1 0)) := by
  show execJoystickTimeout s = _
  unfold execJoystickTimeout
  exact acts hx (if_pos ⟨hr, hm, hf, ht⟩)

/-- At F+6, or a tick later after a failed transfer, the estimate is published once after the close (R16, R145). -/
theorem exec_estimatePublish_publishes (cd cp : Bool) (hx : Runs s x)
    (ha : x.atTransfer 48 .estimate = true ∨ (x.isAbsent .estimate = true ∧ x.atTick 49 = true)) (hc : x.coll.closed = true)
    (hp : x.coll.published = false) :
    exec (.estimatePublish cd cp) s = .next (
      let y := x.publishEstimate (x.isAbsent .estimate || (cd || (x.twoLanes && cp)))
      let bad := !y.estimateSound
      ((y.noteVerdicts (cd || bad) (cp || bad)).noteAbsent).pose) := by
  have due : (x.atTransfer 48 .estimate || (x.isAbsent .estimate && x.atTick 49)) = true := by simpa using ha
  show execEstimatePublish cd cp s = _
  unfold execEstimatePublish
  exact acts hx (if_neg (by simp only [due, hc, hp]; decide))

/-- At tick D + 4 the setpoints are published once (R212, R247). -/
theorem exec_setpointPublish_publishes (bd bp : Bool) (hx : Runs s x) (ha : x.atCore (x.deadline + 4) = true)
    (ht : x.time.tickDue < x.deadline + 8) (hp : x.ctl.spPublished = false) :
    exec (.setpointPublish bd bp) s = .next (x.solveOutcome bd bp).publishSetpoints := by
  show execSetpointPublish bd bp s = _
  unfold execSetpointPublish
  exact acts hx (if_neg (by simp [ha, hp, ht]))

/-- Settles O26: the commands that wait, the answers to a track, the two timers and the two publications. -/
theorem controlRequestsAreTaken : Obligations.ControlRequestsAreTaken := by
  unfold Obligations.ControlRequestsAreTaken
  exact ⟨fun s x h m hp => exec_cmdCtlMode_waits hp, fun s x h lat lon hd hp => exec_cmdCtlSetpoint_waits hp,
    fun s x h a b c hp => exec_cmdCtlJoystick_waits hp, fun s x h n a b c hp => exec_cmdCtlManual_waits hp,
    fun s x h n w hp h2 h32 hl => exec_cmdCtlTrackLoad_waits hp h2 h32 hl,
    fun s x h n w hp => ⟨fun hn => exec_cmdCtlTrackLoad_outOfRange hp hn, fun h2 h32 hl => exec_cmdCtlTrackLoad_badLength hp h2 h32 hl⟩,
    fun s x g hx hd => exec_splitTimeout_ends hx hd, fun s x hx hr hm hf ht => exec_joystickTimeout_zeroes hx hr hm hf ht,
    fun s x cd cp hx ha hc hp => exec_estimatePublish_publishes cd cp hx ha hc hp,
    fun s x bd bp hx ha ht hp => exec_setpointPublish_publishes bd bp hx ha ht hp⟩

end Sys2Proof.Machine
end

section
/-! PROOFS. The CAN channels. -/

namespace Sys2Proof.Machine

variable {s x y : State} {h : Hdr}

/-! ### Reception and transmission -/

/-- A frame that ends in the tick is acknowledged in normal mode and taken (R309, R310, R314). -/
theorem exec_canFrameRx_takes {ch : Fin 8} (f : CanFrame) {sof eof : Nat} (hx : Runs s x) (hr : x.ready = true)
    (hb : x.onBus ch.val sof = true) (hn : x.now ≤ eof) (hw : x.withinTick eof = true) :
    exec (.canFrameRx ch f sof eof) s = .next (
      let y := if (x.folioFor sof).val (F.canModeMode ch.val) = 1 then x.put (.canAck ch.val) else x
      ((y.wasBusy ch.val (eof - sof)).takeFrame ch.val sof eof f).lessRec ch.val) := by
  show execCanFrameRx ch f sof eof s = _
  unfold execCanFrameRx
  exact acts hx (if_neg (by simp [hr, hb, hn, hw]))

theorem takeFrame_unmatched {c sof eof : Nat} {f : CanFrame} (hf : f.rtr = true ∨ (y.folioFor sof).canTarget c f = none) :
    y.takeFrame c sof eof f = y.inc (F.canRxUnmatched c) := by
  unfold State.takeFrame
  split
  · rfl
  · rename_i hr
    rw [hf.resolve_left hr]

theorem takeFrame_matched {c sof eof : Nat} {f : CanFrame} {t : CanTarget} (hr : f.rtr = false) (ht : (y.folioFor sof).canTarget c f = some t) :
    y.takeFrame c sof eof f = { y with can := { y.can with rx := y.can.rx ++ [⟨⟨stampOf sof, c, f⟩, t, eof⟩] } } := by
  unfold State.takeFrame
  rw [if_neg (by simp [hr]), ht]

theorem exec_canRxDeliver_delivers {ch : Fin 8} (hx : Runs s x) (hr : x.ready = true) (hw : x.isWithheld (.can ch) = false) :
    exec (.canRxDeliver ch) s = .next (x.deliverWhere fun y => y.rec_.chan == ch.val && decide (y.eof < x.now)) := by
  show execCanRxDeliver ch s = _
  unfold execCanRxDeliver
  exact acts hx (if_pos ⟨hr, hw⟩)

/-- A frame sent in normal mode completes, or is retried (R321). -/
theorem exec_canFrameTxComplete_sends {ch : Fin 8} {sof eof : Nat} {i : TxItem} (done : Bool) (hx : Runs s x) (hr : x.ready = true)
    (hb : x.onBus ch.val sof = true) (hn : x.now ≤ eof) (hw : x.withinTick eof = true)
    (hm : (x.folioFor sof).val (F.canModeMode ch.val) = 1) (hi : x.sending ch.val sof = some i) :
    exec (.canFrameTxComplete ch sof eof done) s =
      .next (if done = false then x else ((x.wasBusy ch.val (eof - sof)).completeTx ch.val sof i).lessTec ch.val) := by
  show execCanFrameTxComplete ch sof eof done s = _
  unfold execCanFrameTxComplete
  refine acts hx ((if_neg (by simp [hr, hb, hm, hn, hw])).trans ?_)
  rw [hi]

/-- A completed frame goes out with its stamp and ESI, and leaves its queue (R314, R321). -/
theorem completeTx_sends (x : State) (c sof : Nat) (i : TxItem) :
    (x.completeTx c sof i).outputs = x.outputs ++ [.can c (stampOf sof) { i.frame with esi := x.rd (F.canStatusState c) == 2 }] ∧
    (x.completeTx c sof i).can.tx = x.can.tx.set c ((x.can.tx.get c).erase i) := by
  have pin := withOutput_pin (o := .can c (stampOf sof) { i.frame with esi := x.rd (F.canStatusState c) == 2 }) rfl x.outputs
  unfold State.completeTx
  dsimp only
  split <;> exact ⟨pin, rfl⟩

theorem exec_canLifetimeEnd_drops {ch : Fin 8} (k : TxDue) (hx : Runs s x) (hr : x.ready = true) :
    exec (.canLifetimeEnd ch k) s = .next (if k.onBus = false
      then x.dropTx ch.val fun i => i.kind == k.kind && decide (i.ends < x.clock + nsTick) else x) := by
  show execCanLifetimeEnd ch k s = _
  unfold execCanLifetimeEnd
  refine acts hx ?_
  simp only [hr, true_and]

/-! ### Errors and bus-off -/

/-- An error moves the counters, of sending only where the channel may send (R309). -/
theorem exec_canBusError_counts {ch : Fin 8} {e : CanErr} (busyNs : Nat) (hx : Runs s x) (hr : x.ready = true)
    (hb : x.onBus ch.val x.now = true) (hs : x.cfg (F.canModeMode ch.val) = 2 → e ≠ .transmit ∧ e ≠ .ack) :
    exec (.canBusError ch e busyNs) s = .next (
      let d := errorStep e (x.rd (F.canStatusState ch.val) == 2)
      (x.wasBusy ch.val busyNs).judgeBus ch.val (x.rd (F.canStatusTec ch.val) + d.1) (x.rd (F.canStatusRec ch.val) + d.2)) := by
  show execCanBusError ch e busyNs s = _
  unfold execCanBusError
  refine acts hx (if_neg ?_)
  rintro (h | h | ⟨hm, he⟩)
  · exact Bool.noConfusion (h.symm.trans hr)
  · exact Bool.noConfusion (h.symm.trans hb)
  · exact he.elim (hs hm).1 (hs hm).2

theorem exec_canBusoffRecovery_recovers {ch : Fin 8} (hx : Runs s x) (hr : x.ready = true) (ho : x.rd (F.canStatusState ch.val) = 3)
    (hs : x.can.resync.get ch.val = false)
    (ht : x.can.offAt.get ch.val + 1408 * x.active.nominalBit ch.val < x.clock + nsTick) :
    exec (.canBusoffRecovery ch) s = .next (x.setBusState ch.val 1 0 0) := by
  show execCanBusoffRecovery ch s = _
  unfold execCanBusoffRecovery
  exact acts hx (if_pos ⟨hr, ho, hs, ht⟩)

theorem exec_canTimingResync_ends {ch : Fin 8} (hx : Runs s x) (hr : x.ready = true) (hs : x.can.resync.get ch.val = true)
    (ht : x.turnedAt + 11 * x.active.nominalBit ch.val < x.clock + nsTick) :
    exec (.canTimingResync ch) s = .next
      (({ x with can := { x.can with resync := x.can.resync.set ch.val false } } : State).setBusState ch.val 1 0 0) := by
  show execCanTimingResync ch s = _
  unfold execCanTimingResync
  exact acts hx (if_pos ⟨hr, hs, ht⟩)

/-! ### The read commands -/

section BufRead

variable {n : W16} (hp : Processed s h 0x8001 (le 2 n.toNat) x)

include hp

theorem exec_cmdCanBufRead_outOfRange (hn : 1087 < n.toNat) :
    exec (.cmdCanBufRead h n) s = .next (x.respond h 0x8001 Res.outOfRange []) := by
  show execCmdCanBufRead h n s = _
  unfold execCmdCanBufRead
  exact command_replied hp (if_pos hn)

/-- A buffer without a record answers an empty one (R327). -/
theorem exec_cmdCanBufRead_empty (hn : n.toNat ≤ 1087) (hb : (x.can.bufs.get n.toNat).rec_ = none) :
    exec (.cmdCanBufRead h n) s = .next (x.respond h 0x8001 Res.ok (le 9 0 ++ le 1 2 ++ le 70 0)) := by
  show execCmdCanBufRead h n s = _
  unfold execCmdCanBufRead
  refine command_replied hp ((if_neg (Nat.not_lt.mpr hn)).trans ?_)
  dsimp only
  rw [hb]
  rfl

theorem exec_cmdCanBufRead_record {r : CanRec} (hn : n.toNat ≤ 1087) (hb : (x.can.bufs.get n.toNat).rec_ = some r) :
    exec (.cmdCanBufRead h n) s = .next (({ x with can := { x.can with
      bufs := x.can.bufs.set n.toNat { (x.can.bufs.get n.toNat) with overwritten := false } } } : State).respond h 0x8001 Res.ok
        (r.bytes (x.can.bufs.get n.toNat).overwritten)) := by
  show execCmdCanBufRead h n s = _
  unfold execCmdCanBufRead
  refine command_replied hp ((if_neg (Nat.not_lt.mpr hn)).trans ?_)
  dsimp only
  rw [hb]
  rfl

end BufRead

section FifoRead

variable {c : Byte} {n : W32} (hp : Processed s h 0x8002 ([c] ++ le 4 n.toNat) x)

include hp

theorem exec_cmdCanFifoRead_outOfRange (hn : 7 < c.toNat ∨ n.toNat = 0 ∨ 48 < n.toNat) :
    exec (.cmdCanFifoRead h c n) s = .next (x.respond h 0x8002 Res.outOfRange []) := by
  show execCmdCanFifoRead h c n s = _
  unfold execCmdCanFifoRead
  exact command_replied hp (if_pos hn)

/-- The oldest records of a channel's queue are taken out (R327). -/
theorem exec_cmdCanFifoRead_takes (hc : c.toNat ≤ 7) (h0 : n.toNat ≠ 0) (hn : n.toNat ≤ 48) :
    exec (.cmdCanFifoRead h c n) s = .next (
      let q := x.can.fifo.get c.toNat
      ({ x with can := { x.can with fifo := x.can.fifo.set c.toNat (q.drop n.toNat) } } : State).respond h 0x8002 Res.ok
        (le 4 (q.take n.toNat).length ++ (q.take n.toNat).flatMap fun r => r.bytes false)) := by
  show execCmdCanFifoRead h c n s = _
  unfold execCmdCanFifoRead
  exact command_replied hp (if_neg (by omega))

end FifoRead

/-- Settles O27: reception, transmission, errors and the read commands, each at its guard. -/
theorem fieldChannelsCarryFrames : Obligations.FieldChannelsCarryFrames := by
  unfold Obligations.FieldChannelsCarryFrames
  refine ⟨fun s x ch f sof eof hx hr hb hn hw => exec_canFrameRx_takes f hx hr hb hn hw, fun y c sof eof f hf => takeFrame_unmatched hf,
    fun y c sof eof f t hr ht => takeFrame_matched hr ht, fun s x ch hx hr hw => exec_canRxDeliver_delivers hx hr hw,
    fun s x ch sof eof i hx hr hb hn hw hm hi =>
      ⟨exec_canFrameTxComplete_sends true hx hr hb hn hw hm hi, exec_canFrameTxComplete_sends false hx hr hb hn hw hm hi⟩,
    completeTx_sends, fun s x ch k hx hr => ⟨exec_canLifetimeEnd_drops ⟨k, false⟩ hx hr, exec_canLifetimeEnd_drops ⟨k, true⟩ hx hr⟩,
    fun s x ch e busyNs hx hr hb hs => exec_canBusError_counts busyNs hx hr hb hs,
    fun s x ch hx hr ho hs ht => exec_canBusoffRecovery_recovers hx hr ho hs ht,
    fun s x ch hx hr hs ht => exec_canTimingResync_ends hx hr hs ht,
    fun s x h n hp => ⟨exec_cmdCanBufRead_outOfRange hp, exec_cmdCanBufRead_empty hp, fun r => exec_cmdCanBufRead_record hp⟩,
    fun s x h c n hp => ⟨exec_cmdCanFifoRead_outOfRange hp, exec_cmdCanFifoRead_takes hp⟩⟩

end Sys2Proof.Machine
end

section
/-! PROOFS. The cyclic logic: its cycles and its commands. -/

namespace Sys2Proof.Machine

variable {s x : State} {h : Hdr}

/-! ### A cycle -/

theorem exec_logicCycleStart_starts {t : Nat} (hx : Runs s x) (ht : x.cycleInstant = some t) :
    exec .logicCycleStart s = .next (
      let y := (((({ x with logic := { x.logic with moveNs := 0 } } : State).newPeriod t)).cycleChanges).noteRetain x.logic.retain
      let y := if y.logicState = 2 then y.wr F.logicCycleCount (y.rd F.logicCycleCount + 1) else y
      (y.latchInput t).queueMarks t) := by
  show execLogicCycleStart s = _
  unfold execLogicCycleStart
  refine acts hx ?_
  rw [ht]

/-- At C + W the input image is completed and the execution begins (R287, R293). -/
theorem exec_replyWindowEnd_completes (hx : Runs s x) (hr : x.ready = true) (hp : x.logic.phase = 1)
    (ht : x.logic.cycleAt + x.cfg F.logicReplyWindow * 1000 < x.now + nsTick) :
    exec .replyWindowEnd s = .next (
      let y := ((x.deliverWhere fun f => f.target == .remote &&
        decide (f.eof < x.logic.cycleAt + x.cfg F.logicReplyWindow * 1000)).countMissing).completeInput
      if y.logic.phase = 2 then y.forceInputs else y) := by
  show execReplyWindowEnd s = _
  unfold execReplyWindowEnd
  refine acts hx (if_neg ?_)
  rintro (h | h | h)
  · exact Bool.noConfusion (h.symm.trans hr)
  · exact h hp
  · exact absurd ht (Nat.not_lt.mpr h)

/-- In the execution phase a stop is what its cause says (R289, R295). -/
theorem exec_logicOverrun_stops (c : LogicStop) (hx : Runs s x) (hr : x.ready = true) (hp : x.logic.phase = 2) :
    exec (.logicOverrun c) s = .next (match c with
      | .overrun => if x.now + nsTick ≤ x.execLimit then x else (x.inc F.logicOverrunCount).faultLogic 1
      | .index => x.faultLogic 2
      | .stack => x.faultLogic 3) := by
  show execLogicOverrun c s = _
  unfold execLogicOverrun
  exact acts hx (if_neg (by simp [hr, hp]))

/-- The commit within the tick of the completion (R288). -/
theorem exec_logicCommit_commits {o : LogicOut} (hx : Runs s x) (hr : x.ready = true) (hl : x.lane.rapid = false) (hp : x.logic.phase = 2)
    (hc : x.completion o ≤ x.execLimit) (hw : x.withinTick (x.completion o) = true) :
    exec (.logicCommit o) s = .next (((((x.commitImages o).noteRetain x.logic.retain).showExec
      (x.execTime o)).userEvents o).queueOutputs (x.completion o)) := by
  show execLogicCommit o s = _
  unfold execLogicCommit
  refine acts hx (if_neg ?_)
  rintro (h | h | h | h | h)
  · exact Bool.noConfusion (h.symm.trans hr)
  · exact Bool.noConfusion (h.symm.trans hl)
  · exact h hp
  · exact absurd hc (Nat.not_le.mpr h)
  · exact Bool.noConfusion (h.symm.trans hw)

/-! ### The retain mirror -/

/-- Mirror writes go on in the idle phase while the Write Guard has not tripped (R297). -/
theorem mirrorFree_of (hp : x.logic.phase = 0) (hd : x.logic.mirrorDue = true) (hg : x.writeGuard = false) : x.mirrorFree = true := by
  unfold State.mirrorFree
  rw [hp, hd, hg]
  rfl

/-- The page under way, or the first that changed, goes into the older copy (R297). -/
theorem exec_retainMirrorWrite_writes {p : Nat} (hx : Runs s x) (hr : x.ready = true) (hp : x.logic.mirrorPage = some p ∨
      (x.logic.mirrorPage = none ∧ x.logic.phase = 0 ∧ x.logic.mirrorDue = true ∧ x.writeGuard = false ∧ x.changedPages.head? = some p)) :
    exec .retainMirrorWrite s = .next (x.writePage p).nextPage := by
  show execRetainMirrorWrite s = _
  unfold execRetainMirrorWrite
  refine acts hx ((if_neg (by simp [hr])).trans ?_)
  rcases hp with hp | ⟨hn, hph, hd, hg, hc⟩
  · rw [hp]
  · obtain ⟨rest, hrest⟩ := List.head?_eq_some_iff.mp hc
    rw [hn]
    dsimp only
    rw [if_neg (by simp [mirrorFree_of hph hd hg]), hrest]

/-- With no page left that differs, the older copy is the newer (R297). -/
theorem exec_retainMirrorWrite_closes (hx : Runs s x) (hr : x.ready = true) (hn : x.logic.mirrorPage = none) (hp : x.logic.phase = 0)
    (hd : x.logic.mirrorDue = true) (hg : x.writeGuard = false) (hc : x.changedPages = []) :
    exec .retainMirrorWrite s = .next x.closeMirror := by
  show execRetainMirrorWrite s = _
  unfold execRetainMirrorWrite
  refine acts hx ((if_neg (by simp [hr])).trans ?_)
  rw [hn]
  dsimp only
  rw [if_neg (by simp [mirrorFree_of hp hd hg]), hc]

/-! ### Validation -/

/-- The result of a validation (R286, R300): the Write Guard first, then what is found of the program. -/
theorem exec_logicValidationDone_judges (i : ProgInfo) {c : LogicChange} (hx : Runs s x) (hc : x.logic.change = some c) (hr : x.ready = true)
    (hi : c.info = none) :
    exec (.logicValidationDone i) s = .next (
      let res := if x.writeGuard then Res.writeGuard else programResult i
      if res ≠ Res.ok then x.dropChange.respond c.hdr 0x7002 res [] else x.takeProgram c i) := by
  show execLogicValidationDone i s = _
  unfold execLogicValidationDone
  refine acts hx ?_
  rw [hc]
  exact if_neg (by simp [hr, hi])

/-- Settles O28: the cycle's events at their guards, the mirror's pages and the validation's result. -/
theorem logicCyclesRun : Obligations.LogicCyclesRun := by
  unfold Obligations.LogicCyclesRun
  refine ⟨fun s x t hx ht => exec_logicCycleStart_starts hx ht, fun s x hx hr hp ht => exec_replyWindowEnd_completes hx hr hp ht,
    fun s x hx hr hp => ⟨exec_logicOverrun_stops .index hx hr hp, exec_logicOverrun_stops .stack hx hr hp, fun ht => ?_, fun ht => ?_⟩,
    fun s x o hx hr hl hp hc hw => exec_logicCommit_commits hx hr hl hp hc hw,
    fun s x p hx hr hp => exec_retainMirrorWrite_writes hx hr hp,
    fun s x hx hr hn hp hd hg hc => exec_retainMirrorWrite_closes hx hr hn hp hd hg hc,
    fun s x i c hx hc hr hi => ⟨fun hg => ?_, fun hg hp => ?_, fun hg hp => ?_⟩⟩
  · exact (exec_logicOverrun_stops .overrun hx hr hp).trans (congrArg Host.Outcome.next (if_neg (Nat.not_le.mpr ht)))
  · exact (exec_logicOverrun_stops .overrun hx hr hp).trans (congrArg Host.Outcome.next (if_pos ht))
  · rw [exec_logicValidationDone_judges i hx hc hr hi, hg]
    rfl
  · rw [exec_logicValidationDone_judges i hx hc hr hi, hg]
    exact congrArg Host.Outcome.next (if_pos hp)
  · rw [exec_logicValidationDone_judges i hx hc hr hi, hg]
    exact congrArg Host.Outcome.next (if_neg (not_not_intro hp))

/-! ### The commands -/

/-- CMD_LOGIC_LOAD writes to the inactive slot (R300, R302, R308). -/
theorem exec_cmdLogicLoad_answers {off : W32} {d : List Byte} (hp : Processed s h 0x7001 (le 4 off.toNat ++ d) x) :
    exec (.cmdLogicLoad h off d) s = .next (
      if x.logic.change.isSome then x.respond h 0x7001 Res.wrongState []
      else if d = [] ∨ 3968 < d.length then x.respond h 0x7001 Res.badLength []
      else if 4608 * 1024 < off.toNat + d.length then x.respond h 0x7001 Res.outOfRange []
      else if x.writeGuard then x.respond h 0x7001 Res.writeGuard []
      else
        let k := 1 - x.activeSlot
        let old := if off.toNat = 0 then noProgram 0 else x.logic.slots.get k
        let slot : LogicSlot := ⟨old.bytes.writeBytes off.toNat d, max old.size (off.toNat + d.length), none⟩
        (({ x with logic := { x.logic with slots := x.logic.slots.set k slot } } : State).showProgram).respond h 0x7001 Res.ok []) := by
  show execCmdLogicLoad h off d s = _
  unfold execCmdLogicLoad
  refine command_answers hp ?_
  simp only [answered_ite, answered_reply, List.isEmpty_iff]

section Change

variable {r : Byte} (hp : Processed s h 0x7002 [r] x)

include hp

theorem exec_cmdLogicChange_outOfRange (hr : 1 < r.toNat) : exec (.cmdLogicChange h r) s = .next (x.respond h 0x7002 Res.outOfRange []) := by
  show execCmdLogicChange h r s = _
  unfold execCmdLogicChange
  exact command_replied hp (if_pos hr)

theorem exec_cmdLogicChange_wrongState (hr : r.toNat ≤ 1) (hw : x.logic.change ≠ none ∨ (r.toNat = 0 ∧ x.logicState ≠ 2)) :
    exec (.cmdLogicChange h r) s = .next (x.respond h 0x7002 Res.wrongState []) := by
  show execCmdLogicChange h r s = _
  unfold execCmdLogicChange
  refine command_replied hp ((if_neg (Nat.not_lt.mpr hr)).trans (if_pos ?_))
  rwa [Option.isSome_iff_ne_none]

variable (hr : r.toNat ≤ 1) (hc : x.logic.change = none) (hs : r.toNat = 1 ∨ x.logicState = 2)

include hr hc hs

/-- A change that is taken up meets the Write Guard last, and waits for its validation (R300). -/
theorem exec_cmdLogicChange_waits (hg : x.writeGuard = false) :
    exec (.cmdLogicChange h r) s = .next ((({ x with logic := { x.logic with change := some ⟨h, r.toNat == 1, none, 0⟩ } } : State).wr
      F.logicStatePending 1).awaitReply h) := by
  show execCmdLogicChange h r s = _
  unfold execCmdLogicChange
  refine command_waits hp ((if_neg (Nat.not_lt.mpr hr)).trans ((if_neg ?_).trans (if_neg (by simp [hg]))))
  rintro (h1 | ⟨h0, h2⟩)
  · rw [hc] at h1
    exact Bool.noConfusion h1
  · exact hs.elim (fun h1 => absurd (h0.symm.trans h1) (by decide)) h2

theorem exec_cmdLogicChange_writeGuard (hg : x.writeGuard = true) :
    exec (.cmdLogicChange h r) s = .next (x.respond h 0x7002 Res.writeGuard []) := by
  show execCmdLogicChange h r s = _
  unfold execCmdLogicChange
  refine command_replied hp ((if_neg (Nat.not_lt.mpr hr)).trans ((if_neg ?_).trans (if_pos hg)))
  rintro (h1 | ⟨h0, h2⟩)
  · rw [hc] at h1
    exact Bool.noConfusion h1
  · exact hs.elim (fun h1 => absurd (h0.symm.trans h1) (by decide)) h2

end Change

theorem exec_cmdLogicStart_answers {c : Byte} (hp : Processed s h 0x7003 [c] x) :
    exec (.cmdLogicStart h c) s = .next (
      if 1 < c.toNat then x.respond h 0x7003 Res.outOfRange []
      else if x.logicState = 0 then x.respond h 0x7003 Res.wrongState []
      else ({ x.abandonChange with logic := { x.abandonChange.logic with restart := some (c.toNat == 1), atBoot := false } } : State).respond
        h 0x7003 Res.ok []) := by
  show execCmdLogicStart h c s = _
  unfold execCmdLogicStart
  refine command_answers hp ?_
  simp only [answered_ite, answered_reply]

theorem exec_cmdLogicStop_answers (hp : Processed s h 0x7004 [] x) :
    exec (.cmdLogicStop h) s = .next (
      if x.cfg F.ctlModeSource = 1 ∧ x.mode ≠ 0 ∧ x.mode ≠ 5 then x.respond h 0x7004 Res.wrongState []
      else x.stopLogic.respond h 0x7004 Res.ok []) := by
  show execCmdLogicStop h s = _
  unfold execCmdLogicStop
  refine command_answers hp ?_
  simp only [answered_ite, answered_reply]

/-- CMD_LOGIC_FORCE joins the operations of the next cycle, unless it is refused (R298, R308). -/
theorem exec_cmdLogicForce_answers {t : ForceTarget} {ty : Byte} {v : List Byte} (hp : Processed s h 0x7005 (targetBytes t ++ [ty] ++ v) x) :
    exec (.cmdLogicForce h t ty v) s = .next (
      if x.logicState = 0 then x.respond h 0x7005 Res.wrongState []
      else if forceInside t v.length = false ∨ v = [] ∨ 80 < v.length then x.respond h 0x7005 Res.outOfRange []
      else if x.knowsTarget t = false then x.respond h 0x7005 Res.notFound []
      else if x.forceTargets.contains t = false ∧ 256 ≤ x.forceTargets.length then x.respond h 0x7005 Res.full []
      else ({ x with logic := { x.logic with forceOps := x.logic.forceOps ++ [.set ⟨t, ty.toNat, v⟩] } } : State).respond h 0x7005 Res.ok []) := by
  show execCmdLogicForce h t ty v s = _
  unfold execCmdLogicForce
  refine command_answers hp ?_
  simp only [answered_ite, answered_reply, List.isEmpty_iff]

theorem exec_cmdLogicUnforce_one {t : ForceTarget} (hp : Processed s h 0x7006 (targetBytes t) x) :
    exec (.cmdLogicUnforce h (some t)) s = .next (
      if x.forceTargets.contains t then
        ({ x with logic := { x.logic with forceOps := x.logic.forceOps ++ [.remove (some t)] } } : State).respond h 0x7006 Res.ok []
      else x.respond h 0x7006 Res.notFound []) := by
  show execCmdLogicUnforce h (some t) s = _
  unfold execCmdLogicUnforce
  refine command_answers hp ?_
  dsimp only
  by_cases hc : x.forceTargets.contains t = true
  · rw [if_pos hc, if_neg (by rw [hc]; decide)]
    rfl
  · rw [if_neg hc, if_pos (by simpa using hc)]
    rfl

theorem exec_cmdLogicUnforce_all (hp : Processed s h 0x7006 (le 1 0xFF) x) :
    exec (.cmdLogicUnforce h none) s =
      .next (({ x with logic := { x.logic with forceOps := x.logic.forceOps ++ [.remove none] } } : State).respond h 0x7006 Res.ok []) := by
  show execCmdLogicUnforce h none s = _
  unfold execCmdLogicUnforce
  exact command_replied hp rfl

theorem exec_cmdLogicReport_answers {n : W32} (hp : Processed s h 0x7007 (le 4 n.toNat) x) :
    exec (.cmdLogicReport h n) s = .next (x.respond h 0x7007 Res.ok
      ((x.logic.report.drop n.toNat).foldl (fun acc (line : List Byte) =>
        if acc.2 = true ∨ 4064 < acc.1.length + line.length + 1 then (acc.1, true) else (acc.1 ++ line ++ [10], false))
        (([] : List Byte), false)).1) := by
  show execCmdLogicReport h n s = _
  unfold execCmdLogicReport
  exact command_replied hp rfl

theorem exec_cmdLogicVarRead_answers {p : List Byte} (hp : Processed s h 0x7008 p x) :
    exec (.cmdLogicVarRead h p) s = .next (
      if x.logicState = 0 then x.respond h 0x7008 Res.wrongState []
      else match x.symbol p with
        | none => x.respond h 0x7008 Res.notFound []
        | some y => x.respond h 0x7008 Res.ok (x.readSym y ++ [y.typ])) := by
  show execCmdLogicVarRead h p s = _
  unfold execCmdLogicVarRead
  refine command_answers hp ?_
  rw [answered_ite]
  cases x.symbol p <;> rfl

/-- Settles O29: the answers of each of the nine commands. -/
theorem logicCommandsAct : Obligations.LogicCommandsAct := by
  unfold Obligations.LogicCommandsAct
  exact ⟨fun s x h off d hp => exec_cmdLogicLoad_answers hp,
    fun s x h r hp => ⟨exec_cmdLogicChange_outOfRange hp, exec_cmdLogicChange_wrongState hp, exec_cmdLogicChange_waits hp,
      exec_cmdLogicChange_writeGuard hp⟩,
    fun s x h c hp => exec_cmdLogicStart_answers hp, fun s x h hp => exec_cmdLogicStop_answers hp,
    fun s x h t ty v hp => exec_cmdLogicForce_answers hp, fun s x h t hp => exec_cmdLogicUnforce_one hp,
    fun s x h hp => exec_cmdLogicUnforce_all hp, fun s x h n hp => exec_cmdLogicReport_answers hp,
    fun s x h p hp => exec_cmdLogicVarRead_answers hp⟩

end Sys2Proof.Machine
end

section
/-! PROOFS. The Loop Engine: faults, setpoint records, and the loop test. -/

namespace Sys2Proof.Machine

variable {s x : State} {h : Hdr}

/-- A tick is due after BOOT. -/
theorem atTick_of {n : Nat} (hr : x.ready = true) (ht : x.time.tickDue = n) : x.atTick n = true := by
  unfold State.atTick
  rw [hr, ht]
  simp

/-! ### Faults -/

theorem exec_loopFaultCount_faults {l : Fin 128} (hx : Runs s x) (hr : x.ready = true) (ho : x.loopOn l.val = true)
    (ht : (x.loopRt l.val).told = false) (hf : x.loopState l.val = 3 ∨ x.cfg F.loopFaultTicks ≤ (x.loopRt l.val).bad) :
    exec (.loopFaultCount l) s = .next
      (((x.setLoop l.val { x.loopRt l.val with told := true }).wr (F.loopStatusState l.val) 3).loopEvent l.val 0) := by
  show execLoopFaultCount l s = _
  unfold execLoopFaultCount
  exact acts hx (if_pos ⟨hr, ho, ht, hf⟩)

theorem exec_loopRecovery_recovers {l : Fin 128} (hx : Runs s x) (hr : x.ready = true) (hs : x.loopState l.val = 3)
    (hg : x.cfg F.loopFaultClearTicks ≤ (x.loopRt l.val).good) :
    exec (.loopRecovery l) s = .next (
      let ref := x.reference l.val ((List.range 128).map fun k => (k, (x.loopRt k).u1))
      ((x.setLoop l.val { x.reinitLoop l.val (x.loopRt l.val) (x.loopRt l.val).yLast ref.1 ref.2 with told := false }).wr
        (F.loopStatusState l.val) 1).loopEvent l.val 1) := by
  show execLoopRecovery l s = _
  unfold execLoopRecovery
  exact acts hx (if_pos ⟨hr, hs, hg⟩)

/-- Settles O53: the two events at their guards. -/
theorem loopsFaultAndRecover : Obligations.LoopsFaultAndRecover := by
  unfold Obligations.LoopsFaultAndRecover
  exact ⟨fun s x l hx hr ho ht hf => exec_loopFaultCount_faults hx hr ho ht hf, fun s x l hx hr hs hg => exec_loopRecovery_recovers hx hr hs hg⟩

/-! ### Setpoint records -/

/-- A published record of the frame that arrived intact is good, and no other (R268). -/
theorem recordGood_iff (x : State) (r : SpRecord) (intact : Bool) : x.recordGood r intact = true ↔
    x.ctl.spPublished = true ∧ intact = true ∧ r.frame = x.rd F.timeFrameNumber ∧ r.epoch = x.rd F.timeFrameEpoch := by
  unfold State.recordGood
  simp only [Bool.and_eq_true, beq_iff_eq, and_assoc]
  exact and_left_comm

/-- A good record comes into force at tick D + 8 (R268, R269). -/
theorem exec_applyTick_takes {r : SpRecord} {intact : Bool} (hx : Runs s x) (ht : x.atTick (x.deadline + 8) = true)
    (hp : x.ctl.published = some r) (hg : x.recordGood r intact = true) :
    exec (.applyTick intact) s = .next (({ x with loop := { x.loop with
      record := some r, n := 0, frozen := none, missRun := false, applied := true } } : State).wr F.loopOutStatusSpMissing 0) := by
  show execApplyTick intact s = _
  unfold execApplyTick
  refine acts hx ((if_neg (by simp [ht])).trans ?_)
  rw [hp, Option.any_some, hg]

/-- Without a good record SP_MISSING is set, with an event at the first of a run (R269). -/
theorem exec_applyTick_misses {intact : Bool} (hx : Runs s x) (ht : x.atTick (x.deadline + 8) = true)
    (hg : ∀ r, x.ctl.published = some r → x.recordGood r intact = false) :
    exec (.applyTick intact) s = .next (
      let y := ({ x with loop := { x.loop with missRun := true } } : State).wr F.loopOutStatusSpMissing 1
      if x.loop.missRun then y else y.emit 0x61 (le 4 (y.rd F.timeFrameNumber))) := by
  have first : ∀ (m : Bool) (a b : State), (if (!m) = true then a else b) = if m = true then b else a := by
    intro m a b
    cases m <;> rfl
  show execApplyTick intact s = _
  unfold execApplyTick
  refine acts hx ((if_neg (by simp [ht])).trans ?_)
  cases hp : x.ctl.published with
  | none => exact first _ _ _
  | some r =>
    rw [Option.any_some, hg r hp]
    exact first _ _ _

theorem exec_spHoldExpiry_freezes (hx : Runs s x) (hr : x.ready = true) (hc : x.loop.record ≠ none) (hf : x.loop.frozen = none)
    (hn : 160 * x.cfg F.loopSpHoldFrames ≤ x.loop.n) :
    exec .spHoldExpiry s = .next { x with loop := { x.loop with frozen := some (160 * x.cfg F.loopSpHoldFrames) } } := by
  show execSpHoldExpiry s = _
  unfold execSpHoldExpiry
  exact acts hx (if_pos ⟨hr, Option.isSome_iff_ne_none.mpr hc, hf, hn⟩)

/-- A record that was not published, did not arrive intact, or is of another frame is not good. -/
theorem recordGood_false {r : SpRecord} {intact : Bool} (hm : x.ctl.spPublished = false ∨ intact = false ∨
    r.frame ≠ x.rd F.timeFrameNumber ∨ r.epoch ≠ x.rd F.timeFrameEpoch) : x.recordGood r intact = false := by
  refine Bool.eq_false_iff.mpr fun hg => ?_
  obtain ⟨published, sound, frame, epoch⟩ := (recordGood_iff x r intact).mp hg
  rcases hm with h | h | h | h
  · exact Bool.noConfusion (h.symm.trans published)
  · exact Bool.noConfusion (h.symm.trans sound)
  · exact h frame
  · exact h epoch

/-- Settles O54: a good record, a missing one, and the freeze. -/
theorem setpointRecordsComeIntoForce : Obligations.SetpointRecordsComeIntoForce := by
  unfold Obligations.SetpointRecordsComeIntoForce
  refine ⟨fun s x r hx hr ht hp hs hf he => exec_applyTick_takes hx (atTick_of hr ht) hp ((recordGood_iff x r true).mpr ⟨hs, rfl, hf, he⟩),
    fun s x intact hx hr ht hm => exec_applyTick_misses hx (atTick_of hr ht) fun r hp => recordGood_false ?_,
    fun s x r hx hr hc hf hn => exec_spHoldExpiry_freezes hx hr (by rw [hc]; exact Option.some_ne_none r) hf hn⟩
  rcases hm with h | h | h
  · exact .inl h
  · exact .inr (.inl h)
  · exact absurd (h.symm.trans hp) (Option.some_ne_none r).symm

/-! ### The loop test -/

theorem exec_loopTestStart_begins {t : LoopTest} (hx : Runs s x) (ht : x.loop.test = some t) (ha : x.atTick 0 = true)
    (hr : t.running = false) (hf : t.at_ < x.frameClock) : exec .loopTestStart s = .next (x.beginTest t) := by
  show execLoopTestStart s = _
  unfold execLoopTestStart
  refine acts hx ?_
  rw [ht]
  exact if_neg (by simp [ha, hr, hf])

theorem exec_loopTestEnd_ends {t : LoopTest} {why : Nat} (hx : Runs s x) (ht : x.loop.test = some t) (hr : x.ready = true)
    (hw : x.testEnd t (x.loopState t.loop == 3) = some why) : exec .loopTestEnd s = .next (x.finishTest t why) := by
  show execLoopTestEnd s = _
  unfold execLoopTestEnd
  refine acts hx ?_
  rw [ht]
  dsimp only
  rw [if_pos hr, hw]

/-- A test stopped by command ends for reason 1 (R279). -/
theorem testEnd_stopped {t : LoopTest} (faulted : Bool) (hw : t.why = none) (hs : t.stop = true) : x.testEnd t faulted = some 1 := by
  unfold State.testEnd
  rw [hw, hs]
  rfl

/-- Settles O55: the beginning and the end of a test, and the reason of a stopped one. -/
theorem loopTestsBeginAndEnd : Obligations.LoopTestsBeginAndEnd := by
  unfold Obligations.LoopTestsBeginAndEnd
  exact ⟨fun s x t hx hr h0 ht hn hf => exec_loopTestStart_begins hx ht (atTick_of hr h0) hn hf,
    fun s x t why hx hr ht hw => exec_loopTestEnd_ends hx ht hr hw, fun x t faulted hw hs => testEnd_stopped faulted hw hs⟩

/-- CMD_LOOP_TEST asks for a test, unless its arguments, a test that stands or its loop forbid it (R278, R284). -/
theorem exec_cmdLoopTest_answers {l p k : Byte} {a : F32} {hold : Byte} {f0 f1 : F32} {dur : W32} {dec : Byte}
    (hp : Processed s h 0x6001 ([l, p, k] ++ le 4 a.toNat ++ [hold] ++ le 4 f0.toNat ++ le 4 f1.toNat ++ le 4 dur.toNat ++ [dec]) x) :
    exec (.cmdLoopTest h l p k a hold f0 f1 dur dec) s = .next (
      if loopTestArgs l p k a hold f0 f1 dur dec = false then x.respond h 0x6001 Res.outOfRange []
      else if x.loop.test.isSome then x.respond h 0x6001 Res.busy []
      else if x.testAllowed l.toNat = false then x.respond h 0x6001 Res.wrongState []
      else ({ x with loop := { x.loop with test := some (⟨l.toNat, p.toNat, k.toNat, a, hold.toNat, f0, f1,
          dur.toNat, 2 ^ dec.toNat, false, 0, 1, false, false, x.clock, none⟩ : LoopTest) } } : State).respond h 0x6001 Res.ok []) := by
  show execCmdLoopTest h l p k a hold f0 f1 dur dec s = _
  unfold execCmdLoopTest
  refine command_answers hp ?_
  simp only [answered_ite, answered_reply]

theorem exec_cmdLoopTestStop_none (hp : Processed s h 0x6002 [] x) (ht : x.loop.test = none) :
    exec (.cmdLoopTestStop h) s = .next (x.respond h 0x6002 Res.wrongState []) := by
  show execCmdLoopTestStop h s = _
  unfold execCmdLoopTestStop
  refine command_replied hp ?_
  rw [ht]
  rfl

theorem exec_cmdLoopTestStop_stops {t : LoopTest} (hp : Processed s h 0x6002 [] x) (ht : x.loop.test = some t) :
    exec (.cmdLoopTestStop h) s =
      .next (({ x with loop := { x.loop with test := some { t with stop := true } } } : State).respond h 0x6002 Res.ok []) := by
  show execCmdLoopTestStop h s = _
  unfold execCmdLoopTestStop
  refine command_replied hp ?_
  rw [ht]
  rfl

/-- CMD_LOOP_CAPTURE_READ gives samples that were captured (R280, R284). -/
theorem exec_cmdLoopCaptureRead_answers {first n : W32} (hp : Processed s h 0x6003 (le 2 first.toNat ++ le 4 n.toNat) x) :
    exec (.cmdLoopCaptureRead h first n) s = .next (
      if n.toNat = 0 ∨ 240 < n.toNat ∨ 65535 < first.toNat ∨ x.rd F.loopCaptureCount < first.toNat + n.toNat then
        x.respond h 0x6003 Res.outOfRange []
      else x.respond h 0x6003 Res.ok ((x.loop.captures.get ((x.laneIn laneDuty).getD 0)).bytes.readBytes (16 * first.toNat) (16 * n.toNat))) := by
  show execCmdLoopCaptureRead h first n s = _
  unfold execCmdLoopCaptureRead
  refine command_answers hp ?_
  simp only [answered_ite, answered_reply]

/-- Settles O56: the answers of the three commands, case by case. -/
theorem loopTestCommandsAct : Obligations.LoopTestCommandsAct := by
  unfold Obligations.LoopTestCommandsAct
  refine ⟨fun s x h l p k a hold f0 f1 dur dec hp => ⟨fun ha hn hl => ?_, fun ha => ?_, fun ha hn => ?_, fun ha hn hl => ?_⟩,
    fun s x h hp => ⟨exec_cmdLoopTestStop_none hp, fun t => exec_cmdLoopTestStop_stops hp⟩,
    fun s x h first n hp => ⟨fun h0 hn hf hc => ?_, fun hb => ?_⟩⟩
  · rw [exec_cmdLoopTest_answers hp, if_neg (by simp [ha]), if_neg (by simp [hn]), if_neg (by simp [hl])]
  · rw [exec_cmdLoopTest_answers hp, if_pos ha]
  · rw [exec_cmdLoopTest_answers hp, if_neg (by simp [ha]), if_pos (Option.isSome_iff_ne_none.mpr hn)]
  · rw [exec_cmdLoopTest_answers hp, if_neg (by simp [ha]), if_neg (by simp [hn]), if_pos hl]
  · rw [exec_cmdLoopCaptureRead_answers hp, if_neg (by omega)]
  · rw [exec_cmdLoopCaptureRead_answers hp, if_pos hb]

/-- Settles O30: the loops' events, the records and the loop test, by the lemmas above. -/
theorem loopsFaultAndAreTested : Obligations.LoopsFaultAndAreTested := by
  unfold Obligations.LoopsFaultAndAreTested
  refine ⟨fun s x l hx hr ho ht hf => exec_loopFaultCount_faults hx hr ho ht hf, fun s x l hx hr hs hg => exec_loopRecovery_recovers hx hr hs hg,
    fun s x r hx ht hp hs hf he => exec_applyTick_takes hx ht hp ((recordGood_iff x r true).mpr ⟨hs, rfl, hf, he⟩),
    fun s x ok hx ht hm => exec_applyTick_misses hx ht fun r hp => recordGood_false ?_,
    fun s x hx hr hc hf hn => exec_spHoldExpiry_freezes hx hr hc hf hn,
    fun s x h l p k a hold f0 f1 dur dec hp => exec_cmdLoopTest_answers hp,
    fun s x t hx ht ha hr hf => exec_loopTestStart_begins hx ht ha hr hf,
    fun s x t why hx ht hr hw => exec_loopTestEnd_ends hx ht hr hw,
    fun s x h hp => ⟨exec_cmdLoopTestStop_none hp, fun t => exec_cmdLoopTestStop_stops hp⟩,
    fun s x h first n hp => exec_cmdLoopCaptureRead_answers hp⟩
  rcases hm with h | h | h
  · exact .inl h
  · exact .inr (.inl h)
  · exact .inr (.inr (h r hp))

end Sys2Proof.Machine
end

section
/-! PROOFS. The Spine: heartbeats and partners, links, tables and frames, keys and rejected datagrams. -/

namespace Sys2Proof.Machine

variable {s x : State} {h : Hdr}

/-! ### Heartbeats -/

section HeartbeatTx

variable (hx : Runs s x) (ha : x.atTick 4 = true) (hb : x.spine.hbSent = false) (hg : x.cfg F.spineHbGroup ≠ 0)
  (hk : x.keyLoaded (x.cfg F.spineHbKey) = true)

include hx ha hb hg hk

/-- A heartbeat that is due waits during a hold, and is else sent (R340). -/
theorem exec_heartbeatTx_due :
    exec .heartbeatTx s = .next (
      let y : State := { x with spine := { x.spine with hbSent := true } }
      if x.flag F.laneStatusHolding = true
      then { y with host := { y.host with withheld := y.host.withheld ++ [.heartbeat y.heartbeatBody] } }
      else y.sendHeartbeat y.heartbeatBody) := by
  show execHeartbeatTx s = _
  unfold execHeartbeatTx
  exact acts hx (if_neg (by simp [ha, hb, hg, hk]))

theorem exec_heartbeatTx_waits (hh : x.flag F.laneStatusHolding = true) :
    exec .heartbeatTx s = .next (
      let y : State := { x with spine := { x.spine with hbSent := true } }
      { y with host := { y.host with withheld := y.host.withheld ++ [.heartbeat y.heartbeatBody] } }) :=
  (exec_heartbeatTx_due hx ha hb hg hk).trans (congrArg Host.Outcome.next (if_pos hh))

/-- A heartbeat goes out sealed, to the group on its ports (R340). -/
theorem exec_heartbeatTx_sends (hh : x.flag F.laneStatusHolding = false) :
    exec .heartbeatTx s = .next (
      let y : State := { x with spine := { x.spine with hbSent := true } }
      (y.seal (x.cfg F.spineHbKey) y.heartbeatBody).1.put (.heartbeat (x.cfg F.spineHbGroup)
        (x.cfg F.spineHbPort) y.floodPorts (y.seal (x.cfg F.spineHbKey) y.heartbeatBody).2)) := by
  have sealed : ∀ (y : State) (body : List Byte), y.sendHeartbeat body = (y.seal (y.cfg F.spineHbKey) body).1.put
      (.heartbeat (y.cfg F.spineHbGroup) (y.cfg F.spineHbPort) y.floodPorts (y.seal (y.cfg F.spineHbKey) body).2) := fun _ _ => rfl
  rw [exec_heartbeatTx_due hx ha hb hg hk, if_neg (by simp [hh])]
  exact congrArg Host.Outcome.next (sealed _ _)

end HeartbeatTx

/-- A datagram to the heartbeat port is judged by its tag, its layout and its serial, in this order (R335 to R337, R341). -/
theorem exec_heartbeatRx_judges {hb : Heartbeat} (hx : Runs s x) (hr : x.ready = true) (hi : x.cfg F.spineIpAddr ≠ 0)
    (hp : hb.dst.toNat = x.cfg F.spineHbPort) (hw : x.withinTick (x.time.frameAt + hb.atUs * 1000) = true) :
    exec (.heartbeatRx hb) s = .next (
      if x.authentic hb = false then x.authReject hb.addr.toNat 0
      else if hbFormed hb = false then x.inc F.devMsgErrors
      else match x.partnerOf (hbField hb 4 8) with
        | none => x
        | some p => x.takeHeartbeat hb p) := by
  show execHeartbeatRx hb s = _
  unfold execHeartbeatRx
  exact acts hx (if_neg (by simp [hr, hi, hp, hw]))

section HeartbeatRx

variable {hb : Heartbeat} (hx : Runs s x) (hr : x.ready = true) (hi : x.cfg F.spineIpAddr ≠ 0)
  (hp : hb.dst.toNat = x.cfg F.spineHbPort) (hw : x.withinTick (x.time.frameAt + hb.atUs * 1000) = true)

include hx hr hi hp hw

theorem exec_heartbeatRx_rejects (ha : x.authentic hb = false) : exec (.heartbeatRx hb) s = .next (x.authReject hb.addr.toNat 0) := by
  rw [exec_heartbeatRx_judges hx hr hi hp hw, if_pos ha]

theorem exec_heartbeatRx_malformed (ha : x.authentic hb = true) (hf : hbFormed hb = false) :
    exec (.heartbeatRx hb) s = .next (x.inc F.devMsgErrors) := by
  rw [exec_heartbeatRx_judges hx hr hi hp hw, if_neg (by simp [ha]), if_pos hf]

theorem exec_heartbeatRx_stranger (ha : x.authentic hb = true) (hf : hbFormed hb = true) (hn : x.partnerOf (hbField hb 4 8) = none) :
    exec (.heartbeatRx hb) s = .next x := by
  rw [exec_heartbeatRx_judges hx hr hi hp hw, if_neg (by simp [ha]), if_neg (by simp [hf]), hn]

theorem exec_heartbeatRx_partner {p : Nat} (ha : x.authentic hb = true) (hf : hbFormed hb = true)
    (hn : x.partnerOf (hbField hb 4 8) = some p) : exec (.heartbeatRx hb) s = .next (x.takeHeartbeat hb p) := by
  rw [exec_heartbeatRx_judges hx hr hi hp hw, if_neg (by simp [ha]), if_neg (by simp [hf]), hn]

end HeartbeatRx

theorem exec_partnerLost_loses {p : Fin 3} {t : Nat} (hx : Runs s x) (hl : (x.spine.partners.get p.val).last = some t)
    (ha : x.atTick 0 = true) (hs : x.rd (F.spinePartnerStatusState p.val) ≠ 1)
    (ht : t + x.cfg F.spineHbTimeout * nsMs < x.frameClock) :
    exec (.partnerLost p) s = .next (({ x with spine := { x.spine with
      partners := x.spine.partners.set p.val { (x.spine.partners.get p.val) with run := 0 } } } : State).setPartner p.val 1
        (x.rd (F.spinePartnerStatusSinglePath p.val)) (x.rd (F.spinePartnerStatusGridMismatch p.val))) := by
  show execPartnerLost p s = _
  unfold execPartnerLost
  refine acts hx ?_
  rw [hl]
  exact if_pos ⟨ha, hs, ht⟩

/-- Settles O57: the heartbeat sent, the datagrams judged, State.takeHeartbeat's three cases, and the partner lost. -/
theorem heartbeatsPass : Obligations.HeartbeatsPass := by
  unfold Obligations.HeartbeatsPass
  refine ⟨fun s x hx hr ht hb hg hk => ⟨exec_heartbeatTx_waits hx (atTick_of hr ht) hb hg hk, exec_heartbeatTx_sends hx (atTick_of hr ht) hb hg hk⟩,
    fun s x hb hx hr hi hp hw => ⟨exec_heartbeatRx_rejects hx hr hi hp hw, exec_heartbeatRx_malformed hx hr hi hp hw,
      exec_heartbeatRx_stranger hx hr hi hp hw, fun p ha hf hn => ⟨fun fresh => ?_, fun stale hred hlast => ?_, fun stale hred => ?_⟩⟩,
    fun s x p t hx hr ht hl hs hlt => exec_partnerLost_loses hx hl (atTick_of hr ht) hs hlt⟩
  · rw [exec_heartbeatRx_partner hx hr hi hp hw ha hf hn]
    exact congrArg Host.Outcome.next (if_pos fresh)
  · rw [exec_heartbeatRx_partner hx hr hi hp hw ha hf hn]
    exact congrArg Host.Outcome.next ((if_neg (ne_true_of_eq_false stale)).trans (if_pos ⟨hred, hlast⟩))
  · rw [exec_heartbeatRx_partner hx hr hi hp hw ha hf hn]
    refine congrArg Host.Outcome.next ((if_neg (ne_true_of_eq_false stale)).trans (if_neg ?_))
    exact fun both => hred.elim both.1 fun other => other both.2

/-! ### Links, supervision and tables -/

theorem exec_spineLinkChange_shows {q : Fin 8} {v : Fin 3} (hx : Runs s x) (hr : x.ready = true)
    (hn : x.rd (F.spinePortStatus q.val) ≠ x.linkSpeed q.val v.val) :
    exec (.spineLinkChange q v) s = .next (x.setLink q.val (x.linkSpeed q.val v.val)) := by
  show execSpineLinkChange q v s = _
  unfold execSpineLinkChange
  exact acts hx (if_neg (by simp [hr, hn]))

theorem exec_supervisionTx_sends (hx : Runs s x) (hr : x.ready = true) (hn : x.cfg F.spineRedundancy ≠ 0)
    (ht : 2 * nsSecond ≤ x.since x.spine.supervisedAt) :
    exec .supervisionTx s = .next (State.put { x with spine := { x.spine with supervisedAt := x.clock } } .supervision) := by
  show execSupervisionTx s = _
  unfold execSupervisionTx
  exact acts hx (if_pos ⟨hr, hn, ht⟩)

theorem exec_supervisionRx_keeps {src : BitVec 48} {q : Fin 2} (hx : Runs s x) (hr : x.ready = true) (hn : x.cfg F.spineRedundancy ≠ 0)
    (hl : x.rd (F.spinePortStatus q.val) ≠ 0) (hc : (x.spine.nodes.filter fun n => n.1 != src).length < 512) :
    exec (.supervisionRx src q) s = .next { x with
      spine := { x.spine with nodes := (x.spine.nodes.filter fun n => n.1 != src) ++ [(src, x.clock)] } } := by
  show execSupervisionRx src q s = _
  unfold execSupervisionRx
  exact acts hx ((if_neg (by simp [hr, hn, hl])).trans (if_neg (Nat.not_le.mpr hc)))

/-- Settles O59: a link at another speed, and supervision frames sent and received. -/
theorem spineLinksAndNodesAreKept : Obligations.SpineLinksAndNodesAreKept := by
  unfold Obligations.SpineLinksAndNodesAreKept
  exact ⟨fun s x q v hx hr hn => exec_spineLinkChange_shows hx hr hn, fun s x hx hr hn ht => exec_supervisionTx_sends hx hr hn ht,
    fun s x src q hx hr hn hl hc => exec_supervisionRx_keeps hx hr hn hl hc⟩

theorem exec_macAgeExpiry_forgets (mac : BitVec 48) (hx : Runs s x) :
    exec (.macAgeExpiry mac) s = .next { x with spine := { x.spine with macs := x.spine.macs.filter fun m =>
      !(m.mac == mac && decide (x.cfg F.spineMacAge * nsSecond ≤ x.since m.at_)) } } := by
  show execMacAgeExpiry mac s = _
  unfold execMacAgeExpiry
  exact acts hx rfl

theorem exec_prpEntryForget_forgets (src : BitVec 48) (n : W16) (hx : Runs s x) :
    exec (.prpEntryForget src n) s = .next { x with spine := { x.spine with dups := x.spine.dups.filter fun d =>
      !(d.src == src && d.seq == n.toNat && decide (400 * nsMs ≤ x.since d.at_)) } } := by
  show execPrpEntryForget src n s = _
  unfold execPrpEntryForget
  exact acts hx rfl

theorem exec_reassemblyTimeout_forgets (n : W16) (hx : Runs s x) :
    exec (.reassemblyTimeout n) s = .next { x with spine := { x.spine with reassembly := x.spine.reassembly.filter fun d =>
      !(d.1 == n.toNat && decide (100 * nsMs ≤ x.since d.2)) } } := by
  show execReassemblyTimeout n s = _
  unfold execReassemblyTimeout
  exact acts hx rfl

theorem exec_spineFrameForward_enters {port : Fin 9} (f : EthFrame) (hx : Runs s x) (hr : x.ready = true) (hp : x.portUp port.val = true) :
    exec (.spineFrameForward port f) s = .next ((x.countPort port.val 0).ingress port.val f) := by
  show execSpineFrameForward port f s = _
  unfold execSpineFrameForward
  exact acts hx (if_neg (by simp [hr, hp]))

/-- Settles O58: a frame at a port that forwards, and the three tables. -/
theorem spineFramesAndTablesMove : Obligations.SpineFramesAndTablesMove := by
  unfold Obligations.SpineFramesAndTablesMove
  exact ⟨fun s x port f hx hr hp => exec_spineFrameForward_enters f hx hr hp, fun s x mac hx => exec_macAgeExpiry_forgets mac hx,
    fun s x src n hx => exec_prpEntryForget_forgets src n hx, fun s x n hx => exec_reassemblyTimeout_forgets n hx⟩

/-! ### Keys -/

/-- CMD_SPINE_KEY takes or clears a key, locally and outside the Write Guard (R338, R343). -/
theorem exec_cmdSpineKey_answers {k : Byte} {key : Option (List Byte)} (hp : Processed s h 0x9001 (k :: key.getD []) x) :
    exec (.cmdSpineKey h k key) s = .next (
      if fromHere h = false then x.respond h 0x9001 Res.wrongTransport []
      else if 3 < k.toNat then x.respond h 0x9001 Res.outOfRange []
      else if x.writeGuard then x.respond h 0x9001 Res.writeGuard []
      else if key.getD [] = [] then (x.setKey k.toNat []).respond h 0x9001 Res.ok []
      else if (key.getD []).length ≠ 32 then x.respond h 0x9001 Res.badLength []
      else (x.setKey k.toNat (key.getD [])).respond h 0x9001 Res.ok []) := by
  show execCmdSpineKey h k key s = _
  unfold execCmdSpineKey
  refine command_answers hp ?_
  match key with
  | none => simp only [answered_ite, answered_reply, Option.getD_none, if_true]
  | some [] => simp only [answered_ite, answered_reply, Option.getD_some, if_true]
  | some (b :: bs) => simp only [answered_ite, answered_reply, Option.getD_some, List.cons_ne_nil, if_false]

/-! ### Rejected datagrams -/

/-- A datagram to spine.plezen_port from an address of no enabled host is of an unknown source (R337). -/
theorem exec_plezenMessageReject_unknown {addr : UdpFrom} (bytes : List Byte) (hx : Runs s x) (hr : x.ready = true)
    (hi : x.cfg F.spineIpAddr ≠ 0) (hd : addr.ports.dst.toNat = x.cfg F.spinePlezenPort)
    (hk : ∀ k : Fin 4, x.cfgFlag (F.spineHostCfgEnabled k.val) = true → x.cfg (F.spineHostIp k.val) ≠ addr.ip.toNat) :
    exec (.plezenMessageReject addr bytes) s = .next (x.authReject addr.ip.toNat 2) := by
  have none : ((List.finRange 4).find? fun k => x.cfgFlag (F.spineHostCfgEnabled k.val) && x.cfg (F.spineHostIp k.val) == addr.ip.toNat) = none := by
    refine List.find?_eq_none.mpr fun k _ => ?_
    simpa using hk k
  show execPlezenMessageReject addr bytes s = _
  unfold execPlezenMessageReject
  refine acts hx ((if_neg (by simp [hr, hi, hd])).trans ?_)
  rw [none]

section Datagram

variable {addr : UdpFrom} {bytes : List Byte} {k : Fin 4} (hx : Runs s x) (hr : x.ready = true) (hi : x.cfg F.spineIpAddr ≠ 0)
  (hd : addr.ports.dst.toNat = x.cfg F.spinePlezenPort)
  (hk : ((List.finRange 4).find? fun k => x.cfgFlag (F.spineHostCfgEnabled k.val) && x.cfg (F.spineHostIp k.val) == addr.ip.toNat) = some k)

include hx hr hi hd hk

/-- A datagram of an enabled host that is shorter than a trailer fails its tag (R336, R337). -/
theorem exec_plezenMessageReject_short (hl : bytes.length < 28) :
    exec (.plezenMessageReject addr bytes) s = .next (x.authReject addr.ip.toNat 0) := by
  show execPlezenMessageReject addr bytes s = _
  unfold execPlezenMessageReject
  refine acts hx ((if_neg (by simp [hr, hi, hd])).trans ?_)
  rw [hk]
  exact if_pos hl

/-- A datagram of an enabled host, cut into its message, slot, counter, tag and signed part, is judged by its slot, tag and counter,
then by its message (R336, R337, R444). -/
theorem exec_plezenMessageReject_judges {m tag signed : List Byte} {slot : Byte} {c : W64} (hl : 28 ≤ bytes.length)
    (hm : bytes.take (bytes.length - 28) = m) (hs : (bytes.drop (bytes.length - 28)).headD 0 = slot)
    (hc : BitVec.ofNat 64 (unle (((bytes.drop (bytes.length - 28)).drop 4).take 8)) = c)
    (ht : (bytes.drop (bytes.length - 28)).drop 12 = tag) (hg : bytes.take (bytes.length - 16) = signed) :
    exec (.plezenMessageReject addr bytes) s = .next (match x.authFault k.val slot c tag signed with
      | some r => x.authReject addr.ip.toNat r
      | none => x.rejectMessage (x.acceptFrom k.val c) k slot c tag m addr.ports) := by
  subst hm hs hc ht hg
  show execPlezenMessageReject addr bytes s = _
  unfold execPlezenMessageReject
  refine acts hx ((if_neg (by simp [hr, hi, hd])).trans ?_)
  rw [hk]
  exact if_neg (Nat.not_lt.mpr hl)

end Datagram

/-- A command of a Spine host that is no repetition, with fewer than eight outstanding, is run (R447). -/
theorem spineCommand_runs {t : State} {k code : Nat} {body : State → Reply}
    (hk : ((t.host.kept.get k).find? fun r => r.seq = h.seq.toNat) = none) (ho : (t.host.outstanding.get k).length < 8) :
    t.spineCommand k h code body = t.runCommand h code body := by
  unfold State.spineCommand
  rw [hk]
  exact if_neg (Nat.not_le.mpr ho)

/-- An accepted datagram with a malformed message is counted (R444). -/
theorem rejectMessage_malformed {t : State} {k : Fin 4} {slot : Byte} {c : W64} {tag m : List Byte} {ports : UdpPorts}
    (hf : plezenFormed m = false) : x.rejectMessage t k slot c tag m ports = t.inc F.devMsgErrors :=
  if_pos hf

/-- A well-formed message of no listed command is answered UNKNOWN_COMMAND (R448, R453). -/
theorem rejectMessage_unknown {t : State} {k : Fin 4} {slot : Byte} {c : W64} {tag m : List Byte} {ports : UdpPorts}
    (hf : plezenFormed m = true) (ha : argLength (unle ((m.drop 4).take 2)) = none)
    (hk : ((t.host.kept.get k.val).find? fun r => r.seq = (BitVec.ofNat 32 (unle ((m.drop 8).take 4))).toNat) = none)
    (ho : (t.host.outstanding.get k.val).length < 8) :
    x.rejectMessage t k slot c tag m ports = t.respond
      ⟨.spine k slot c tag ports, BitVec.ofNat 32 (unle ((m.drop 8).take 4)), BitVec.ofNat 32 (unle ((m.drop 28).take 4))⟩
      (unle ((m.drop 4).take 2)) Res.unknownCommand [] := by
  unfold State.rejectMessage
  rw [if_neg (by simp [hf])]
  dsimp only
  rw [ha]
  exact spineCommand_runs hk ho

/-- Settles O31: the clauses of heartbeats, partners, links, tables, frames, keys and datagrams, by the lemmas above. -/
theorem spineTrafficIsHandled : Obligations.SpineTrafficIsHandled := by
  unfold Obligations.SpineTrafficIsHandled
  refine ⟨fun s x hx ha hb hg hk => ⟨exec_heartbeatTx_waits hx ha hb hg hk, exec_heartbeatTx_sends hx ha hb hg hk⟩,
    fun s x hb hx hr hi hp hw => ⟨exec_heartbeatRx_rejects hx hr hi hp hw, exec_heartbeatRx_malformed hx hr hi hp hw,
      exec_heartbeatRx_stranger hx hr hi hp hw, fun p => exec_heartbeatRx_partner hx hr hi hp hw⟩,
    fun s x p t hx hl ha hs ht => exec_partnerLost_loses hx hl ha hs ht,
    fun s x q v hx hr hn => exec_spineLinkChange_shows hx hr hn, fun s x hx hr hn ht => exec_supervisionTx_sends hx hr hn ht,
    fun s x src q hx hr hn hl hc => exec_supervisionRx_keeps hx hr hn hl hc, fun s x mac hx => exec_macAgeExpiry_forgets mac hx,
    fun s x src n hx => exec_prpEntryForget_forgets src n hx, fun s x n hx => exec_reassemblyTimeout_forgets n hx,
    fun s x port f hx hr hp => exec_spineFrameForward_enters f hx hr hp, fun s x h k key hp => exec_cmdSpineKey_answers hp,
    fun s x addr bytes hx hr hi hd hk => exec_plezenMessageReject_unknown bytes hx hr hi hd hk,
    fun s x addr bytes k hx hr hi hd hk => ⟨exec_plezenMessageReject_short hx hr hi hd hk, fun r hl hf => ?_, fun hl hf hm => ?_,
      fun hl hf hm ha hkept hout => ?_⟩⟩
  · rw [exec_plezenMessageReject_judges hx hr hi hd hk hl rfl rfl rfl rfl rfl, hf]
  · rw [exec_plezenMessageReject_judges hx hr hi hd hk hl rfl rfl rfl rfl rfl, hf]
    exact congrArg Host.Outcome.next (rejectMessage_malformed hm)
  · rw [exec_plezenMessageReject_judges hx hr hi hd hk hl rfl rfl rfl rfl rfl, hf]
    exact congrArg Host.Outcome.next (rejectMessage_unknown hm ha hkept hout)

/-! ### A datagram with its trailer -/

section Trailer

variable (m : List Byte) (slot z1 z2 z3 : Byte) (c : W64) {tag : List Byte} (ht : tag.length = 16)

include ht

theorem length_withTrailer : (m ++ ([slot, z1, z2, z3] ++ le 8 c.toNat ++ tag)).length = m.length + 28 := by
  simp [length_le, ht]

/-- The message before a trailer, and the trailer. -/
theorem cut_withTrailer :
    (m ++ ([slot, z1, z2, z3] ++ le 8 c.toNat ++ tag)).take ((m ++ ([slot, z1, z2, z3] ++ le 8 c.toNat ++ tag)).length - 28) = m ∧
    (m ++ ([slot, z1, z2, z3] ++ le 8 c.toNat ++ tag)).drop ((m ++ ([slot, z1, z2, z3] ++ le 8 c.toNat ++ tag)).length - 28) =
      [slot, z1, z2, z3] ++ le 8 c.toNat ++ tag := by
  rw [length_withTrailer m slot z1 z2 z3 c ht, Nat.add_sub_cancel]
  exact ⟨List.take_left' rfl, List.drop_left' rfl⟩

/-- What a trailer's tag signs: the message, the slot and the counter (R336). -/
theorem signed_withTrailer :
    (m ++ ([slot, z1, z2, z3] ++ le 8 c.toNat ++ tag)).take ((m ++ ([slot, z1, z2, z3] ++ le 8 c.toNat ++ tag)).length - 16) =
      m ++ ([slot, z1, z2, z3] ++ le 8 c.toNat) := by
  rw [length_withTrailer m slot z1 z2 z3 c ht, ← List.append_assoc]
  exact List.take_left' (by simp [length_le])

end Trailer

/-- The counter of a trailer is the number that its bytes spell. -/
theorem counter_ofTrailer (slot z1 z2 z3 : Byte) (c : W64) (tag : List Byte) :
    BitVec.ofNat 64 (unle ((([slot, z1, z2, z3] ++ le 8 c.toNat ++ tag).drop 4).take 8)) = c := by
  have cut : (([slot, z1, z2, z3] ++ le 8 c.toNat ++ tag).drop 4).take 8 = le 8 c.toNat := by
    show (le 8 c.toNat ++ tag).take 8 = _
    exact List.take_left' (length_le 8 _)
  rw [cut, unle_le, Nat.mod_eq_of_lt (by exact c.isLt), BitVec.ofNat_toNat, BitVec.setWidth_eq]

theorem tag_ofTrailer (slot z1 z2 z3 : Byte) (c : W64) (tag : List Byte) :
    ([slot, z1, z2, z3] ++ le 8 c.toNat ++ tag).drop 12 = tag :=
  List.drop_left' (by simp [length_le])

/-- A datagram of an enabled host that is a message with its trailer is judged by what the trailer holds. -/
theorem exec_plezenMessageReject_trailer {addr : UdpFrom} {k : Fin 4} (m : List Byte) (slot z1 z2 z3 : Byte) (c : W64) {tag : List Byte}
    (hx : Runs s x) (hr : x.ready = true) (hi : x.cfg F.spineIpAddr ≠ 0) (hd : addr.ports.dst.toNat = x.cfg F.spinePlezenPort)
    (ht : tag.length = 16)
    (hk : ((List.finRange 4).find? fun k => x.cfgFlag (F.spineHostCfgEnabled k.val) && x.cfg (F.spineHostIp k.val) == addr.ip.toNat) = some k) :
    exec (.plezenMessageReject addr (m ++ ([slot, z1, z2, z3] ++ le 8 c.toNat ++ tag))) s =
      .next (match x.authFault k.val slot c tag (m ++ ([slot, z1, z2, z3] ++ le 8 c.toNat)) with
        | some r => x.authReject addr.ip.toNat r
        | none => x.rejectMessage (x.acceptFrom k.val c) k slot c tag m addr.ports) := by
  obtain ⟨message, trailer⟩ := cut_withTrailer m slot z1 z2 z3 c ht
  refine exec_plezenMessageReject_judges hx hr hi hd hk ?_ message ?_ ?_ ?_ (signed_withTrailer m slot z1 z2 z3 c ht)
  · rw [length_withTrailer m slot z1 z2 z3 c ht]
    omega
  · rw [trailer]
    rfl
  · rw [trailer]
    exact counter_ofTrailer slot z1 z2 z3 c tag
  · rw [trailer]
    exact tag_ofTrailer slot z1 z2 z3 c tag

section Key

variable {k : Byte} {b : List Byte} (hp : Processed s h 0x9001 (k :: b) x) (hh : fromHere h = true) (hk : k.toNat ≤ 3)

include hp hh hk

/-- CMD_SPINE_KEY from the local port, of a slot there is (R338, R343). -/
theorem exec_cmdSpineKey_local {key : Option (List Byte)} (hb : key.getD [] = b) (hg : x.writeGuard = false) :
    exec (.cmdSpineKey h k key) s = .next (
      if b = [] then (x.setKey k.toNat []).respond h 0x9001 Res.ok []
      else if b.length ≠ 32 then x.respond h 0x9001 Res.badLength []
      else (x.setKey k.toNat b).respond h 0x9001 Res.ok []) := by
  subst hb
  rw [exec_cmdSpineKey_answers hp, if_neg (by simp [hh]), if_neg (Nat.not_lt.mpr hk), if_neg (by simp [hg])]

theorem exec_cmdSpineKey_guarded (hg : x.writeGuard = true) :
    exec (.cmdSpineKey h k (some b)) s = .next (x.respond h 0x9001 Res.writeGuard []) := by
  rw [exec_cmdSpineKey_answers (key := some b) hp, if_neg (by simp [hh]), if_neg (Nat.not_lt.mpr hk), if_pos hg]

end Key

/-- Settles O60: the answers of CMD_SPINE_KEY, and a datagram judged by its trailer and its message. -/
theorem spineKeysAndDatagramsAreJudged : Obligations.SpineKeysAndDatagramsAreJudged := by
  unfold Obligations.SpineKeysAndDatagramsAreJudged
  refine ⟨fun s x h k b => ⟨fun hp hh hk hg hb => ?_, fun hp hh hk hg hn hb => ?_, fun hp hh hk hg => ⟨?_, ?_⟩, fun hp hh hk => ?_,
      fun hp hh hk hg => exec_cmdSpineKey_guarded hp hh hk hg, fun hp hh => ?_⟩,
    fun x k b => rfl, fun s x addr bytes hx hr hi hd hk => exec_plezenMessageReject_unknown bytes hx hr hi hd hk,
    fun s x addr m slot z1 z2 z3 c tag k hx hr hi hd ht hk => ⟨fun r hf => ?_, fun hf hm => ?_, fun hf hm ha hkept hout => ?_⟩⟩
  · have hn : b ≠ [] := fun he => absurd (he ▸ hb) (by decide)
    rw [exec_cmdSpineKey_local hp hh hk rfl hg, if_neg hn, if_neg (not_not_intro hb)]
  · rw [exec_cmdSpineKey_local hp hh hk rfl hg, if_neg hn, if_pos hb]
  · rw [exec_cmdSpineKey_local hp hh hk rfl hg, if_pos rfl]
  · rw [exec_cmdSpineKey_local hp hh hk rfl hg, if_pos rfl]
  · rw [exec_cmdSpineKey_answers (key := some b) hp, if_neg (by simp [hh]), if_pos hk]
  · rw [exec_cmdSpineKey_answers (key := some b) hp, if_pos hh]
  · rw [exec_plezenMessageReject_trailer m slot z1 z2 z3 c hx hr hi hd ht hk, hf]
  · rw [exec_plezenMessageReject_trailer m slot z1 z2 z3 c hx hr hi hd ht hk, hf]
    exact congrArg Host.Outcome.next (rejectMessage_malformed hm)
  · rw [exec_plezenMessageReject_trailer m slot z1 z2 z3 c hx hr hi hd ht hk, hf]
    exact congrArg Host.Outcome.next (rejectMessage_unknown hm ha hkept hout)

end Sys2Proof.Machine
end

section
/-! PROOFS. The lanes: arbitration, the Quire, the standby lane and rotation. -/

namespace Sys2Proof.Machine

variable {s x : State} {h : Hdr}

/-! ### The Rapid Check and the Quire -/

theorem exec_rapidCheckVerdict_judges (dr pr : RapidReport) (hx : Runs s x) : exec (.rapidCheckVerdict dr pr) s = .next (x.verdict dr pr) := by
  show execRapidCheckVerdict dr pr s = _
  unfold execRapidCheckVerdict
  exact acts hx rfl

/-- The duty lane is silenced where it alone failed, and else the partner (R358). -/
theorem verdict_judges (dr pr : RapidReport) {d p : Nat} (hr : x.lane.rapid = true) (hd : x.laneIn laneDuty = some d)
    (hp : x.laneIn lanePartner = some p) : x.verdict dr pr = (
      let dOk := dr == .passed && !x.lane.rapidFailed.get d
      let pOk := pr == .passed && !x.lane.rapidFailed.get p
      let y := x.endRapid (dOk == pOk)
      if dOk = false ∧ pOk = true then
        (((y.silenceFor d 1 (y.failedTest dr) (125 * (x.lane.held + 1))).setLane p laneDuty).ownerChanged.fillPartner).showRoles 0
      else ((y.silenceFor p (if dOk == pOk then 2 else 1) (y.failedTest pr) (125 * (x.lane.held + 1))).fillPartner).showRoles 0) := by
  unfold State.verdict
  rw [hr, hd, hp]

/-- At tick D + 16 the active lanes write a Quire, once in a frame (R351, R352). -/
theorem exec_quireWrite_writes (hx : Runs s x) (ha : x.atCore (x.deadline + 16) = true) (hw : x.lane.writing = none)
    (hc : x.lane.committed = false) (hd : x.laneIn laneDuty ≠ none) :
    exec .quireWrite s = .next { x with free := x.free + 1, lane := { x.lane with
      writing := some (min (Config.quireBytes x.free) 7864320, x.snapshot), writeAt := x.clock } } := by
  show execQuireWrite s = _
  unfold execQuireWrite
  exact acts hx (if_neg (by simp [ha, hw, hc, hd]))

/-- A Quire that is written is committed, unless the Catchwords of two lanes differ (R350, R352). -/
theorem exec_quireCommit_commits {d : Differs} {n : Nat} {c : Checkpoint} (hx : Runs s x) (hw : x.lane.writing = some (n, c))
    (hq : x.quireWritten n = true) (hr : x.lane.rapid = false) :
    exec (.quireCommit d) s = .next (
      if x.twoLanes = true ∧ (d.duty = true ∨ d.partner = true ∨ (x.overlapLane.isSome = true ∧ d.joined = true)) then
        { x with lane := { x.lane with writing := none, differ := some d, fold := 0 } }
      else (({ x with free := x.free + 1 } : State).retireLane).commitQuire n c
        (x.catchword ((List.range 32).map (Config.quireDigest x.free)))) := by
  show execQuireCommit d s = _
  unfold execQuireCommit
  refine acts hx ?_
  rw [hw]
  exact if_neg (by simp [hq, hr])

/-! ### The standby lane -/

/-- A woken lane joins if it passes its tests, and fails otherwise (R362, R363). -/
theorem exec_standbyWakeComplete_judges {quick all q0 q1 : Bool} {n : Nat} (hx : Runs s x) (hl : x.laneIn laneWaking = some n)
    (ht : 240000 < x.since x.lane.joinAt + nsTick) :
    exec (.standbyWakeComplete quick all q0 q1) s = .next (
      let y := if x.lane.byRotation = true ∧ quick = true then x.inc (F.laneHealth n (if all then 8 else 9)) else x
      if quick = true ∧ (x.lane.byRotation = false ∨ all = true) then (y.setLane n laneJoining).restoreFresh q0 q1
      else ((y.endRotation 2 1).failLane n 4).showRoles 0) := by
  show execStandbyWakeComplete quick all q0 q1 s = _
  unfold execStandbyWakeComplete
  refine acts hx ?_
  rw [hl]
  exact if_neg (Nat.not_le.mpr ht)

/-- A replay is live, tried again at its first difference, or silenced at its second (R363). -/
theorem exec_laneReplayLive_judges {ok : Bool} {n : Nat} (hx : Runs s x) (hl : x.laneIn laneJoining = some n) (hv : x.lane.live = false)
    (hw : x.lane.waitQuire = false) :
    exec (.laneReplayLive ok) s = .next (
      if ok then { x with lane := { x.lane with live := true } }
      else if x.lane.tries = 0 then { x with lane := { x.lane with tries := 1 } }
      else ((((x.endRotation 2 3).silence n 5 0).abandonJoin n 0)).showRoles 0) := by
  show execLaneReplayLive ok s = _
  unfold execLaneReplayLive
  refine acts hx ?_
  rw [hl]
  exact if_neg (by simp [hv, hw])

/-- The self-test of a silenced lane makes it the standby under the limit, and FAILED otherwise (R346, R364). -/
theorem exec_laneSelfTestComplete_judges {l : Lane} {ok : Bool} (hx : Runs s x) (hs : x.laneSt (laneNo l) = laneSilenced)
    (hr : x.lane.rapid = false) (hp : x.lane.promote = false) :
    exec (.laneSelfTestComplete l ok) s = .next (
      let n := laneNo l
      let y := (x.wr (F.faultLaneFatal n) 0).inc (F.laneHealth n (if ok then 8 else 9))
      if ok = false then (y.failLane n 4).showRoles 0
      else if y.cfg F.laneFailLimit ≤ y.recentSilences n then (y.failLane n (y.lane.causes.get n)).showRoles 0
      else
        let z := y.setLane n laneStandby
        let w := if (z.laneIn lanePartner).isNone then z.wakeStandby false else z
        ({ w with lane := { w.lane with release := if y.lane.causes.get n == 5 then some w.clock else w.lane.release } } : State).showRoles 0) := by
  show execLaneSelfTestComplete l ok s = _
  unfold execLaneSelfTestComplete
  exact acts hx (if_neg (by simp [hs, hr, hp]))

/-! ### Rotation -/

/-- Before a rotation instant the standby lane wakes, or the rotation is postponed (R366, R367). -/
theorem exec_rotationWake_wakes (hx : Runs s x) (ht : x.atTick 0 = true) (hf : x.rd F.timeFrameIndex = 35)
    (hd : x.isRotation (x.second + 1) = true ∨ x.flag F.laneStatusRotationPending = true ∨ x.lane.commanded = some (x.second + 1))
    (hp : x.rotationPossible = true) (hr : x.lane.rotation = none) :
    exec .rotationWake s = .next (
      let y : State := if x.lane.commanded = some (x.second + 1) then { x with lane := { x.lane with commanded := none } } else x
      match y.rotationBlocked with
      | some why => if y.flag F.laneStatusRotationPending then y
          else (y.wrFlag F.laneStatusRotationPending true).emit 0xA3 (le 1 0 ++ le 1 1 ++ le 1 why)
      | none =>
        let z := (y.wrFlag F.laneStatusRotationPending false).wakeStandby true
        { z with lane := { z.lane with rotation := some (x.second + 1) } }) := by
  have due : (x.isRotation (x.second + 1) || x.flag F.laneStatusRotationPending || x.lane.commanded == some (x.second + 1)) = true := by
    simpa [or_assoc] using hd
  show execRotationWake s = _
  unfold execRotationWake
  refine acts hx (if_neg ?_)
  simp only [due, ht, hf, hp, hr]
  decide

section Handover

variable {r d p j : Nat} (hx : Runs s x) (hr : x.lane.rotation = some r) (hd : x.laneIn laneDuty = some d)
  (hp : x.laneIn lanePartner = some p) (hj : x.overlapLane = some j) (ht : x.atTick 0 = true)

include hx hr hd hp hj ht

/-- A rotation whose instant has come hands over, unless a hold or a Rapid Check postpones it at its instant (R366, R367). -/
theorem exec_rotationHandover_due (hi : r ≤ x.second) :
    exec .rotationHandover s = .next (if x.flag F.laneStatusHolding = true ∨ x.lane.rapid = true then
      if x.second = r ∧ x.rd F.timeFrameIndex = 0 then x.postponeRotation j 2 else x
      else x.handOver d p j) := by
  show execRotationHandover s = _
  unfold execRotationHandover
  refine acts hx ?_
  rw [hr, hd, hp, hj]
  exact if_neg (by simp [ht, hi])

theorem exec_rotationHandover_rotates (hi : r ≤ x.second) (hh : x.flag F.laneStatusHolding = false) (hc : x.lane.rapid = false) :
    exec .rotationHandover s = .next (x.handOver d p j) := by
  rw [exec_rotationHandover_due hx hr hd hp hj ht hi, if_neg (by simp [hh, hc])]

theorem exec_rotationHandover_postpones (hi : x.second = r) (hf : x.rd F.timeFrameIndex = 0)
    (hh : x.flag F.laneStatusHolding = true ∨ x.lane.rapid = true) :
    exec .rotationHandover s = .next (x.postponeRotation j 2) := by
  rw [exec_rotationHandover_due hx hr hd hp hj ht (Nat.le_of_eq hi.symm), if_pos hh, if_pos ⟨hi, hf⟩]

end Handover

theorem exec_cmdLaneRotate_waits (hp : Processed s h 0xA001 [] x) :
    exec (.cmdLaneRotate h) s = .next (({ x with lane := { x.lane with requests := x.lane.requests ++ [h] } } : State).awaitReply h) := by
  show execCmdLaneRotate h s = _
  unfold execCmdLaneRotate
  exact command_waits hp rfl

/-- Settles O32: the verdict, the Quire, the standby lane and the rotation, each at its guard. -/
theorem lanesArbitrateAndRotate : Obligations.LanesArbitrateAndRotate := by
  unfold Obligations.LanesArbitrateAndRotate
  refine ⟨fun s x dr pr d p hx hr hd hp => ?_, fun s x hx ha hw hc hd => exec_quireWrite_writes hx ha hw hc hd,
    fun s x d n c hx hw hq hr => exec_quireCommit_commits hx hw hq hr, fun s x quick all q0 q1 n hx hl ht => exec_standbyWakeComplete_judges hx hl ht,
    fun s x ok n hx hl hv hw => exec_laneReplayLive_judges hx hl hv hw,
    fun s x l ok hx hs hr hp => exec_laneSelfTestComplete_judges hx hs hr hp,
    fun s x hx ht hf hd hp hr => exec_rotationWake_wakes hx ht hf hd hp hr,
    fun s x r d p j hx hr hd hp hj ht hi hh hc => exec_rotationHandover_rotates hx hr hd hp hj ht hi hh hc,
    fun s x r d p j hx hr hd hp hj ht hi hf hh => exec_rotationHandover_postpones hx hr hd hp hj ht hi hf hh,
    fun s x h hp => exec_cmdLaneRotate_waits hp⟩
  rw [exec_rapidCheckVerdict_judges dr pr hx, verdict_judges dr pr hr hd hp]

end Sys2Proof.Machine
end

section
/-! PROOFS. The Safety Monitor: its inputs, encoders, outputs and commands. -/

namespace Sys2Proof.Machine

variable {s x : State} {h : Hdr}

/-! ### The self-test and the input pairs -/

/-- The start-up self-test ends once, with the safety section read (R391). -/
theorem exec_safetySelftestEnd_reads (hx : Runs s x) (ht : x.safe.tested = false) (hf : x.flag F.safeStatusSafetyFault = false) :
    exec .safetySelftestEnd s = .next (
      let y := x.readSection x.committedFolio
      { y with safe := { y.safe with tested := true } }) := by
  show execSafetySelftestEnd s = _
  unfold execSafetySelftestEnd
  exact acts hx (if_neg (by simp [ht, hf]))

theorem exec_safeInputEdge_takes (i : Fin 16) (high : Bool) (hx : Runs s x) : exec (.safeInputEdge i high) s = .next (
      let p := x.safe.pairs.get (i.val / 2)
      let q : SafePair := if i.val % 2 = 0 then (if p.a = high then p else { p with a := high, aSince := x.clock })
        else (if p.b = high then p else { p with b := high, bSince := x.clock })
      { x with safe := { x.safe with pairs := x.safe.pairs.set (i.val / 2) q } }) := by
  show execSafeInputEdge i high s = _
  unfold execSafeInputEdge
  exact acts hx rfl

/-- Of a pair in DISCREPANCY both channels must be LOW for LOW; of another one does, and both must be HIGH for HIGH. -/
theorem exec_safePairFilterExpiry_judges (p : Fin 8) (hx : Runs s x) (hm : x.monitors = true) :
    exec (.safePairFilterExpiry p) s = .next (
      if x.rd (F.safePairStatus p.val) = 3 then (if x.lowHeld p.val false = true ∧ x.lowHeld p.val true = true then x.setPair p.val 1 else x)
      else if x.lowHeld p.val false = true ∨ x.lowHeld p.val true = true then x.setPair p.val 1
      else if x.highHeld p.val false = true ∧ x.highHeld p.val true = true then x.setPair p.val 2
      else x) := by
  show execSafePairFilterExpiry p s = _
  unfold execSafePairFilterExpiry
  exact acts hx (if_neg (by simp [hm]))

theorem exec_safePairDiscrepancy_sets {p : Fin 8} (hx : Runs s x) (hm : x.monitors = true)
    (hd : x.chanHigh p.val false ≠ x.chanHigh p.val true)
    (ht : x.sec (F.safePairDiscrepancy p.val) * nsMs < x.since (max (x.safe.pairs.get p.val).aSince (x.safe.pairs.get p.val).bSince)) :
    exec (.safePairDiscrepancy p) s = .next (x.setPair p.val 3) := by
  show execSafePairDiscrepancy p s = _
  unfold execSafePairDiscrepancy
  exact acts hx (if_pos ⟨hm, hd, ht⟩)

/-! ### The encoders -/

theorem exec_encoderLatch_latches (xs : List EncLatch) (hx : Runs s x) (hr : x.safe.read = true) (hf : x.flag F.safeStatusSafetyFault = false) :
    exec (.encoderLatch xs) s = .next ((xs.take 8).zipIdx.foldl (fun (y : State) p => y.latchEncoder p.2 p.1) x) := by
  show execEncoderLatch xs s = _
  unfold execEncoderLatch
  exact acts hx (if_neg (by simp [hr, hf]))

/-- The first index mark after a start makes the position of an encoder with an index referenced. -/
theorem exec_encoderIndex_references {e : Fin 8} {c : Int} (hx : Runs s x) (hc : (x.safe.encs.get e.val).counts.head? = some c)
    (hf : x.flag F.safeStatusSafetyFault = false) (hi : x.sec (F.safeEncCfgIndex e.val) ≠ 0) (hk : x.sec (F.safeEncCfgKind e.val) ≠ 0)
    (hr : x.flag (F.safeEncPosReferenced e.val) = false) (he : x.flag (F.safeEncPosEncoderFault e.val) = false) :
    exec (.encoderIndex e) s = .next (
      let y : State := { x with safe := { x.safe with encs := x.safe.encs.set e.val { (x.safe.encs.get e.val) with mark := c } } }
      ((y.wrFlag (F.safeEncPosReferenced e.val) true).encPosition e.val c).encEvent e.val) := by
  show execEncoderIndex e s = _
  unfold execEncoderIndex
  refine acts hx ?_
  simp only [hc]
  exact if_neg (by simp [hf, hi, hk, hr, he])

theorem exec_encoderRecovery_clears {e : Fin 8} (hx : Runs s x) (hb : x.flag (F.safeEncPosEncoderFault e.val) = true)
    (hf : x.flag F.safeStatusSafetyFault = false) (hg : (x.safe.encs.get e.val).bad = false)
    (ht : nsSecond ≤ x.since (x.safe.encs.get e.val).badAt) :
    exec (.encoderRecovery e) s = .next ((x.wrFlag (F.safeEncPosEncoderFault e.val) false).encEvent e.val) := by
  show execEncoderRecovery e s = _
  unfold execEncoderRecovery
  exact acts hx (if_pos ⟨hb, hf, hg, ht⟩)

/-! ### The cycle and the outputs -/

/-- A cycle judges the monitor itself before the inputs. -/
theorem exec_safetyCycle_judges (i : SafetyIn) (hx : Runs s x) (hf : x.flag F.safeStatusSafetyFault = false) :
    exec (.safetyCycle i) s = .next (
      if i.coreMismatch then x.safetyFault 0
      else if i.testFailed then x.safetyFault 1
      else if i.watchdog then x.safetyFault 2
      else if x.monitors = false then x
      else x.evaluate i) := by
  show execSafetyCycle i s = _
  unfold execSafetyCycle
  exact acts hx (if_neg (by simp [hf]))

theorem exec_outputFaultClear_clears {o : Fin 8} (hx : Runs s x) (hm : x.monitors = true)
    (hf : x.flag (F.safeOutStatusOutputFault o.val) = true) (ht : nsSecond ≤ x.since (x.safe.outs.get o.val).wrongAt) :
    exec (.outputFaultClear o) s = .next (((x.wrFlag (F.safeOutStatusOutputFault o.val) false).wr (F.safeOutStatusSwitch o.val) 0).emit 0xB3
      (le 1 o.val ++ x.noValue 0xB3 ++ le 1 1)) := by
  show execOutputFaultClear o s = _
  unfold execOutputFaultClear
  exact acts hx (if_pos ⟨hm, hf, ht⟩)

/-- Settles O34: each rule of the Safety Monitor's inputs under its conditions. -/
theorem safetyInputsAreJudged : Obligations.SafetyInputsAreJudged := by
  unfold Obligations.SafetyInputsAreJudged
  exact ⟨fun s x hx ht hf => exec_safetySelftestEnd_reads hx ht hf, fun s x i high hx => exec_safeInputEdge_takes i high hx,
    fun s x p hx hm => exec_safePairFilterExpiry_judges p hx hm, fun s x p hx hm hd ht => exec_safePairDiscrepancy_sets hx hm hd ht,
    fun s x xs hx hr hf => exec_encoderLatch_latches xs hx hr hf,
    fun s x e c hx hc hf hi hk hr he => exec_encoderIndex_references hx hc hf hi hk hr he,
    fun s x e hx hb hf hg ht => exec_encoderRecovery_clears hx hb hf hg ht,
    fun s x i hx hf => exec_safetyCycle_judges i hx hf, fun s x o hx hm hf ht => exec_outputFaultClear_clears hx hm hf ht⟩

/-! ### The off-pulse and the window of the challenge -/

/-- A pulse opens one switch, and its readback shows whether the output is faulted (R393). -/
theorem exec_offPulse_tests {o : Fin 8} (low high supply : Nat) (hx : Runs s x) (hm : x.monitors = true) (hd : x.pulseDue o.val = true) :
    exec (.offPulse o low high supply) s = .next (
      let sw := bit (x.safe.outs.get o.val).second
      let y := x.pulse o.val
      if low < 500 ∧ supply < high + 200 then y
      else (y.wr (F.safeOutStatusSwitch o.val) (putBit (y.rd (F.safeOutStatusSwitch o.val)) sw true)).outputFault o.val (le 1 sw)) := by
  show execOffPulse o low high supply s = _
  unfold execOffPulse
  exact acts hx (if_neg (by simp [hm, hd]))

theorem exec_ackWindowExpiry_ends (hx : Runs s x) (ha : x.safe.armed ≠ 0) (hw : x.safe.window ≤ x.clock)
    (hf : x.flag F.safeStatusSafetyFault = false) : exec .ackWindowExpiry s = .next (
      let y := ((List.range 8).filter fun g => testBit x.safe.armed g && x.groupSt g == 3).foldl
        (fun (y : State) g => y.putGroup g 2 (y.rd (F.safeGroupStatusCause g))) x
      ({ y with safe := { y.safe with armed := 0 } } : State).voidChallenge) := by
  show execAckWindowExpiry s = _
  unfold execAckWindowExpiry
  exact acts hx (if_neg (by simp [ha, hw, hf]))

/-! ### The commands -/

section Acknowledge

variable {mask : Byte} {c : W32} {tag : List Byte} (hp : Processed s h 0xB001 ([mask] ++ le 4 c.toNat ++ tag) x)

include hp

theorem exec_cmdSafeAck_badLength (ht : tag.length ≠ 8) :
    exec (.cmdSafeAck h mask c tag) s = .next (x.respond h 0xB001 Res.badLength []) := by
  show execCmdSafeAck h mask c tag s = _
  unfold execCmdSafeAck
  exact command_replied hp (if_pos ht)

theorem exec_cmdSafeAck_unevaluated (ht : tag.length = 8) (hm : x.monitors = false) : exec (.cmdSafeAck h mask c tag) s =
    .next (x.respond h 0xB001 (if x.safe.key.isEmpty then Res.noKey else Res.condition) []) := by
  show execCmdSafeAck h mask c tag s = _
  unfold execCmdSafeAck
  exact command_replied hp ((if_neg (by simp [ht])).trans (if_pos hm))

theorem exec_cmdSafeAck_waits (ht : tag.length = 8) (hm : x.monitors = true) : exec (.cmdSafeAck h mask c tag) s =
    .next (({ x with safe := { x.safe with ack := x.safe.ack ++ [⟨h, mask.toNat, c.toNat, tag, x.clock⟩] } } : State).awaitReply h) := by
  show execCmdSafeAck h mask c tag s = _
  unfold execCmdSafeAck
  exact command_waits hp ((if_neg (by simp [ht])).trans (if_neg (by simp [hm])))

end Acknowledge

/-- CMD_SAFE_CONFIRM is refused in this order: state, Colophon, Write Guard. -/
theorem exec_cmdSafeConfirm_answers {c : W32} (hp : Processed s h 0xB002 (le 4 c.toNat) x) : exec (.cmdSafeConfirm h c) s = .next (
      if x.monitors = false ∨ x.flag F.safeStatusCommissioning = false then x.respond h 0xB002 Res.wrongState []
      else if c ≠ x.shadowColophon then x.respond h 0xB002 Res.mismatch []
      else if x.writeGuard then x.respond h 0xB002 Res.writeGuard []
      else (x.confirm c).respond h 0xB002 Res.ok []) := by
  show execCmdSafeConfirm h c s = _
  unfold execCmdSafeConfirm
  refine command_answers hp ?_
  simp only [answered_ite, answered_reply]

/-- CMD_SAFE_KEY is refused in this order: length, transport, state, Write Guard. -/
theorem exec_cmdSafeKey_answers {key : List Byte} (hp : Processed s h 0xB003 key x) : exec (.cmdSafeKey h key) s = .next (
      if key.length ≠ 32 then x.respond h 0xB003 Res.badLength []
      else if fromHere h = false then x.respond h 0xB003 Res.wrongTransport []
      else if x.monitors = false ∨ x.flag F.safeStatusCommissioning = false then x.respond h 0xB003 Res.wrongState []
      else if x.writeGuard then x.respond h 0xB003 Res.writeGuard []
      else (x.setSafeKey key).respond h 0xB003 Res.ok []) := by
  show execCmdSafeKey h key s = _
  unfold execCmdSafeKey
  refine command_answers hp ?_
  simp only [answered_ite, answered_reply]

/-- Settles O35: the pulse, the end of the window, and the results of the three commands. -/
theorem safetyCommandsAct : Obligations.SafetyCommandsAct := by
  unfold Obligations.SafetyCommandsAct
  exact ⟨fun s x o low high supply hx hm hd => exec_offPulse_tests low high supply hx hm hd,
    fun s x hx ha hw hf => exec_ackWindowExpiry_ends hx ha hw hf,
    fun s x h mask c tag hp => ⟨fun ht => exec_cmdSafeAck_badLength hp ht, fun ht hm => exec_cmdSafeAck_unevaluated hp ht hm,
      fun ht hm => exec_cmdSafeAck_waits hp ht hm⟩,
    fun s x h c hp => exec_cmdSafeConfirm_answers hp, fun s x h key hp => exec_cmdSafeKey_answers hp⟩

end Sys2Proof.Machine
end
